-- ==== Sys2Proof/Word.lean ====
section
/-! DEFINITION. The word types of the block's ports and stores (R8, R36 to R80). -/
namespace Sys2Proof

/-- One byte of a record in memory (R8). -/
abbrev Byte := BitVec 8

/-- A 32-bit register word (R63). -/
abbrev Word := BitVec 32

/-- A 64-bit word: a scratch register, an RCPn word, a record field. -/
abbrev Word64 := BitVec 64

/-- A 256-bit word: a command word, a Graph Store record, a dispatch word. -/
abbrev Word256 := BitVec 256

/-- One 64-byte line of the Memory Port (R50). -/
abbrev Line := BitVec 512

end Sys2Proof
end

