-- ==== Sys2Proof/Syntax.lean ====
section
/-! DEFINITION. The commands of the block: one constructor per row of spec/opcode_table.json, with the operands the
row's event carries (a port transfer's bundle, a register write's value, the index an internal event concerns). -/
namespace Sys2Proof

/-- What travels beside a Register Port access (R63): RGP_PRIV, and whether RGP_CPAR and RGP_WPAR check; and the contexts whose
requests wait at the arbitration point that the access asks, at the instant it is granted (R297). -/
structure Access where
  priv : Bool
  parityOk : Bool
  waiting : List Nat := []
deriving DecidableEq, Repr

/-- The outcome of the checks of R60 and of check 1 of R266 on a whole request message. -/
inductive MsgCheck where
  /-- every parity bit passes, DST_DIE is read as sent, and the flit count and reserved fields fit the TYPE -/
  | ok
  /-- a parity check fails and SRC_DIE passed its own; the operand: flit 0's DATA[127:96] (PSEQ) passed -/
  | parity (pseqOk : Bool)
  /-- the flit count or a reserved field disagrees with the TYPE's layout (answered NK_PARITY) -/
  | layout
  /-- SRC_DIE cannot be trusted: no reply -/
  | untrusted
deriving DecidableEq, Repr

/-- The routing header and the prefix of an inbound request message (R57, R269). `vc` and `rsv`: VC and bits 63:51 of its routing
headers. `waiting`: the contexts whose requests wait at the arbitration point that the message asks, at the instant it is granted
(R297). -/
structure FHdr where
  src : Nat
  dst : Nat
  epoch : Nat
  pseq : Nat
  rqid : Nat
  sync : Bool
  srcGen : Nat
  srcCtx : Nat
  dstGen : Nat
  dstCtx : Nat
  ltag : Nat
  chk : MsgCheck
  vc : Bool := false
  rsv : Nat := 0
  waiting : List Nat := []
deriving DecidableEq, Repr

/-- The record header an active message carries in flit 1 (R263, R270), and its ring fields of flit 0. -/
structure AmHdr where
  rgen : Nat
  ring : Nat
  handle : Bool
  handler : Nat
  len : Nat
  sch : Nat
  mseq : Nat
  user : Nat
deriving DecidableEq, Repr

/-- A port of the signal tables (R36), as the handshake checker of R40 names it. -/
inductive PortName where
  | rip (n : Nat) | rcp (n : Nat) | mq | mp | fqo | fqi | fpo | fpi | fep | rgp | nvm | thr
deriving DecidableEq, Repr

/-- A store with an initialiser of its own (R397, R430). -/
inductive InitStore where
  | tags | safLogs | graph | taskTable | joints | readyDelay | seqTable | expertTable | lanes | rings | homeMap
  | trace | other
deriving DecidableEq, Repr

/-- What the parity check of one access to a stored word finds (R371 to R373). -/
inductive Finding where
  | good | corrected | unrecoverable | mismatch
deriving DecidableEq, Repr

/-- The outbound fabric channels (R58). -/
inductive FabChan where
  | fqo | fpo
deriving DecidableEq, Repr

/-- The commands. A name is the row's mnemonic in lower camel case; the Nib's own commands carry the prefix `cmd`. -/
inductive Instr where
  | coldReset
  | coldResetRelease (keyhash : BitVec 384)
  | storeInitDone (st : InitStore)
  | nvmOperationDone (beats : List (Word × Bool)) (derr : Bool)
  | pbApply
  | softrst (a : Access)
  | softResetDrainExpiry
  | handshakeViolation (p : PortName)
  | timeSample (val : Nat) (valid : Bool) (parityOk : Bool)
  | throttleCeiling (v : Nat) (parityOk : Bool)
  | tokenGain
  | dispatchDecision (waiting : List Nat)
  | dispatchAck (n : Nat) (err : Bool)
  | completionWord (n src : Nat) (w : Word64) (parityOk : Bool) (waiting : List Nat)
  | candidateRecord (n src : Nat) (w : Word64) (parityOk : Bool) (waiting : List Nat := [])
  | enqueueRequest (n src : Nat) (w : Word64) (parityOk : Bool) (waiting : List Nat := [])
  | rcpReservedKind (n src kind : Nat) (w : Word64) (parityOk : Bool)
  | memoryResponse (tag status : Nat) (data : Line) (dataOk ctlOk : Bool) (waiting : List Nat := [])
  | arrive (h : FHdr) (scope node : Nat) (dead : Bool)
  | closeRequest (h : FHdr) (t scope node : Nat)
  | cand (h : FHdr) (scope : Nat) (dead fin : Bool) (recs : List Word64)
  | tally (h : FHdr) (final : Bool) (home scope expNode : Nat) (entries : List (Nat × Nat))
  | assign (h : FHdr) (expert home scope : Nat) (recs : List Word64)
  | stage (h : FHdr) (expert scope expNode : Nat)
  | cancelRequest (h : FHdr) (expert scope expNode : Nat)
  | amReq (h : FHdr) (m : AmHdr) (payload : List Byte)
  | amRpl (h : FHdr) (m : AmHdr) (payload : List Byte)
  | fabricReservedType (h : FHdr) (ty : Nat)
  | orderHoldExpiry (src pseq : Nat)
  | orderWindowClose
  | answer (src rqid code : Nat) (parityOk : Bool) (flits : Nat) (waiting : List Nat := [])
  | replyTimerExpiry (idx : Nat) (waiting : List Nat := [])
  | epochNotice (epoch : Nat)
  | fabricXoff (ch : FabChan) (on : Bool)
  | retryOffer (i : Nat)
  | earlyArrivalExpiry
  | delayRelease (waiting : List Nat := [])
  | taskOverrun (slot : Nat)
  | sieveRunTimeout (run : Nat)
  | launchEnd (l : Nat) (waiting : List Nat := [])
  | courseBuild
  | boundaryEnd
  | seqAdvance (ctx : Nat)
  | cmdNop (q : Nat) | cmdLaunch (q : Nat) (waiting : List Nat := []) | cmdWait (q : Nat) (waiting : List Nat := [])
  | cmdSignal (q : Nat) (waiting : List Nat := []) | cmdClose (q : Nat) (waiting : List Nat := [])
  | cmdJalloc (q : Nat) (waiting : List Nat := []) | cmdJfree (q : Nat) (waiting : List Nat := [])
  | cmdCancel (q : Nat) (waiting : List Nat := [])
  | cmdSet (q : Nat) | cmdAdd (q : Nat)
  | cmdGet (q : Nat) | cmdLoad (q : Nat) | cmdStore (q : Nat) | cmdBr (q : Nat) | cmdLoop (q : Nat)
  | cmdCall (q : Nat) | cmdRet (q : Nat) | cmdSleep (q : Nat) | cmdBrk (q : Nat) | cmdPatch (q : Nat) (waiting : List Nat := [])
  | cmdSpill (q : Nat) (waiting : List Nat := []) | cmdRefill (q : Nat) (waiting : List Nat := []) | cmdLatch (q : Nat)
  | cmdFence (q : Nat) (waiting : List Nat := []) | cmdAudit (q : Nat)
  | cmdHello (q : Nat) | cmdAdopt (q : Nat) | illegalOpcode (q : Nat)
  | waitTimeout (q : Nat)
  | sleepWake (q : Nat)
  | pulse
  | pcSample
  | csqDb (page q tail : Nat) (a : Access)
  | queueEnable (q : Nat) (v : Word) (a : Access)
  | queueDisable (q : Nat) (v : Word) (a : Access)
  | retry (q : Nat) (a : Access)
  | skip (q : Nat) (a : Access)
  | flush (q : Nat) (a : Access)
  | resume (a : Access)
  | stepBrk (a : Access)
  | completionHeadWrite (page : Nat) (v : Word) (a : Access)
  | install (tid : Nat) (a : Access)
  | uninstall (tid : Nat) (a : Access)
  | xtLoad (a : Access)
  | c0ResvWrite (v : Word) (a : Access)
  | regionReturn (mask : Word) (a : Access)
  | reqFaultClear (a : Access)
  | noticeHeadWrite (page : Nat) (v : Word) (a : Access)
  | xchSdb (page ch tail : Nat) (a : Access)
  | send (ch : Nat)
  | alloc (ch : Nat)
  | freeHandle (ch : Nat)
  | channelEnable (page : Nat) (v : Word) (a : Access)
  | channelFaultClear (page : Nat) (a : Access)
  | openRing (page : Nat) (a : Access)
  | openBound (page : Nat) (a : Access)
  | ringClose (page : Nat) (a : Access)
  | ctxOpen (a : Access) | ctxFence (a : Access) | ctxReset (a : Access) | ctxClose (a : Access)
  | ctxResume (a : Access)
  | openingDone (ctx : Nat)
  | drainComplete (ctx : Nat)
  | quiesceExpiry (ctx : Nat)
  | closeReleaseDone (ctx : Nat)
  | ctxRenew (v : Word) (a : Access)
  | leaseExpiry (ctx : Nat)
  | peerFence (v : Word) (a : Access)
  | peerUnfence (v : Word) (a : Access)
  | boardFaultClear (a : Access)
  | ordModeWrite (v : Word) (a : Access)
  | stepLoad (a : Access)
  | tccClear (a : Access)
  | ruledTick (ctx : Nat)
  | frontStallExpiry (ctx : Nat)
  | counterConfig (n : Nat) (v : Word) (a : Access)
  | counterClear (n : Nat) (a : Access)
  | counterReadClear (off : Nat) (a : Access)
  | trigger (a : Access)
  | arm (b : Nat) (a : Access)
  | bufferEnable (b : Nat) (v : Word) (a : Access)
  | bufferFaultClear (b : Nat) (a : Access)
  | latchRingEnable (v : Word) (a : Access)
  | latchFaultClear (a : Access)
  | traceDrainLine
  | traceFlushExpiry (b : Nat)
  | blot (a : Access)
  | snap (a : Access)
  | blotWrite
  | raiseTest (a : Access)
  | alarmCauseClear (v : Word) (a : Access)
  | logClear (a : Access)
  | selfCheckFail
  | sweepRead (f : Finding) (unit : Option Nat := none)
  | sweepOverrun
  | pulseWatchdogExpiry
  | dispatchWatchdogExpiry
  | autoAudit
  | diagWindowRead (off : Nat) (a : Access) (f : Finding)
  | registerWrite (off : Nat) (v : Word) (a : Access)
  | wsBypass (code : Nat := 0)
  | wsExtest (pins : List Bool)
  | wsPreload (bits : List Bool)
  | qmScan
  | qmMbist (start : Bool := true)
  | qmMbistDone (st row : Nat)
  | qmMbistRes
  | qmDlymon
  | qmId
  | wrapperReset
  | memoryRequestTaken
  | fabricFlitTaken (ch : FabChan)
  | loHalfRead (off : Nat) (a : Access)
deriving DecidableEq, Repr

end Sys2Proof
end

