-- ==== Sys2Proof/Decode.lean ====
section
/-! DEFINITION. The words of the opcode table. The commands of this block are events at its ports and inside it; the
opcode table gives no row any bits, so no word spells a command. -/
namespace Sys2Proof

/-- The command that a word of the opcode table spells: none, since no row of the table has bits. -/
def decodeTableWord (_nbits _w : Nat) : Option Instr := none

end Sys2Proof
end

