-- ==== Sys2Proof/Machine/Store.lean ====
section
/-! DEFINITION. Sparse stores: a list of index and entry pairs with strictly rising indices, and the bit-field helpers
that read and write the fields of a word (R8, R9). -/
namespace Sys2Proof.Machine

/-- A sparse store: (index, entry) pairs, indices strictly rising, so that equal stores are equal lists. -/
abbrev Store (α : Type) := List (Nat × α)

/-- The entry at an index, if one is listed. -/
def Store.get? {α : Type} : Store α → Nat → Option α
  | [], _ => none
  | (k', v) :: r, k => if k' = k then some v else Store.get? r k

/-- The entry at an index, or what an unlisted index reads as. -/
def Store.getD {α : Type} (m : Store α) (k : Nat) (d : α) : α := (Store.get? m k).getD d

/-- List an entry, in place of any entry at that index. -/
def Store.set {α : Type} : Store α → Nat → α → Store α
  | [], k, v => [(k, v)]
  | (k', v') :: r, k, v =>
    if k < k' then (k, v) :: (k', v') :: r
    else if k = k' then (k, v) :: r
    else (k', v') :: Store.set r k v

/-- Take an entry out. -/
def Store.erase {α : Type} : Store α → Nat → Store α
  | [], _ => []
  | (k', v) :: r, k => if k' = k then Store.erase r k else (k', v) :: Store.erase r k

/-- Write an entry of a store in which an unlisted index reads as `d`: writing `d` takes the entry out. -/
def Store.put {α : Type} [DecidableEq α] (d : α) (m : Store α) (k : Nat) (v : α) : Store α :=
  if v = d then Store.erase m k else Store.set m k v

/-- Change a listed entry; nothing where none is listed. -/
def Store.modify {α : Type} (m : Store α) (k : Nat) (f : α → α) : Store α :=
  m.map (fun p => if p.1 = k then (p.1, f p.2) else p)

/-- Every listed entry, by rising index. -/
def Store.vals {α : Type} (m : Store α) : List α := m.map Prod.snd

/-- Every listed index, rising. -/
def Store.keys {α : Type} (m : Store α) : List Nat := m.map Prod.fst

/-- The canonical form: strictly rising indices. -/
def Store.wf {α : Type} : Store α → Bool
  | [] => true
  | [_] => true
  | (a, _) :: (b, w) :: r => decide (a < b) && Store.wf ((b, w) :: r)

/-- The canonical form of a store in which an unlisted index reads as `d`: no entry equals `d`. -/
def Store.wfD {α : Type} [DecidableEq α] (d : α) (m : Store α) : Bool :=
  Store.wf m && m.all (fun p => decide (p.2 ≠ d))

/-- Insert into a list sorted by `le`, after the elements that come no later. -/
def insertBy {α : Type} (le : α → α → Bool) (x : α) : List α → List α
  | [] => [x]
  | y :: r => if le y x then y :: insertBy le x r else x :: y :: r

/-- Sort by `le`, keeping the order of equals. -/
def sortBy {α : Type} (le : α → α → Bool) (xs : List α) : List α := xs.foldl (fun acc x => insertBy le x acc) []

/-- NAME[hi:lo] of a word, as a number (R9). -/
def fld {n : Nat} (w : BitVec n) (hi lo : Nat) : Nat := (w.toNat >>> lo) % 2 ^ (hi + 1 - lo)

/-- NAME[i] of a word. -/
def bitAt {n : Nat} (w : BitVec n) (i : Nat) : Bool := w.getLsbD i

/-- A word with NAME[hi:lo] replaced by a number (its low bits). -/
def setFld {n : Nat} (w : BitVec n) (hi lo v : Nat) : BitVec n :=
  let m := 2 ^ (hi + 1 - lo)
  BitVec.ofNat n (w.toNat - fld w hi lo * 2 ^ lo + (v % m) * 2 ^ lo)

/-- A field's contribution to a word that is assembled by addition: the number's low bits at its place. -/
def put (v hi lo : Nat) : Nat := (v % 2 ^ (hi + 1 - lo)) <<< lo

/-- A flag as a bit. -/
def b2n (b : Bool) : Nat := if b then 1 else 0

/-- The low 32 bits of a number, as a register word. -/
def w32 (n : Nat) : Word := BitVec.ofNat 32 n

/-- Byte `i` of a number. -/
def byteOf (n i : Nat) : Byte := BitVec.ofNat 8 (n >>> (8 * i))

/-- The `k` little-endian bytes of a number (R8). -/
def leBytes (k n : Nat) : List Byte := (List.range k).map (byteOf n)

/-- The number that little-endian bytes spell (R8). -/
def ofLe : List Byte → Nat
  | [] => 0
  | b :: r => b.toNat + 256 * ofLe r

/-- `k` bytes of a byte list from a place, with zeros past its end. -/
def bytesAt (bs : List Byte) (i k : Nat) : List Byte :=
  let t := (bs.drop i).take k
  t ++ List.replicate (k - t.length) 0#8

/-- The little-endian number of `k` bytes at a place of a byte list. -/
def leAt (bs : List Byte) (i k : Nat) : Nat := ofLe ((bs.drop i).take k)

/-- Ceiling division. -/
def cdiv (a b : Nat) : Nat := (a + b - 1) / b

/-- The signed value of a 64-bit word as two's complement. -/
def sgn64 (n : Nat) : Int := if n ≥ 2 ^ 63 then (n : Int) - 2 ^ 64 else n

end Sys2Proof.Machine
end

