-- ==== Sys2Proof/Machine/P384.lean ====
section
/-! DEFINITION. ECDSA over P-384 (FIPS 186-5), which R404 names: the curve, its points, and the check of a signature. -/
namespace Sys2Proof.Machine

/-- The prime of the field: 2^384 - 2^128 - 2^96 + 2^32 - 1. -/
def ecP : Nat := 2 ^ 384 - 2 ^ 128 - 2 ^ 96 + 2 ^ 32 - 1

/-- The order of the group. -/
def ecN : Nat :=
  0xffffffffffffffffffffffffffffffffffffffffffffffffc7634d81f4372ddf581a0db248b0a77aecec196accc52973

/-- The constant b of the curve y² = x³ - 3x + b. -/
def ecB : Nat :=
  0xb3312fa7e23ee7e4988e056be3f82d19181d9c6efe8141120314088f5013875ac656398d8a2ed19d2a85c8edd3ec2aef

/-- The base point. -/
def ecG : Nat × Nat :=
  (0xaa87ca22be8b05378eb1c71ef320ad746e1d3b628ba79b9859f741e082542a385502f25dbf55296c3a545e3872760ab7,
   0x3617de4a96262c6f5d9e98bf9292dc29f8f41dbd289a147ce9da3113b5f0b8c00a60b1ce1d7e819d7a431d7c90ea0e5f)

/-- x^e modulo m, for an exponent of at most 384 bits. -/
def powMod (x e m : Nat) : Nat :=
  ((List.range 384).foldl (fun (a : Nat × Nat) i =>
    (if e.testBit i then a.1 * a.2 % m else a.1, a.2 * a.2 % m)) (1 % m, x % m)).1

/-- The inverse modulo a prime. -/
def invMod (x m : Nat) : Nat := powMod x (m - 2) m

/-- A point: none is the point at infinity. -/
abbrev EcPoint := Option (Nat × Nat)

/-- The sum of two points. -/
def ecAdd (a b : EcPoint) : EcPoint :=
  match a, b with
  | none, q => q
  | p, none => p
  | some (x1, y1), some (x2, y2) =>
    if x1 = x2 ∧ (y1 + y2) % ecP = 0 then none
    else
      let l := if x1 = x2 then (3 * x1 * x1 + (ecP - 3)) * invMod (2 * y1) ecP % ecP
        else (y2 + (ecP - y1)) * invMod (x2 + (ecP - x1)) ecP % ecP
      let x := (l * l + 2 * ecP - x1 - x2) % ecP
      some (x, (l * (x1 + (ecP - x)) + (ecP - y1)) % ecP)

/-- A multiple of a point. -/
def ecMul (k : Nat) (p : EcPoint) : EcPoint :=
  ((List.range 384).foldl (fun (a : EcPoint × EcPoint) i =>
    (if k.testBit i then ecAdd a.1 a.2 else a.1, ecAdd a.2 a.2)) (none, p)).1

/-- A pair of coordinates lies on the curve. -/
def onCurve (x y : Nat) : Bool :=
  decide (x < ecP) && decide (y < ecP) && (y * y) % ecP == (x * x * x + (ecP - 3) * x + ecB) % ecP

/-- The key lies on the curve, r and s are in range, and the signature verifies over a digest (R404, step 9). -/
def ecdsaOk (e x y r s : Nat) : Bool :=
  onCurve x y && decide (1 ≤ r ∧ r < ecN ∧ 1 ≤ s ∧ s < ecN) &&
    (let w := invMod s ecN
     match ecAdd (ecMul (e * w % ecN) (some ecG)) (ecMul (r * w % ecN) (some (x, y))) with
     | some (px, _) => px % ecN == r
     | none => false)

end Sys2Proof.Machine
end

