-- ==== Sys2Proof/Machine/Sha384.lean ====
section
/-! DEFINITION. SHA-384 (FIPS 180-4), which R403 and R404 name: padding, the message schedule, the rounds, and the digest. -/
namespace Sys2Proof.Machine

/-- The 80 round constants. -/
def shaK : List Nat :=
  [ 0x428a2f98d728ae22, 0x7137449123ef65cd, 0xb5c0fbcfec4d3b2f, 0xe9b5dba58189dbbc,
    0x3956c25bf348b538, 0x59f111f1b605d019, 0x923f82a4af194f9b, 0xab1c5ed5da6d8118,
    0xd807aa98a3030242, 0x12835b0145706fbe, 0x243185be4ee4b28c, 0x550c7dc3d5ffb4e2,
    0x72be5d74f27b896f, 0x80deb1fe3b1696b1, 0x9bdc06a725c71235, 0xc19bf174cf692694,
    0xe49b69c19ef14ad2, 0xefbe4786384f25e3, 0x0fc19dc68b8cd5b5, 0x240ca1cc77ac9c65 ] ++
  [ 0x2de92c6f592b0275, 0x4a7484aa6ea6e483, 0x5cb0a9dcbd41fbd4, 0x76f988da831153b5,
    0x983e5152ee66dfab, 0xa831c66d2db43210, 0xb00327c898fb213f, 0xbf597fc7beef0ee4,
    0xc6e00bf33da88fc2, 0xd5a79147930aa725, 0x06ca6351e003826f, 0x142929670a0e6e70,
    0x27b70a8546d22ffc, 0x2e1b21385c26c926, 0x4d2c6dfc5ac42aed, 0x53380d139d95b3df,
    0x650a73548baf63de, 0x766a0abb3c77b2a8, 0x81c2c92e47edaee6, 0x92722c851482353b ] ++
  [ 0xa2bfe8a14cf10364, 0xa81a664bbc423001, 0xc24b8b70d0f89791, 0xc76c51a30654be30,
    0xd192e819d6ef5218, 0xd69906245565a910, 0xf40e35855771202a, 0x106aa07032bbd1b8,
    0x19a4c116b8d2d0c8, 0x1e376c085141ab53, 0x2748774cdf8eeb99, 0x34b0bcb5e19b48a8,
    0x391c0cb3c5c95a63, 0x4ed8aa4ae3418acb, 0x5b9cca4f7763e373, 0x682e6ff3d6b2b8a3,
    0x748f82ee5defb2fc, 0x78a5636f43172f60, 0x84c87814a1f0ab72, 0x8cc702081a6439ec ] ++
  [ 0x90befffa23631e28, 0xa4506cebde82bde9, 0xbef9a3f7b2c67915, 0xc67178f2e372532b,
    0xca273eceea26619c, 0xd186b8c721c0c207, 0xeada7dd6cde0eb1e, 0xf57d4f7fee6ed178,
    0x06f067aa72176fba, 0x0a637dc5a2c898a6, 0x113f9804bef90dae, 0x1b710b35131c471b,
    0x28db77f523047d84, 0x32caab7b40c72493, 0x3c9ebe0a15c9bebc, 0x431d67c49c100d4c,
    0x4cc5d4becb3e42b6, 0x597f299cfc657e2a, 0x5fcb6fab3ad6faec, 0x6c44198c4a475817 ]

/-- The initial hash value of SHA-384. -/
def shaH : List Nat :=
  [ 0xcbbb9d5dc1059ed8, 0x629a292a367cd507, 0x9159015a3070dd17, 0x152fecd8f70e5939,
    0x67332667ffc00b31, 0x8eb44a8768581511, 0xdb0c2e0d64f98fa7, 0x47b5481dbefa4fa4 ]

/-- Rotate a 64-bit number right. -/
def rotr (x k : Nat) : Nat := (x >>> k) ||| ((x <<< (64 - k)) % 2 ^ 64)

/-- Ch. -/
def shaCh (x y z : Nat) : Nat := (x &&& y) ^^^ ((2 ^ 64 - 1 - x) &&& z)

/-- Maj. -/
def shaMaj (x y z : Nat) : Nat := (x &&& y) ^^^ (x &&& z) ^^^ (y &&& z)

/-- The next word of the schedule; the words are held newest first. -/
def shaNext (ws : List Nat) : Nat :=
  let a := ws.getD 1 0
  let b := ws.getD 14 0
  let s1 := rotr a 19 ^^^ rotr a 61 ^^^ (a >>> 6)
  let s0 := rotr b 1 ^^^ rotr b 8 ^^^ (b >>> 7)
  (s1 + ws.getD 6 0 + s0 + ws.getD 15 0) % 2 ^ 64

/-- The 80 words of the schedule of a block of 16 words. -/
def shaWords (block : List Nat) : List Nat :=
  ((List.range 64).foldl (fun ws _ => shaNext ws :: ws) block.reverse).reverse

/-- The eight working variables. -/
structure ShaVars where
  a : Nat
  b : Nat
  c : Nat
  d : Nat
  e : Nat
  f : Nat
  g : Nat
  h : Nat

/-- One round, with a word and a constant. -/
def shaRound (v : ShaVars) (wk : Nat × Nat) : ShaVars :=
  let s1 := rotr v.e 14 ^^^ rotr v.e 18 ^^^ rotr v.e 41
  let t1 := v.h + s1 + shaCh v.e v.f v.g + wk.1 + wk.2
  let s0 := rotr v.a 28 ^^^ rotr v.a 34 ^^^ rotr v.a 39
  let t2 := s0 + shaMaj v.a v.b v.c
  { a := (t1 + t2) % 2 ^ 64, b := v.a, c := v.b, d := v.c, e := (v.d + t1) % 2 ^ 64, f := v.e, g := v.f, h := v.g }

/-- The working variables of a hash value. -/
def shaVars (hs : List Nat) : ShaVars :=
  { a := hs.getD 0 0, b := hs.getD 1 0, c := hs.getD 2 0, d := hs.getD 3 0, e := hs.getD 4 0, f := hs.getD 5 0,
    g := hs.getD 6 0, h := hs.getD 7 0 }

/-- The working variables as a list. -/
def ShaVars.list (v : ShaVars) : List Nat := [v.a, v.b, v.c, v.d, v.e, v.f, v.g, v.h]

/-- The hash value after a block. -/
def shaBlock (hs block : List Nat) : List Nat :=
  let v := (List.zip (shaWords block) shaK).foldl shaRound (shaVars hs)
  (List.zip hs v.list).map (fun p => (p.1 + p.2) % 2 ^ 64)

/-- The number that big-endian bytes spell. -/
def ofBe (bs : List Byte) : Nat := bs.foldl (fun n b => 256 * n + b.toNat) 0

/-- Cut a byte list into pieces of n bytes. -/
def pieces (n : Nat) : Nat → List Byte → List (List Byte)
  | 0, _ => []
  | _ + 1, [] => []
  | f + 1, xs => xs.take n :: pieces n f (xs.drop n)

/-- The message with its padding: a one bit, zeros, and the length in bits as 128 bits, big-endian. -/
def shaPad (bs : List Byte) : List Byte :=
  let n := bs.length
  bs ++ 0x80#8 :: List.replicate ((239 - n % 128) % 128) 0#8 ++ (leBytes 16 (8 * n)).reverse

/-- The digest as a big-endian number of 384 bits. -/
def sha384 (bs : List Byte) : Nat :=
  let m := shaPad bs
  let blocks := (pieces 128 (m.length / 128 + 1) m).map (fun b => (pieces 8 17 b).map ofBe)
  ((blocks.foldl shaBlock shaH).take 6).foldl (fun n w => n * 2 ^ 64 + w) 0

end Sys2Proof.Machine
end

