-- ==== Sys2Proof/Config.lean ====
section
/-! DEFINITION. What the manual leaves to the implementation: constants with no body, of which no proof can see a value. -/
namespace Sys2Proof

/-- The n-th open choice of an implementation (an index taken where the manual names no order, and the like).
A FREE VALUE: no body, so nothing can be proved of it (assumption 2). -/
opaque Config.freeNat : Nat → Nat

/-- The count that delay monitor `i` captures in the n-th QM_DLYMON run (R437). A FREE VALUE (assumption 3). -/
opaque Config.delayCount : Nat → Nat → BitVec 20

/-- What internal scan leaves behind in the WSO data, the n-th time (R437). A FREE VALUE (assumption 3). -/
opaque Config.scanOut : Nat → Word64

/-- The records that have left the Scribe's full intake by the time the n-th record meets it so (R350). A FREE VALUE
(assumption 30). -/
opaque Config.intakeLeft : Nat → Nat

end Sys2Proof
end

