-- ==== Sys2Proof/Machine/State.lean ====
section
/-! DEFINITION. The state of the block as plain data: its stores, its registers, its ports, its monitors, the values the
manual leaves open, and the queue of waiting commands. -/
namespace Sys2Proof.Machine

/-! ## Tasks and joints -/

/-- KIND of a task descriptor (R98). -/
inductive TaskKind where | null | kernel | expert | enqueued
deriving DecidableEq, Repr

/-- STATE of a task descriptor (R98). -/
inductive TaskState where | waiting | ready | delayed | issued | done | cancelled | fenced
deriving DecidableEq, Repr

/-- A task descriptor (R98), and what the block keeps beside it: the ruled binding (R138), the once-only marks of R136
and R143, the time of issue, and the wait for a delay entry (R129). -/
structure Task where
  mark : Nat := 0
  hlist : Nat := 0
  nhome : Nat := 0
  expert : Nat := 0
  seq : Nat := 0
  delay : Nat := 0
  issuedEng : Nat := 0
  eng : Nat := 0
  engMode : Nat := 0
  arg : Nat := 0
  kernel : Nat := 0
  ltag : Nat := 0
  gjoint : Option Nat := none
  launch : Nat := 0
  scope : Nat := 0
  node : Nat := 0
  tgen : Nat := 0
  tid : Nat := 0
  ctxGen : Nat := 0
  ctx : Nat := 0
  kind : TaskKind := .kernel
  dead : Bool := false
  level : Nat := 0
  cls : Nat := 0
  state : TaskState := .waiting
  bound : Option Nat := none
  bindTick : Nat := 0
  noEngine : Bool := false
  starved : Bool := false
  overrun : Bool := false
  issuedAt : Nat := 0
  dlyWait : Bool := false
deriving DecidableEq, Repr

/-- A joint word (R101). -/
structure JWord where
  deadSeen : Bool := false
  fired : Bool := false
  isOpen : Bool := false
  count : Nat := 0
deriving DecidableEq, Repr

/-- One copy of a joint word, and whether its parity bit still fits (R107, R371). -/
structure JCopy where
  w : JWord
  parityOk : Bool := true
deriving DecidableEq, Repr

/-- The waiter of a joint link (R102); a free link is a joint that is not listed. -/
inductive Waiter where | task (slot : Nat) | queue (q : Nat)
deriving DecidableEq, Repr

/-- A joint in use: its two copies and its link. -/
structure Joint where
  a : JCopy
  b : JCopy
  waiter : Waiter
  ctx : Nat
deriving DecidableEq, Repr

/-- A dispatch word not yet settled: a held slot (R134) or a purge record (R317). -/
structure HeldWord where
  engine : Nat
  slot : Nat
  istamp : Nat
  ctx : Nat
  ctxGen : Nat
  cls : Nat
deriving DecidableEq, Repr

/-- A dispatch word offered on a RIPn and not yet acknowledged (R45, R47). -/
structure RipOffer where
  slot : Nat
  engine : Nat
  word : Word256
  errs : Nat := 0
  writtenOff : Bool := false
deriving DecidableEq, Repr

/-- An entry of a delay list (R127, R128): the DELAY and SHIFT it was made with, and its release time. -/
structure DlyEntry where
  idx : Nat
  slot : Nat
  lst : Nat
  delay : Nat
  shift : Nat
  release : Nat
deriving DecidableEq, Repr

/-! ## Templates and launches -/

/-- A resident generation of a template (R91). -/
structure Gen where
  tid : Nat
  gen : Nat
  base : Nat
  nrec : Nat
  current : Bool
  image : Nat
deriving DecidableEq, Repr

/-- An INSTALL or PATCH whose image is being fetched (R89, R441). -/
structure GstJob where
  patch : Option Nat
  tid : Nat
  base : Nat
  nrec : Nat
  addr : Nat
  left : Nat
  lines : Store Line
  ctx : Option Nat
deriving DecidableEq, Repr

/-- A task of a launch, in task order: where its node is, its slot and its joint. -/
structure Member where
  scope : Nat
  node : Nat
  slot : Nat
  joint : Option Nat
deriving DecidableEq, Repr

/-- An EXPERT reservation: a slot and a joint kept for a scope (R95). -/
structure Resv where
  scope : Nat
  slot : Nat
  joint : Nat
deriving DecidableEq, Repr

/-- Where a launch stands with its spill image (R114 to R117). -/
inductive SpillState where | live | spilling | spilled | refilling
deriving DecidableEq, Repr

/-- One entry of a built course (R207). -/
structure CourseEnt where
  idx : Nat
  tokens : Nat
  token : Nat
  prio : Nat
  pos : Nat
  user : Nat
  memBase : Nat
deriving DecidableEq, Repr

/-- A launch record: what LAUNCH supplied, the generations it pinned (tid, gen), its tasks and reservations, its end
joint, its course, and its spill: `spillWait` names the members that were WAITING when the spill began, `away` those of them
that a joint fault or a CANCEL has ended since, which take that state on their return (assumption 17). `peerFinals`: the scopes and homes
whose final TALLY counts as received since their die was fenced (R327). -/
structure Launch where
  ctx : Nat
  ctxGen : Nat
  ltag : Nat
  argBase : Nat
  tid : Nat
  tgen : Nat
  pins : List (Nat × Nat)
  members : List Member
  resv : List Resv
  slots : List Nat
  joints : List Nat
  endJoint : Option Nat
  queue : Nat
  course : Option (List CourseEnt) := none
  reqTail : Nat := 0
  rank : Nat
  spill : SpillState := .live
  spillAddr : Nat := 0
  spillN : Nat := 0
  spillLeft : Nat := 0
  spillLines : Store Line := []
  spillBad : Bool := false
  spillWait : List Nat := []
  away : List (Nat × TaskState) := []
  refillSlots : List Nat := []
  resLines : Store Line := []
  resLeft : Nat := 0
  resBad : Bool := false
  wantRefill : Option Nat := none
  spillQ : Option Nat := none
  pruned : List (Nat × Nat) := []
  sieved : List Nat := []
  xrel : List Nat := []
  xdone : List Nat := []
  peerFinals : List (Nat × Nat) := []
  advWait : Bool := false
  ended : Bool := false
deriving DecidableEq, Repr

/-- An arrival or close held for a launch that is not live yet (R111). `foreign`: no tick of its ruled context caused it (R286). -/
structure Early where
  ctx : Nat
  ltag : Nat
  scope : Nat
  node : Nat
  close : Option Nat
  dead : Bool
  born : Nat
  flit : Word256 := 0
  foreign : Bool := false
deriving DecidableEq, Repr

/-! ## The sieve and the expander -/

/-- A candidate of a retained list (R172). -/
structure Cand where
  expert : Nat
  v : Int
  key : Int
deriving DecidableEq, Repr

/-- What a run holds for one token: its retained list, the candidates admitted, and the largest keys (R172, R188). -/
structure TokSt where
  kept : List Cand := []
  n : Nat := 0
  keys : List Int := []
deriving DecidableEq, Repr

/-- One branch of a run's fan-out: a destination, its requests not yet sent, its pairs and assignments (R185). -/
structure Branch where
  ent : Nat
  pairs : Nat := 0
  assigns : Nat := 0
  unanswered : Nat := 0
  pruned : Option Nat := none
  closed : Bool := false
deriving DecidableEq, Repr

/-- Where a run is: in intake, waiting for its ruled release, or with its requests out. -/
inductive RunPhase where | intake | ready | fanout
deriving DecidableEq, Repr

/-- A sieve run (R170). -/
structure Run where
  uid : Nat
  ctx : Nat
  ctxGen : Nat
  launch : Nat
  ltag : Nat
  scope : Nat
  set : Nat
  layer : Nat
  expNode : Nat
  closeNode : Nat
  home : Nat
  mode : Nat
  share : Nat := 0
  started : Option Nat := none
  toks : Store TokSt := []
  admitted : Nat := 0
  ends : List Nat := []
  marked : List Nat := []
  deadEnd : Bool := false
  timedOut : Bool := false
  badDie : Bool := false
  laneLost : Bool := false
  faulted : Bool := false
  staged : List Nat := []
  branches : List Branch := []
  phase : RunPhase := .intake
  nAssign : Nat := 0
  nFall : Nat := 0
  nDrop : Nat := 0
deriving DecidableEq, Repr

/-- The candidate stream of a scope's source task on its way to one home (R168, R169). -/
structure Stream where
  uid : Nat
  launch : Nat
  scope : Nat
  ctx : Nat
  ctxGen : Nat
  ltag : Nat
  ent : Nat
  recs : List Word64 := []
  stopped : Bool := false
deriving DecidableEq, Repr

/-- What the source side of a scope keeps: whether the stream has ended, and the once-only fault of R167. -/
structure SrcSt where
  launch : Nat
  scope : Nat
  ended : Bool := false
  faulted : Bool := false
deriving DecidableEq, Repr

/-- An expert of an expander scope (R181), with its task, or with none where no reservation was left (R186). `homes` is
its home-map row, with the count each home named. -/
structure XTask where
  expert : Nat
  slot : Option Nat
  joint : Nat := 0
  pend : Nat := 0
  homes : List (Nat × Nat) := []
  got : List (Nat × Nat) := []
  placed : Nat := 0
  header : Bool := false
  row : Option Nat := none
  sent : Bool := false
deriving DecidableEq, Repr

/-- A request a ruled expander holds until its release (R291). -/
structure XHeld where
  home : Nat
  ty : Nat
  expert : Nat := 0
  entries : List (Nat × Nat) := []
deriving DecidableEq, Repr

/-- An expander scope (R181). -/
structure XScope where
  uid : Nat
  ctx : Nat
  ctxGen : Nat
  launch : Nat
  scope : Nat
  node : Nat
  set : Nat
  layer : Nat
  opened : Bool := false
  finals : List Nat := []
  closing : Bool := false
  tasks : List XTask := []
  staged : List (Nat × Nat) := []
  held : List XHeld := []
  released : Bool := true
deriving DecidableEq, Repr

/-! ## The Sequence Table -/

/-- STATE of a Sequence Table entry (R199); FREE entries are not listed. -/
inductive SeqState where | restoring | active | parking
deriving DecidableEq, Repr

/-- A Sequence Table entry with its PRSN (R199). -/
structure SeqEnt where
  agent : Nat := 0
  memBase : Nat := 0
  parkAddr : Nat := 0
  pos : Nat := 0
  remain : Nat := 0
  chunk : Nat := 0
  aseq : Nat := 0
  user : Nat := 0
  skips : Nat := 0
  ctxGen : Nat := 0
  ctx : Nat := 0
  level : Nat := 0
  cls : Nat := 0
  hold : Bool := false
  parkReq : Bool := false
  prsn : Nat := 0
  parkTime : Nat := 0
  answered : Bool := false
  state : SeqState := .active
deriving DecidableEq, Repr

/-- A notice (R202). `seq` names a PARKING entry that the written notice frees. -/
structure Notice where
  kind : Nat
  code : Nat
  index : Nat
  pos : Nat
  agent : Nat
  time : Nat
  remain : Nat
  step : Nat
  freeIdx : Option Nat := none
deriving DecidableEq, Repr

/-- The per-context side of the Sequence Table. -/
structure SqtCtx where
  stepCnt : Nat := 0
  aseq : Nat := 0
  course : Option (List CourseEnt) := none
  reqHead : Nat := 0
  ntcTail : Nat := 0
  notices : List Notice := []
  ntcBusy : Bool := false
  reqFault : Bool := false
  ntcFull : Bool := false
  nbuilt : Nat := 0
deriving DecidableEq, Repr

/-- The phases of a step boundary (R205), and the wait of one behind another (R216). -/
inductive BPhase where | queued | requests | restores | writing
deriving DecidableEq, Repr

/-- A step boundary, after a course launch (`launch`), or ahead of the first one (`pre`, the queue that waits). -/
structure Boundary where
  ctx : Nat
  launch : Option Nat
  pre : Option Nat
  phase : BPhase := .queued
  tail : Nat := 0
  left : Nat := 0
  readOut : Bool := false
  writes : Nat := 0
  failed : Bool := false
  build : Bool := true
  course : List CourseEnt := []
  parks : Nat := 0
  restores : Nat := 0
  passed : Nat := 0
deriving DecidableEq, Repr

/-! ## The Command Sequencer -/

/-- The states of a submission queue (R226). -/
inductive QState where | disabled | idle | run | wait | sleep | brk | halted
deriving DecidableEq, Repr

/-- What a queue in RUN has set its command aside for (R239, R250). -/
inductive QWait where
  | none
  | memory
  | image
  | remote
  | early
  | spill
  | cpl
  | unit
  | fenceOf (ctx : Nat)
  | boundary
deriving DecidableEq, Repr

/-- Where the PC goes when a command retires (R223, R231). -/
inductive RetAct where | next | jump (pc : Nat) | call (pc : Nat) | ret | halt | flush
deriving DecidableEq, Repr

/-- A retirement or a halt that may wait for a record slot (R242, R245). `log` is the DETAIL of a halt's fault, where the
fault is not recorded already. -/
structure Retire where
  word : Word256
  pc : Nat
  value : Option Word64 := none
  code : Nat := 0
  act : RetAct := .next
  log : Option Nat := none
deriving DecidableEq, Repr

/-- A submission queue (R222, R226). `preTail`: the request tail that its course LAUNCH latched before it waited for a course
(R205). `door`: the tail of a doorbell that is held until the queue is the front of its ruled context (R290). -/
structure Queue where
  state : QState := .disabled
  head : Nat := 0
  tail : Nat := 0
  cplHead : Nat := 0
  cplTail : Nat := 0
  phase : Bool := true
  pc : Nat := 0
  stack : List Nat := []
  scratch : Store Word64 := []
  joints : List Nat := []
  endFree : List Nat := []
  backj : Nat := 0
  jw : Option Nat := none
  deadline : Option Nat := none
  wait : QWait := .none
  pend : Option Retire := none
  cur : Option Word256 := none
  ringCall : Option (Word256 × Nat) := none
  buf : List (Nat × Line) := []
  bad : List (Nat × Nat) := []
  fetching : List Nat := []
  epoch : Nat := 0
  life : Nat := 0
  passBrk : Bool := false
  stepArm : Bool := false
  heldCtl : Option Nat := none
  preTail : Option Nat := none
  door : Option Nat := none
deriving DecidableEq, Repr

/-! ## The Message Exchange -/

/-- The body of a fabric request (R270). -/
inductive FBody where
  | arrive (scope node : Nat) (dead : Bool)
  | close (t scope node : Nat)
  | cand (scope : Nat) (dead fin : Bool) (recs : List Word64)
  | tally (final : Bool) (home scope expNode : Nat) (entries : List (Nat × Nat))
  | assign (expert home scope : Nat) (recs : List Word64)
  | stage (expert scope expNode : Nat)
  | cancel (expert scope expNode : Nat)
  | am (reply : Bool) (m : AmHdr) (payload : List Byte)
deriving DecidableEq, Repr

/-- Who reacts to the answer of a fabric request (R273). -/
inductive FOwner where
  | signal (q life : Nat)
  | succ (slot : Nat)
  | cand (uid : Nat)
  | run (uid ent : Nat)
  | am (ch epoch slot : Nat)
deriving DecidableEq, Repr

/-- An outbound fabric request. -/
structure FReq where
  dst : Nat
  dstCtx : Nat
  dstGen : Nat
  srcCtx : Nat
  srcGen : Nat
  ltag : Nat
  body : FBody
  owner : FOwner
  orphan : Bool := false
deriving DecidableEq, Repr

/-- Where an outstanding-table entry is: its flits on offer, its timer running, refused for order, or to be re-offered. -/
inductive OutPhase where | offering | waiting | gapped | again
deriving DecidableEq, Repr

/-- An entry of the outstanding-request table (R272). -/
structure OutEntry where
  req : FReq
  stamp : Nat
  pseq : Nat
  sync : Bool
  phase : OutPhase
  since : Nat := 0
  deadline : Nat := 0
  parityTries : Nat := 0
  reserved : Bool := false
  batch : Bool := false
deriving DecidableEq, Repr

/-- An outbound pair entry (R275, R277). -/
structure PairOut where
  next : Nat := 0
  sync : Bool := true
  gap : Bool := false
  timedOut : Option Nat := none
  used : Nat := 0
deriving DecidableEq, Repr

/-- An inbound pair entry (R275). -/
structure PairIn where
  expected : Nat
  gap : Bool
  used : Nat
deriving DecidableEq, Repr

/-- An inbound request message: its header and its body. -/
structure FMsg where
  h : FHdr
  body : FBody
deriving DecidableEq, Repr

/-- A request in the hold store (R276). -/
structure HeldMsg where
  m : FMsg
  deadline : Nat
deriving DecidableEq, Repr

/-- An answer on its way out on FPO (R271). -/
structure Answer where
  dst : Nat
  rqid : Nat
  code : Nat
deriving DecidableEq, Repr

/-- A request or arrival that is offered again each microsecond (R112). -/
inductive RetryWhat where
  | fabric (r : FReq)
  | localMsg (r : FReq)
deriving DecidableEq, Repr

/-- The request that is offered again. -/
def RetryWhat.req : RetryWhat → FReq
  | .fabric r => r
  | .localMsg r => r

/-- A waiting repeated offer and the time it falls due. -/
structure Retry where
  what : RetryWhat
  ctx : Nat
  due : Nat
deriving DecidableEq, Repr

/-- A send record under way (R258, R259): read, checked and offered, or with its STATUS decided. -/
inductive SendPhase where | fetch | payload | ready | offered | aw | status | done
deriving DecidableEq, Repr

/-- A send record the channel has taken up. -/
structure SendRec where
  slot : Nat
  phase : SendPhase
  bytes : List Byte := []
  lines : Store Line := []
  left : Nat := 0
  status : Nat := 0
  handle : Nat := 0
deriving DecidableEq, Repr

/-- A send channel (R257). -/
structure Chan where
  en : Bool := false
  reply : Bool := false
  fault : Bool := false
  log2 : Nat := 4
  base : Nat := 0
  head : Nat := 0
  tail : Nat := 0
  next : Nat := 0
  mseq : Nat := 0
  recs : List SendRec := []
  epoch : Nat := 0
deriving DecidableEq, Repr

/-- The states of a receive ring (R261); a FREE ring may still hold its configuration. -/
inductive RingState where | free | opened | closed
deriving DecidableEq, Repr

/-- A placement: where its record ends (RESV after it), the writes not yet answered, its RGEN, and the bytes it reserves. -/
structure Placement where
  endc : Nat
  left : Nat
  id : Nat
  gen : Nat
  len : Nat := 0
deriving DecidableEq, Repr

/-- A receive-ring descriptor (R261). -/
structure Ring where
  state : RingState := .free
  rgen : Nat := 0
  reply : Bool := false
  ready : Bool := false
  note : Bool := false
  log2 : Nat := 10
  hcount : Nat := 0
  base : Nat := 0
  ptrAddr : Nat := 0
  resv : Nat := 0
  wptr : Nat := 0
  rptr : Nat := 0
  places : List Placement := []
  ptrBusy : Bool := false
  ptrDirty : Bool := false
  refreshing : Bool := false
  badOnce : Bool := false
  bound : Option Nat := none
  openHeld : Option Nat := none
  rltag : Nat := 0
  ctx : Nat := 0
deriving DecidableEq, Repr

/-! ## Contexts -/

/-- The states of a context slot (R306). -/
inductive CtxState where
  | free | opening | opened | draining | quiesced | orphaned | faulted | closing | pendingReuse
deriving DecidableEq, Repr

/-- A context slot: its state, its lease, its ruled order (R302), and the purposes of a drain in progress. -/
structure CtxSlot where
  state : CtxState := .free
  gen : Nat := 0
  rpend : Bool := false
  forced : Bool := false
  code : Nat := 0
  leaseEnd : Option Nat := none
  token : Nat := 0
  boardBusy : Nat := 0
  fenceAt : Nat := 0
  replay : Bool := false
  tick : Nat := 0
  rotor : Nat := 0
  tcc : Nat := 0
  front : Option (Nat × Nat) := none
  frontAt : Option Nat := none
  frontStalled : Bool := false
  lseq : Nat := 0
  handles : Nat := 0
  tickOpen : Bool := false
  decided : Nat := 0
deriving DecidableEq, Repr

/-- A record in the completion-record overflow (R324). -/
structure OvfRec where
  idx : Nat
  q : Nat
  ctx : Nat
  slot : Nat
  bytes : List Byte
  num : Nat := 0
  replaying : Bool := false
deriving DecidableEq, Repr

/-! ## The Memory Port -/

/-- What a Memory Port request is for (R53): who takes its response. -/
inductive MemOwner where
  | cplRecord (q slot num : Nat) (bytes : List Byte)
  | cplReplay (idx : Nat)
  | gstLine (i : Nat)
  | xtLine (i : Nat)
  | fetch (q epoch addr : Nat)
  | csqLoad (q life : Nat)
  | csqStore (q life : Nat)
  | ringWrite (ring place : Nat)
  | ringPtr (ring gen : Nat)
  | ringRefresh (ring gen : Nat)
  | spillLine (l i : Nat)
  | refillLine (l i : Nat)
  | park (e : Nat)
  | restore (e : Nat)
  | reqRead (c : Nat)
  | notice (c : Nat)
  | courseLine (c : Nat)
  | resultLine (l i : Nat)
  | sendRec (ch epoch slot : Nat)
  | payload (ch epoch slot i : Nat)
  | status (ch epoch slot : Nat)
  | allocRead (ch epoch slot : Nat)
  | freeWrite (ch epoch slot : Nat)
  | handleWrite (ch epoch slot : Nat)
  | board (c : Nat)
  | latchRec (id : Nat)
  | drain (b k : Nat)
  | blotScan (i : Nat)
  | blotLine
  | blotHead
  | listHeader (uid expert : Nat)
  | listRecord (uid expert : Nat)
  | graphReplay (entry word : Nat)
  | orphaned
  | ignored
deriving DecidableEq, Repr

/-- A Memory Port request: one line (R50). -/
structure MemReq where
  write : Bool
  addr : Nat
  first : Nat
  be : BitVec 64
  data : Line
  qos : Nat
  ctx : Option Nat
  unit : Nat
  index : Nat
  owner : MemOwner
  serial : Option Nat := none
  fails : Nat := 0
  age : Nat := 0
  last : Nat := 0
deriving DecidableEq, Repr

/-- The Memory Port: requests that wait, the one on offer, and the outstanding and retired tags. -/
structure MemPort where
  waitq : List (Option Nat × MemReq) := []
  mq : Option (Nat × MemReq) := none
  out : Store MemReq := []
  retired : List Nat := []
deriving DecidableEq, Repr

/-! ## Observation -/

/-- The live part of an event counter (R338). -/
structure Counter where
  live : Nat := 0
  snap : Nat := 0
  ovf : Bool := false
deriving DecidableEq, Repr

/-- The states of a trace buffer (R351). -/
inductive TBufState where | off | armed | post | frozen
deriving DecidableEq, Repr

/-- Where a drain line is: to be offered, offered, or answered. -/
inductive DPhase where | waiting | offered | written
deriving DecidableEq, Repr

/-- A line of a drain's stream that TAIL does not yet count (R355). -/
structure DLine where
  k : Nat
  data : Line
  phase : DPhase
deriving DecidableEq, Repr

/-- A trace buffer: its records oldest first, the post-trigger room, a run of losses (count, first, last time), and its
drain. -/
structure TBuf where
  state : TBufState := .off
  recs : List Word256 := []
  postLeft : Nat := 0
  lossRun : Option (Nat × Nat × Nat) := none
  tail : Nat := 0
  lines : List DLine := []
  fault : Bool := false
deriving DecidableEq, Repr

/-- A latch record waiting to be written, line by line (R344, R346). -/
structure LatchJob where
  id : Nat
  ctx : Nat
  queue : Option Nat
  addr : Nat
  lines : List Line
  left : Nat
  failed : Bool := false
deriving DecidableEq, Repr

/-- A request to the Blotter (R359). -/
structure BlotReq where
  cause : Nat
  snapshot : Bool
  code : Nat
  ctx : Nat
deriving DecidableEq, Repr

/-- What the Blotter is doing (R358, R361). -/
inductive BlotPhase where
  | idle | asked | scan (i : Nat) | found (i : Nat) | body (i : Nat) | head (i : Nat)
deriving DecidableEq, Repr

/-- What has become of an entry between the cut and its reading (R360): no update, its value at the cut is in the shadow, or the
shadow had no room. -/
inductive SnapMark where | still | shadowed | moved
deriving DecidableEq, Repr

/-- An entry that the Blotter has still to read (R360): section and number, its value at the cut, the value last seen, and its mark. -/
structure SnapEnt where
  sec : Nat
  key : Nat
  val : List Byte
  seen : List Byte
  mark : SnapMark := .still
deriving DecidableEq, Repr

/-- The Blotter. `snap`: the entries still to be read; `buf`: what has been read and not been written; `nextLine`: offset of the next line;
`left`: lines whose writes have not been answered; `done`: when the last answer came; `cutAt`: when the cut was taken (R360, R361). -/
structure Dbg where
  phase : BlotPhase := .idle
  req : Option BlotReq := none
  held : Option BlotReq := none
  snap : List SnapEnt := []
  buf : List Byte := []
  nextLine : Nat := 0
  left : Nat := 0
  done : Nat := 0
  cutAt : Nat := 0
  head : List Byte := []
  cause : Nat := 0
  slot : Nat := 0
  bseq : Nat := 0
  moved : Nat := 0
  lastLine : Nat := 0
deriving DecidableEq, Repr

/-- An error-log entry (R391). -/
structure LogEnt where
  time : Nat
  code : Nat
  unit : Nat
  ctx : Option Nat
  ctxGen : Nat
  strict : Bool
  alarm : Bool
  badPar : Bool
  rep : Nat
  detail : Nat
deriving DecidableEq, Repr

/-- An error log (R390): FIRST, the ring from newest to oldest, and the entries overwritten. -/
structure ELog where
  first : Option LogEnt := none
  ring : List LogEnt := []
  past : Nat := 0
deriving DecidableEq, Repr

/-- An audit in progress (R387, R388): its mask, and the books that failed at its cut, each with its first entry that disagrees, the
value expected there and the value found. -/
structure AuditRun where
  mask : Nat
  bad : List (Nat × Nat × Nat × Nat)
deriving DecidableEq, Repr

/-- The safety monitor (R376 to R395). `auditRun`: an automatic audit that has not ended yet. `sweepKept`: the running pass began before a
soft reset that restarted the clock (R415). -/
structure Saf where
  monitor : Bool := false
  selfBad : Bool := false
  sweepPos : Nat := 0
  sweepAt : Nat := 0
  sweepLate : Bool := false
  sweepKept : Bool := false
  pulseAt : Nat := 0
  pulseLost : Bool := false
  pulseActive : Bool := false
  pulseArmedAt : Option Nat := none
  dispatchAt : Nat := 0
  armedAt : Option Nat := none
  auditAt : Nat := 0
  auditRun : Option AuditRun := none
  logs : Store ELog := []
deriving DecidableEq, Repr

/-! ## Start-up -/

/-- The steps of the configuration function (R398 to R405). -/
inductive CfgPhase where
  | off | sfdp | params (i n : Nat) | bfpt | ref | probe (ms : List (Nat × Nat)) | image (at_ : Nat) | verified
  | done | failed
deriving DecidableEq, Repr

/-- An NVM operation on offer or in progress (R66). -/
structure NvmOp where
  op : Nat
  addr : Nat
  aw : Bool
  dummy : Nat
  len : Nat
  fails : Nat := 0
deriving DecidableEq, Repr

/-- The configuration function and the readiness of the block's functions. `pb`: the release defaults are in force, so that a
register word that is not listed holds them (R405). `srst`: a soft reset is in progress; its slots' board entries are written
once `srstBoard` is set, and its drain ends at Order 6, which clears `srstAt` (R414). `applied`: the register words as the Pattern Book
left them (R372, ID 0x10). -/
structure Cfg where
  low : Bool := true
  phase : CfgPhase := .off
  op : Option NvmOp := none
  ref : List Byte := []
  bfpt : List Byte := []
  image : List Byte := []
  mode : Nat × Nat × Bool := (0, 0, false)
  sfdp : Bool := false
  code : Nat := 0
  digest : Nat := 0
  keyhash : BitVec 384 := 0#384
  signed : Bool := false
  inits : List InitStore := []
  ready : Nat := 0
  hifRefused : Bool := false
  dieValid : Bool := false
  die : Nat := 0
  mask : List Nat := []
  pb : Bool := false
  srst : Bool := false
  srstAt : Option Nat := none
  srstBoard : Bool := false
  applied : Store Word := []
deriving DecidableEq, Repr

/-! ## Ports and test access -/

/-- The ports' own state that no unit above holds. `diag`: a read of the diagnostic window that is held (R425). -/
structure Ports where
  rip : Store RipOffer := []
  rcpErr : Store Nat := []
  rcpFails : Store Nat := []
  rgpStatus : Nat := 0
  rgpData : Word := 0
  fqoXoff : Bool := false
  fpoXoff : Bool := false
  fqo : Option (Nat × Nat) := none
  fpo : Option Answer := none
  fpoWait : List Answer := []
  diag : Option (Nat × Finding) := none
deriving DecidableEq, Repr

/-- Instructions of the wrapper instruction register (R437). -/
inductive Wir where | bypass | extest | preload | scan | mbist | mbistRes | dlymon | id
deriving DecidableEq, Repr

/-- The IEEE 1500 wrapper (R78, R437, R438). `boundary`: the boundary register, over every functional pin except KEYHASH; `captured`: the
pins it has captured; `dirty`: a test has overwritten the block, and no full cold reset has followed. -/
structure Wrapper where
  wir : Wir := .bypass
  bypass : Bool := false
  boundary : BitVec 8527 := 0#8527
  captured : BitVec 8527 := 0#8527
  running : Bool := false
  doneBit : Bool := false
  failStore : Nat := 0
  failRow : Nat := 0
  counts : List (BitVec 20) := []
  out : Word64 := 0
  dirty : Bool := false
deriving DecidableEq, Repr

/-- Wall time (R69). -/
structure TimeS where
  last : Nat := 0
  seen : Bool := false
  usable : Bool := false
  bad : Nat := 0
  same : Nat := 0
deriving DecidableEq, Repr

/-! ## Units -/

/-- Graph Store, Task Table and joints. `wanted`: records of which an operation reads a word that has failed parity, while its line is
read again; `lost`: record, word and whether a replay was tried, of the words for which that has failed (R372, ID 0x01). -/
structure Tsk where
  recs : Store Word256 := []
  gens : List Gen := []
  job : Option GstJob := none
  tasks : Store Task := []
  stamps : Store Nat := []
  held : Store HeldWord := []
  freeSlots : List (Nat × Nat) := [(0, 131072)]
  freeJoints : List (Nat × Nat) := [(0, 262144)]
  joints : Store Joint := []
  launches : Store Launch := []
  early : List Early := []
  seqNext : Nat := 0
  rankNext : Nat := 0
  wantNext : Nat := 0
  wanted : List Nat := []
  lost : List (Nat × Nat × Bool) := []
deriving DecidableEq, Repr

/-- Delay lists, Issue Engine and throttle. -/
structure Iss where
  dly : List DlyEntry := []
  occ : Store Nat := []
  rotor : Nat := 0
  ceil : Nat := 255
  tokens : Nat := 16
  gainAt : Nat := 0
  gained : Nat := 0
  tokWait : Bool := false
  purge : List HeldWord := []
  rsvCount : Nat := 0
deriving DecidableEq, Repr

/-- The Router Sieve and the expander. `rowWait`: slots whose home-map row is free once their last arrival has left (R183). -/
structure Sve where
  xt : Store Word64 := []
  xtJob : Option (Nat × Nat × Nat × Store Line) := none
  xtFailed : Bool := false
  runs : Store Run := []
  scopes : Store XScope := []
  srcs : List SrcSt := []
  streams : List Stream := []
  uidNext : Nat := 0
  rowWait : List Nat := []
deriving DecidableEq, Repr

/-- The Sequence Table. -/
structure Sqt where
  ents : Store SeqEnt := []
  ctxs : Store SqtCtx := []
  bounds : List Boundary := []
deriving DecidableEq, Repr

/-- The Command Sequencer. -/
structure Csq where
  queues : Store Queue := []
  lastServed : Store Nat := []
  active : Bool := false
  pulseAt : Nat := 0
  pulseSeq : Nat := 0
  retired : Nat := 0
  brkHit : Bool := false
  brkComp : Nat := 0
  brkQueue : Nat := 0
  brkCtx : Nat := 0
  brkMode : Bool := false
  pcsNext : Nat := 0
  pcsAt : Nat := 0
  recs : Nat := 0
deriving DecidableEq, Repr

/-- The Message Exchange and the fabric side of the block. `entryWaits` counts the requests that have waited for want of an
entry (R272). -/
structure Xch where
  chans : Store Chan := []
  rings : Store Ring := []
  placeNext : Nat := 0
  waitq : List FReq := []
  out : Store OutEntry := []
  stamps : Store Nat := []
  pairsOut : Store PairOut := []
  pairsIn : Store PairIn := []
  lru : Nat := 0
  hold : List HeldMsg := []
  epoch : Nat := 0
  winEnd : Option Nat := none
  retries : List Retry := []
  handles : Nat := 0
  entryWaits : Nat := 0
deriving DecidableEq, Repr

/-- An owed event of a ruled context (R286): its tick, its key, what it waits for, and the event once it has arrived. -/
inductive OwedWhat where
  | completion (slot : Nat)
  | memory (serial : Nat)
  | answer (q life : Nat)
deriving DecidableEq, Repr

/-- The effect of an owed event that has arrived and is held for its due tick (R287). -/
inductive OwedEv where
  | completion (engine : Nat) (w : Word64)
  | enqueue (engine : Nat) (w : Word64)
  | memory (owner : MemOwner) (req : MemReq) (result : Option Line) (status : Nat) (tag : Nat)
  | answer (q life code : Nat)
deriving DecidableEq, Repr

/-- An owed event (R286). -/
structure Owed where
  ctx : Nat
  due : Nat
  cls : Nat := 0
  level : Nat := 0
  seq : Nat := 0
  party : Nat := 0
  what : OwedWhat
  evs : List OwedEv := []
  arrived : Bool := false
deriving DecidableEq, Repr

/-- Contexts: the slots, the overflow, and the owed events of ruled contexts. -/
structure CtxU where
  slots : Store CtxSlot := []
  ovf : List OvfRec := []
  ovfWait : List OvfRec := []
  owed : List Owed := []
  serial : Nat := 0
  inTick : Option Nat := none
  seen : List (Nat × Nat × Nat × Nat) := []
deriving DecidableEq, Repr

/-- Counters, trace and latch records. `intake`: the places taken in the Scribe's intake (R350); `intakeMet`: the records that
have met it full. -/
structure Obs where
  cnt : Store Counter := []
  bufs : Store TBuf := []
  latch : List LatchJob := []
  latchNext : Nat := 0
  ltail : Store Nat := []
  spaceAt : Nat := 0
  drainNext : Nat := 0
  tags : Nat := 0
  intake : Nat := 0
  intakeMet : Nat := 0
deriving DecidableEq, Repr

/-- A piece of a step's cascade that is still to be done. The list is empty between steps unless a cascade outran the
bound of one step (assumption 5). -/
inductive Work where
  | arrive (j : Nat) (dead : Bool)
  | closeJ (j t : Nat)
  | fireTask (slot : Nat)
  | fireQueue (q j : Nat)
  | succs (slot : Nat) (dead : Bool)
  | nodeArrive (l scope node : Nat) (dead : Bool)
  | nodeClose (l scope node t : Nat)
  | streamEnd (slot : Nat) (dead : Bool)
  | rowFree (slot : Nat)
  | fenceStrict
  | runCheck (r : Nat)
  | scopeCheck (x : Nat)
  | dlyFill
  | answered (r : FReq) (code : Nat) (byUs : Bool)
  | fabReq (r : FReq)
  | early (e : Early)
  | tick (c : Option Nat)
  | chanPump (ch : Nat)
  | ringPump (ring : Nat)
  | ctlHeld (q : Nat)
  | cmdDone (q code : Nat)
  | ringsOf (l : Nat)
  | cplPump (q : Nat)
  | notices (c : Nat)
  | boundaries
  | drainRelease (c : Nat)
  | owedEv (e : OwedEv)
deriving DecidableEq, Repr

/-- The values the manual leaves open: choices given from outside, and the count of those drawn from the free value
`Config.freeNat` (assumption 2). -/
structure FreeVals where
  oracle : List Nat := []
  drawn : Nat := 0
deriving DecidableEq, Repr

/-- The block behind its command queue and its test wrapper. `regs` holds the registers that software reads and writes as words, by offset
and bank (R10, R420); a register not listed holds its cold-reset value, or its release default. `hi` holds the values that reads of _LO
registers have fixed for the matching _HI (R80). -/
structure Blk where
  cfg : Cfg := {}
  time : TimeS := {}
  regs : Store Word := []
  hi : Store Word := []
  ports : Ports := {}
  mem : MemPort := {}
  tsk : Tsk := {}
  iss : Iss := {}
  sve : Sve := {}
  sqt : Sqt := {}
  csq : Csq := {}
  xch : Xch := {}
  ctx : CtxU := {}
  obs : Obs := {}
  dbg : Dbg := {}
  saf : Saf := {}
  free : FreeVals := {}
  work : List Work := []
deriving DecidableEq, Repr

/-- The machine: the block, its IEEE 1500 wrapper, and the commands that wait, first in, first out. -/
structure State where
  blk : Blk
  tap : Wrapper
  pending : List Instr
deriving DecidableEq, Repr

/-- Why the block stops. The manual gives every command of the table an effect, so no command stops: the one reason
belongs to data that no sender can offer. -/
inductive Fault where
  /-- Raised by no command. Kept so that the outcome type has a fault: safe. -/
  | neverRaised
deriving DecidableEq, Repr

/-- Why a command is refused. -/
inductive Refusal where
  /-- A command that has no meaning yet, by its mnemonic: safe. Raised only by an arm of `exec`. -/
  | notModelled (mnemonic : String)
deriving DecidableEq, Repr

/-- The block while NRST_BLOCK is low at the first power-up (R74, R76, R303): every port at its cold-reset level, every
store and register at its cold-reset value, and no command waiting. -/
def State.reset : State := { blk := {}, tap := {}, pending := [] }

end Sys2Proof.Machine

namespace Sys2Proof

/-- What the n-th test that overwrites the block leaves behind in its stores and its internal state (R438). A FREE VALUE
(assumption 3). -/
opaque Config.leftBehind : Nat → Option Machine.Blk

end Sys2Proof
end

