-- ==== Sys2Proof/Machine/Ops.lean ====
section
/-! DEFINITION. The shared operations: the register file (the offsets of R420 to R422, the cold-reset values of R421, and
what reads, writes and counts in a register word), context slots, open choices, and the pieces of a cascade. -/
namespace Sys2Proof.Machine

/-! Offsets. A register shown through a selector has one word per selected index: its bank (R10). -/

abbrev rIrqEn := 0x104
abbrev rRegionFail := 0x110
abbrev rPortFault := 0x114
abbrev rDiagSel := 0x130
abbrev rHifActive := 0x24
abbrev rBlkDie := 0x28
abbrev rBlkKey := 0x2c
abbrev rCfgStatus := 0x10000
abbrev rCfgNvm := 0x10004
abbrev rCfgFormat := 0x10008
abbrev rCfgImageId := 0x1000c
abbrev rCfgLen := 0x10010
abbrev rCfgSkipped := 0x10014
abbrev rCfgLimits := 0x1001c
abbrev rSrstDrain := 0x10024
abbrev rCfgIrqCfg := 0x10028
abbrev rCfgIrq := 0x1002c
abbrev rCfgDigest := 0x10040
abbrev rPulseNs := 0x20004
abbrev rPulseCount := 0x20008
abbrev rLoopMax := 0x2000c
abbrev rPcsCfg := 0x20010
abbrev rPcsLast := 0x20014
abbrev rPcsPcLo := 0x20018
abbrev rPcsPcHi := 0x2001c
abbrev rDbBad := 0x20020
abbrev rCsqIrqCfg := 0x20024
abbrev rCsqIrq := 0x20028
abbrev rBrk := 0x20100
abbrev rBrkStat := 0x20140
abbrev rSq := 0x21000
abbrev rGstAddrLo := 0x40000
abbrev rGstAddrHi := 0x40004
abbrev rGstRecs := 0x40008
abbrev rGstStatus := 0x40010
abbrev rGstBadRec := 0x40014
abbrev rGstTidSel := 0x40020
abbrev rTskCtxSel := 0x5000c
abbrev rTskQuota := 0x50010
abbrev rEarlyTtl := 0x5001c
abbrev rEarlyDrop := 0x50020
abbrev rTskIrqCfg := 0x50028
abbrev rTskIrq := 0x5002c
abbrev rJntRepair := 0x60008
abbrev rJntMismatch := 0x6000c
abbrev rJntFaultLast := 0x60010
abbrev rJntFaultCount := 0x60014
abbrev rNoEngine := 0x80048
abbrev rDlyTick := 0x81000
abbrev rDlyWaits := 0x8100c
abbrev rDepth := 0xa0000
abbrev rCap := 0xa0004
abbrev rC0Resv := 0xa0014
abbrev rThrFloor := 0xa0018
abbrev rThrBurst := 0xa001c
abbrev rEngSel := 0xa0024
abbrev rOverrun := 0xa0030
abbrev rStaleCmpl := 0xa0040
abbrev rCreditErr := 0xa0044
abbrev rEnqRefused := 0xa0048
abbrev rOverrunLast := 0xa0050
abbrev rIssIrqCfg := 0xa0054
abbrev rIssIrq := 0xa0058
abbrev rXtAddrLo := 0xc0000
abbrev rXtAddrHi := 0xc0004
abbrev rXtFirst := 0xc0008
abbrev rXtCount := 0xc000c
abbrev rXtStatus := 0xc0014
abbrev rDieSel := 0xc0018
abbrev rDieId := 0xc001c
abbrev rDieCtx := 0xc0020
abbrev rXlBaseLo := 0xc0024
abbrev rXlBaseHi := 0xc0028
abbrev rXlLines := 0xc002c
abbrev rRunTimeout := 0xc0030
abbrev rSveCandIn := 0xc0040
abbrev rSveCandBad := 0xc0044
abbrev rSveCandDup := 0xc0048
abbrev rSveAssign := 0xc004c
abbrev rSveFall := 0xc0050
abbrev rSveDrop := 0xc0054
abbrev rSvePruned := 0xc0058
abbrev rSvePruneLate := 0xc005c
abbrev rSveDegraded := 0xc0060
abbrev rSveStaged := 0xc0064
abbrev rSveStageCancel := 0xc0068
abbrev rSveStageSkip := 0xc006c
abbrev rSveRetry := 0xc0070
abbrev rSet := 0xc0100
abbrev rSqtCtxSel := 0xe0004
abbrev rSqtParks := 0xe0008
abbrev rSqtRestores := 0xe000c
abbrev rSqtResMissing := 0xe0010
abbrev rSqtNtcWait := 0xe0014
abbrev rSqtIrqCfg := 0xe0018
abbrev rSqtIrq := 0xe001c
abbrev rSqtCfg := 0xe0100
abbrev rSqtQuota := 0xe0104
abbrev rSqtLimits := 0xe010c
abbrev rSqtTokBase := 0xe0110
abbrev rSqtCourseLo := 0xe0114
abbrev rSqtCourseHi := 0xe0118
abbrev rSqtReqLo := 0xe011c
abbrev rSqtReqHi := 0xe0120
abbrev rSqtNtcLo := 0xe0124
abbrev rSqtNtcHi := 0xe0128
abbrev rSqtRings := 0xe012c
abbrev rSqtSq := 0xe0130
abbrev rReplyTimer := 0x100000
abbrev rOrderHold := 0x100004
abbrev rOrderWin := 0x100008
abbrev rXchCtxSel := 0x100018
abbrev rXchRings := 0x10001c
abbrev rXchSchs := 0x100020
abbrev rXchIrqCfg := 0x100028
abbrev rXchIrq := 0x10002c
abbrev rNoteLast := 0x100030
abbrev rXchErr := 0x100034
abbrev rPools := 0x100040
abbrev rDelivered := 0x100200
abbrev rSkips := 0x100204
abbrev rRefused := 0x100208
abbrev rRptrReads := 0x10020c
abbrev rRptrBad := 0x100210
abbrev rTimeouts := 0x100214
abbrev rXchRetry := 0x100218
abbrev rHeld := 0x10021c
abbrev rOrderGap := 0x100220
abbrev rOrderLate := 0x100224
abbrev rPseqSkip := 0x100228
abbrev rLateAnswer := 0x10022c
abbrev rBadType := 0x100230
abbrev rLost := 0x100234
abbrev rLostPlaced := 0x100238
abbrev rCtxSel := 0x120000
abbrev rLeaseLo := 0x120010
abbrev rLeaseHi := 0x120014
abbrev rFpol := 0x120024
abbrev rQuiesce := 0x120028
abbrev rBoardLo := 0x120104
abbrev rBoardHi := 0x120108
abbrev rCtxStatus := 0x12010c
abbrev rLateMem := 0x120110
abbrev rLateFab := 0x120114
abbrev rForced := 0x120118
abbrev rAdoptBad := 0x12011c
abbrev rPurgeFull := 0x120120
abbrev rOvfDiscard := 0x120124
abbrev rCtxIrqCfg := 0x120128
abbrev rCtxIrq := 0x12012c
abbrev rOvfSel := 0x120130
abbrev rPeerSel := 0x120200
abbrev rPeerEnt := 0x120204
abbrev rPeerLast := 0x12020c
abbrev rOrdSel := 0x120800
abbrev rOrdMode := 0x120804
abbrev rRlat := 0x120808
abbrev rRuleWait := 0x120820
abbrev rReplayStep := 0x120828
abbrev rCnt := 0x140000
abbrev rObsCtxSel := 0x140800
abbrev rObsLevel := 0x140804
abbrev rLringLo := 0x140808
abbrev rLringHi := 0x14080c
abbrev rLcfg := 0x140810
abbrev rTrcCfg := 0x140900
abbrev rTrcFlush := 0x140904
abbrev rTrcRoute := 0x140908
abbrev rTrigCfg := 0x14090c
abbrev rTrigThrLo := 0x140910
abbrev rTrigThrHi := 0x140914
abbrev rTrigCount := 0x14091c
abbrev rLatchLost := 0x140920
abbrev rObsIrqCfg := 0x140924
abbrev rObsIrq := 0x140928
abbrev rBuf := 0x140a00
abbrev rAlarmCause := 0x160004
abbrev rWdog := 0x16000c
abbrev rSweep := 0x160010
abbrev rTagAge := 0x160014
abbrev rAuditCfg := 0x160018
abbrev rAuditResult := 0x16001c
abbrev rSweepPasses := 0x160020
abbrev rSweepLate := 0x160024
abbrev rCorr := 0x160028
abbrev rUncorr := 0x16002c
abbrev rAuditFails := 0x160030
abbrev rStrict := 0x160040
abbrev rLogSel := 0x160060
abbrev rSafIrqCfg := 0x160094
abbrev rSafIrq := 0x160098
abbrev rDbgCfg := 0x180008
abbrev rDbgBaseLo := 0x18000c
abbrev rDbgBaseHi := 0x180010
abbrev rDbgAuto := 0x180014
abbrev rDbgSpace := 0x180018
abbrev rBlots := 0x18001c
abbrev rDbgDrop := 0x180020
abbrev rDbgIrqCfg := 0x18002c
abbrev rDbgIrq := 0x180030
abbrev rPage := 0x200000

/-- The key of a register word: its offset, and the index its selector names (R10). -/
def bank (off i : Nat) : Nat := off + i * 0x1000000

/-- The key of a register of context page c (R422). -/
def pageReg (c off : Nat) : Nat := rPage + 0x1000 * c + off

/-- The key of register `off` of submission queue q (R421). -/
def sqReg (q off : Nat) : Nat := rSq + 0x100 * q + off

/-- The key of register `off` of sieve set n (R421). -/
def setReg (n off : Nat) : Nat := rSet + 0x40 * n + off

/-- The cold-reset values of R421 that are not 0, for the registers that hold a word of their own. -/
def coldTable : List (Nat × Nat) :=
  [ (rCfgLimits, 0x8010100), (rPulseNs, 0x1f4), (rLoopMax, 0x100000), (rPcsCfg, 0xa), (rTskQuota, 0x20000), (rEarlyTtl, 0x3e8),
    (rThrBurst, 0x10), (rRunTimeout, 0x3e8), (rSqtQuota, 0x10000), (rSqtRings, 0x400404), (rReplyTimer, 8),
    (rOrderHold, 0x3e8), (rOrderWin, 0x10), (rRuleWait, 0x3e8), (rLcfg, 4), (rTrcCfg, 0x22), (rTrcFlush, 0x64),
    (rTrcRoute, 0xcabd580), (rWdog, 0xa), (rSweep, 0x7d0), (rTagAge, 0x3e8), (rBuf, 0x10), (rBuf + 0x40, 0x10),
    (rBuf + 0x80, 0x10), (rBuf + 0xc0, 0x10) ]

/-- The value a register word holds after cold reset (R421). -/
def regDefault (k : Nat) : Nat :=
  let off := k % 0x1000000
  if rSq ≤ off ∧ off < 0x25000 ∧ off % 0x100 = 0 then 0x404
  else ((coldTable.find? (fun p => p.1 == off)).map Prod.snd).getD 0

/-- The release defaults of R406 that are not 0, by offset. -/
def releaseTable : List (Nat × Nat) :=
  [ (rSrstDrain, 100), (rDlyTick, 10), (rDepth, 8), (rCap, 2), (rCap + 4, 8), (rCap + 8, 8), (rCap + 12, 8), (rC0Resv, 1),
    (rThrFloor, 4), (rXlLines, 8), (rRlat, 0x4040404), (rFpol, 0x3a), (rQuiesce, 100), (rObsLevel, 1), (rTrcCfg, 0x10022),
    (rDbgCfg, 0x1001), (rDbgAuto, 3), (rAuditCfg, 0x7f) ]

/-- The release defaults of a sieve set (R406), by register. -/
def releaseSet (off : Nat) : Nat :=
  match off with
  | 0 => 0x820000 | 8 => 1 | 0xc => 1 | 0x10 => 1 | 0x14 => 1 | 0x18 => 1 | _ => 0

/-- The value a register word holds once the release defaults are in force (R405, R406). -/
def regRelease (k : Nat) : Nat :=
  let off := k % 0x1000000
  if rSet ≤ off ∧ off < rSet + 0x400 then releaseSet ((off - rSet) % 0x40)
  else match releaseTable.find? (fun p => p.1 == off) with
    | some p => p.2
    | none => regDefault k

/-- The registers whose fields take their reset from the Pattern Book (PB, R13, R421). -/
def isPb (k : Nat) : Bool :=
  let off := k % 0x1000000
  off == rSrstDrain || off == rDlyTick || (rDepth ≤ off && off ≤ rThrFloor) || (rDieId ≤ off && off ≤ rXlLines) ||
  (rSet ≤ off && off < rSet + 0x400) || (rPools ≤ off && off < rPools + 0x100) || off == rLeaseLo || off == rLeaseHi ||
  off == rFpol || off == rQuiesce || off == rBoardLo || off == rBoardHi || off == rOrdMode || off == rRlat ||
  off == rObsLevel || off == rTrcCfg || (rDbgCfg ≤ off && off ≤ rDbgAuto) || off == rAuditCfg ||
  (rStrict ≤ off && off < rStrict + 0x20)

/-- What a register word that is not listed holds. -/
def regUnlisted (s : Blk) (k : Nat) : Nat := if s.cfg.pb then regRelease k else regDefault k

/-- The value of a register word. -/
def rg (s : Blk) (k : Nat) : Nat :=
  match Store.get? s.regs k with
  | some v => v.toNat
  | none => regUnlisted s k

/-- The value of a register word as 32 bits. -/
def rgw (s : Blk) (k : Nat) : Word := w32 (rg s k)

/-- Bits [hi:lo] of a register word. -/
def rgf (s : Blk) (k hi lo : Nat) : Nat := fld (rgw s k) hi lo

/-- Bit i of a register word. -/
def rgb (s : Blk) (k i : Nat) : Bool := bitAt (rgw s k) i

/-- The 64-bit value of a _LO and _HI pair. -/
def rg2 (s : Blk) (lo hi : Nat) : Nat := rg s lo + rg s hi * 2 ^ 32

/-- Store a register word; the store keeps no word that equals what an unlisted one holds. -/
def wr (s : Blk) (k v : Nat) : Blk := { s with regs := Store.put (w32 (regUnlisted s k)) s.regs k (w32 v) }

/-- Set the bits of a mask in a register word. -/
def orBits (s : Blk) (k m : Nat) : Blk := wr s k (rg s k ||| m)

/-- Clear the bits of a mask in a register word (W1C, R11). -/
def clrBits (s : Blk) (k m : Nat) : Blk := wr s k (rg s k &&& (0xffffffff - m % 2 ^ 32))

/-- Replace bits [hi:lo] of a register word. -/
def wrf (s : Blk) (k hi lo v : Nat) : Blk := wr s k (setFld (rgw s k) hi lo v).toNat

/-- Count n events in a 32-bit counter register; it wraps. -/
def bumpN (s : Blk) (k n : Nat) : Blk := if n = 0 then s else wr s k ((rg s k + n) % 2 ^ 32)

/-- Count one event in a 32-bit counter register. -/
def bump (s : Blk) (k : Nat) : Blk := bumpN s k 1

/-- The last usable Time Port value, 0 before the first (R69). -/
def now (s : Blk) : Nat := s.time.last

/-- A context slot. -/
def slotOf (s : Blk) (c : Nat) : CtxSlot := Store.getD s.ctx.slots c {}

/-- Write a context slot. -/
def setSlot (s : Blk) (c : Nat) (v : CtxSlot) : Blk :=
  { s with ctx := { s.ctx with slots := Store.put {} s.ctx.slots c v } }

/-- The current generation of a slot. -/
def ctxGen (s : Blk) (c : Nat) : Nat := (slotOf s c).gen

/-- The state of a slot. -/
def ctxSt (s : Blk) (c : Nat) : CtxState := (slotOf s c).state

/-- CTX_ORD_MODE.RULED: whether a context runs in ruled ordering (R285, R302). -/
def isRuled (s : Blk) (c : Nat) : Bool := rgb s (bank rOrdMode c) 0

/-- Whether a context is strict (R384). -/
def isStrict (s : Blk) (c : Nat) : Bool := rgb s (rStrict + 4 * (c / 32)) (c % 32)

/-- Port pair n is out of service (R47). -/
def regionOut (s : Blk) (n : Nat) : Bool := rgb s rRegionFail n

/-- Draw an open choice: one given from outside first, else the next free value (assumption 2). -/
def draw (s : Blk) : Nat × Blk :=
  match s.free.oracle with
  | x :: r => (x, { s with free := { s.free with oracle := r } })
  | [] => (Config.freeNat s.free.drawn, { s with free := { s.free with drawn := s.free.drawn + 1 } })

/-- Choose one of n indices; nothing is drawn where there is no choice. -/
def choose (s : Blk) (n : Nat) : Nat × Blk :=
  if n ≤ 1 then (0, s)
  else
    let (x, t) := draw s
    (x % n, t)

/-- Put pieces of a cascade in front of those that wait: the first listed is done first. -/
def push (s : Blk) (ws : List Work) : Blk := { s with work := ws ++ s.work }

/-- Put a piece of a cascade behind all that wait. -/
def pushBack (s : Blk) (ws : List Work) : Blk := { s with work := s.work ++ ws }

/-- `f` over a list, in its order. -/
def forEach {α : Type} (xs : List α) (s : Blk) (f : Blk → α → Blk) : Blk := xs.foldl f s

end Sys2Proof.Machine
end

