-- ==== Sys2Proof/Machine/Obs.lean ====
section
/-! DEFINITION. Event counters (R338 to R341), triggers, trace records and the four buffers of the Scribe (R347 to R357),
and requests to the Blotter (R359). -/
namespace Sys2Proof.Machine

/-- The key of OBS_CNTn_CFG (R366). -/
def cntReg (n : Nat) : Nat := rCnt + 0x20 * n

/-- A counter selects a source and its context filter admits the event (R339). -/
def cntTakes (n : Nat) (cfg : Word) (src : Nat) (c : Option Nat) : Bool :=
  bitAt cfg 31 && fld cfg 24 16 == src && (if n < 48 || bitAt cfg 30 then c == some (fld cfg 7 0) else true)

/-- Add k events to a live value; OVF is set where it wraps (R338). -/
def cntAdd (c : Counter) (k : Nat) : Counter :=
  { c with live := (c.live + k) % 2 ^ 48, ovf := c.ovf || decide (c.live + k ≥ 2 ^ 48) }

/-- The counters after k events of a source: every enabled counter that selects it counts them (R341). -/
def cntAll (regs : Store Word) (src : Nat) (c : Option Nat) (k : Nat) (cs : Store Counter) : Store Counter :=
  regs.foldl (fun acc p =>
    let n := (p.1 - rCnt) / 0x20
    if rCnt ≤ p.1 && p.1 < rCnt + 0x800 && (p.1 - rCnt) % 0x20 == 0 && cntTakes n p.2 src c then
      Store.put {} acc n (cntAdd (Store.getD acc n {}) k)
    else acc) cs

/-- OBS_TRIG_CFG.COND. -/
def trigCond (s : Blk) : Nat := rgf s rTrigCfg 31 29

/-- Counter CNT stands at or above the threshold of COND 011 (R353, R367). -/
def cntReached (s : Blk) : Bool :=
  trigCond s == 3 && decide ((Store.getD s.obs.cnt (rgf s rTrigCfg 21 16) {}).live ≥ rg2 s rTrigThrLo rTrigThrHi)

/-- Count k events, with no look at the trigger. -/
def evRaw (s : Blk) (src : Nat) (c : Option Nat) (k : Nat) : Blk :=
  { s with obs := { s.obs with cnt := cntAll s.regs src c k s.obs.cnt } }

/-! ## Trace buffers -/

/-- Buffer b. -/
def bufOf (s : Blk) (b : Nat) : TBuf := Store.getD s.obs.bufs b {}

/-- Write buffer b. -/
def setBuf (s : Blk) (b : Nat) (v : TBuf) : Blk := { s with obs := { s.obs with bufs := Store.put {} s.obs.bufs b v } }

/-- OBS_Bb_CFG of buffer b. -/
def bufReg (b off : Nat) : Nat := rBuf + 0x40 * b + off

/-- OBS_Bb_CFG.DRAIN. -/
def bufDrain (s : Blk) (b : Nat) : Bool := rgb s (bufReg b 0) 30

/-- The time of a trace record. -/
def recTime (w : Word256) : Nat := fld w 63 0

/-- A run of losses grown by records lost, oldest first (R352). -/
def growLoss (l : Option (Nat × Nat × Nat)) (lost : List Word256) : Option (Nat × Nat × Nat) :=
  lost.foldl (fun acc w =>
    match acc with
    | some (n, first, _) => some (n + 1, first, recTime w)
    | none => some (1, recTime w, recTime w)) l

/-- Records leave an ARMED buffer undrained: with DRAIN they count as lost (R352, R353). -/
def loseRecs (s : Blk) (b : Nat) (lost : List Word256) : Blk :=
  if bufDrain s b && !lost.isEmpty then
    let t := bufOf s b
    let s := setBuf s b { t with lossRun := growLoss t.lossRun lost }
    evRaw (bumpN s (bufReg b 0x1c) lost.length) (0x140 + b) none lost.length
  else s

/-- A record goes into buffer b (R351 to R354). -/
def bufPut (s : Blk) (b : Nat) (w : Word256) : Blk :=
  let t := bufOf s b
  match t.state with
  | .off => s
  | .armed =>
    if t.recs.length < 2048 then setBuf s b { t with recs := t.recs ++ [w] }
    else
      let s := loseRecs s b (t.recs.take 1)
      let t := bufOf s b
      setBuf s b { t with recs := t.recs.drop 1 ++ [w] }
  | .post =>
    let s := setBuf s b { t with recs := t.recs ++ [w], postLeft := t.postLeft - 1,
                                 state := if t.postLeft ≤ 1 then .frozen else .post }
    if t.postLeft ≤ 1 then orBits s rObsIrq 2 else s
  | .frozen => bump s (bufReg b 0x20)

/-- A 256-bit trace record (R348). In free ordering a context has no ticks, and TICK is 0 (R35). -/
def mkRec (s : Blk) (ty : Nat) (c : Option Nat) (payload : Nat) : Word256 :=
  let stale := !s.time.usable
  let hdr := match c with
    | some x => put x 79 72 + put 1 80 80 + put (b2n (isRuled s x)) 81 81 + put (ctxGen s x) 95 88 +
        put (if isRuled s x then (slotOf s x).tick else 0) 127 96
    | none => 0
  BitVec.ofNat 256 (put (now s) 63 0 + put ty 71 64 + hdr + put (b2n stale) 82 82 + put payload 255 128)

/-! ## Blot requests -/

/-- Ask for a blot (R358, R359), with no look at the trigger. -/
def blotAskRaw (s : Blk) (r : BlotReq) : Blk :=
  let dropped := evRaw (orBits (bump s rDbgDrop) rDbgIrq 2) 0x14c none 1
  if !rgb s rDbgCfg 31 then dropped
  else match s.dbg.phase with
    | .idle => { s with dbg := { s.dbg with phase := .asked, req := some r } }
    | _ =>
      match s.dbg.held with
      | none => { s with dbg := { s.dbg with held := some r } }
      | some _ => dropped

/-- A blot requested by an automatic cause of DBG_AUTO (R359), with no look at the trigger. -/
def blotAutoRaw (s : Blk) (bit cause code ctx : Nat) : Blk :=
  if rgb s rDbgAuto bit then blotAskRaw s { cause, snapshot := rgb s rDbgCfg 30, code, ctx } else s

/-! ## Triggers -/

/-- A trigger acts on one buffer (R353). -/
def trigBuf (s : Blk) (b : Nat) (w : Word256) : Blk :=
  let t := bufOf s b
  let gone := t.recs.length - 1535
  let s := loseRecs s b (t.recs.take gone)
  let t := bufOf s b
  setBuf s b { t with recs := t.recs.drop gone ++ [w], state := .post, postLeft := 512 }

/-- The buffers a trigger acts on: ARMED with TRIGEN = 1. -/
def trigBufs (s : Blk) : List Nat :=
  (List.range 4).filter (fun b => (bufOf s b).state == .armed && rgb s (bufReg b 0) 29)

/-- Take one trigger (R353): it is counted, and acts where a buffer is ARMED with TRIGEN = 1. -/
def trigOne (s : Blk) (cause value : Nat) : Blk :=
  let s := evRaw (bump s rTrigCount) 0x14a none 1
  match trigBufs s with
  | [] => s
  | bs =>
    let w := mkRec s 0x10 none (put cause 127 124 + put value 123 116)
    let s := forEach bs s (fun s b => trigBuf s b w)
    blotAutoRaw (orBits s rObsIrq 1) 2 5 0 0

/-- Take a trigger, and the one that its own count may bring about (source 0x14A). -/
def trigger (s : Blk) (cause value : Nat) : Blk :=
  let was := cntReached s
  let s := trigOne s cause value
  if cntReached s && !was then trigOne s 3 0 else s

/-- COND 011 triggers where counts of an update from `s` to `t` have brought the counter to its threshold (R353). -/
def cntTrig (s t : Blk) : Blk := if cntReached t && !cntReached s then trigger t 3 0 else t

/-- Count k events of a source that concern context c, or none (R341); COND 011 may trigger. -/
def evN (s : Blk) (src : Nat) (c : Option Nat) (k : Nat) : Blk := if k = 0 then s else cntTrig s (evRaw s src c k)

/-- Count one event of a source that concerns context c. -/
def ev (s : Blk) (src c : Nat) : Blk := evN s src (some c) 1

/-- Count one event of a source that concerns no context. -/
def ev0 (s : Blk) (src : Nat) : Blk := evN s src none 1

/-- Ask for a blot (R358, R359); COND 011 may trigger. -/
def blotAsk (s : Blk) (r : BlotReq) : Blk := cntTrig s (blotAskRaw s r)

/-- A blot requested by an automatic cause of DBG_AUTO (R359). -/
def blotAuto (s : Blk) (bit cause code ctx : Nat) : Blk :=
  if rgb s rDbgAuto bit then blotAsk s { cause, snapshot := rgb s rDbgCfg 30, code, ctx } else s

/-! ## Trace records -/

/-- A record meets the Scribe's intake of 64 places (R350): whether it is lost, and the intake after it. How many records have
left a full intake by then is open (assumption 30). -/
def intake (o : Obs) : Bool × Obs :=
  if o.intake < 64 then (false, { o with intake := o.intake + 1 })
  else
    let left := Config.intakeLeft o.intakeMet % 65
    (left == 0, { o with intake := min 64 (65 - left), intakeMet := o.intakeMet + 1 })

/-- The lowest level at which a type is kept (R349). -/
def trcLevel (ty : Nat) : Nat :=
  if ty = 0x04 || ty = 0x08 || ty = 0x09 || ty = 0x0e then 1
  else if ty = 0x06 || ty = 0x0a || ty = 0x0b then 3
  else 2

/-- The level of observation of a context, or of what concerns none (R347). -/
def obsLevel (s : Blk) (c : Option Nat) : Nat :=
  match c with
  | some x => rgf s (bank rObsLevel x) 1 0
  | none => rgf s rTrcCfg 17 16

/-- A kept record meets the trigger condition (R353). -/
def recTrig (s : Blk) (ty payload : Nat) : Option Nat :=
  let cfg := rgw s rTrigCfg
  let v := fld cfg 15 8
  if fld cfg 4 0 ≠ ty then none
  else if trigCond s = 1 then some 0
  else if trigCond s = 2 then
    if !bitAt cfg 28 then some 0
    else if ty = 9 then (if (payload >>> 120) % 256 = v then some v else none)
    else if ty = 8 then (if (payload >>> 118) % 16 = v % 16 then some (v % 16) else none)
    else none
  else none

/-- A record of a type 0x01 to 0x0E is offered to the Scribe's intake (R347, R350, R353); one that finds it full is lost, and
counted for its buffer (R352). -/
def trace (s : Blk) (ty : Nat) (c : Option Nat) (payload : Nat) : Blk :=
  if obsLevel s c < trcLevel ty then s
  else
    let b := (rg s rTrcRoute >>> (2 * (ty - 1))) % 4
    let w := mkRec s ty c payload
    let (lost, o) := intake s.obs
    let t := { s with obs := o }
    if lost then (if (bufOf t b).state == .off then t else cntTrig t (loseRecs t b [w]))
    else
      let t := cntTrig t (bufPut t b w)
      match recTrig t ty payload with
      | some v => trigger t (trigCond t) v
      | none => t

/-! ## Ticks -/

/-- One more decision has been taken in the open tick of a context (R349, TICK). -/
def oneDecided (s : Blk) (c : Nat) : Blk := setSlot s c { slotOf s c with decided := (slotOf s c).decided + 1 }

/-- The open tick of a context closes; its TICK trace record is written if it took a decision (R349). -/
def closeTick (s : Blk) (c : Nat) : Blk :=
  let v := slotOf s c
  let s := setSlot s c { v with tickOpen := false, decided := 0 }
  if v.decided = 0 then s
  else trace s 0xd (some c) (put v.tick 127 64 + put (min v.decided 0xffffffff) 63 32)

end Sys2Proof.Machine
end

