-- ==== Sys2Proof/Machine/Logs.lean ====
section
/-! DEFINITION. Error logs (R390 to R392), the reaction of a context to a fault (R322, R385), and the alarm (R382). -/
namespace Sys2Proof.Machine

/-! Units in the prefix order of R10. -/

abbrev uBlk := 0
abbrev uCfg := 1
abbrev uCsq := 2
abbrev uGst := 3
abbrev uTsk := 4
abbrev uJnt := 5
abbrev uRdy := 6
abbrev uDly := 7
abbrev uIss := 8
abbrev uSve := 9
abbrev uSqt := 10
abbrev uXch := 11
abbrev uCtx := 12
abbrev uObs := 13
abbrev uSaf := 14
abbrev uDbg := 15

/-- Log number of a context log, as SAF_LOG_SEL numbers logs (R395). -/
def ctxLog (c : Nat) : Nat := 16 + c

/-- The newest entry of a log. -/
def ELog.newest (l : ELog) : Option LogEnt :=
  match l.ring with
  | e :: _ => some e
  | [] => l.first

/-- Store an entry (R390): an entry equal in CODE, UNIT and DETAIL[63:0] to the newest only advances its REPEAT. -/
def ELog.add (l : ELog) (cap : Nat) (e : LogEnt) : ELog :=
  let again := match l.newest with
    | some n => n.code == e.code && n.unit == e.unit && n.detail % 2 ^ 64 == e.detail % 2 ^ 64
    | none => false
  if again then
    match l.ring with
    | n :: r => { l with ring := { n with rep := min (n.rep + 1) 0xffff } :: r }
    | [] => { l with first := l.first.map (fun n => { n with rep := min (n.rep + 1) 0xffff }) }
  else
    match l.first with
    | none => { l with first := some e }
    | some _ =>
      if l.ring.length < cap then { l with ring := e :: l.ring }
      else { l with ring := e :: l.ring.take (cap - 1), past := min (l.past + 1) 0xffff }

/-- A log. -/
def logOf (s : Blk) (n : Nat) : ELog := Store.getD s.saf.logs n {}

/-- Write a log. -/
def setLog (s : Blk) (n : Nat) (l : ELog) : Blk :=
  { s with saf := { s.saf with logs := Store.put {} s.saf.logs n l } }

/-- DETAIL of R392, from its three columns. -/
def mkDetail (a b c : Nat) : Nat := put a 63 0 + put b 95 64 + put c 127 96

/-- The FAULT source of the Exchange (R283). -/
def xchErr (s : Blk) (code : Nat) : Blk :=
  if code = 0x13 || code = 0x16 || code = 0x35 then orBits s rXchIrq 2 else s

/-- Record a fault in a log, with its FAULT trace record (R349, R390). `alarm`: the entry raises an alarm cause. -/
def logFault (s : Blk) (log unit code : Nat) (c : Option Nat) (detail : Nat) (alarm : Bool) : Blk :=
  let e : LogEnt :=
    { time := now s, code, unit, ctx := c, ctxGen := (c.map (ctxGen s)).getD 0,
      strict := (c.map (isStrict s)).getD false, alarm, badPar := false, rep := 0, detail }
  let s := setLog s log ((logOf s log).add (if log < 16 then 15 else 7) e)
  let s := if unit = uXch then xchErr s code else s
  let s := if log = uSaf && (code = 0x23 || code = 0x44) then orBits s rSafIrq 2 else s
  trace s 9 c (put code 127 120 + put unit 119 116 + detail % 2 ^ 96)

/-- Record a fault in a unit's log; `c` is the context it concerns, where there is one. -/
def unitFault (s : Blk) (unit code : Nat) (c : Option Nat) (detail : Nat) : Blk :=
  logFault s unit unit code c detail false

/-- The numbers of CTX_STATE.STATE (R334). -/
def CtxState.num : CtxState → Nat
  | .free => 0 | .opening => 1 | .opened => 2 | .draining => 3 | .quiesced => 4
  | .orphaned => 5 | .faulted => 6 | .closing => 7 | .pendingReuse => 8

/-- Move a slot to a state, with its CTXSTATE trace record (R349). -/
def setCtxSt (s : Blk) (c : Nat) (st : CtxState) : Blk :=
  let v := slotOf s c
  let s := setSlot s c { v with state := st }
  trace s 0xe (some c) (put v.state.num 127 124 + put st.num 123 120 + put v.gen 119 112 + put v.code 111 104)

/-- The course built for a context is discarded (R204, R213). -/
def dropCourse (s : Blk) (c : Nat) : Blk :=
  let v := Store.getD s.sqt.ctxs c {}
  { s with sqt := { s.sqt with ctxs := Store.put {} s.sqt.ctxs c { v with course := none } } }

/-- A slot becomes FAULTED (R306); its built course is discarded (R204). -/
def toFaulted (s : Blk) (c code : Nat) : Blk :=
  let s := dropCourse (setSlot s c { slotOf s c with code }) c
  ev (orBits (setCtxSt s c .faulted) rCtxIrq 4) 0x139 c

/-- Whether a fault makes its context FAULTED (R322, R385). -/
def faultStops (s : Blk) (c code : Nat) : Bool :=
  if code = 0x40 then false
  else if isStrict s c then true
  else if code = 0x10 then true
  else if code < 0x20 then rgb s (bank rFpol c) 1
  else if code < 0x30 then rgb s (bank rFpol c) 2
  else if code < 0x40 then rgb s (bank rFpol c) 3
  else if code < 0x50 then rgb s (bank rFpol c) 4
  else if code < 0x60 then rgb s (bank rFpol c) 5
  else false

/-- Record a fault against a context, and its reaction (R322, R385). -/
def ctxFaultA (s : Blk) (c unit code detail : Nat) (alarm : Bool) : Blk :=
  let s := logFault s (ctxLog c) unit code (some c) detail alarm
  let st := ctxSt s c
  if (st == .opened || st == .orphaned) && faultStops s c code then toFaulted s c code else s

/-- Record a fault against a context that raises no alarm. -/
def ctxFault (s : Blk) (c unit code detail : Nat) : Blk := ctxFaultA s c unit code detail false

/-! Bits of SAF_ALARM_CAUSE (R395). -/

abbrev aParity := 0
abbrev aPulse := 1
abbrev aDispatch := 2
abbrev aTime := 3
abbrev aPort := 4
abbrev aAudit := 5
abbrev aRegion := 6
abbrev aSelf := 7
abbrev aTest := 8

/-- Set a cause bit (R382). When the alarm is raised, a blot is requested, a trigger with COND 101 acts, and the strict
contexts are fenced. `code`, `c`: the fault code and context of the cause, for the blot. -/
def raiseAlarm (s : Blk) (bit code c : Nat) : Blk :=
  let was := rg s rAlarmCause
  let s := orBits (orBits s rAlarmCause (2 ^ bit)) rSafIrq 1
  if was ≠ 0 then s
  else
    let s := blotAuto s 1 4 code c
    let s := if trigCond s = 5 then trigger s 5 0 else s
    push s [.fenceStrict]

/-- Record a fault in the SAF error log. -/
def safFault (s : Blk) (unit code detail : Nat) (alarm : Bool) : Blk := logFault s uSaf unit code none detail alarm

/-- DETAIL of a register write that R14 refuses (R392). -/
def refusedDetail (off v : Nat) (priv : Bool) : Nat := mkDetail (2 ^ 63 + put off 23 0) v (b2n priv)

end Sys2Proof.Machine
end

