-- ==== Sys2Proof/Machine/RegPort.lean ====
section
/-! DEFINITION. The Register Port around every access: parity, privilege, readiness and the refusal of R14 (R14, R63 to R65,
R407, R408). What a write does stands in RegWrite. -/
namespace Sys2Proof.Machine

/-! RGP_STATUS (R63). -/

abbrev rgpOk := 0
abbrev rgpPriv := 1
abbrev rgpParity := 2
abbrev rgpNotMapped := 3
abbrev rgpRefused := 4
abbrev rgpStoreError := 5

/-- A function's BLK_READY bit (R407). -/
def fnReady (s : Blk) (f : Nat) : Bool := s.cfg.ready.testBit f

/-- The unit of a register offset below the diagnostic window (R420, R422). -/
def unitOf (off : Nat) : Nat :=
  if off ≥ rPage then
    let p := off % 0x1000
    if p < 0x200 then uCsq else if p < 0x400 then uSqt else if p < 0x600 then uXch else if p < 0x800 then uCtx else uObs
  else match off / 0x10000 with
    | 0x0 => uBlk | 0x1 => uCfg | 0x2 => uCsq | 0x4 => uGst | 0x5 => uTsk | 0x6 => uJnt
    | 0x8 => if off < 0x81000 then uRdy else uDly
    | 0xa => uIss | 0xc => uSve | 0xe => uSqt | 0x10 => uXch | 0x12 => uCtx | 0x14 => uObs | 0x16 => uSaf | 0x18 => uDbg
    | _ => uBlk

/-- The function of R407 whose readiness a unit's registers wait for (R408). -/
def unitFn (u : Nat) : Nat :=
  match u with
  | 2 => 13 | 3 => 7 | 4 => 8 | 5 => 8 | 6 => 8 | 7 => 8 | 8 => 9 | 9 => 10 | 10 => 14 | 11 => 11 | 12 => 12 | 13 => 6
  | 14 => 3 | 15 => 5 | _ => 0

/-- The outcome of a Register Port access. -/
def rgpEnd (s : Blk) (status : Nat) (data : Word) : Blk :=
  { s with ports := { s.ports with rgpStatus := status, rgpData := data } }

/-- An access with RGP_PRIV = 0 is performed there (R64). -/
def unprivOk (off : Nat) (write : Bool) : Bool :=
  decide (rPage ≤ off ∧ off < 0x300000) || (!write && decide (off < 0x100))

/-- A write is refused by R14: fault 0x31 goes to the log of the unit written, and nothing changes. -/
def refuseWrite (s : Blk) (off : Nat) (v : Word) (a : Access) : Blk :=
  rgpEnd (unitFault s (unitOf off) 0x31 none (refusedDetail off v.toNat a.priv)) rgpRefused 0

end Sys2Proof.Machine
end

