-- ==== Sys2Proof/Machine/Flags.lean ====
section
/-! DEFINITION. The status the block shows at its pins and in BLK: pending interrupt sources and lines (R71), the alarm pair
(R72, R382, R383), and the reason codes of its functions (R409). -/
namespace Sys2Proof.Machine

/-- The units with interrupt sources: the offsets of their _IRQ_CFG and _IRQ_STAT registers (R71). -/
def irqUnits : List (Nat × Nat) :=
  [(rCfgIrqCfg, rCfgIrq), (rCsqIrqCfg, rCsqIrq), (rTskIrqCfg, rTskIrq), (rIssIrqCfg, rIssIrq), (rSqtIrqCfg, rSqtIrq),
   (rXchIrqCfg, rXchIrq), (rCtxIrqCfg, rCtxIrq), (rObsIrqCfg, rObsIrq), (rSafIrqCfg, rSafIrq), (rDbgIrqCfg, rDbgIrq)]

/-- A source of a unit is pending: a status bit is set and the unit's EN is 1 (R71). -/
def irqPending (s : Blk) (u : Nat × Nat) : Bool := rgb s u.1 8 && rg s u.2 ≠ 0

/-- BLK_IRQ_PEND: bit i is 1 while a pending source is routed to line i (R80). -/
def irqPend (s : Blk) : Nat :=
  irqUnits.foldl (fun acc u => if irqPending s u then acc ||| 2 ^ rgf s u.1 2 0 else acc) 0

/-- IRQ_OUT (R71). -/
def irqOut (s : Blk) : Nat := irqPend s &&& rg s rIrqEn

/-- The alarm pair is in the alarm state (R72, R382). -/
def alarmOn (s : Blk) : Bool := s.saf.monitor && !s.saf.selfBad && rg s rAlarmCause ≠ 0

/-- SAF_ALARM and SAF_ALARM_N (R72). -/
def alarmPair (s : Blk) : Bool × Bool :=
  if !s.saf.monitor then (false, false)
  else if s.saf.selfBad then (true, true)
  else if rg s rAlarmCause ≠ 0 then (true, false)
  else (false, true)

/-- The reason code of function f (R409). -/
def whyOf (s : Blk) (f : Nat) : Nat :=
  if s.cfg.low then 1
  else if fnReady s f then 0
  else if s.cfg.srst && f ≥ 4 then 5
  else if f ≤ 3 || f = 7 || f = 8 then 1
  else if s.cfg.phase = .failed && f ≠ 5 && f ≠ 6 then s.cfg.code
  else if f = 4 || f = 5 || f = 6 then 2
  else if f = 15 && fnReady s 13 then (if s.cfg.hifRefused then 0x60 else 4)
  else 3

/-- BLK_WHYi (R409). -/
def whyWord (s : Blk) (i : Nat) : Nat :=
  ((List.range 4).map (fun j => whyOf s (4 * i + j) * 2 ^ (8 * j))).foldl (· + ·) 0

end Sys2Proof.Machine
end

