-- ==== Sys2Proof/Machine/Operands.lean ====
section
/-! DEFINITION. The command word of the Nib: its fields (R227), its opcodes (R229), and the checks of its operands (R228, R230
to R232). -/
namespace Sys2Proof.Machine

/-! ## Fields (R227) -/

/-- OPCODE. -/
def cOp (w : Word256) : Nat := fld w 7 0
/-- REPORT. -/
def cReport (w : Word256) : Bool := bitAt w 8
/-- FTOL. -/
def cFtol (w : Word256) : Bool := bitAt w 9
/-- RD. -/
def cRd (w : Word256) : Nat := fld w 15 12
/-- RA. -/
def cRa (w : Word256) : Nat := fld w 19 16
/-- RB. -/
def cRb (w : Word256) : Nat := fld w 23 20
/-- IMM. -/
def cImm (w : Word256) : Nat := fld w 63 32
/-- OPA. -/
def cOpa (w : Word256) : Nat := fld w 127 64
/-- OPB. -/
def cOpb (w : Word256) : Nat := fld w 191 128
/-- USERTAG. -/
def cTag (w : Word256) : Nat := fld w 255 192
/-- Bits [hi:lo] of IMM. -/
def immF (w : Word256) (hi lo : Nat) : Nat := fld w (32 + hi) (32 + lo)
/-- Bits [hi:lo] of OPA. -/
def opaF (w : Word256) (hi lo : Nat) : Nat := fld w (64 + hi) (64 + lo)
/-- Bits [hi:lo] of OPB. -/
def opbF (w : Word256) (hi lo : Nat) : Nat := fld w (128 + hi) (128 + lo)
/-- Bit i of OPB. -/
def opbB (w : Word256) (i : Nat) : Bool := bitAt w (128 + i)

/-! ## Opcodes (R229) -/

abbrev oNop := 0x00
abbrev oLaunch := 0x01
abbrev oWait := 0x02
abbrev oSignal := 0x03
abbrev oClose := 0x04
abbrev oJalloc := 0x05
abbrev oJfree := 0x06
abbrev oCancel := 0x07
abbrev oSet := 0x10
abbrev oAdd := 0x11
abbrev oGet := 0x12
abbrev oLoad := 0x13
abbrev oStore := 0x14
abbrev oBr := 0x18
abbrev oLoop := 0x19
abbrev oCall := 0x1a
abbrev oRet := 0x1b
abbrev oSleep := 0x1c
abbrev oBrk := 0x1d
abbrev oPatch := 0x20
abbrev oSpill := 0x21
abbrev oRefill := 0x22
abbrev oLatch := 0x23
abbrev oFence := 0x28
abbrev oAudit := 0x29
abbrev oHello := 0x2a
abbrev oAdopt := 0x2b

/-- The opcodes that R229 lists. -/
def opcodes : List Nat :=
  [oNop, oLaunch, oWait, oSignal, oClose, oJalloc, oJfree, oCancel, oSet, oAdd, oGet, oLoad, oStore, oBr, oLoop, oCall,
   oRet, oSleep, oBrk, oPatch, oSpill, oRefill, oLatch, oFence, oAudit, oHello, oAdopt]

/-- An opcode that R229 lists. -/
def opKnown (o : Nat) : Bool := opcodes.contains o

/-- A command that writes S[RD] when it retires (R229). -/
def writesRd (o : Nat) : Bool :=
  [oLaunch, oWait, oSignal, oClose, oJalloc, oCancel, oSet, oAdd, oGet, oLoad, oPatch, oSpill, oRefill, oFence, oAudit,
   oHello, oAdopt].contains o

/-- A command that only a privileged queue may execute, on a queue bound to context c (R229). -/
def privOp (w : Word256) (c : Nat) : Bool :=
  let o := cOp w
  o == oPatch || o == oAudit || o == oHello || o == oAdopt || (o == oFence && immF w 7 0 ≠ c)

/-! ## Operand checks -/

/-- RD, RA and RB are 0 where the opcode does not use them (R228). -/
def regsOk (w : Word256) (rd ra rb : Bool) : Bool :=
  (rd || cRd w == 0) && (ra || cRa w == 0) && (rb || cRb w == 0)

/-- A system address with an alignment (R30, R228). -/
def addrOk (a k : Nat) : Bool := decide (a < 2 ^ 52) && a % k == 0

/-- The signed offset of BR and LOOP (R231). -/
def offOf (w : Word256) : Int := sgn64 (cOpa w)

/-- A branch offset is in range (R231). -/
def offOk (w : Word256) : Bool := cOpa w % 32 == 0 && decide (-(2 ^ 20) ≤ offOf w ∧ offOf w ≤ 2 ^ 20 - 32)

/-- A node target of SIGNAL or CLOSE (R86, R230): LOCAL or REMOTE, with an absolute scope. -/
def targetFits (w : Word256) (dead : Bool) : Bool :=
  let mode := opaF w 63 62
  let scope := opaF w 61 50
  (mode == 1 || (mode == 0 && opaF w 37 1 == 0)) && (decide (scope < 0xff0) || scope == 0xffe) &&
    (dead || opaF w 0 0 == 0)

/-- SIGNAL and CLOSE name a queue joint, or a node (R230). -/
def signalFits (w : Word256) (dead : Bool) : Bool :=
  if opbB w 18 then cImm w == 0 && cOpa w == 0 else targetFits w dead

/-- BR uses RA unless its condition is ALWAYS, and RB only where it compares registers (R231). -/
def brFits (w : Word256) : Bool :=
  let cond := immF w 3 0
  let bimm := immF w 4 4 == 1
  decide (cond ≤ 6) && immF w 31 5 == 0 && offOk w && (bimm || cOpb w == 0) &&
    regsOk w false (cond ≠ 0) (cond ≠ 0 && !bimm)

/-- The operand checks of R228 and R230 to R232, by opcode. -/
def operandsOk (w : Word256) : Bool :=
  let o := cOp w
  let imm0 := cImm w == 0
  let opa0 := cOpa w == 0
  let opb0 := cOpb w == 0
  fld w 31 24 == 0 && fld w 11 10 == 0 &&
  (if o = oNop || o = oRet || o = oBrk then imm0 && opa0 && opb0 && regsOk w false false false
   else if o = oLaunch then
     let lt := opbB w 20
     let ej := opbB w 19
     (!lt || imm0) && opbF w 63 22 == 0 && (!ej || (opbB w 18 && opbF w 17 0 == 0)) && regsOk w true lt ej
   else if o = oWait then imm0 && opa0 && opbF w 63 20 == 0 && regsOk w true true false
   else if o = oSignal then opbF w 63 19 == 0 && signalFits w true && regsOk w true false false
   else if o = oClose then
     let tr := opbB w 19
     opbF w 63 48 == 0 && opbF w 23 20 == 0 && (!tr || opbF w 47 24 == 0) && signalFits w false && regsOk w true tr false
   else if o = oJalloc then
     imm0 && opa0 && opbF w 63 25 == 0 && ((opbB w 24) == (opbF w 23 0 == 0)) && regsOk w true false false
   else if o = oJfree then imm0 && opa0 && opb0 && regsOk w false true false
   else if o = oCancel then
     opb0 && opaF w 63 25 == 0 && regsOk w true false false &&
       (if opaF w 24 24 = 1 then opaF w 23 0 == 0 else decide (opaF w 23 12 < 0xff0) || opaF w 23 12 == 0xffe)
   else if o = oSet then imm0 && opb0 && regsOk w true false false
   else if o = oAdd then imm0 && opb0 && regsOk w true true false
   else if o = oGet then decide (cImm w ≤ 4) && opa0 && opb0 && regsOk w true false false
   else if o = oLoad then imm0 && opb0 && addrOk (cOpa w) 8 && regsOk w true false false
   else if o = oStore then imm0 && opb0 && addrOk (cOpa w) 8 && regsOk w false true false
   else if o = oBr then brFits w
   else if o = oLoop then imm0 && opb0 && offOk w && regsOk w false true false
   else if o = oCall then imm0 && opb0 && addrOk (cOpa w) 32 && regsOk w false false false
   else if o = oSleep then
     imm0 && opb0 && decide (1 ≤ cOpa w ∧ cOpa w ≤ 0xffffffff) && regsOk w false false false
   else if o = oPatch then immF w 31 14 == 0 && opb0 && opaF w 51 0 % 64 == 0 && regsOk w true false false
   else if o = oSpill then opb0 && addrOk (cOpa w) 64 && regsOk w true false false
   else if o = oRefill then opa0 && opb0 && regsOk w true false false
   else if o = oLatch then immF w 31 1 == 0 && opb0 && addrOk (cOpa w) 64 && regsOk w false false false
   else if o = oFence then immF w 31 17 == 0 && opa0 && opb0 && regsOk w true false false
   else if o = oAudit then immF w 31 7 == 0 && opa0 && opb0 && regsOk w true false false
   else if o = oHello then opa0 && opb0 && regsOk w true false false
   else if o = oAdopt then immF w 31 16 == 0 && opaF w 63 32 == 0 && opb0 && regsOk w true false false
   else false)

/-- The condition of a BR on its two values (R231). -/
def brCond (cond a b : Nat) : Bool :=
  match cond with
  | 0 => true
  | 1 => a == b
  | 2 => a ≠ b
  | 3 => decide (a < b)
  | 4 => decide (a ≥ b)
  | 5 => decide (sgn64 a < sgn64 b)
  | _ => decide (sgn64 a ≥ sgn64 b)

end Sys2Proof.Machine
end

