-- ==== Sys2Proof/Machine/MemPort.lean ====
section
/-! DEFINITION. The Memory Port: making requests, offering the next one, repeated offers and abandonment (R50 to R55).
What an owner does with its answer stands in MemResp. -/
namespace Sys2Proof.Machine

/-- The bytes of a line (R8). -/
def lineBytes (l : Line) : List Byte := leBytes 64 l.toNat

/-- A line whose bytes from place `at_` are those given, zeros elsewhere. -/
def lineOf (at_ : Nat) (bs : List Byte) : Line := BitVec.ofNat 512 (ofLe bs <<< (8 * at_))

/-- Byte enables for `n` bytes from place `at_` (R50). -/
def beOf (at_ n : Nat) : BitVec 64 := BitVec.ofNat 64 ((2 ^ n - 1) <<< at_)

/-- Whether the response to a request is owed to its context when that context is ruled: it is not where a foreign
event or the observation units caused the request (R286). A latch record is owed where a LATCH command waits for it. -/
def owedReq (s : Blk) : MemOwner → Bool
  | .ringWrite _ _ | .ringPtr _ _ | .ringRefresh _ _ | .drain _ _ | .blotScan _ | .blotLine | .blotHead
  | .cplReplay _ | .board _ | .xtLine _ | .graphReplay _ _ | .orphaned | .ignored => false
  | .latchRec id => s.obs.latch.any (fun j => j.id == id && j.queue.isSome)
  | _ => true

/-- The party index of a submission queue (R289). -/
def queueParty (s : Blk) (q : Nat) : Nat := 0x1000 + 64 * rgf s (sqReg q 0) 29 28 + q

/-- The party index of an owed memory response: of what made the request (R289). The table has no row for the send channels, whose
requests take that of the Fabric Port (DESIGN CHOICE, assumption 27). -/
def memParty (s : Blk) (r : MemReq) : Nat :=
  match r.owner with
  | .fetch q _ _ | .csqLoad q _ | .csqStore q _ | .cplRecord q _ _ _ => queueParty s q
  | .latchRec _ | .gstLine _ => queueParty s r.index
  | .spillLine l _ | .refillLine l _ => queueParty s (((Store.get? s.tsk.launches l).bind (·.spillQ)).getD 0)
  | .listHeader _ _ | .listRecord _ _ => 0x1600 + r.index
  | .park _ | .restore _ | .reqRead _ | .notice _ | .courseLine _ | .resultLine _ _ => 0x1100
  | _ => 0x1b00

/-- Whether a context takes ruled decisions: it is ruled, and no fence is in force on it (R332). -/
def ruledLive (s : Blk) (c : Nat) : Bool :=
  isRuled s c && (ctxSt s c == .opened || ctxSt s c == .orphaned || ctxSt s c == .faulted)

/-- Add an owed event of a ruled context; it gets the next serial number (R286). -/
def owe (s : Blk) (o : Owed) : Blk := { s with ctx := { s.ctx with owed := s.ctx.owed ++ [o] } }

/-- A bound task leaves READY undispatched: no completion is owed for it. -/
def unowe (s : Blk) (slot : Nat) : Blk :=
  { s with ctx := { s.ctx with owed := s.ctx.owed.filter (fun o => o.what ≠ .completion slot) } }

/-- Make a Memory Port request: it waits until MQ offers it (R50). -/
def memReq (s : Blk) (r : MemReq) : Blk :=
  match r.ctx with
  | some c =>
    if ruledLive s c && owedReq s r.owner then
      let n := s.ctx.serial
      let s := owe { s with ctx := { s.ctx with serial := n + 1 } }
        { ctx := c, due := (slotOf s c).tick + 1, party := memParty s r, what := .memory n }
      { s with mem := { s.mem with waitq := s.mem.waitq ++ [(none, { r with serial := some n })] } }
    else { s with mem := { s.mem with waitq := s.mem.waitq ++ [(none, r)] } }
  | none => { s with mem := { s.mem with waitq := s.mem.waitq ++ [(none, r)] } }

/-- Read one line; `addr` is the address wanted, of which the line is read. -/
def memRead (s : Blk) (addr qos : Nat) (c : Option Nat) (unit index : Nat) (o : MemOwner) : Blk :=
  memReq s { write := false, addr := addr / 64 * 64, first := addr, be := 0, data := 0, qos, ctx := c, unit, index,
             owner := o }

/-- Cut a byte list written at an address into its lines: the address of the first byte in each, and the bytes. -/
def cutLines : Nat → Nat → List Byte → List (Nat × List Byte)
  | 0, _, _ => []
  | _, _, [] => []
  | fuel + 1, a, bs =>
    let k := 64 - a % 64
    (a, bs.take k) :: cutLines fuel (a + k) (bs.drop k)

/-- The lines a byte list written at an address touches. -/
def linesOf (a : Nat) (bs : List Byte) : List (Nat × List Byte) := cutLines (bs.length / 64 + 2) a bs

/-- Write bytes, line by line, with exact byte enables; every line has the same owner. -/
def memWrite (s : Blk) (addr : Nat) (bs : List Byte) (qos : Nat) (c : Option Nat) (unit index : Nat) (o : MemOwner) :
    Blk :=
  forEach (linesOf addr bs) s (fun s p =>
    memReq s { write := true, addr := p.1 / 64 * 64, first := p.1, be := beOf (p.1 % 64) p.2.length,
               data := lineOf (p.1 % 64) p.2, qos, ctx := c, unit, index, owner := o })

/-- The tags in use: outstanding, on offer, kept for a repeated offer, or retired (R50, R389). -/
def tagsUsed (s : Blk) : List Nat :=
  Store.keys s.mem.out ++ (s.mem.mq.toList.map Prod.fst) ++ s.mem.waitq.filterMap Prod.fst ++ s.mem.retired

/-- The tags that may be offered. -/
def tagsFree (s : Blk) : List Nat :=
  let used := tagsUsed s
  (List.range 1024).filter (fun t => !used.contains t)

/-- The event source of a request (R340): 0x128 + 2 × QoS + OP. -/
def memSource (r : MemReq) : Nat := 0x128 + 2 * r.qos + b2n r.write

/-- Take entry i out of the requests that wait. -/
def takeWait (s : Blk) (i : Nat) : Blk := { s with mem := { s.mem with waitq := s.mem.waitq.eraseIdx i } }

/-- A record fetch of a channel of a class. -/
def fetchesRec (s : Blk) (reply : Bool) (r : MemReq) : Bool :=
  match r.owner with
  | .sendRec ch _ _ => (Store.getD s.xch.chans ch {}).reply == reply
  | _ => false

/-- Record fetches of the request class wait while one of the reply class waits (R268). -/
def behindReply (s : Blk) (r : MemReq) : Bool :=
  fetchesRec s false r && s.mem.waitq.any (fun p => p.1.isNone && fetchesRec s true p.2)

/-- A soft reset is at its Orders 1 to 5 (R414). -/
def srstDrains (s : Blk) : Bool := s.cfg.srst && !(s.cfg.srstBoard && s.cfg.srstAt.isNone)

/-- A request that a soft reset still makes: of the blot it waits for, or of the fence board (R414). -/
def MemOwner.inReset : MemOwner → Bool
  | .blotScan _ | .blotLine | .blotHead | .board _ => true
  | _ => false

/-- MQ at rest takes up the next request that waits (R50, R54). During the drain of a soft reset no new request of the rest of the block is
offered (R76), and none before the tags' store is initialised (R397). Which request and which free tag are open (assumption 2). -/
def pumpMem (s : Blk) : Blk :=
  if s.mem.mq.isSome || s.mem.waitq.isEmpty || s.cfg.inits.contains .tags then s
  else
    let full := decide ((tagsUsed s).length ≥ 1024)
    let cand := (List.range s.mem.waitq.length).filter (fun i =>
      match s.mem.waitq[i]? with
      | some (some _, _) => true
      | some (none, r) => !full && (!srstDrains s || r.owner.inReset) && !behindReply s r
      | none => false)
    if cand.isEmpty then s
    else
      let (k, s) := choose s cand.length
      let i := cand.getD k 0
      match s.mem.waitq[i]? with
      | some (some t, r) =>
        let s := takeWait s i
        { s with mem := { s.mem with mq := some (t, r) } }
      | some (none, r) =>
        let free := tagsFree s
        let (x, s) := choose s free.length
        let s := takeWait s i
        let s := { s with mem := { s.mem with mq := some (free.getD x 0, r) } }
        evN s (memSource r) r.ctx 1
      | none => s

/-- DETAIL of the faults 0x10 to 0x18 (R392). -/
def memDetail (r : MemReq) (tag status : Nat) : Nat :=
  mkDetail r.first (put status 12 10 + put tag 9 0) r.index

/-- DETAIL of fault 0x20 for an abandoned request (R392, ID 0x20). -/
def abandonDetail (r : MemReq) (tag status : Nat) : Nat :=
  mkDetail (0x20 * 2 ^ 56 + put r.first 51 0) (put r.unit 19 16 + put status 12 10 + put tag 9 0) r.index

/-- Record the abandonment of a request (R54). -/
def abandonFault (s : Blk) (r : MemReq) (tag status : Nat) : Blk :=
  match r.ctx with
  | some c => ctxFault s c r.unit 0x20 (abandonDetail r tag status)
  | none => safFault s r.unit 0x20 (abandonDetail r tag status) false

/-- Requests of a context that are not settled: outstanding, on offer, or waiting. -/
def memBusy (s : Blk) (c : Nat) : Nat :=
  let mine := fun (r : MemReq) => r.ctx == some c && r.owner ≠ .orphaned
  ((Store.vals s.mem.out).filter mine).length + (s.mem.mq.toList.filter (fun p => mine p.2)).length +
    (s.mem.waitq.filter (fun p => mine p.2)).length

end Sys2Proof.Machine
end

