-- ==== Sys2Proof/Machine/FabOut.lean ====
section
/-! DEFINITION. The sending side of the Fabric Port: requests, their order per destination, outstanding entries, repeated
offers, and the answers this instance gives (R57 to R60, R268 to R277). -/
namespace Sys2Proof.Machine

/-! Refusal codes (R426). -/

abbrev kAck := 0
abbrev kRingFull := 1
abbrev kGone := 2
abbrev kCtxFenced := 3
abbrev kPeerFenced := 4
abbrev kPoolEmpty := 5
abbrev kTooLong := 6
abbrev kGap := 7
abbrev kTimeout := 8
abbrev kParity := 9
abbrev kBadHandler := 10

/-- The global die ID of the instance (R26). -/
def ownDie (s : Blk) : Nat := s.cfg.die

/-- BLK_DIE.DIE: 0 until the Pattern Book has given it. A soft reset keeps answering for the die's number meanwhile (R76). -/
def shownDie (s : Blk) : Nat := if s.cfg.dieValid then s.cfg.die else 0

/-- A PEER_STATE entry fences a die (R326). -/
def entFences (e : Word) (d : Nat) : Bool :=
  bitAt e 31 && (if bitAt e 30 then d / 32 == fld e 20 5 else d == fld e 20 0)

/-- A die is fenced in PEER_STATE (R326). -/
def peerFenced (s : Blk) (d : Nat) : Bool :=
  s.regs.any (fun p => p.1 % 0x1000000 == rPeerEnt && entFences p.2 d)

/-- The TYPE code of a request (R270). -/
def FBody.ty : FBody → Nat
  | .arrive _ _ _ => 1
  | .close _ _ _ => 2
  | .cand _ _ _ _ => 4
  | .tally _ _ _ _ _ => 5
  | .assign _ _ _ _ => 6
  | .stage _ _ _ => 7
  | .cancel _ _ _ => 8
  | .am reply _ _ => if reply then 0x11 else 0x10

/-- The flits of a request (R270). -/
def FBody.flits : FBody → Nat
  | .cand _ _ _ rs => 1 + cdiv rs.length 4
  | .tally _ _ _ _ es => 1 + cdiv es.length 4
  | .assign _ _ _ rs => 1 + cdiv rs.length 4
  | .am _ m _ => 2 + cdiv m.len 32
  | _ => 1

/-- A request of the reply class (R268). -/
def FBody.isReply : FBody → Bool
  | .am r _ _ => r
  | _ => false

/-- Bits [255:128] of flit 0, in place (R270). -/
def FBody.flit0 : FBody → Nat
  | .arrive sc nd dead => put sc 155 144 + put nd 143 132 + put (b2n dead) 128 128
  | .close t sc nd => put t 183 160 + put sc 155 144 + put nd 143 132
  | .cand sc dead fin rs => put rs.length 161 156 + put sc 155 144 + put (b2n dead) 129 129 + put (b2n fin) 128 128
  | .tally fin h sc nd es =>
    put (b2n fin) 170 170 + put h 169 162 + put es.length 161 156 + put sc 155 144 + put nd 143 132
  | .assign x h sc rs => put x 185 170 + put h 169 162 + put rs.length 161 156 + put sc 155 144
  | .stage x sc nd => put x 171 156 + put sc 155 144 + put nd 143 132
  | .cancel x sc nd => put x 171 156 + put sc 155 144 + put nd 143 132
  | .am _ m _ => put m.rgen 151 144 + put m.ring 141 128

/-- Flit 0 of a request message: its prefix (R269) and its first payload bits. -/
def flit0Of (ltag dctx dgen sctx sgen rqid pseq : Nat) (sync : Bool) (b : FBody) : Word256 :=
  BitVec.ofNat 256 (put ltag 31 0 + put dctx 39 32 + put dgen 47 40 + put sctx 55 48 + put sgen 63 56 +
    put (b2n sync) 95 95 + put rqid 111 96 + put pseq 127 112 + b.flit0)

/-- An outbound pair entry. -/
def pairOut (s : Blk) (d : Nat) : PairOut := Store.getD s.xch.pairsOut d {}

/-- Write an outbound pair entry. -/
def setPairOut (s : Blk) (d : Nat) (p : PairOut) : Blk :=
  { s with xch := { s.xch with pairsOut := Store.set s.xch.pairsOut d p } }

/-- Outstanding entries to a die. -/
def outTo (s : Blk) (d : Nat) : List (Nat × OutEntry) := s.xch.out.filter (fun e => e.2.req.dst == d)

/-- Write an outstanding entry. -/
def setOut (s : Blk) (i : Nat) (e : OutEntry) : Blk := { s with xch := { s.xch with out := Store.set s.xch.out i e } }

/-- The REFUSAL trace record of a code other than ACK (R349). -/
def traceRefusal (s : Blk) (c : Option Nat) (ty code dir die rqid : Nat) : Blk :=
  if code = 0 then s
  else trace s 8 c (put ty 127 122 + put code 121 118 + put dir 117 117 + put die 116 96 + put rqid 95 80)

/-- A code given to a request of die `dst` is counted and traced (R283, R340, R349). -/
def codeGiven (s : Blk) (dst rqid ty code c : Nat) : Blk :=
  let s := if code = 0 then s else bump s rRefused
  let s := if code = kGap then ev (bump s rOrderGap) 0x10d c else s
  traceRefusal (ev s (0xf0 + code) c) (some c) ty code 0 dst rqid

/-- Give an answer to a request of die `dst` (R271). `c`: the destination context, for the counters. -/
def giveAnswer (s : Blk) (dst rqid ty code c : Nat) : Blk :=
  let s := { s with ports := { s.ports with fpoWait := s.ports.fpoWait ++ [{ dst, rqid, code }] } }
  codeGiven s dst rqid ty code c

/-- An answer to a request of this instance, or what stands for one, is counted and traced (R340, R349). -/
def refusalTaken (s : Blk) (r : FReq) (code rqid : Nat) : Blk :=
  traceRefusal (ev s (0xfb + code) r.srcCtx) (some r.srcCtx) r.body.ty code 1 r.dst rqid

/-- A request has its outcome (R273): count it and hand it to its owner. `byUs`: no answer of a receiver decided it
(R258). The owner of a request that ended with NK_PARITY takes it as timed out. -/
def outcome (s : Blk) (r : FReq) (code rqid : Nat) (byUs : Bool) : Blk :=
  push (refusalTaken s r code rqid) [.answered r (if code = kParity then kTimeout else code) byUs]


/-- a comes before b in 16-bit sequence arithmetic. -/
def seqBefore (a b : Nat) : Bool := a ≠ b && decide ((b + 65536 - a) % 65536 < 32768)

/-- Entries of a list in rising PSEQ order. -/
def byPseq (es : List (Nat × OutEntry)) : List (Nat × OutEntry) :=
  sortBy (fun a b => a.2.pseq == b.2.pseq || seqBefore a.2.pseq b.2.pseq) es

/-- After a request to die d was refused for order or has ended (R277): the refused requests are offered again once no
earlier one is open, and new requests resume once no re-offer is open. -/
def gapScan (s : Blk) (d : Nat) : Blk :=
  let es := outTo s d
  let gapped := byPseq (es.filter (fun e => e.2.phase == .gapped))
  match gapped with
  | [] =>
    if es.any (fun e => e.2.batch) then s
    else if (Store.get? s.xch.pairsOut d).isSome then setPairOut s d { pairOut s d with gap := false }
    else s
  | low :: _ =>
    if es.any (fun e => e.2.phase ≠ .gapped && seqBefore e.2.pseq low.2.pseq) then s
    else
      let p := pairOut s d
      match p.timedOut with
      | some t =>
        if seqBefore t low.2.pseq then
          let s := setPairOut s d { p with next := (p.next + gapped.length) % 65536, timedOut := none, sync := false }
          (forEach gapped.zipIdx s (fun s e => setOut s e.1.1
            { e.1.2 with phase := .again, batch := true, pseq := (p.next + e.2) % 65536, sync := e.2 == 0 }))
        else forEach gapped s (fun s e => setOut s e.1 { e.2 with phase := .again, batch := true })
      | none => forEach gapped s (fun s e => setOut s e.1 { e.2 with phase := .again, batch := true })

/-- An outstanding request ends: its entry is freed (R272). -/
def endOut (s : Blk) (i : Nat) : Blk :=
  match Store.get? s.xch.out i with
  | none => s
  | some e =>
    let s := { s with xch := { s.xch with out := Store.erase s.xch.out i } }
    gapScan s e.req.dst

/-- RQID of an entry: STAMP and INDEX (R269). -/
def rqidOf (i : Nat) (e : OutEntry) : Nat := e.stamp * 4096 + i

/-- A request ended by NK_TIMEOUT or after its NK_PARITY re-offers: the next to that die carries SYNC (R275). -/
def pairLost (s : Blk) (d pseq : Nat) : Blk :=
  if (Store.get? s.xch.pairsOut d).isSome then
    setPairOut s d { pairOut s d with sync := true, timedOut := some pseq }
  else s

/-- The entries of the outstanding table in use (XCH_OUTST.ALL). -/
def outAll (s : Blk) : Nat := s.xch.out.length

/-- The AM_RPL requests on reserved entries (XCH_OUTST.RPL). -/
def outReserved (s : Blk) : Nat := (s.xch.out.filter (fun e => e.2.reserved)).length

/-- Whether a request may take an entry: 512 of the 4,096 are kept for AM_RPL (R268). -/
def entryFor (s : Blk) (b : FBody) : Option Bool :=
  let res := outReserved s
  let shared := s.xch.out.length - res
  if b.isReply && res < 512 then some true
  else if shared < 3584 then some false
  else none

/-- Send a request: refused at once where its destination is fenced (R327), else it waits for FQO. A wait for want of an entry
is counted (R272). -/
def fabSend (s : Blk) (r : FReq) : Blk :=
  if peerFenced s r.dst then outcome s r kPeerFenced 0 true
  else
    let n := b2n (entryFor s r.body).isNone
    { s with xch := { s.xch with waitq := s.xch.waitq ++ [r], entryWaits := s.xch.entryWaits + n } }

/-- A pair entry for die d can be had: it exists, there is room, or one can be evicted (R275). -/
def pairRoom (s : Blk) (d : Nat) : Bool :=
  (Store.get? s.xch.pairsOut d).isSome || decide (s.xch.pairsOut.length < 4096) ||
    s.xch.pairsOut.any (fun p => (outTo s p.1).isEmpty)

/-- The least recently used of the pair entries with no request outstanding. -/
def lruPair (s : Blk) : Option Nat :=
  let cand := s.xch.pairsOut.filter (fun p => (outTo s p.1).isEmpty)
  match cand with
  | [] => none
  | c :: r => some (r.foldl (fun b p => if p.2.used < b.2.used then p else b) c).1

/-- Make sure of a pair entry for die d. -/
def needPair (s : Blk) (d : Nat) : Blk :=
  if (Store.get? s.xch.pairsOut d).isSome then s
  else
    let s := if s.xch.pairsOut.length < 4096 then s
      else match lruPair s with
        | some v => { s with xch := { s.xch with pairsOut := Store.erase s.xch.pairsOut v } }
        | none => s
    setPairOut s d {}

/-- What FQO may offer next: an entry to be offered again, or a waiting request. -/
inductive Next where | again (i : Nat) | fresh (n : Nat)
deriving DecidableEq, Repr

/-- The messages of one candidate stream or fan-out branch keep their order: those behind one that is to be offered again
wait for it (R112). -/
def behindRetry (s : Blk) (r : FReq) : Bool :=
  match r.owner with
  | .cand _ | .run _ _ => s.xch.retries.any (fun t => t.what.req.owner == r.owner)
  | _ => false

/-- A waiting request that may be offered on FQO now; local messages that wait are not for the fabric. -/
def freshOk (s : Blk) (r : FReq) : Bool :=
  r.dst ≠ ownDie s && !behindRetry s r && !(pairOut s r.dst).gap && (entryFor s r.body).isSome && pairRoom s r.dst

/-- The waiting requests that may be offered, each destination's in order. -/
def freshList (s : Blk) (reply : Bool) : List Next :=
  s.xch.waitq.zipIdx.filterMap (fun p => if p.1.body.isReply == reply && freshOk s p.1 then some (.fresh p.2) else none)

/-- The entries that are to be offered again, by PSEQ. -/
def againList (s : Blk) (reply : Bool) : List Next :=
  (byPseq (s.xch.out.filter (fun e => e.2.phase == .again && e.2.req.body.isReply == reply))).map
    (fun e => Next.again e.1)

/-- The next message for FQO: the reply class first (R268), repeated offers before new ones. -/
def nextMsg (s : Blk) : Option Next :=
  (againList s true ++ freshList s true ++ againList s false ++ freshList s false).head?

/-- The free entries of the outstanding table. -/
def outFree (s : Blk) : List Nat :=
  (List.range 4096).filter (fun i => (Store.get? s.xch.out i).isNone)

/-- Put a new request on FQO (R58, R269, R275): it takes an entry and the next PSEQ of its destination. -/
def offerFresh (s : Blk) (n : Nat) : Blk :=
  match s.xch.waitq[n]? with
  | none => s
  | some r =>
    let res := (entryFor s r.body).getD false
    let s := { s with xch := { s.xch with waitq := s.xch.waitq.eraseIdx n } }
    let s := needPair s r.dst
    let free := outFree s
    let (x, s) := choose s free.length
    let i := free.getD x 0
    let stamp := (Store.getD s.xch.stamps i 0 + 1) % 16
    let p := pairOut s r.dst
    let s := setPairOut s r.dst { p with next := (p.next + 1) % 65536, sync := false, used := s.xch.lru,
                                         timedOut := if p.sync then none else p.timedOut }
    let s := { s with xch := { s.xch with lru := s.xch.lru + 1, stamps := Store.put 0 s.xch.stamps i stamp } }
    let s := setOut s i { req := r, stamp, pseq := p.next, sync := p.sync, phase := .offering, reserved := res }
    let s := { s with ports := { s.ports with fqo := some (i, r.body.flits) } }
    ev s 0x114 r.srcCtx

/-- Put a request on FQO again (R273, R277). -/
def offerAgain (s : Blk) (i : Nat) : Blk :=
  match Store.get? s.xch.out i with
  | none => s
  | some e =>
    let s := setOut s i { e with phase := .offering }
    let s := { s with ports := { s.ports with fqo := some (i, e.req.body.flits) } }
    ev (bump s rXchRetry) 0x10b e.req.srcCtx

/-- FQO and FPO at rest take up the next message, unless their XOFF is high (R59); during a soft reset FQO takes up none (R76). -/
def pumpFabric (s : Blk) : Blk :=
  let s := match s.ports.fpo, s.ports.fpoWait with
    | none, a :: r => if s.ports.fpoXoff then s else { s with ports := { s.ports with fpo := some a, fpoWait := r } }
    | _, _ => s
  if s.ports.fqo.isSome || s.ports.fqoXoff || s.cfg.srst then s
  else match nextMsg s with
    | some (.fresh n) => offerFresh s n
    | some (.again i) => offerAgain s i
    | none => s

/-- A flit of the message on FQO is taken; after the last, its reply timer starts (R272). -/
def fqoTaken (s : Blk) : Blk :=
  match s.ports.fqo with
  | none => s
  | some (i, n) =>
    let s := ev0 s 0x117
    if n > 1 then { s with ports := { s.ports with fqo := some (i, n - 1) } }
    else
      let s := { s with ports := { s.ports with fqo := none } }
      match Store.get? s.xch.out i with
      | none => s
      | some e => setOut s i { e with phase := .waiting, since := now s,
                                      deadline := now s + rgf s rReplyTimer 9 0 * 1000 }

/-- The flit of the answer on FPO is taken. -/
def fpoTaken (s : Blk) : Blk :=
  match s.ports.fpo with
  | none => s
  | some _ => ev0 { s with ports := { s.ports with fpo := none } } 0x119

/-- DETAIL of fault 0x20 for a request ended after NK_PARITY (R392, ID 0x21). -/
def parityDetail (i : Nat) (e : OutEntry) : Nat :=
  mkDetail (0x21 * 2 ^ 56 + put e.req.dst 20 0) (put e.req.body.ty 21 16 + put (rqidOf i e) 15 0) 0

/-- An ANSWER for entry i (R273). -/
def takeAnswer (s : Blk) (i code : Nat) : Blk :=
  match Store.get? s.xch.out i with
  | none => s
  | some e =>
    if code = kParity then
      if e.parityTries < 3 then
        let s := setOut s i { e with phase := .again, parityTries := e.parityTries + 1 }
        refusalTaken s e.req kParity (rqidOf i e)
      else
        let s := ctxFault s e.req.srcCtx uXch 0x20 (parityDetail i e)
        let s := endOut (pairLost s e.req.dst e.pseq) i
        outcome s e.req kParity (rqidOf i e) false
    else if code = kGap then
      let s := setOut s i { e with phase := .gapped, batch := false }
      let s := setPairOut s e.req.dst { pairOut s e.req.dst with gap := true }
      gapScan (refusalTaken s e.req kGap (rqidOf i e)) e.req.dst
    else
      let s := endOut s i
      outcome s e.req code (rqidOf i e) false

/-- The reply timer of entry i expires (R272). -/
def timeoutOut (s : Blk) (i : Nat) : Blk :=
  match Store.get? s.xch.out i with
  | none => s
  | some e =>
    let s := ev (bump s rTimeouts) 0x10a e.req.srcCtx
    let s := endOut (pairLost s e.req.dst e.pseq) i
    outcome s e.req kTimeout (rqidOf i e) true

/-- Every request to a die that is fenced now ends with NK_PEER_FENCED, and its outbound pair entry goes (R327). A
message whose flits are on FQO is completed there and then has no entry. -/
def fenceOut (s : Blk) (fenced : Nat → Bool) : Blk :=
  let gone := s.xch.out.filter (fun e => fenced e.2.req.dst)
  let waits := s.xch.waitq.filter (fun r => fenced r.dst)
  let s := { s with xch := { s.xch with out := s.xch.out.filter (fun e => !fenced e.2.req.dst),
                                        waitq := s.xch.waitq.filter (fun r => !fenced r.dst),
                                        pairsOut := s.xch.pairsOut.filter (fun p => !fenced p.1) } }
  let s := forEach waits.reverse s (fun s r => outcome s r kPeerFenced 0 true)
  forEach gone.reverse s (fun s e => outcome s e.2.req kPeerFenced (rqidOf e.1 e.2) true)

/-- Fabric requests of a context that are neither answered nor ended. -/
def fabBusy (s : Blk) (c : Nat) : Nat :=
  (s.xch.out.filter (fun e => e.2.req.srcCtx == c && !e.2.req.orphan)).length +
    (s.xch.waitq.filter (fun r => r.srcCtx == c && !r.orphan)).length

end Sys2Proof.Machine
end

