-- ==== Sys2Proof/Machine/Graph.lean ====
section
/-! DEFINITION. The Graph Store: template headers, node records and successor entries (R81 to R87), install and patch with
their checks (R88 to R93, R193, R440, R441), and where a launch finds the nodes of its scopes. -/
namespace Sys2Proof.Machine

/-- The scope number of the top template (R87). -/
abbrev topScope := 0xffe

/-- A template's records, by their index within it. -/
abbrev Img := Nat → Word256

/-! ## Fields -/

/-- NNODES of a header (R82). -/
def hNodes (h : Word256) : Nat := fld h 44 32
/-- NSUCC of a header. -/
def hSucc (h : Word256) : Nat := fld h 62 48
/-- TAIL_NODE of a header, where TAIL_VALID is 1. -/
def hTail (h : Word256) : Option Nat := if bitAt h 170 then some (fld h 169 158) else none
/-- START_FIRST and START_N of a header. -/
def hStart (h : Word256) : Nat × Nat := (fld h 142 128, fld h 157 143)
/-- HOME_VALID of a header. -/
def hHome (h : Word256) : Bool := bitAt h 85

/-- KIND of a node record (R83): 0 NULL, 1 KERNEL, 2 SIEVE, 3 EXPERT, 4 SUBGRAPH. -/
def nKind (n : Word256) : Nat := fld n 2 0
/-- CLASS of a node record (R84). -/
def nCls (n : Word256) : Nat := fld n 4 3
/-- LEVEL of a node record. -/
def nLevel (n : Word256) : Nat := fld n 10 5
/-- DEADP of a node record (R106). -/
def nDeadp (n : Word256) : Bool := bitAt n 11
/-- JKIND of a node record: 0 none, 1 closed, 2 open. -/
def nJkind (n : Word256) : Nat := fld n 13 12
/-- TARGET of a node record. -/
def nTarget (n : Word256) : Nat := fld n 39 16
/-- CLOSE_ADD of a node record. -/
def nCloseAdd (n : Word256) : Nat := fld n 63 40
/-- SUCC_FIRST and SUCC_N of a node record. -/
def nSucc (n : Word256) : Nat × Nat := (fld n 78 64, fld n 91 80)
/-- ENG_MODE of a node record. -/
def nEngMode (n : Word256) : Nat := fld n 93 92
/-- ENG of a node record. -/
def nEng (n : Word256) : Nat := fld n 105 94
/-- DELAY of a node record. -/
def nDelay (n : Word256) : Nat := fld n 121 106
/-- KERNEL of a node record. -/
def nKernel (n : Word256) : Nat := fld n 159 128
/-- ARG_OFF of a node record. -/
def nArgOff (n : Word256) : Nat := fld n 191 160
/-- Bits [hi:lo] of a node record's OPERAND (R85). -/
def nOp (n : Word256) (hi lo : Nat) : Nat := fld n (192 + hi) (192 + lo)
/-- SUB_TID of a SUBGRAPH node. -/
def nSubTid (n : Word256) : Nat := nOp n 11 0
/-- SVE_SET, LAYER, EXP_NODE and CLOSE_NODE of a SIEVE node. -/
def svSet (n : Word256) : Nat := nOp n 35 32
/-- LAYER of a SIEVE node. -/
def svLayer (n : Word256) : Nat := nOp n 31 24
/-- EXP_NODE of a SIEVE node. -/
def svExp (n : Word256) : Nat := nOp n 23 12
/-- CLOSE_NODE of a SIEVE node. -/
def svClose (n : Word256) : Nat := nOp n 11 0
/-- EXP_MAX of an EXPERT node (R85). -/
def xpMax (n : Word256) : Nat := nOp n 15 0
/-- SRC_NODE of an EXPERT node (R192). -/
def xpSrc (n : Word256) : Nat := nOp n 27 16
/-- STAGE_NODE of an EXPERT node, where STAGE_VALID is 1. -/
def xpStage (n : Word256) : Option Nat := if nOp n 40 40 = 1 then some (nOp n 39 28) else none
/-- SVE_SET of an EXPERT node. -/
def xpSet (n : Word256) : Nat := nOp n 44 41
/-- LAYER of an EXPERT node. -/
def xpLayer (n : Word256) : Nat := nOp n 52 45
/-- HOME_IDX of an EXPERT node. -/
def xpHomeIdx (n : Word256) : Nat := nOp n 62 53
/-- HOME_MODE of an EXPERT node. -/
def xpHomeMode (n : Word256) : Nat := nOp n 63 63

/-- A successor entry's fields (R86). -/
def sMode (e : Word64) : Nat := fld e 63 62
/-- SCOPE of a successor entry. -/
def sScope (e : Word64) : Nat := fld e 61 50
/-- NODE of a successor entry. -/
def sNode (e : Word64) : Nat := fld e 49 38
/-- DST_DIE of a successor entry. -/
def sDie (e : Word64) : Nat := fld e 37 17
/-- DST_CTX of a successor entry. -/
def sCtx (e : Word64) : Nat := fld e 16 9
/-- DST_GEN of a successor entry. -/
def sGen (e : Word64) : Nat := fld e 8 1

/-- Node record n of a template. -/
def imgNode (im : Img) (n : Nat) : Word256 := im (1 + n)

/-- Successor entry k of a template (R81). -/
def imgSucc (im : Img) (k : Nat) : Word64 :=
  BitVec.ofNat 64 (fld (im (1 + hNodes (im 0) + k / 4)) (64 * (k % 4) + 63) (64 * (k % 4)))

/-- Successor entries `first` to `first + n - 1`. -/
def imgSuccs (im : Img) (r : Nat × Nat) : List Word64 := (List.range r.2).map (fun i => imgSucc im (r.1 + i))

/-- The indices of a template's nodes of one kind, rising. -/
def imgKind (im : Img) (k : Nat) : List Nat := (List.range (hNodes (im 0))).filter (fun i => nKind (imgNode im i) == k)

/-! ## The checks of an image (R88, R90, R193) -/

/-- A node may be the target of an arrival: it has a gate joint and is a NULL or KERNEL node. -/
def isGate (n : Word256) : Bool := nJkind n ≠ 0 && (nKind n == 0 || nKind n == 1)

/-- A header is refused. -/
def badHeader (im : Img) (tid nrec : Nat) : Bool :=
  let h := im 0
  let nn := hNodes h
  let ns := hSucc h
  fld h 191 171 ≠ 0 || fld h 127 86 ≠ 0 || bitAt h 63 || fld h 47 45 ≠ 0 || fld h 15 12 ≠ 0 || fld h 31 16 ≠ 0 ||
    fld h 11 0 ≠ tid || nn == 0 || decide (nn > 4096) || decide (ns > 16384) || nrec ≠ 1 + nn + cdiv ns 4 ||
    ((hStart h).2 ≠ 0 && decide ((hStart h).1 + (hStart h).2 > ns)) ||
    (match hTail h with
     | some t => decide (t ≥ nn) || !isGate (imgNode im t)
     | none => false)

/-- A node record is refused. -/
def badNode (im : Img) (i : Nat) : Bool :=
  let h := im 0
  let n := imgNode im i
  let k := nKind n
  let kernelAt := fun j => decide (j < hNodes h) && nKind (imgNode im j) == 1
  decide (k > 4) || nJkind n == 3 || fld n 127 122 ≠ 0 || bitAt n 79 || fld n 15 14 ≠ 0 ||
    ((nSucc n).2 ≠ 0 && decide ((nSucc n).1 + (nSucc n).2 > hSucc h)) ||
    (nJkind n == 1 && nTarget n == 0) || (nCloseAdd n ≠ 0 && nJkind n ≠ 2) ||
    ((k == 0 || k == 1) && nOp n 63 0 ≠ 0) ||
    ((k == 2 || k == 4) && (nJkind n ≠ 0 || (nSucc n).2 ≠ 0 || nDelay n ≠ 0 || nCls n ≠ 0 || nLevel n ≠ 0 ||
      nEngMode n ≠ 0 || nEng n ≠ 0 || nKernel n ≠ 0 || nCloseAdd n ≠ 0)) ||
    (k == 4 && nOp n 63 12 ≠ 0) ||
    (k == 3 && (nJkind n ≠ 2 || xpMax n == 0 || !kernelAt (xpSrc n) ||
      (match xpStage n with | some j => !kernelAt j | none => false) || (imgKind im 3).head? ≠ some i)) ||
    (k == 2 && (nOp n 63 36 ≠ 0 || !hHome h || (imgKind im 2).head? ≠ some i ||
      (imgKind im 3).head? ≠ some (svExp n) || decide (svClose n ≥ hNodes h) ||
      nJkind (imgNode im (svClose n)) ≠ 2 || svSet n ≠ xpSet (imgNode im (svExp n)) ||
      svLayer n ≠ xpLayer (imgNode im (svExp n))))

/-- The kinds of the nodes whose lists hold entry k; 5 stands for the start entries. -/
def ownersOf (im : Img) (k : Nat) : List Nat :=
  let inR := fun (r : Nat × Nat) => decide (r.1 ≤ k ∧ k < r.1 + r.2)
  ((List.range (hNodes (im 0))).filterMap (fun i =>
    if inR (nSucc (imgNode im i)) then some (nKind (imgNode im i)) else none)) ++
    (if inR (hStart (im 0)) then [5] else [])

/-- An entry's target is known at install (R440). -/
def knownTarget (im : Img) (e : Word64) : Bool :=
  sScope e == 0xfff || (sScope e == topScope && !(imgKind im 4).isEmpty)

/-- Successor entry k is refused. -/
def badSucc (im : Img) (k : Nat) : Bool :=
  let e := imgSucc im k
  let m := sMode e
  m == 3 || bitAt e 0 || decide (0xff0 ≤ sScope e ∧ sScope e ≤ 0xffc) || (m ≠ 1 && fld e 37 1 ≠ 0) ||
    (m == 2 && ((ownersOf im k).isEmpty || (ownersOf im k).any (· ≠ 3))) ||
    (m == 0 && knownTarget im e && (decide (sNode e ≥ hNodes (im 0)) || !isGate (imgNode im (sNode e))))

/-- Record i of an image is refused. -/
def badRec (im : Img) (tid nrec i : Nat) : Bool :=
  let nn := hNodes (im 0)
  if i = 0 then badHeader im tid nrec
  else if i ≤ nn then badNode im (i - 1)
  else (List.range 4).any (fun j =>
    let k := 4 * (i - 1 - nn) + j
    decide (k < hSucc (im 0)) && badSucc im k)

/-- The first refused record of an image (R441, step 7). -/
def firstBad (im : Img) (tid nrec : Nat) : Option Nat :=
  if badRec im tid nrec 0 then some 0
  else ((List.range nrec).drop 1).find? (badRec im tid nrec)

/-! ## Resident generations -/

/-- Record i of the Graph Store. -/
def recAt (s : Blk) (i : Nat) : Word256 := Store.getD s.tsk.recs i 0

/-- The records of a resident generation. -/
def genImg (s : Blk) (g : Gen) : Img := fun i => recAt s (g.base + i)

/-- A resident generation. -/
def findGen (s : Blk) (tid gen : Nat) : Option Gen := s.tsk.gens.find? (fun g => g.tid == tid && g.gen == gen)

/-- The current generation of a template. -/
def curGen (s : Blk) (tid : Nat) : Option Gen := s.tsk.gens.find? (fun g => g.tid == tid && g.current)

/-- The resident generations of a template. -/
def resident (s : Blk) (tid : Nat) : List Gen := s.tsk.gens.filter (fun g => g.tid == tid)

/-- The next generation number (R91). -/
def nextGenNo (g : Nat) : Nat := if (g + 1) % 65536 = 0 then 1 else (g + 1) % 65536

/-- Runs in use: of resident generations and of an operation in progress. -/
def gstUsed (s : Blk) : List (Nat × Nat) :=
  s.tsk.gens.map (fun g => (g.base, g.nrec)) ++ (s.tsk.job.toList.map (fun j => (j.base, j.nrec)))

/-- The free runs (start, length) of `total` units, given the runs in use. -/
def freeRuns (total : Nat) (used : List (Nat × Nat)) : List (Nat × Nat) :=
  let sorted := sortBy (fun a b => decide (a.1 ≤ b.1)) used
  let p := sorted.foldl (fun (acc : List (Nat × Nat) × Nat) u =>
    (if u.1 > acc.2 then acc.1 ++ [(acc.2, u.1 - acc.2)] else acc.1, max acc.2 (u.1 + u.2))) ([], 0)
  if p.2 < total then p.1 ++ [(p.2, total - p.2)] else p.1

/-- The free runs of the Graph Store. -/
def gstFree (s : Blk) : List (Nat × Nat) := freeRuns 393216 (gstUsed s)

/-- The i-th of the places at which n units fit into free runs. -/
def placeAt : List (Nat × Nat) → Nat → Nat → Option Nat
  | [], _, _ => none
  | (b, l) :: r, n, i =>
    let k := l + 1 - n
    if l < n then placeAt r n i else if i < k then some (b + i) else placeAt r n (i - k)

/-- How many places there are for n units. -/
def placesFor (runs : List (Nat × Nat)) (n : Nat) : Nat :=
  (runs.map (fun r => if r.2 < n then 0 else r.2 + 1 - n)).foldl (· + ·) 0

/-- Release every generation that is neither current nor pinned by a live launch (R93). -/
def gstRelease (s : Blk) : Blk :=
  let pinned := fun (g : Gen) => (Store.vals s.tsk.launches).any (fun l => l.pins.contains (g.tid, g.gen))
  let gone := s.tsk.gens.filter (fun g => !g.current && !pinned g)
  let inGone := fun (i : Nat) => gone.any (fun g => decide (g.base ≤ i ∧ i < g.base + g.nrec))
  if gone.isEmpty then s
  else { s with tsk := { s.tsk with gens := s.tsk.gens.filter (fun g => g.current || pinned g),
                                    recs := s.tsk.recs.filter (fun p => !inGone p.1) } }

/-- Write GST_STATUS (R119). R90 gives GEN for OK alone: GEN is 0 after a refused operation, and while one is in progress CODE is 0 and
GEN as it was (DESIGN CHOICE, assumption 23). -/
def gstStatus (s : Blk) (busy : Bool) (code gen : Nat) : Blk :=
  wr s rGstStatus (put (b2n busy) 31 31 + put code 19 16 + put gen 15 0)

/-- GST_STATUS.BUSY. -/
def gstBusy (s : Blk) : Bool := s.tsk.job.isSome

/-- Begin an INSTALL (`q` none) or a PATCH (R89, R441). Answers the code where it ends at once. -/
def gstBegin (s : Blk) (q : Option Nat) (tid addr nrec : Nat) (c : Option Nat) : Option Nat × Blk :=
  let ends := fun (s : Blk) code => (some code, gstStatus s false code 0)
  let cur := curGen s tid
  if q.isNone && cur.isSome then ends s 4
  else if q.isSome && cur.isNone then ends s 5
  else
    let ng := match cur with | some g => nextGenNo g.gen | none => 1
    if (resident s tid).length ≥ 8 || (findGen s tid ng).isSome then ends s 2
    else if nrec < 2 || nrec > 8193 then ends (wr s rGstBadRec 0) 3
    else
      let n := placesFor (gstFree s) nrec
      if n = 0 then ends s 1
      else
        let (i, s) := choose s n
        let base := (placeAt (gstFree s) nrec i).getD 0
        let lines := cdiv nrec 2
        let job : GstJob := { patch := q, tid, base, nrec, addr, left := lines, lines := [], ctx := c }
        let s := { s with tsk := { s.tsk with job := some job } }
        let s := gstStatus s true 0 (rgf s rGstStatus 15 0)
        (none, forEach (List.range lines) s (fun s k => memRead s ((addr + 64 * k) % 2 ^ 52) 0 c uGst (q.getD 0) (.gstLine k)))

/-- Record i of fetched image lines: two records to a line. -/
def lineImg (ls : Store Line) : Img := fun i =>
  BitVec.ofNat 256 (fld (Store.getD ls (i / 2) 0) (256 * (i % 2) + 255) (256 * (i % 2)))

/-- Every line of an image has been answered (R441, steps 6 and 7): the code, and the generation made current. What a read had found lost
in its records before is written anew. -/
def gstEnd (s : Blk) (j : GstJob) (fetched : Bool) : Nat × Nat × Blk :=
  let s := { s with tsk := { s.tsk with job := none } }
  if !fetched then (6, 0, gstStatus s false 6 0)
  else
    let im := lineImg j.lines
    match firstBad im j.tid j.nrec with
    | some b => (3, 0, gstStatus (wr s rGstBadRec b) false 3 0)
    | none =>
      let g := match curGen s j.tid with | some g => nextGenNo g.gen | none => 1
      let head := setFld (im 0) 31 16 g
      let recs := (List.range j.nrec).foldl (fun m i =>
        Store.put 0 m (j.base + i) (if i = 0 then head else im i)) s.tsk.recs
      let olds := s.tsk.gens.map (fun x => if x.tid = j.tid then { x with current := false } else x)
      let new : Gen := { tid := j.tid, gen := g, base := j.base, nrec := j.nrec, current := true, image := j.addr }
      let old := fun (r : Nat) => !decide (j.base ≤ r ∧ r < j.base + j.nrec)
      let s := { s with tsk := { s.tsk with recs, gens := olds ++ [new], wanted := s.tsk.wanted.filter old,
                                            lost := s.tsk.lost.filter (fun l => old l.1) } }
      (0, g, ev0 (gstStatus (gstRelease s) false 0 g) 0x6e)

/-- UNINSTALL (R93, R441): GST_STATUS.GEN is the generation withdrawn. -/
def gstUninstall (s : Blk) (tid : Nat) : Blk :=
  match curGen s tid with
  | none => gstStatus s false 5 0
  | some g =>
    let gens := s.tsk.gens.map (fun x => if x.tid = tid then { x with current := false } else x)
    gstStatus (gstRelease { s with tsk := { s.tsk with gens } }) false 0 g.gen

/-! ## The nodes of a launch -/

/-- A launch record. -/
def launchOf (s : Blk) (l : Nat) : Option Launch := Store.get? s.tsk.launches l

/-- Write a launch record. -/
def setLaunch (s : Blk) (l : Nat) (v : Launch) : Blk :=
  { s with tsk := { s.tsk with launches := Store.set s.tsk.launches l v } }

/-- Change a launch record. -/
def modLaunch (s : Blk) (l : Nat) (f : Launch → Launch) : Blk :=
  { s with tsk := { s.tsk with launches := Store.modify s.tsk.launches l f } }

/-- A task descriptor. -/
def taskOf (s : Blk) (slot : Nat) : Option Task := Store.get? s.tsk.tasks slot

/-- Write a task descriptor. -/
def setTask (s : Blk) (slot : Nat) (t : Task) : Blk :=
  { s with tsk := { s.tsk with tasks := Store.set s.tsk.tasks slot t } }

/-- The generation of a template that a launch pinned. -/
def pinOf (l : Launch) (tid : Nat) : Option Nat := (l.pins.find? (fun p => p.1 == tid)).map Prod.snd

/-- The records of the top template of a launch. -/
def topImg (s : Blk) (l : Launch) : Option Img := (findGen s l.tid l.tgen).map (genImg s)

/-- The template and generation of a scope of a launch (R87). -/
def scopeGen (s : Blk) (l : Launch) (scope : Nat) : Option Gen :=
  if scope = topScope then findGen s l.tid l.tgen
  else match topImg s l with
    | none => none
    | some im =>
      if scope < hNodes (im 0) && nKind (imgNode im scope) == 4 then
        let tid := nSubTid (imgNode im scope)
        match pinOf l tid with
        | some g => findGen s tid g
        | none => none
      else none

/-- The node record of a scope's node, where it exists. -/
def scopeNode (s : Blk) (l : Launch) (scope node : Nat) : Option Word256 :=
  match scopeGen s l scope with
  | none => none
  | some g =>
    let im := genImg s g
    if node < hNodes (im 0) then some (imgNode im node) else none

/-- The node record a task descriptor was made from. -/
def taskNode (s : Blk) (t : Task) : Option Word256 :=
  match findGen s t.tid t.tgen with
  | none => none
  | some g =>
    let im := genImg s g
    if t.node < hNodes (im 0) then some (imgNode im t.node) else none

/-- The scope of R87's "next scope" (0xFFD), and the node; none where the arrival meets no TAIL_NODE. -/
def nextScope (im : Img) (sender node : Nat) : Option (Nat × Nat) :=
  match (imgKind im 4).find? (fun i => sender == topScope || decide (i > sender)) with
  | some i => some (i, node)
  | none => (hTail (im 0)).map (fun t => (topScope, t))

/-- `resolve` of R87, with the records of the top template. -/
def resolve (im : Img) (e : Word64) (sender : Nat) : Option (Nat × Nat) :=
  if sScope e = 0xfff then some (sender, sNode e)
  else if sScope e = topScope then some (topScope, sNode e)
  else if sScope e < 0xff0 then some (sScope e, sNode e)
  else nextScope im sender (sNode e)

/-- The tasks of a launch made from a node of a scope, in task order. -/
def membersAt (l : Launch) (scope node : Nat) : List Member :=
  l.members.filter (fun m => m.scope == scope && m.node == node)

/-- The live launch of a context with an LTAG. -/
def liveLaunch (s : Blk) (c ltag : Nat) : Option (Nat × Launch) :=
  s.tsk.launches.find? (fun p => p.2.ctx == c && p.2.ltag == ltag && !p.2.ended)

/-- The node is the prototype of the per-sequence tasks of a course launch (R210). -/
def isProto (s : Blk) (l : Launch) (scope node : Nat) : Bool :=
  l.course.isSome && scope == topScope && rgb s (bank rSqtCfg l.ctx) 30 && node == rgf s (bank rSqtCfg l.ctx) 27 16

end Sys2Proof.Machine
end

