-- ==== Sys2Proof/Machine/Joints.lean ====
section
/-! DEFINITION. Joints: arrivals, closes, fires and faults (R101 to R108), and the taking and giving back of runs of
slots and joints. -/
namespace Sys2Proof.Machine

/-! ## Free runs -/

/-- Give one unit back to a list of free runs, rising and never touching. -/
def freeOne : List (Nat × Nat) → Nat → List (Nat × Nat)
  | [], i => [(i, 1)]
  | (b, l) :: r, i =>
    if i + 1 < b then (i, 1) :: (b, l) :: r
    else if i + 1 = b then (i, l + 1) :: r
    else if i < b + l then (b, l) :: r
    else if i = b + l then
      match r with
      | (b', l') :: r' => if b' = i + 1 then (b, l + 1 + l') :: r' else (b, l + 1) :: (b', l') :: r'
      | [] => [(b, l + 1)]
    else (b, l) :: freeOne r i

/-- Take `n` units from `start` out of the free runs; they lie in one run. -/
def takeRun : List (Nat × Nat) → Nat → Nat → List (Nat × Nat)
  | [], _, _ => []
  | (b, l) :: r, start, n =>
    if b ≤ start ∧ start < b + l then
      (if b < start then [(b, start - b)] else []) ++
      (if start + n < b + l then [(start + n, b + l - (start + n))] else []) ++ r
    else (b, l) :: takeRun r start n

/-- How many units the runs hold. -/
def runTotal (rs : List (Nat × Nat)) : Nat := (rs.map Prod.snd).foldl (· + ·) 0

/-- The longest run. -/
def runMax (rs : List (Nat × Nat)) : Nat := (rs.map Prod.snd).foldl max 0

/-- At most `k` runs, the longest first, that make up `n` units; none where they do not suffice. -/
def pickRuns : Nat → Nat → List (Nat × Nat) → Option (List (Nat × Nat))
  | _, 0, _ => some []
  | 0, _ + 1, _ => none
  | _ + 1, _ + 1, [] => none
  | k + 1, n + 1, (b, l) :: r =>
    let m := min l (n + 1)
    (pickRuns k (n + 1 - m) r).map (fun rest => (b, m) :: rest)

/-- The indices of a list of runs. -/
def runIdx (rs : List (Nat × Nat)) : List Nat := rs.flatMap (fun r => (List.range r.2).map (fun i => r.1 + i))

/-- Whether n units fit into at most 8 runs (R95). -/
def fits8 (rs : List (Nat × Nat)) (n : Nat) : Bool :=
  (pickRuns 8 n (sortBy (fun a b => decide (a.2 ≥ b.2)) rs)).isSome

/-- The runs taken for n units: one run at an open place where one is long enough, else the longest ones
(assumption 2). -/
def chooseRuns (s : Blk) (rs : List (Nat × Nat)) (n : Nat) : Option (List (Nat × Nat)) × Blk :=
  if n = 0 then (some [], s)
  else
    let p := placesFor rs n
    if p = 0 then (pickRuns 8 n (sortBy (fun a b => decide (a.2 ≥ b.2)) rs), s)
    else
      let (i, s) := choose s p
      ((placeAt rs n i).map (fun b => [(b, n)]), s)

/-- Take n task slots. -/
def takeSlots (s : Blk) (n : Nat) : Option (List Nat) × Blk :=
  let (r, s) := chooseRuns s s.tsk.freeSlots n
  match r with
  | none => (none, s)
  | some rs =>
    (some (runIdx rs), { s with tsk := { s.tsk with freeSlots := rs.foldl (fun f r => takeRun f r.1 r.2)
                                                                   s.tsk.freeSlots } })

/-- Take n joints. -/
def takeJoints (s : Blk) (n : Nat) : Option (List Nat) × Blk :=
  let (r, s) := chooseRuns s s.tsk.freeJoints n
  match r with
  | none => (none, s)
  | some rs =>
    (some (runIdx rs), { s with tsk := { s.tsk with freeJoints := rs.foldl (fun f r => takeRun f r.1 r.2)
                                                                    s.tsk.freeJoints } })

/-- Give task slots back. A slot with an unreturned dispatch word is held instead (R134). -/
def giveSlots (s : Blk) (slots : List Nat) : Blk :=
  let back := slots.filter (fun i => (Store.get? s.tsk.held i).isNone)
  { s with tsk := { s.tsk with freeSlots := back.foldl freeOne s.tsk.freeSlots,
                               tasks := s.tsk.tasks.filter (fun p => !slots.contains p.1) } }

/-- Give joints back. -/
def giveJoints (s : Blk) (js : List Nat) : Blk :=
  { s with tsk := { s.tsk with freeJoints := js.foldl freeOne s.tsk.freeJoints,
                               joints := s.tsk.joints.filter (fun p => !js.contains p.1) } }

/-! ## Joint words -/

/-- A joint word as 32 bits (R101). -/
def JWord.bits (w : JWord) : Nat :=
  put (b2n w.deadSeen) 26 26 + put (b2n w.fired) 25 25 + put (b2n w.isOpen) 24 24 + put w.count 23 0

/-- A joint's link as 20 bits (R102). -/
def Waiter.bits : Waiter → Nat
  | .task i => put 1 19 18 + put i 17 0
  | .queue q => put 2 19 18 + put q 17 0

/-- Both copies of a word, with good parity. -/
def JWord.both (w : JWord) : JCopy := { w }

/-- A joint in use. -/
def jointOf (s : Blk) (j : Nat) : Option Joint := Store.get? s.tsk.joints j

/-- Write both copies of a joint word. -/
def putJoint (s : Blk) (j : Nat) (w : JWord) : Blk :=
  { s with tsk := { s.tsk with joints := Store.modify s.tsk.joints j (fun x => { x with a := w.both, b := w.both }) } }

/-- A joint as a launch or a JALLOC creates it (R102). -/
def newJoint (s : Blk) (j : Nat) (w : JWord) (wt : Waiter) (c : Nat) : Blk :=
  { s with tsk := { s.tsk with joints := Store.set s.tsk.joints j { a := w.both, b := w.both, waiter := wt, ctx := c } } }

/-- The word of a new closed joint with a target, or of a new open one (R102). -/
def closedWord (t : Nat) : JWord := { count := t }

/-- The word of a new open joint. -/
def openWord : JWord := { isOpen := true }

/-- What reading both copies finds (R107). -/
inductive JRead where
  | good (w : JWord) (repaired : Bool)
  | differ
  | lost
deriving DecidableEq, Repr

/-- Read both copies (R107). -/
def Joint.read (x : Joint) : JRead :=
  if x.a.parityOk && x.b.parityOk then (if x.a.w = x.b.w then .good x.a.w false else .differ)
  else if x.a.parityOk then .good x.a.w true
  else if x.b.parityOk then .good x.b.w true
  else .lost

/-- The launch whose task a joint gates. -/
def launchAtJoint (s : Blk) (j : Nat) : Option (Nat × Launch) :=
  s.tsk.launches.find? (fun p => p.2.members.any (fun m => m.joint == some j) || p.2.resv.any (fun r => r.joint == j))

/-- A launch whose tasks are in memory or on their way there (R114). -/
def launchAway (l : Launch) : Bool := l.spill ≠ .live

/-- The launch a joint belongs to, where it is away. -/
def awayAt (s : Blk) (j : Nat) : Option (Nat × Launch) :=
  match launchAtJoint s j with
  | some (i, l) => if launchAway l then some (i, l) else none
  | none => none

/-- The members of a launch that is away, that wait still and that `named` selects. -/
def awayWaiters (l : Launch) (named : Member → Bool) : List Nat :=
  l.spillWait.filter (fun k => !(l.away.map Prod.fst).contains k && ((l.members[k]?).map named).getD false)

/-- Members of a launch that is away end; they take their final state when their descriptors return (assumption 17). -/
def awayEnds (l : Launch) (st : TaskState) (named : Member → Bool) : Launch :=
  { l with away := l.away ++ (awayWaiters l named).map (fun k => (k, st)) }

/-- The task that a joint gates, where its descriptor stands in the slot. -/
def gatedTask (s : Blk) (j slot : Nat) : Option Task :=
  match taskOf s slot with
  | some t => if t.gjoint = some j then some t else none
  | none => none

/-- CLOSE_ADD of a joint's waiter node; 0 for a queue (R103). -/
def closeAdd (s : Blk) (j : Nat) (x : Joint) : Nat :=
  match x.waiter with
  | .queue _ => 0
  | .task slot =>
    match gatedTask s j slot with
    | some t => ((taskNode s t).map nCloseAdd).getD 0
    | none =>
      match launchAtJoint s j with
      | none => 0
      | some (_, l) =>
        match l.members.find? (fun m => m.joint == some j) with
        | some m => ((scopeNode s l m.scope m.node).map nCloseAdd).getD 0
        | none => 0

/-- LTAG of a joint's waiter; 0 for a queue. -/
def waiterLtag (s : Blk) (j : Nat) (x : Joint) : Nat :=
  match x.waiter with
  | .task _ => ((launchAtJoint s j).map (fun p => p.2.ltag)).getD 0
  | .queue _ => 0

/-- A fire of a ruled context that no tick of its own has caused is foreign: it sets FIRED alone (R118, R291). -/
def foreignTo (s : Blk) (c : Nat) : Bool := ruledLive s c && s.ctx.inTick ≠ some c

/-- Ask for the refill of a spilled launch, once (R114). -/
def wantRefill (s : Blk) (l : Nat) : Blk :=
  match launchOf s l with
  | none => s
  | some v =>
    if v.wantRefill.isSome then s
    else
      let s := setLaunch s l { v with wantRefill := some s.tsk.wantNext }
      orBits { s with tsk := { s.tsk with wantNext := s.tsk.wantNext + 1 } } rTskIrq 1

/-- `fire` of R104: the waiter's transition follows, unless its launch is away (R114) or the fire is foreign to a ruled
context (R118). -/
def fire (s : Blk) (j : Nat) (x : Joint) (w : JWord) : Blk :=
  let wk := x.waiter.bits
  let s := ev s 0x72 x.ctx
  let s := trace s 3 (some x.ctx) (put (waiterLtag s j x) 127 96 + put j 63 46 + put (b2n w.deadSeen) 45 45 +
    put (wk / 2 ^ 18) 44 43 + put wk 42 25)
  match awayAt s j with
  | some (i, _) => wantRefill s i
  | none =>
    if foreignTo s x.ctx then s
    else match x.waiter with
      | .task slot => push s [.fireTask slot]
      | .queue q => push s [.fireQueue q j]

/-- Store a joint word and fire it where FIRED is set (R103). -/
def storeJoint (s : Blk) (j : Nat) (x : Joint) (w : JWord) : Blk :=
  let s := putJoint s j w
  if w.fired then fire s j x w else s

/-- DETAIL of fault 0x20 for a stored word (R392, IDs 0x01 to 0x11). -/
def wordDetail (store word entry : Nat) (replayed : Bool) (agent : Nat) : Nat :=
  mkDetail (put store 63 56 + put word 55 32 + put entry 31 0) (b2n replayed) agent

/-- DETAIL of a joint fault (R392): a double close names its waiter, a lost word its store. -/
def jointDetail (s : Blk) (j : Nat) (x : Joint) (w : JWord) (code : Nat) : Nat :=
  if code = 0x20 then wordDetail 3 0 j true 0
  else if code = 0x31 then
    match x.waiter with
    | .task slot => mkDetail (put slot 16 0) 0 0
    | .queue q => mkDetail (Store.getD s.csq.queues q {}).pc (put q 5 0) 0
  else mkDetail (put j 17 0) w.bits x.waiter.bits

/-- A joint fault (R105): the update is not applied. A task in WAITING, READY or DELAYED becomes FENCED, with FIRED and
DEAD_SEEN set; every other waiter keeps its state, and nothing further changes. -/
def jointFault (s : Blk) (j : Nat) (x : Joint) (w : JWord) (code : Nat) : Blk :=
  let s := wr (bump s rJntFaultCount) rJntFaultLast (put code 31 24 + put j 17 0)
  let s := if code = 0x21 then bump s rJntMismatch else s
  let s := ev s 0x73 x.ctx
  let s := ctxFault s x.ctx uJnt code (jointDetail s j x w code)
  match x.waiter with
  | .queue _ => s
  | .task slot =>
    match awayAt s j, gatedTask s j slot with
    | some (i, l), _ =>
      if (awayWaiters l (fun m => m.joint == some j)).isEmpty then s else
      let s := putJoint s j { w with fired := true, deadSeen := true }
      wantRefill (setLaunch s i (awayEnds l .fenced (fun m => m.joint == some j))) i
    | none, some t =>
      if t.state == .waiting || t.state == .ready || t.state == .delayed then
        let s := putJoint s j { w with fired := true, deadSeen := true }
        let s := if t.state == .ready then unowe s slot else s
        let s := setTask s slot { t with state := .fenced, dlyWait := false }
        let s := { s with iss := { s.iss with dly := s.iss.dly.filter (fun d => d.slot ≠ slot) } }
        push (ev s 0x5e t.ctx) [.dlyFill, .succs slot true]
      else s
    | none, none => s

/-- Read a joint for an update (R107): the word, or the fault that the reading itself records. Where its copies are of no use and
the waiter is not fenced, both take copy A's value with good parity; the manual gives none (DESIGN CHOICE, assumption 13). -/
def jointRead (s : Blk) (j : Nat) (x : Joint) : Option JWord × Blk :=
  match x.read with
  | .good w false => (some w, s)
  | .good w true => (some w, ev0 (putJoint (bump (bump s rJntRepair) rCorr) j w) 0x74)
  | .differ =>
    let s := putJoint (ev0 (bump s rUncorr) 0x14f) j x.a.w
    (none, jointFault s j x x.a.w 0x21)
  | .lost =>
    let s := putJoint (ev0 (bump s rUncorr) 0x14f) j x.a.w
    let s := safFault s uJnt 0x20 (wordDetail 3 0 j true 0) true
    let s := raiseAlarm s aParity 0x20 x.ctx
    (none, jointFault s j x x.a.w 0x20)

/-- `arrive` of R103. An arrival at an index that gates nothing is dropped. -/
def arrive (s : Blk) (j : Nat) (dead : Bool) : Blk :=
  match jointOf s j with
  | none => s
  | some x =>
    match jointRead s j x with
    | (none, s) => s
    | (some w, s) =>
      if w.fired then jointFault s j x w 0x51
      else if w.isOpen && w.count == 0xffffff then jointFault s j x w 0x52
      else
        let w' : JWord := if w.isOpen then { w with count := w.count + 1 }
          else { w with count := w.count - 1, fired := w.count ≤ 1 }
        let w' : JWord := { w' with deadSeen := w.deadSeen || dead }
        let s := ev s 0x6f x.ctx
        let s := if dead then ev s 0x70 x.ctx else s
        storeJoint s j x w'

/-- `close` of R103. -/
def closeJoint (s : Blk) (j t : Nat) : Blk :=
  match jointOf s j with
  | none => s
  | some x =>
    match jointRead s j x with
    | (none, s) => s
    | (some w, s) =>
      let t' := t + closeAdd s j x
      if !w.isOpen then jointFault s j x w 0x31
      else if t' > 0xffffff then jointFault s j x w 0x52
      else if t' < w.count then jointFault s j x w 0x51
      else
        let w' : JWord := { w with count := t' - w.count, isOpen := false, fired := t' == w.count }
        storeJoint (ev s 0x71 x.ctx) j x w'

/-- Whether a joint has fired (either good copy says so). -/
def jointFired (s : Blk) (j : Nat) : Bool :=
  match jointOf s j with
  | none => false
  | some x => match x.read with
    | .good w _ => w.fired
    | _ => x.a.w.fired

/-- DEAD_SEEN of a joint. -/
def jointDead (s : Blk) (j : Nat) : Bool :=
  match jointOf s j with
  | none => false
  | some x => match x.read with
    | .good w _ => w.deadSeen
    | _ => x.a.w.deadSeen

end Sys2Proof.Machine
end

