-- ==== Sys2Proof/Machine/Tasks.lean ====
section
/-! DEFINITION. Tasks: their states and final transitions (R98 to R100), successor arrivals (R86, R87, R183), eligible
engines and credits (R131, R132, R136 to R138), and delay lists (R126 to R130). -/
namespace Sys2Proof.Machine

/-! ## Engines and credits -/

/-- An engine is masked by the applied engine mask (R25). -/
def engMasked (s : Blk) (e : Nat) : Bool := (s.cfg.mask.getD (e / 32) 0).testBit (e % 32)

/-- An engine can be used: not masked, and its region's port pair in service (R136). -/
def engUsable (s : Blk) (e : Nat) : Bool := !engMasked s e && !regionOut s (e / 256)

/-- The engines that ENG_MODE and ENG allow (R136). -/
def engAllowed (mode eng : Nat) : List Nat :=
  if mode = 0 then [eng]
  else if mode = 1 then (List.range 16).map (fun i => eng / 16 * 16 + i)
  else if mode = 2 then (List.range 256).map (fun i => eng / 256 * 256 + i)
  else List.range 4096

/-- The eligible set of a task (R136). -/
def eligible (s : Blk) (t : Task) : List Nat := (engAllowed t.engMode t.eng).filter (engUsable s)

/-- occ(e, c) (R131). -/
def occ (s : Blk) (e c : Nat) : Nat := Store.getD s.iss.occ (4 * e + c) 0

/-- occ(e) (R131). -/
def occAll (s : Blk) (e : Nat) : Nat := occ s e 0 + occ s e 1 + occ s e 2 + occ s e 3

/-- Set occ(e, c). -/
def setOcc (s : Blk) (e c n : Nat) : Blk := { s with iss := { s.iss with occ := Store.put 0 s.iss.occ (4 * e + c) n } }

/-- The reserve engines of a cluster (R132): the lowest-numbered ISS_C0_RESV unmasked ones; none while the region's port
pair is out of service. -/
def reserveOf (s : Blk) (cl : Nat) : List Nat :=
  if regionOut s (cl / 16) then []
  else (((List.range 16).map (fun i => cl * 16 + i)).filter (fun e => !engMasked s e)).take (rgf s rC0Resv 3 0)

/-- An engine is a reserve engine (R132). -/
def isReserve (s : Blk) (e : Nat) : Bool := (reserveOf s (e / 16)).contains e

/-- ISS_DEPTH. -/
def issDepth (s : Blk) : Nat := rgf s rDepth 5 0

/-- ISS_CAPc; a value above DEPTH acts as DEPTH (R159). -/
def issCap (s : Blk) (c : Nat) : Nat := min (rgf s (rCap + 4 * c) 5 0) (issDepth s)

/-- has_credit of R137: the test of R131. -/
def hasCredit (s : Blk) (e c : Nat) : Bool :=
  decide (occ s e c < issCap s c) && decide (occAll s e < issDepth s) &&
    (c == 0 || !isReserve s e || decide (occAll s e - occ s e 0 < issDepth s - 1))

/-- A credit returns (R133). -/
def creditBack (s : Blk) (e c : Nat) : Blk := setOcc s e c (occ s e c - 1)

/-- The least element of a list by a key; the first of equals. -/
def argmin {α : Type} (f : α → Nat) : List α → Option α
  | [] => none
  | x :: r => some (r.foldl (fun b y => if f y < f b then y else b) x)

/-- own(ctx, e) of R138: the context's tasks bound to e, or ISSUED on it, whose completion is not admitted yet. -/
def ownOn (s : Blk) (c e : Nat) : Nat :=
  ((Store.vals s.tsk.tasks).filter (fun t => t.ctx == c &&
    ((t.state == .ready && t.bound == some e) || (t.state == .issued && t.issuedEng == e)))).length

/-- choose_ruled of R138, for a task with a non-empty eligible set. -/
def chooseRuled (s : Blk) (t : Task) : Option Nat :=
  let el := eligible s t
  let res := el.filter (isReserve s)
  let set := if t.cls == 0 && !res.isEmpty then res else el
  argmin (fun e => ownOn s t.ctx e * 4096 + (e + 4096 - (slotOf s t.ctx).rotor % 4096) % 4096) set

/-! ## Entering READY -/

/-- CTX_RLAT for a class (R302). -/
def rlat (s : Blk) (c cls : Nat) : Nat := rgf s (bank rRlat c) (8 * cls + 7) (8 * cls)

/-- Bind a READY task of a ruled context (R138): its completion is owed RLAT ticks on (R286). With an empty eligible set
the task waits as R136 gives. -/
def bindRuled (s : Blk) (slot : Nat) : Blk :=
  match taskOf s slot with
  | none => s
  | some t =>
    match chooseRuled s t with
    | none => setTask s slot { t with starved := true }
    | some e =>
      let sl := slotOf s t.ctx
      let s := setTask s slot { t with bound := some e, bindTick := sl.tick, starved := false }
      let s := setSlot s t.ctx { sl with rotor := (e + 1) % 4096 }
      owe s { ctx := t.ctx, due := sl.tick + rlat s t.ctx t.cls, cls := t.cls, level := t.level, seq := t.seq, party := e,
              what := .completion slot }

/-- A READY task with an empty eligible set is counted and recorded once (R136). -/
def noEngine (s : Blk) (slot : Nat) : Blk :=
  match taskOf s slot with
  | none => s
  | some t =>
    if t.noEngine || t.state ≠ .ready || !(eligible s t).isEmpty then s
    else
      let s := setTask s slot { t with noEngine := true }
      ctxFault (ev (bump s rNoEngine) 0x7b t.ctx) t.ctx uRdy 0x31 (mkDetail (put slot 16 0) 0 0)

/-- The mark of a task that becomes READY (R98): the Time Port value, or the tick in ruled ordering. -/
def markNow (s : Blk) (c : Nat) : Nat := if isRuled s c then (slotOf s c).tick else now s

/-- Events of a task that enters a final state. -/
def finalEv (s : Blk) (t : Task) (st : TaskState) : Blk :=
  match st with
  | .done => let s := ev s (0x59 + t.cls) t.ctx; if t.dead then ev s 0x5f t.ctx else s
  | .cancelled => ev s 0x5d t.ctx
  | .fenced => ev s 0x5e t.ctx
  | _ => s

/-- A task leaves the delay lists and stops waiting for an entry (R125, R129). -/
def dropDelay (s : Blk) (slot : Nat) : Blk :=
  let s := { s with iss := { s.iss with dly := s.iss.dly.filter (fun d => d.slot ≠ slot) } }
  match taskOf s slot with
  | some t => if t.dlyWait then setTask s slot { t with dlyWait := false } else s
  | none => s

/-- A task enters a final state and applies its successors, with dead arrivals where `dead` (R100). -/
def finishTask (s : Blk) (slot : Nat) (st : TaskState) (dead : Bool) : Blk :=
  let s := dropDelay s slot
  match taskOf s slot with
  | none => s
  | some t =>
    let s := if t.state == .ready then unowe s slot else s
    let s := finalEv (setTask s slot { t with state := st }) t st
    push s [.dlyFill, .succs slot dead]

/-- A task enters READY (R100): a NULL task becomes DONE; a task of a ruled context
is bound by a later decision of the same tick (R138, R292), or waits for an engine. -/
def enterReady (s : Blk) (slot : Nat) : Blk :=
  match taskOf s slot with
  | none => s
  | some t =>
    if t.kind == .null then finishTask s slot .done t.dead
    else
      let t := { t with state := .ready, mark := markNow s t.ctx }
      let s := ev (setTask s slot t) (0x55 + t.cls) t.ctx
      let s := if (eligible s t).any (fun e => hasCredit s e t.cls) then s else ev s (0x65 + t.cls) t.ctx
      let s := noEngine s slot
      match taskOf s slot with
      | some t => if isRuled s t.ctx && (eligible s t).isEmpty then setTask s slot { t with starved := true } else s
      | none => s

/-! ## Delay lists -/

/-- The release time of R127. -/
def releaseAt (T shift d : Nat) : Nat := ((T >>> shift) + d) <<< shift

/-- A task takes a free delay entry and is DELAYED (R127, R128). -/
def takeDelay (s : Blk) (slot : Nat) (t : Task) : Blk :=
  let used := s.iss.dly.map (·.idx)
  let free := (List.range 16384).filter (fun i => !used.contains i)
  let (k, s) := choose s free.length
  let shift := rgf s rDlyTick 4 0
  let e : DlyEntry := { idx := free.getD k 0, slot, lst := 2 * t.cls + (if t.delay ≤ 255 then 0 else 1), delay := t.delay,
                        shift, release := releaseAt (now s) shift t.delay }
  let s := setTask s slot { t with state := .delayed, dlyWait := false }
  ev { s with iss := { s.iss with dly := s.iss.dly ++ [e] } } 0x77 t.ctx

/-- A task is to enter DELAYED: with every entry held it waits, WAITING, for one (R129). -/
def enterDelayed (s : Blk) (slot : Nat) : Blk :=
  match taskOf s slot with
  | none => s
  | some t =>
    if s.iss.dly.length < 16384 then takeDelay s slot t
    else ev (bump (setTask s slot { t with state := .waiting, dlyWait := true }) rDlyWaits) 0x79 t.ctx

/-- Tasks that wait for a delay entry, by SEQ (R129). -/
def dlyWaiters (s : Blk) : List (Nat × Task) :=
  sortBy (fun a b => decide (a.2.seq ≤ b.2.seq)) (s.tsk.tasks.filter (fun p => p.2.dlyWait))

/-- Freed delay entries go to the tasks that wait for one (R129). -/
def dlyFill (s : Blk) : Blk :=
  forEach ((dlyWaiters s).take (16384 - s.iss.dly.length)) s (fun s p => takeDelay s p.1 p.2)

/-- The order in which entries released at one sample are released (R128). -/
def dlyBefore (s : Blk) (a b : DlyEntry) : Bool :=
  let key := fun (d : DlyEntry) => match taskOf s d.slot with
    | some t => (t.cls * 64 + t.level) * 2 ^ 64 + t.seq
    | none => 0
  decide (a.release < b.release) || (a.release == b.release && decide (key a ≤ key b))

/-- The next delay entry whose release time has come at the last usable sample (R127, R130). -/
def dlyDue (s : Blk) : Option DlyEntry :=
  if !s.time.usable then none
  else (sortBy (dlyBefore s) (s.iss.dly.filter (fun d => decide (d.release ≤ now s)))).head?

/-- A delay entry is released: its task becomes READY, or DONE if NULL. A task of a ruled context only gives its entry
back, and waits to be the front (R290). -/
def dlyRelease (s : Blk) (d : DlyEntry) : Blk :=
  let s := { s with iss := { s.iss with dly := s.iss.dly.filter (fun x => x.idx ≠ d.idx) } }
  match taskOf s d.slot with
  | none => push s [.dlyFill]
  | some t =>
    let s := push (ev s 0x78 t.ctx) [.dlyFill]
    if ruledLive s t.ctx then s else enterReady s d.slot

/-! ## Fires and creation -/

/-- The gate-fires transition of R100. -/
def gateFires (s : Blk) (slot : Nat) : Blk :=
  match taskOf s slot with
  | none => s
  | some t =>
    if t.state ≠ .waiting then s
    else
      let seen := match t.gjoint with | some j => jointDead s j | none => false
      let deadp := ((taskNode s t).map nDeadp).getD false
      if seen && deadp then finishTask s slot .cancelled true
      else
        let s := setTask s slot { t with dead := seen }
        if t.delay > 0 then enterDelayed s slot else enterReady s slot

/-- A descriptor made from a node record (R98); `arg` of R95, `kind` and `seq` as the caller gives. -/
def mkTask (l : Nat) (v : Launch) (tid tgen scope node : Nat) (n : Word256) (kind : TaskKind) (gj : Option Nat)
    (arg seq : Nat) : Task :=
  { seq, delay := nDelay n, eng := nEng n, engMode := nEngMode n, arg, kernel := nKernel n, ltag := v.ltag, gjoint := gj,
    launch := l, scope, node, tgen, tid, ctxGen := v.ctxGen, ctx := v.ctx, kind, level := nLevel n, cls := nCls n }

/-- The event source of a created task (R340). -/
def kindSource : TaskKind → Nat
  | .null => 0x61 | .kernel => 0x62 | .expert => 0x63 | .enqueued => 0x64

/-- Write a new task into its slot: the slot's stamp advances (R134). -/
def placeTask (s : Blk) (slot : Nat) (t : Task) : Blk :=
  let st := (Store.getD s.tsk.stamps slot 0 + 1) % 256
  let s := setTask s slot t
  ev { s with tsk := { s.tsk with stamps := Store.put 0 s.tsk.stamps slot st } } (kindSource t.kind) t.ctx

/-- Draw the next SEQ (R123). -/
def nextSeq (s : Blk) : Nat × Blk :=
  (s.tsk.seqNext, { s with tsk := { s.tsk with seqNext := (s.tsk.seqNext + 1) % 2 ^ 64 } })

/-- A new task without a gate joint becomes READY or DELAYED (R100). -/
def startTask (s : Blk) (slot : Nat) : Blk :=
  match taskOf s slot with
  | none => s
  | some t => if t.delay > 0 then enterDelayed s slot else enterReady s slot

/-! ## Successors -/

/-- The die-list entry of an index: VALID, die, context slot, generation (R160, R196). -/
structure DieEnt where
  valid : Bool
  die : Nat
  ctx : Nat
  gen : Nat
deriving DecidableEq, Repr

/-- Entry i of the die list. -/
def dieEnt (s : Blk) (i : Nat) : DieEnt :=
  { valid := rgb s (bank rDieId i) 31, die := rgf s (bank rDieId i) 20 0, ctx := rgf s (bank rDieCtx i) 15 8,
    gen := rgf s (bank rDieCtx i) 7 0 }

/-- The EXPERT node of a scope's template, and its index. -/
def expertNode (s : Blk) (l : Launch) (scope : Nat) : Option (Nat × Word256) :=
  match scopeGen s l scope with
  | none => none
  | some g =>
    let im := genImg s g
    ((imgKind im 3).head?).map (fun i => (i, imgNode im i))

/-- A task is the source of its scope (R166, R169). -/
def isSource (s : Blk) (t : Task) : Bool :=
  t.kind == .kernel &&
  (match launchOf s t.launch with
   | none => false
   | some l => match expertNode s l t.scope with
     | some (_, n) => xpSrc n == t.node
     | none => false)

/-- A fabric request in the name of a task. -/
def taskReq (t : Task) (dst dctx dgen : Nat) (b : FBody) (o : FOwner) : FReq :=
  { dst, dstCtx := dctx, dstGen := dgen, srcCtx := t.ctx, srcGen := t.ctxGen, ltag := t.ltag, body := b, owner := o }

/-- The home map of a task that an expander scope created: its die-list entries in ascending home index (R183). -/
def homesOf (s : Blk) (slot : Nat) : List DieEnt :=
  match (Store.vals s.sve.scopes).find? (fun x => x.tasks.any (fun k => k.slot == some slot)) with
  | none => []
  | some x =>
    match x.tasks.find? (fun k => k.slot == some slot) with
    | none => []
    | some k =>
      match (launchOf s x.launch).bind (fun l => scopeNode s l x.scope x.node) with
      | none => []
      | some n =>
        (sortBy (fun a b => decide (a.1 ≤ b.1)) k.homes).map (fun h =>
          if xpHomeMode n = 0 then dieEnt s (xpHomeIdx n)
          else dieEnt s (rgf s (setReg (xpSet n) 0xc) 25 16 + h.1))

/-- What one successor entry of a task sends (R86, R109). -/
def succWork (s : Blk) (slot : Nat) (t : Task) (im top : Img) (dead : Bool) (e : Word64) : List Work :=
  match resolve top e t.scope with
  | none => []
  | some (sc, nd) =>
    if sMode e = 0 then [.nodeArrive t.launch sc nd dead]
    else if sMode e = 1 then
      [.fabReq (taskReq t (sDie e) (sCtx e) (sGen e) (.arrive sc nd dead) (.succ slot))]
    else
      let _ := im
      (homesOf s slot).map (fun d =>
        let r := taskReq t d.die d.ctx d.gen (.arrive sc nd dead) (.succ slot)
        if d.valid then .fabReq r else .answered r kPeerFenced true)

/-- Records, by their index in a generation's template, of which a word is lost to the operation of context c that reads them (R372,
ID 0x01): fault 0x20 is recorded against the context, once for each such word. -/
def recLost (s : Blk) (g : Gen) (is : List Nat) (c : Nat) : Option Blk :=
  let mine := s.tsk.lost.filter (fun l => is.any (fun i => g.base + i == l.1))
  if mine.isEmpty then none
  else
    let s := { s with tsk := { s.tsk with lost := s.tsk.lost.filter (fun l => !mine.contains l) } }
    some (forEach mine s (fun s l => ctxFault s c uGst 0x20 (wordDetail 1 l.2.1 l.1 l.2.2 0)))

/-- The records that hold successor entries of a template. -/
def succRecs (im : Img) (r : Nat × Nat) : List Nat := ((List.range r.2).map (fun i => 1 + hNodes (im 0) + (r.1 + i) / 4)).eraseDups

/-- Apply the successors of a task that has entered a final state, in list order (R100); its candidate stream ends first
(R169), its home-map row is freed last (R183). A weight-fetch task applies none (R189), nor a task whose list is lost (R372). -/
def applySuccs (s : Blk) (slot : Nat) (dead : Bool) : Blk :=
  match taskOf s slot with
  | none => s
  | some t =>
    let src := if isSource s t then [Work.streamEnd slot dead] else []
    match findGen s t.tid t.tgen, (launchOf s t.launch).bind (topImg s) with
    | some g, some top =>
      let im := genImg s g
      let fetch := t.kind == .expert && t.gjoint.isNone
      let gone := if fetch then none else recLost s g ((1 + t.node) :: succRecs im (nSucc (imgNode im t.node))) t.ctx
      let es := if fetch || gone.isSome then [] else imgSuccs im (nSucc (imgNode im t.node))
      let s := gone.getD s
      let lost := (es.filter (fun e => sMode e ≠ 0 && (resolve top e t.scope).isNone)).length
      let s := if lost = 0 then s else ctxFault s t.ctx uTsk 0x31 (mkDetail (put slot 16 0) 0 0)
      push s (src ++ es.flatMap (succWork s slot t im top dead) ++ (if t.kind == .expert then [.rowFree slot] else []))
    | _, _ => push s src

/-- An arrival at a node of a launch (R109); at the prototype it goes to every per-sequence task, in course order, and to
nothing but its count where the course is empty (R211). -/
def nodeArrive (s : Blk) (l scope node : Nat) (dead : Bool) : Blk :=
  match launchOf s l with
  | none => s
  | some v =>
    let ms := membersAt v scope node
    if ms.isEmpty then ev s 0x6f v.ctx else push s (ms.filterMap (fun m => m.joint.map (fun j => .arrive j dead)))

/-- A close at a node of a launch, as `nodeArrive`. -/
def nodeClose (s : Blk) (l scope node t : Nat) : Blk :=
  match launchOf s l with
  | none => s
  | some v =>
    let ms := membersAt v scope node
    if ms.isEmpty then ev s 0x71 v.ctx else push s (ms.filterMap (fun m => m.joint.map (fun j => .closeJ j t)))

end Sys2Proof.Machine
end

