-- ==== Sys2Proof/Machine/Issue.lean ====
section
/-! DEFINITION. The Issue Engine: dispatch decisions and words (R137 to R140), the Region Issue and Completion Ports (R45 to
R49), completion words (R141, R142), port pairs out of service (R375), the throttle (R146 to R150), and enqueue requests
(R151, R152). -/
namespace Sys2Proof.Machine

/-! ## Choosing and dispatching -/

/-- tokens_ok of R150. -/
def tokensOk (s : Blk) (c : Nat) : Bool :=
  s.iss.ceil == 255 || decide (s.iss.tokens ≥ (if c = 0 then 1 else 2))

/-- choose_free of R137. -/
def chooseFree (s : Blk) (t : Task) : Option Nat :=
  argmin (fun e => occAll s e * 4096 + (e + 4096 - s.iss.rotor) % 4096)
    ((eligible s t).filter (fun e => hasCredit s e t.cls))

/-- Dispatch words are offered for a context (R308). -/
def ctxDispatches (s : Blk) (c : Nat) : Bool := ctxSt s c == .opened || ctxSt s c == .orphaned

/-- A context is held by a break with MODE 1 (R248). -/
def brkHolds (s : Blk) (c : Nat) : Bool := s.csq.brkHit && s.csq.brkMode && s.csq.brkCtx == c

/-- The READY tasks of a class, by level and SEQ (R122). -/
def readyOf (s : Blk) (c : Nat) : List (Nat × Task) :=
  sortBy (fun a b => decide (a.2.level < b.2.level) || (a.2.level == b.2.level && decide (a.2.seq ≤ b.2.seq)))
    (s.tsk.tasks.filter (fun p => p.2.state == .ready && p.2.cls == c))

/-- The engine a READY task would go to now, if it can be placed (R138, R139). -/
def placeTo (s : Blk) (t : Task) : Option Nat :=
  let e? := match t.bound with
    | some e => some e
    | none => if isRuled s t.ctx then none else chooseFree s t
  match e? with
  | some e => if hasCredit s e t.cls && (Store.get? s.ports.rip (e / 256)).isNone then some e else none
  | none => none

/-- next_dispatch of R139, with the throttle test given. -/
def nextDispatchBy (s : Blk) (ok : Nat → Bool) : Option (Nat × Task × Nat) :=
  if s.cfg.srst then none
  else
    let cls := fun (c : Nat) =>
      if ok c then
        (readyOf s c).findSome? (fun p =>
          if ctxDispatches s p.2.ctx && !brkHolds s p.2.ctx then (placeTo s p.2).map (fun e => (p.1, p.2, e)) else none)
      else none
    [0, 1, 2, 3].findSome? cls

/-- next_dispatch of R139. -/
def nextDispatch (s : Blk) : Option (Nat × Task × Nat) := nextDispatchBy s (tokensOk s)

/-- KIND of a dispatch word (R140). -/
def kindCode : TaskKind → Nat
  | .null => 0 | .kernel => 1 | .expert => 2 | .enqueued => 3

/-- The stamp of a slot (R134). -/
def stampOf (s : Blk) (slot : Nat) : Nat := Store.getD s.tsk.stamps slot 0

/-- The dispatch word of a task (R140). -/
def dispatchWord (s : Blk) (slot : Nat) (t : Task) (e : Nat) : Word256 :=
  BitVec.ofNat 256 (put t.kernel 255 224 + put t.arg 223 172 + put t.ltag 171 140 + put t.hlist 139 108 +
    put t.expert 107 92 + put t.nhome 91 76 + put t.ctx 63 56 + put t.ctxGen 55 48 + put (stampOf s slot) 47 40 +
    put slot 39 23 + put e 22 11 + put (b2n t.dead) 10 10 + put t.cls 9 8 + put t.level 7 2 + put (kindCode t.kind) 1 0)

/-- Count a contested grant for each free context that took part (R297). -/
def contested (s : Blk) (granted : Nat) (waiting : List Nat) : Blk :=
  if waiting.isEmpty then s
  else
    let cs := ((granted :: waiting).map (· % 256)).eraseDups.filter (fun c => !isRuled s c)
    forEach cs s (fun s c => let v := slotOf s c; setSlot s c { v with tcc := min (v.tcc + 1) (2 ^ 48 - 1) })

/-- The same for a request that may belong to no context. -/
def contestedOpt (s : Blk) (granted : Option Nat) (waiting : List Nat) : Blk :=
  match granted, waiting with
  | some c, _ => contested s c waiting
  | none, c :: _ => contested s c waiting
  | none, [] => s

/-- Offer a task's dispatch word on its region's RIP (R45, R139): ISSUED_ENG is written, one credit and one token are
taken, and the rotor moves where the engine was chosen freely (R137). -/
def dispatch (s : Blk) (slot : Nat) (t : Task) (e : Nat) : Blk :=
  let n := e / 256
  let s := setTask s slot { t with state := .issued, issuedEng := e, issuedAt := now s, overrun := false }
  let s := setOcc s e t.cls (occ s e t.cls + 1)
  let s := if t.bound.isNone then { s with iss := { s.iss with rotor := (e + 1) % 4096 } } else s
  let s := if s.iss.ceil = 255 then s else { s with iss := { s.iss with tokens := s.iss.tokens - 1 } }
  let s := if s.iss.tokWait then ev0 { s with iss := { s.iss with tokWait := false } } 0x7a else s
  let offer : RipOffer := { slot, engine := e, word := dispatchWord s slot t e }
  let s := { s with ports := { s.ports with rip := Store.set s.ports.rip n offer } }
  let s := { s with saf := { s.saf with dispatchAt := now s, armedAt := none } }
  let s := ev (ev s (0x51 + t.cls) t.ctx) (1 + n) t.ctx
  trace s 1 (some t.ctx) (put t.seq 127 96 + put t.ltag 95 64 + put slot 63 47 + put e 46 35 + put t.cls 34 33 +
    put t.level 32 27 + put (kindCode t.kind) 26 25 + put (stampOf s slot) 24 17 + put (b2n t.bound.isSome) 16 16)

/-! ## Held words and purge records -/

/-- The held word of an ISSUED task (R134). -/
def heldOf (s : Blk) (slot : Nat) (t : Task) : HeldWord :=
  { engine := t.issuedEng, slot, istamp := stampOf s slot, ctx := t.ctx, ctxGen := t.ctxGen, cls := t.cls }

/-- Hold a slot for its unreturned dispatch word (R134). -/
def holdSlot (s : Blk) (h : HeldWord) : Blk := { s with tsk := { s.tsk with held := Store.set s.tsk.held h.slot h } }

/-- Release a held slot; it goes back to the free pool once its launch has ended. -/
def unhold (s : Blk) (slot : Nat) : Blk :=
  match Store.get? s.tsk.held slot with
  | none => s
  | some _ =>
    let s := { s with tsk := { s.tsk with held := Store.erase s.tsk.held slot } }
    if (taskOf s slot).isSome then s
    else { s with tsk := { s.tsk with freeSlots := freeOne s.tsk.freeSlots slot } }

/-- Write a dispatch word off (R317): its credit returns and a purge record is placed; with the purge store full nothing
is written off, and the slot stays held. Answers whether the word was written off. -/
def writeOff (s : Blk) (h : HeldWord) : Bool × Blk :=
  if s.iss.purge.length < 1024 then
    let s := creditBack s h.engine h.cls
    let s := { s with iss := { s.iss with purge := s.iss.purge ++ [h] } }
    (true, unhold s h.slot)
  else (false, bump (holdSlot s h) rPurgeFull)

/-! ## Port pairs out of service -/

/-- DETAIL of fault 0x20 for a port pair (R392, ID 0x22). -/
def pairDetail (n cause count : Nat) : Nat := mkDetail (0x22 * 2 ^ 56 + put n 3 0) cause count

/-- The binding of a READY task to an engine of region n is dropped; the next tick binds it, or finds its eligible set empty (R138). -/
def dropBinding (s : Blk) (n : Nat) (p : Nat × Task) : Blk :=
  match p.2.bound with
  | some e =>
    if p.2.state == .ready && e / 256 == n then
      setTask (unowe s p.1) p.1 { p.2 with bound := none, starved := false }
    else s
  | none => s

/-- No completion is owed any more for a task that has been written off: the fault reaches a ruled context as a foreign event
(R375, R393). Enqueue requests that its engine has offered are still admitted at the due tick (R286). DEDUCED: assumption 14. -/
def owedWriteOff (s : Blk) (slot : Nat) : Blk :=
  { s with ctx := { s.ctx with owed := s.ctx.owed.filterMap (fun o =>
      if o.what ≠ .completion slot then some o else if o.evs.isEmpty then none else some { o with arrived := true }) } }

/-- Port pair n leaves service (R375). `cause`: 0 four RIPn_ERR answers, 1 four RCPn parity failures, 2 a handshake
violation. The words written off are those that the purge store has room for (R317). -/
def regionGoesOut (s : Blk) (n cause : Nat) : Blk :=
  if regionOut s n then s
  else
    let s := orBits s rRegionFail (2 ^ n)
    let issued := s.tsk.tasks.filter (fun p => p.2.state == .issued && p.2.issuedEng / 256 == n)
    let ctxs := (issued.map (fun p => p.2.ctx)).eraseDups
    let off := issued.take (1024 - s.iss.purge.length)
    let s := forEach issued s (fun s p => setTask s p.1 { p.2 with state := .done, dead := true })
    let s := forEach issued s (fun s p => (writeOff s (heldOf s p.1 p.2)).2)
    let s := forEach issued s (fun s p => finalEv s { p.2 with dead := true } .done)
    let s := forEach issued s (fun s p => owedWriteOff s p.1)
    let s := match Store.get? s.ports.rip n with
      | some o => { s with ports := { s.ports with rip := Store.set s.ports.rip n { o with writtenOff := true } } }
      | none => s
    let s := forEach (s.tsk.tasks.filter (fun p => p.2.bound.isSome)) s (fun s p => dropBinding s n p)
    let s := forEach (Store.keys (s.tsk.tasks.filter (fun p => p.2.state == .ready))) s noEngine
    let s := logFault s uIss uIss 0x20 none (pairDetail n cause off.length) true
    let s := forEach ctxs s (fun s c =>
      ctxFault s c uIss 0x20 (pairDetail n cause (off.filter (fun p => p.2.ctx == c)).length))
    let s := push s (issued.map (fun p => Work.succs p.1 true))
    raiseAlarm s aRegion 0x20 0

/-- RIPn_ACK rises (R47). A word answered with RIPn_ERR is offered again while its task is ISSUED and its context dispatches or is FAULTED:
it is no new dispatch, which R323 forbids; for a task or a context fenced meanwhile no word is offered (R154, R315). DESIGN CHOICE:
assumption 18. -/
def ripAck (s : Blk) (n : Nat) (err : Bool) : Blk :=
  match Store.get? s.ports.rip n with
  | none => s
  | some o =>
    let gone := { s with ports := { s.ports with rip := Store.erase s.ports.rip n } }
    if !err || o.writtenOff then gone
    else if o.errs ≥ 3 then regionGoesOut gone n 0
    else
      match taskOf s o.slot with
      | some t =>
        if t.state == .issued && ctxDispatches s t.ctx || ctxSt s t.ctx == .faulted && t.state == .issued then
          let o' := { o with errs := o.errs + 1, word := dispatchWord s o.slot t o.engine }
          { s with ports := { s.ports with rip := Store.set s.ports.rip n o' } }
        else gone
      | none => gone

/-- A cleared bit of BLK_REGION_FAIL returns port pair n to service: its purge records go (R375). -/
def regionReturns (s : Blk) (n : Nat) : Blk :=
  { s with iss := { s.iss with purge := s.iss.purge.filter (fun h => h.engine / 256 ≠ n) } }

/-! ## Taking a word on RCPn -/

/-- What the checks of R48 that every word passes first find. -/
inductive RcpTake where | take | again | discard
deriving DecidableEq, Repr

/-- The answer RCPn_ERR of the last transfer on RCPn, kept for its partner. -/
def setRcpErr (s : Blk) (n code : Nat) : Blk :=
  { s with ports := { s.ports with rcpErr := Store.put 0 s.ports.rcpErr n code } }

/-- Set the count of consecutive 01 answers of a sender. -/
def setFails (s : Blk) (e k : Nat) : Blk :=
  { s with ports := { s.ports with rcpFails := Store.put 0 s.ports.rcpFails e k } }

/-- Answer 10 and count the word (R48). -/
def rcpDiscard (s : Blk) (n : Nat) : Blk := ev0 (setRcpErr s n 2) (0x41 + n)

/-- The first checks of R48: the pair out of service, parity, a masked engine. -/
def rcpCheck (s : Blk) (n src : Nat) (parityOk : Bool) : RcpTake × Blk :=
  let e := n * 256 + src
  if s.cfg.srst || regionOut s n then (.discard, rcpDiscard s n)
  else if !parityOk then
    let k := Store.getD s.ports.rcpFails e 0 + 1
    let s := ev0 (setRcpErr s n 1) (0x41 + n)
    if k ≥ 4 then (.again, regionGoesOut (setFails s e 0) n 1) else (.again, setFails s e k)
  else
    let s := setFails s e 0
    if engMasked s e then (.discard, rcpDiscard s n) else (.take, setRcpErr s n 0)

/-! ## Completion words -/

/-- CTX, CTXGEN, ISTAMP, SLOT, CLASS, STATUS, DETAIL of a completion word (R141). -/
def cwCtx (w : Word64) : Nat := fld w 63 56
/-- CTXGEN. -/
def cwGen (w : Word64) : Nat := fld w 55 48
/-- ISTAMP. -/
def cwStamp (w : Word64) : Nat := fld w 47 40
/-- SLOT. -/
def cwSlot (w : Word64) : Nat := fld w 39 23
/-- CLASS. -/
def cwCls (w : Word64) : Nat := fld w 22 21
/-- STATUS. -/
def cwStatus (w : Word64) : Nat := fld w 20 19
/-- DETAIL. -/
def cwDetail (w : Word64) : Nat := fld w 15 0

/-- The live task a completion word from engine e matches (R142, step 1). -/
def cwMatch (s : Blk) (e : Nat) (w : Word64) : Option Task :=
  match taskOf s (cwSlot w) with
  | some t =>
    if stampOf s (cwSlot w) = cwStamp w ∧ t.ctx = cwCtx w ∧ t.ctxGen = cwGen w ∧ t.state = .issued ∧ t.issuedEng = e
    then some t else none
  | none => none

/-- A purge record matches a completion word (R317). -/
def purgeMatch (e : Nat) (w : Word64) (h : HeldWord) : Bool :=
  h.engine == e && h.slot == cwSlot w && h.istamp == cwStamp w && h.ctx == cwCtx w && h.ctxGen == cwGen w

/-- Remove the purge record a word matches; none where there is none. -/
def settlePurge (s : Blk) (e : Nat) (w : Word64) : Option Blk :=
  match s.iss.purge.find? (purgeMatch e w) with
  | some h => some { s with iss := { s.iss with purge := s.iss.purge.erase h } }
  | none => none

/-- The COMPLETE trace record (R349). -/
def traceComplete (s : Blk) (e : Nat) (w : Word64) (m : Nat) : Blk :=
  trace s 2 (some (cwCtx w)) (put (cwDetail w) 127 112 + put (cwStatus w) 111 110 + put m 109 108 +
    put (cwSlot w) 63 47 + put e 46 35 + put (cwCls w) 34 33 + put (cwStamp w) 24 17)

/-- DETAIL of a fault that names a slot and an engine (R392). -/
def slotDetail (slot e : Nat) : Nat := mkDetail (put slot 16 0) (put e 11 0) 0

/-- A completion word that matched a live task (R142, steps 1 and 4). The spec names no counter and no event source for non-zero
reserved bits: the model counts them where no register shows it. DESIGN CHOICE: assumption 18. -/
def completeTask (s : Blk) (e : Nat) (w : Word64) (t : Task) : Blk :=
  let slot := cwSlot w
  let s := unowe (creditBack s e t.cls) slot
  let s := if fld w 18 16 = 0 then s else { s with iss := { s.iss with rsvCount := s.iss.rsvCount + 1 } }
  let s := if cwCls w = t.cls then s
    else ctxFault (ev0 (bump s rCreditErr) 0x7d) t.ctx uIss 0x31 (slotDetail slot e)
  let s := traceComplete s e w 0
  if cwStatus w = 0 then finishTask s slot .done t.dead
  else
    let s := if cwStatus w = 3 then ctxFault s t.ctx uIss 0x31 (slotDetail slot e) else s
    let s := ctxFault s t.ctx uIss 0x59 (mkDetail (put slot 16 0 + put (cwStatus w) 25 24) (put e 11 0) (cwDetail w))
    finishTask (setTask s slot { t with dead := true }) slot .done true

/-- Apply a completion word taken from engine e (R142, R317). -/
def applyCompletion (s : Blk) (e : Nat) (w : Word64) : Blk :=
  let s := if cwStatus w = 1 ∨ cwStatus w = 2 then ev s 0x60 (cwCtx w) else s
  match cwMatch s e w with
  | some t => completeTask s e w t
  | none =>
    match settlePurge s e w with
    | some s => traceComplete (ev0 (bump s rStaleCmpl) 0x7c) e w 2
    | none =>
      if occ s e (cwCls w) = 0 then
        let s := unitFault (ev0 (bump s rCreditErr) 0x7d) uIss 0x31 none (slotDetail (cwSlot w) e)
        traceComplete s e w 3
      else
        let s := creditBack s e (cwCls w)
        let s := ev0 (bump s rStaleCmpl) 0x7c
        let s := match Store.get? s.tsk.held (cwSlot w) with
          | some h => if h.istamp = cwStamp w then unhold s (cwSlot w) else s
          | none => s
        traceComplete s e w 1

/-- An event of a ruled task is held until its due tick where its completion is owed (R287). -/
def holdOwed (s : Blk) (slot : Nat) (x : OwedEv) (arrived : Bool) : Option Blk :=
  match s.ctx.owed.find? (fun o => o.what == .completion slot) with
  | none => none
  | some o =>
    if !ruledLive s o.ctx then none
    else
      let upd := fun (p : Owed) =>
        if p.what = .completion slot then { p with evs := p.evs ++ [x], arrived := p.arrived || arrived } else p
      some { s with ctx := { s.ctx with owed := s.ctx.owed.map upd } }

/-- A completion word is taken on RCPn (R48, R142, R287). -/
def takeCompletion (s : Blk) (n src : Nat) (w : Word64) (parityOk : Bool) (waiting : List Nat) : Blk :=
  let e := n * 256 + src
  match rcpCheck s n src parityOk with
  | (.again, s) => s
  | (.discard, s) =>
    if regionOut s n then (settlePurge s e w).getD s else s
  | (.take, s) =>
    let s := ev s (0x11 + n) (cwCtx w)
    match cwMatch s e w with
    | some t =>
      let s := contested s t.ctx waiting
      match holdOwed s (cwSlot w) (.completion e w) true with
      | some s => s
      | none => applyCompletion s e w
    | none => contested (applyCompletion s e w) (cwCtx w) waiting

/-- A word of reserved kind, or from a masked engine (R48). -/
def takeReserved (s : Blk) (n src kind : Nat) (parityOk : Bool) : Blk :=
  match rcpCheck s n src parityOk with
  | (.take, s) =>
    if kind = 3 then unitFault (rcpDiscard s n) uIss 0x31 none (slotDetail 0 (n * 256 + src)) else s
  | (_, s) => s

/-! ## Throttle and overrun -/

/-- The ceiling v in force, in units of 8 dispatches per µs; FLOOR for 0 (R146). -/
def ceilV (s : Blk) : Nat := if s.iss.ceil = 0 then rgf s rThrFloor 7 0 else s.iss.ceil

/-- ISS_THR_BURST. -/
def thrBurst (s : Blk) : Nat := rgf s rThrBurst 6 0

/-- A dispatch waits for a token. -/
def tokenWaits (s : Blk) : Bool := (nextDispatch s).isNone && (nextDispatchBy s (fun _ => true)).isSome

/-- The gains that are due and have not been taken (R146). -/
def gainsDue (s : Blk) : Nat :=
  if s.iss.ceil = 255 || !s.time.usable then 0 else (now s - s.iss.gainAt) * ceilV s / 125 - s.iss.gained

/-- A new ceiling (R73, R146, R147). Gains that are due come before it (R149); what has accrued of the next one is lost, since the
bucket keeps its tokens alone. DESIGN CHOICE: assumption 38. -/
def newCeiling (s : Blk) (v : Nat) : Blk :=
  let s := { s with iss := { s.iss with tokWait := s.iss.tokWait || tokenWaits s } }
  let tok := if v = 255 then thrBurst s else min (s.iss.tokens + gainsDue s) (thrBurst s)
  { s with iss := { s.iss with ceil := v, tokens := tok, gainAt := now s, gained := 0 } }

/-- A token is due (R146): a gain every 125 / v ns of usable time. -/
def gainDue (s : Blk) : Bool :=
  s.iss.ceil ≠ 255 && s.time.usable && decide ((now s - s.iss.gainAt) * ceilV s ≥ 125 * (s.iss.gained + 1))

/-- The bucket gains one token. -/
def gainToken (s : Blk) : Blk :=
  { s with iss := { s.iss with tokens := min (s.iss.tokens + 1) (thrBurst s), gained := s.iss.gained + 1,
                               tokWait := s.iss.tokWait || tokenWaits s } }

/-- A task is ISSUED beyond its class's limit and not yet recorded (R143). -/
def overrunDue (s : Blk) (t : Task) : Bool :=
  let us := rgf s (rOverrun + 4 * t.cls) 19 0
  t.state == .issued && !t.overrun && us ≠ 0 && s.time.usable && decide (now s > t.issuedAt + us * 1000)

/-- Record an overrun (R143). -/
def recordOverrun (s : Blk) (slot : Nat) (t : Task) : Blk :=
  let s := setTask s slot { t with overrun := true }
  let s := wr s rOverrunLast (2 ^ 31 + put t.cls 26 25 + put t.ctx 24 17 + put slot 16 0)
  ctxFault (ev (orBits s rIssIrq 1) 0x7e t.ctx) t.ctx uIss 0x42 (slotDetail slot t.issuedEng)

/-! ## Enqueue requests -/

/-- Slots a context holds (TSK_CTX_USED): of its launches, held for unreturned words, and taken by a refill. -/
def ctxUsed (s : Blk) (c : Nat) : Nat :=
  (((Store.vals s.tsk.launches).filter (fun l => l.ctx == c)).map (fun l => l.slots.length + l.refillSlots.length)).foldl
      (· + ·) 0 +
    (s.tsk.held.filter (fun p => p.2.ctx == c && (taskOf s p.1).isNone)).length

/-- TSK_CTX_QUOTA. -/
def ctxQuota (s : Blk) (c : Nat) : Nat := rgf s (bank rTskQuota c) 17 0

/-- ARG of a node in a scope (R95). -/
def argOf (top : Img) (v : Launch) (scope : Nat) (n : Word256) : Nat :=
  v.argBase + (if scope = topScope then 0 else nArgOff (imgNode top scope)) + nArgOff n

/-- Steps 3 to 5 of R152. -/
def applyEnqueue (s : Blk) (e : Nat) (w : Word64) : Blk :=
  let slot := fld w 63 47
  match taskOf s slot with
  | none => s
  | some t =>
    match launchOf s t.launch with
    | none => s
    | some l =>
      let bad := ctxFault s t.ctx uIss 0x31 (slotDetail slot e)
      match scopeNode s l t.scope (fld w 38 27), topImg s l with
      | some n, some top =>
        let arg := argOf top l t.scope n + fld w 26 11 * 0x40
        if fld w 10 0 ≠ 0 || nKind n ≠ 1 || arg ≥ 2 ^ 52 then bad
        else
          let full := fun s => ctxFault s t.ctx uIss 0x53 (mkDetail (put t.ltag 31 0) (put t.tid 11 0) 1)
          if ctxUsed s t.ctx ≥ ctxQuota s t.ctx then full s
          else match takeSlots s 1 with
            | (some [i], s) =>
              let (q, s) := nextSeq s
              let nt := mkTask t.launch l t.tid t.tgen t.scope (fld w 38 27) n .enqueued none arg q
              let s := placeTask s i nt
              let s := modLaunch s t.launch (fun l => { l with
                slots := l.slots ++ [i],
                members := l.members ++ [{ scope := t.scope, node := fld w 38 27, slot := i, joint := none }] })
              startTask s i
            | (_, s) => full s
      | _, _ => bad

/-- An enqueue request is taken on RCPn (R48, R152); in a ruled context it is admitted with its task's completion
(R286). -/
def takeEnqueue (s : Blk) (n src : Nat) (w : Word64) (parityOk : Bool) (waiting : List Nat) : Blk :=
  let e := n * 256 + src
  let slot := fld w 63 47
  match rcpCheck s n src parityOk with
  | (.take, s) =>
    match taskOf s slot with
    | some t =>
      if stampOf s slot = fld w 46 39 ∧ t.state = .issued ∧ t.issuedEng = e then
        if !rgb s (bank rOrdMode t.ctx) 2 then
          let s := ev0 (bump (rcpDiscard s n) rEnqRefused) 0x7f
          ctxFault s t.ctx uIss 0x54 (slotDetail slot e)
        else
          let s := contested (ev s (0x31 + n) t.ctx) t.ctx waiting
          match holdOwed s slot (.enqueue e w) false with
          | some s => s
          | none => applyEnqueue s e w
      else unitFault (ev0 (bump (ev s (0x31 + n) t.ctx) rEnqRefused) 0x7f) uIss 0x31 none (slotDetail slot e)
    | none => unitFault (ev0 (bump (evN s (0x31 + n) none 1) rEnqRefused) 0x7f) uIss 0x31 none (slotDetail slot e)
  | (_, s) => s

end Sys2Proof.Machine
end

