-- ==== Sys2Proof/Machine/Sieve.lean ====
section
/-! DEFINITION. The Router Sieve at the home die and the source die: sieve sets and the Expert Table (R160 to R164),
candidate records and scores (R165 to R169), runs and intake (R170 to R173), selection (R174 to R178), the handing out of
the outcome (R179, R180, R184), pruning (R185, R187) and staging (R188, R190). -/
namespace Sys2Proof.Machine

/-! ## Sets, table and die list -/

/-- SVE_SETn_CFG fields: STAGE, NOISE, POLICY, NORM, KEEP, K, BPOINT, FORMAT, HSHIFT (R197). -/
def setStage (s : Blk) (n : Nat) : Bool := rgb s (setReg n 0) 31
/-- NOISE. -/
def setNoise (s : Blk) (n : Nat) : Bool := rgb s (setReg n 0) 30
/-- POLICY: 0 fall, 1 drop. -/
def setPolicy (s : Blk) (n : Nat) : Nat := rgf s (setReg n 0) 29 28
/-- NORM: 0 softmax, 1 sum, 2 none. -/
def setNorm (s : Blk) (n : Nat) : Nat := rgf s (setReg n 0) 27 26
/-- KEEP. -/
def setKeep (s : Blk) (n : Nat) : Nat := rgf s (setReg n 0) 25 20
/-- K. -/
def setK (s : Blk) (n : Nat) : Nat := rgf s (setReg n 0) 19 14
/-- HSHIFT. -/
def setHshift (s : Blk) (n : Nat) : Nat := rgf s (setReg n 0) 6 3
/-- XT_BASE. -/
def setXt (s : Blk) (n : Nat) : Nat := rgf s (setReg n 4) 17 0
/-- NEXP. -/
def setNexp (s : Blk) (n : Nat) : Nat := rgf s (setReg n 8) 16 0
/-- A range of the die list (R160): base and count. `off`: 0xC HOMES, 0x10 SRCS, 0x14 XDIES. -/
def setRange (s : Blk) (n off : Nat) : Nat × Nat := (rgf s (setReg n off) 25 16, rgf s (setReg n off) 8 0)
/-- OWNER.CTX. -/
def setOwner (s : Blk) (n : Nat) : Nat := rgf s (setReg n 0x1c) 7 0
/-- NSHIFT. -/
def setNshift (s : Blk) (n : Nat) : Nat := rgf s (setReg n 0x1c) 12 8
/-- SEED. -/
def setSeed (s : Blk) (n : Nat) : Nat := rg2 s (setReg n 0x20) (setReg n 0x24)

/-- The dies of a range of the die list. -/
def rangeDies (s : Blk) (n off : Nat) : List DieEnt :=
  let r := setRange s n off
  (List.range r.2).map (fun i => dieEnt s (r.1 + i))

/-- The Expert Table entry of expert x for a set and layer (R161). -/
def xtEnt (s : Blk) (set layer x : Nat) : Word64 :=
  Store.getD s.sve.xt (setXt s set + layer * setNexp s set + x) 0

/-- BIAS of an entry, signed. -/
def xtBias (e : Word64) : Int := let b := fld e 63 48; if b ≥ 2 ^ 15 then (b : Int) - 65536 else (b : Int)
/-- CAP. -/
def xtCap (e : Word64) : Nat := fld e 47 23
/-- DIE_IDX. -/
def xtDie (e : Word64) : Nat := fld e 22 13
/-- RCNT. -/
def xtRcnt (e : Word64) : Nat := fld e 12 10
/-- EN. -/
def xtEn (e : Word64) : Bool := bitAt e 0

/-- The first live Expert Table entry of a set and layer, and how many (R162). -/
def xtSpan (s : Blk) (set layer : Nat) : Nat × Nat := (setXt s set + layer * setNexp s set, setNexp s set)

/-- Two spans overlap. -/
def spansMeet (a b : Nat × Nat) : Bool := decide (a.1 < b.1 + b.2) && decide (b.1 < a.1 + a.2)

/-- Expander scopes that a TALLY has opened. -/
def openScopes (s : Blk) : List XScope := (Store.vals s.sve.scopes).filter (·.opened)

/-- The spans of Expert Table entries in use by runs and expander scopes (R162). -/
def xtLive (s : Blk) : List (Nat × Nat) :=
  (Store.vals s.sve.runs).map (fun r => xtSpan s r.set r.layer) ++
    (openScopes s).map (fun x => xtSpan s x.set x.layer)

/-- SVE_SETn_LIVE (R197). -/
def setLive (s : Blk) (n : Nat) : Nat :=
  ((Store.vals s.sve.runs).filter (fun r => r.set == n)).length + ((openScopes s).filter (fun x => x.set == n)).length

/-- Write SVE_XT_STATUS. -/
def xtStatus (s : Blk) (busy : Bool) (code : Nat) : Blk := wr s rXtStatus (put (b2n busy) 31 31 + put code 3 0)

/-- SVE_XT_CMD.LOAD (R162). A load of no entry is done at once. -/
def xtLoad (s : Blk) : Blk :=
  if s.sve.xtJob.isSome then xtStatus s true 5
  else
    let first := rgf s rXtFirst 17 0
    let count := rgf s rXtCount 18 0
    if first + count > 262144 then xtStatus s false 1
    else if (xtLive s).any (spansMeet (first, count)) then xtStatus s false 2
    else
      let addr := rg2 s rXtAddrLo rXtAddrHi
      let n := cdiv count 8
      if n = 0 then xtStatus s false 0 else
      let s := xtStatus { s with sve := { s.sve with xtJob := some (first, count, n, []), xtFailed := false } } true 0
      forEach (List.range n) s (fun s i => memRead s ((addr + 64 * i) % 2 ^ 52) 0 none uSve 0 (.xtLine i))

/-- An entry that a load refuses (R162). -/
def badXt (e : Word64) : Bool :=
  fld e 9 1 ≠ 0 || decide (xtCap e > 16777216) || decide (xtDie e + xtRcnt e > 1023)

/-- Entry i of fetched lines. -/
def xtOf (ls : Store Line) (i : Nat) : Word64 :=
  BitVec.ofNat 64 (fld (Store.getD ls (i / 8) 0) (64 * (i % 8) + 63) (64 * (i % 8)))

/-- A line of a load has been answered (R162): at the last, all entries are written or none. -/
def xtLine (s : Blk) (i : Nat) (l : Option Line) : Blk :=
  match s.sve.xtJob with
  | none => s
  | some (first, count, left, ls) =>
    let s := match l with
      | some d => { s with sve := { s.sve with xtJob := some (first, count, left - 1, Store.set ls i d) } }
      | none => { s with sve := { s.sve with xtJob := some (first, count, left - 1, ls), xtFailed := true } }
    if left > 1 then s
    else
      let ls := match l with | some d => Store.set ls i d | none => ls
      let done := { s with sve := { s.sve with xtJob := none, xtFailed := false } }
      if s.sve.xtFailed then xtStatus done false 3
      else if (List.range count).any (fun k => badXt (xtOf ls k)) then xtStatus done false 4
      else
        let xt := (List.range count).foldl (fun m k => Store.put 0 m (first + k) (xtOf ls k)) s.sve.xt
        xtStatus { done with sve := { done.sve with xt } } false 0

/-! ## Arming -/

/-- The home index of this instance for a sieve of a context (R164), where it names this instance. -/
def homeHere (s : Blk) (c set mode homeIdx : Nat) : Option Nat :=
  let here := fun (d : DieEnt) => d.valid && d.die == ownDie s && d.ctx == c && d.gen == ctxGen s c
  if mode = 0 then (if here (dieEnt s homeIdx) then some 0 else none)
  else ((rangeDies s set 0xc).zipIdx.find? (fun p => here p.1)).map Prod.snd

/-- A scope's sieve may not be armed (R164). `n`: the EXPERT node that shares its template. -/
def armBad (s : Blk) (c : Nat) (v n : Word256) : Bool :=
  let set := svSet v
  setOwner s set ≠ c || decide (setXt s set + (svLayer v + 1) * setNexp s set > 262144) ||
    decide (setK s set > setKeep s set) || decide (setKeep s set * 2 ^ setHshift s set > 16384) ||
    (homeHere s c set (xpHomeMode n) (xpHomeIdx n)).isNone

/-- A source of SRCS whose stream counts as ended from the start or from a fence on (R173). -/
def srcGone (s : Blk) (d : DieEnt) : Bool := !d.valid || peerFenced s d.die

/-- Arm the sieve of a scope (R170): one more run record. -/
def armRun (s : Blk) (l : Nat) (lv : Launch) (scope : Nat) (v n : Word256) : Blk :=
  let set := svSet v
  let free := (List.range 1024).filter (fun i => (Store.get? s.sve.runs i).isNone)
  let (k, s) := choose s free.length
  let r : Run :=
    { uid := s.sve.uidNext, ctx := lv.ctx, ctxGen := lv.ctxGen, launch := l, ltag := lv.ltag, scope, set,
      layer := svLayer v, expNode := svExp v, closeNode := svClose v, mode := xpHomeMode n,
      home := (homeHere s lv.ctx set (xpHomeMode n) (xpHomeIdx n)).getD 0 }
  let i := free.getD k 0
  pushBack { s with sve := { s.sve with runs := Store.set s.sve.runs i r, uidNext := s.sve.uidNext + 1 } } [.runCheck i]

/-- Write a run record. -/
def setRun (s : Blk) (i : Nat) (r : Run) : Blk := { s with sve := { s.sve with runs := Store.set s.sve.runs i r } }

/-- The run of a scope of a context's launch, with its record number. -/
def runAt (s : Blk) (c ltag scope : Nat) : Option (Nat × Run) :=
  s.sve.runs.find? (fun p => p.2.ctx == c && p.2.ltag == ltag && p.2.scope == scope)

/-- Count SVE events: the register's count and the event source. -/
def sveCount (s : Blk) (reg src c n : Nat) : Blk := evN (bumpN s reg n) src (some c) n

/-! ## Scores and keys -/

/-- A finite float as (negative, mantissa, exponent): the value is ± mantissa × 2^exponent; none for a NaN. Infinity is a
mantissa too large for any rounding. -/
def floatParts (x ebits mbits : Nat) (inf : Bool) : Option (Bool × Nat × Int) :=
  let bias : Int := ((2 ^ (ebits - 1) - 1 : Nat) : Int)
  let neg := (x >>> (ebits + mbits)) % 2 == 1
  let e := (x >>> mbits) % 2 ^ ebits
  let m := x % 2 ^ mbits
  if inf && e == 2 ^ ebits - 1 then (if m = 0 then some (neg, 1, 64) else none)
  else if !inf && e == 2 ^ ebits - 1 && m == 2 ^ mbits - 1 then none
  else if e = 0 then some (neg, m, 1 - bias - (mbits : Int))
  else some (neg, 2 ^ mbits + m, (e : Int) - bias - (mbits : Int))

/-- m / 2^k rounded to nearest, ties to even. -/
def roundEven (m k : Nat) : Nat :=
  let q := m >>> k
  let r := m % 2 ^ k
  if decide (2 * r > 2 ^ k) || (2 * r == 2 ^ k && q % 2 == 1) then q + 1 else q

/-- Round a value to 16 fraction bits and saturate (R166). -/
def toV (p : Bool × Nat × Int) : Int :=
  let e := p.2.2 + 16
  let a : Nat := if e ≥ 0 then p.2.1 * 2 ^ (min e.toNat 64) else roundEven p.2.1 (-e).toNat
  let a : Nat := min a (2 ^ 31 - 1)
  if p.1 then -(a : Int) else a

/-- The sieve value of a score (R166); none where the candidate is unusable. -/
def scoreV (fmt bpoint score : Nat) : Option Int :=
  if fmt = 0 then (floatParts score 8 7 true).map toV
  else if fmt = 1 then (floatParts score 5 10 true).map toV
  else if fmt = 2 then (if score ≥ 256 then none else (floatParts score 4 3 false).map toV)
  else if fmt = 3 then (if score ≥ 256 then none else (floatParts score 5 2 true).map toV)
  else if fmt = 4 then
    some ((if score ≥ 2 ^ 15 then (score : Int) - 65536 else (score : Int)) * ((2 ^ (16 - bpoint) : Nat) : Int))
  else none

/-- The sieve value of a score in a set's FORMAT. -/
def setV (s : Blk) (n score : Nat) : Option Int := scoreV (rgf s (setReg n 0) 9 7) (rgf s (setReg n 0) 13 10) score

/-- `mix` of R175. -/
def quillMix (x : Nat) : Nat :=
  let x := (x ^^^ (x >>> 32)) * 0xc3a59e174b6d2f35 % 2 ^ 64
  let x := (x ^^^ (x >>> 29)) * 0x8f1d62b7e9c40a5b % 2 ^ 64
  x ^^^ (x >>> 32)

/-- `quill` of R175. -/
def quill (seed step layer token expert : Nat) : Nat :=
  quillMix (quillMix (seed ^^^ step) ^^^ ((layer <<< 40) ||| (token <<< 16) ||| expert))

/-- `noise` of R175. -/
def noiseOf (seed step layer token expert nshift : Nat) : Int :=
  let h : Nat := quill seed step layer token expert % 2 ^ 32
  let v : Int := if h ≥ 2 ^ 31 then (h : Int) - 4294967296 else (h : Int)
  v / ((2 ^ nshift : Nat) : Int)

/-- The key of a candidate (R172). -/
def candKey (s : Blk) (r : Run) (tok x : Nat) (v : Int) : Int :=
  v + (if setNoise s r.set then noiseOf (setSeed s r.set) r.ltag r.layer tok x (setNshift s r.set) else 0) +
    xtBias (xtEnt s r.set r.layer x) * 256

/-- EXPERT, TOKEN, SCORE and SLOT of a candidate record (R165). -/
def crExpert (w : Word64) : Nat := fld w 46 31
/-- TOKEN. -/
def crTok (w : Word64) : Nat := fld w 30 16
/-- SCORE. -/
def crScore (w : Word64) : Nat := fld w 15 0
/-- SLOT. -/
def crSlot (w : Word64) : Nat := fld w 63 47

/-! ## Admission to a run -/

/-- The order of a retained list (R172): key descending, then expert ascending. -/
def candLe (a b : Cand) : Bool := decide (a.key > b.key) || (a.key == b.key && decide (a.expert ≤ b.expert))

/-- The retained list of a token: the first KEEP over all lanes (R172). -/
def retained (keep : Nat) (t : TokSt) : List Cand := (sortBy candLe t.kept).take keep

/-- Put a candidate into its lane, x mod 16, which keeps its best KEEP (R171, R172). Answers whether it is a
duplicate. -/
def laneAdd (keep : Nat) (t : TokSt) (c : Cand) : Bool × TokSt :=
  match t.kept.find? (fun d => d.expert == c.expert) with
  | some d =>
    if d.key ≥ c.key then (true, t)
    else (false, { t with kept := t.kept.map (fun d => if d.expert = c.expert then c else d) })
  | none =>
    let mine := t.kept.filter (fun d => d.expert % 16 == c.expert % 16)
    let rest := t.kept.filter (fun d => d.expert % 16 ≠ c.expert % 16)
    (false, { t with kept := rest ++ (sortBy candLe (mine ++ [c])).take keep })

/-- The k largest keys of the candidates admitted for a token (R188). -/
def keysAdd (k : Nat) (ks : List Int) (x : Int) : List Int := (sortBy (fun a b => decide (a ≥ b)) (ks ++ [x])).take k

/-- The free entries of each lane: SVE_LANE_FREE (R171, R196). -/
def laneFree (s : Blk) : Nat := 16384 - ((Store.vals s.sve.runs).map (·.share)).foldl (· + ·) 0

/-- The lane storage a run needs. -/
def runNeed (s : Blk) (r : Run) : Nat := setKeep s r.set * 2 ^ setHshift s r.set

/-- A record passes the tests of R167 and R170 for a run: a usable score, the run's token block, an enabled expert. -/
def recFits (s : Blk) (r : Run) (w : Word64) : Bool :=
  (setV s r.set (crScore w)).isSome && crTok w >>> setHshift s r.set == r.home &&
    decide (crExpert w < setNexp s r.set) && xtEn (xtEnt s r.set r.layer (crExpert w))

/-- A run's stage branch, or any other, to a die-list entry. -/
def branchAt (r : Run) (ent : Nat) : Option Branch := r.branches.find? (fun b => b.ent == ent)

/-- Change the branch to a die-list entry, which is made where there is none. -/
def modBranch (r : Run) (ent : Nat) (f : Branch → Branch) : Run :=
  match branchAt r ent with
  | some _ => { r with branches := r.branches.map (fun b => if b.ent = ent then f b else b) }
  | none => { r with branches := r.branches ++ [f { ent }] }

/-- A request of a run's fan-out. -/
def runReq (s : Blk) (r : Run) (ent : Nat) (b : FBody) : FReq :=
  let d := dieEnt s ent
  { dst := d.die, dstCtx := d.ctx, dstGen := d.gen, srcCtx := r.ctx, srcGen := r.ctxGen, ltag := r.ltag, body := b,
    owner := .run r.uid ent }

/-- A branch may not be sent to (R185, R196). -/
def entGone (s : Blk) (ent : Nat) : Bool := !(dieEnt s ent).valid || peerFenced s (dieEnt s ent).die

/-- Send one STAGE for expert x (R188). -/
def sendStage (s : Blk) (i : Nat) (x : Nat) : Blk :=
  match Store.get? s.sve.runs i with
  | none => s
  | some r =>
    let ent := xtDie (xtEnt s r.set r.layer x)
    let s := setRun s i { r with staged := r.staged ++ [x] }
    if ((branchAt r ent).bind (·.pruned)).isSome then s
    else if entGone s ent then
      setRun s i (modBranch { r with staged := r.staged ++ [x] } ent (fun b => { b with pruned := some kPeerFenced }))
    else
      let s := sveCount s rSveStaged 0xda r.ctx 1
      let s := trace s 7 (some r.ctx) (put x 127 112 + put ent 109 100 + put r.scope 99 88)
      pushBack s [.fabReq (runReq s r ent (.stage x r.scope r.expNode))]

/-- The staging test of R188 for a candidate of a token. -/
def stageTest (s : Blk) (r : Run) (t : TokSt) (c : Cand) : Bool :=
  let minN := rgf s (setReg r.set 0x18) 11 0
  let margin := rgf s (setReg r.set 0x18) 31 16
  let k := setK s r.set
  setStage s r.set && decide (t.n ≥ max minN k) && !r.staged.contains c.expert &&
    (match t.keys[k - 1]? with
     | some th => decide (c.key ≥ th - (margin : Int) * 256)
     | none => false)

/-- Fault 0x31 against a run's context, once per run (R167, R170). -/
def runFault (s : Blk) (i : Nat) (r : Run) : Blk :=
  if r.faulted then s else ctxFault (setRun s i { r with faulted := true }) r.ctx uSve 0x31 0

/-- A record is discarded at a run (R170). -/
def runDiscard (s : Blk) (i : Nat) (r : Run) : Blk := runFault (sveCount s rSveCandBad 0xd1 r.ctx 1) i r

/-- Admit one record to run i, whose lane storage is there (R170 to R172, R188). -/
def admitRec (s : Blk) (i : Nat) (w : Word64) : Blk :=
  match Store.get? s.sve.runs i with
  | none => s
  | some r =>
    if !recFits s r w then runDiscard s i r
    else
      match setV s r.set (crScore w) with
      | none => s
      | some v =>
        let x := crExpert w
        let c : Cand := { expert := x, v, key := candKey s r (crTok w) x v }
        let t := Store.getD r.toks (crTok w) {}
        let (dup, t) := laneAdd (setKeep s r.set) t c
        let t := { t with n := t.n + 1, keys := keysAdd (setK s r.set) t.keys c.key }
        let r := { r with toks := Store.set r.toks (crTok w) t, admitted := r.admitted + 1,
                          started := r.started <|> some (now s) }
        let s := sveCount (setRun s i r) rSveCandIn 0xd0 r.ctx 1
        let s := if dup then sveCount s rSveCandDup 0xd2 r.ctx 1 else s
        if !isRuled s r.ctx && stageTest s r t c then sendStage s i x else s

/-- An END marker from die d (R173). -/
def runMarker (s : Blk) (i d : Nat) (dead : Bool) : Blk :=
  match Store.get? s.sve.runs i with
  | none => s
  | some r =>
    if !(rangeDies s r.set 0x10).any (fun e => e.die == d) || r.marked.contains d then ctxFault s r.ctx uSve 0x31 0
    else
      push (setRun s i { r with marked := r.marked ++ [d], ends := r.ends ++ [d], deadEnd := r.deadEnd || dead,
                                started := r.started <|> some (now s) }) [.runCheck i]

/-- A CAND message, or records of a local source, for a run (R170 to R173): the answer, and what follows. `src`: the die
they come from. -/
def takeCand (s : Blk) (src c ltag scope : Nat) (dead fin : Bool) (recs : List Word64) : Nat × Blk :=
  match runAt s c ltag scope with
  | none =>
    match liveLaunch s c ltag with
    | some (_, l) => if l.sieved.contains scope then (kAck, sveCount s rSveCandBad 0xd1 c recs.length) else (kRingFull, s)
    | none => (kRingFull, s)
  | some (i, r) =>
    if r.phase ≠ .intake then (kAck, sveCount s rSveCandBad 0xd1 c recs.length)
    else
      let fromSrc := (rangeDies s r.set 0x10).any (fun e => e.die == src)
      let wants := fromSrc && r.share == 0 && recs.any (recFits s r)
      if wants && laneFree s < runNeed s r then (kRingFull, s)
      else
        let s := if wants then setRun s i { r with share := runNeed s r } else s
        let s :=
          if fromSrc then forEach recs s (fun s w => admitRec s i w)
          else if recs.isEmpty then s
          else ctxFault (sveCount s rSveCandBad 0xd1 c recs.length) r.ctx uSve 0x31 0
        (kAck, if fin then runMarker s i src dead else s)

/-! ## Selection -/

/-- The table of exp_q: t[i] is 2^(i/64) with 30 fraction bits, rounded to the nearest integer (R176). -/
def expTable : List Nat :=
  [ 0x40000000, 0x40b268fa, 0x4166c34c, 0x421d1462, 0x42d561b4, 0x438fb0cb, 0x444c0740, 0x450a6abb,
    0x45cae0f2, 0x468d6fae, 0x47521cc6, 0x4818ee22, 0x48e1e9ba, 0x49ad1598, 0x4a7a77d4, 0x4b4a169c ] ++
  [ 0x4c1bf829, 0x4cf022ca, 0x4dc69cdd, 0x4e9f6cd4, 0x4f7a9930, 0x50582888, 0x51382182, 0x521a8ad7,
    0x52ff6b55, 0x53e6c9da, 0x54d0ad5a, 0x55bd1cdb, 0x56ac1f75, 0x579dbc57, 0x5891fac1, 0x5988e209 ] ++
  [ 0x5a82799a, 0x5b7ec8f2, 0x5c7dd7a4, 0x5d7fad59, 0x5e8451d0, 0x5f8bccdb, 0x60962665, 0x61a3666d,
    0x62b39509, 0x63c6ba64, 0x64dcdec3, 0x65f60a7f, 0x6712460b, 0x683199ed, 0x69540ec9, 0x6a79ad56 ] ++
  [ 0x6ba27e65, 0x6cce8ae1, 0x6dfddbcc, 0x6f307a41, 0x70666f76, 0x719fc4b9, 0x72dc8374, 0x741cb528,
    0x75606374, 0x76a7980f, 0x77f25cce, 0x7940bb9e, 0x7a92be8b, 0x7be86fba, 0x7d41d96e, 0x7e9f0606 ]

/-- `exp_q` of R176, for x ≤ 0. -/
def expQ (x : Int) : Nat :=
  let y : Int := (x * 0x5c551d95) / 1073741824
  let q : Int := y / 65536
  let f := (y - q * 65536).toNat
  let i := f / 2 ^ 10
  let r := f % 2 ^ 10
  let p := 0x40000000 + ((r * 0x2c5c85fe) >>> 16) + ((r * r * 0x0f5fdf00) >>> 32)
  ((expTable.getD i 0 * p) >>> 30) >>> (-q).toNat

/-- `weights` of R177, over the values of the chosen candidates. -/
def weightsOf (norm : Nat) (vs : List Int) : List Nat :=
  let n := vs.length
  if norm = 2 then vs.map (fun _ => 0x8000)
  else if norm = 1 then
    let ps := vs.map Int.toNat
    let t := ps.foldl (· + ·) 0
    ps.map (fun p => if t = 0 then (0x8000 + n / 2) / n else (p * 0x8000 + t / 2) / t)
  else
    let m := match vs with | [] => 0 | v :: r => r.foldl max v
    let es := vs.map (fun v => expQ (v - m))
    let t := es.foldl (· + ·) 0
    es.map (fun e => (e * 0x8000 + t / 2) / t)

/-- An assignment (R174): token, expert, die-list entry, replica, weight, rank, whether it fell through. -/
structure Assn where
  tok : Nat
  expert : Nat
  ent : Nat
  replica : Nat
  weight : Nat
  rank : Nat
  fell : Bool
deriving DecidableEq, Repr

/-- What selection keeps while it goes through the tokens. -/
structure Sel where
  used : Store Nat := []
  out : Store Nat := []
  drops : Nat := 0
  asg : List Assn := []
deriving DecidableEq, Repr

/-- `replica` of R178: the best i, for expert x with entry e, token tok. -/
def replicaOf (sel : Sel) (e : Word64) (x tok : Nat) : Nat :=
  let g := xtRcnt e + 1
  let key := fun (i : Nat) => Store.getD sel.out (x * 8 + i) 0 * 8 + (((i : Int) - tok - x) % g).toNat
  ((List.range g).drop 1).foldl (fun b i => if key i < key b then i else b) 0

/-- The inner loop of R174: the candidate in place j that still has capacity, else a fall-through. -/
def seek (cap : Nat → Nat) (fall : Bool) (sel : Sel) (cs : List Cand) :
    Nat → Option Nat → Nat → Bool → Option Nat × Nat × Bool
  | 0, _, nxt, fell => (none, nxt, fell)
  | _ + 1, none, nxt, fell => (none, nxt, fell)
  | fuel + 1, some j, nxt, fell =>
    match cs[j]? with
    | none => (none, nxt, fell)
    | some c =>
      if Store.getD sel.used c.expert 0 < cap c.expert then (some j, nxt, fell)
      else if fall && nxt < cs.length then seek cap fall sel cs fuel (some nxt) (nxt + 1) true
      else (none, nxt, fell)

/-- One choice r of a token (R174). -/
def selOne (ent : Nat → Word64) (fall : Bool) (tok : Nat) (cs : List Cand) (ws : List Nat) (st : Sel × Nat) (r : Nat) :
    Sel × Nat :=
  let (sel, nxt) := st
  match seek (fun x => xtCap (ent x)) fall sel cs (cs.length + 1) (some r) nxt false with
  | (none, nxt, _) => ({ sel with drops := sel.drops + 1 }, nxt)
  | (some j, nxt, fell) =>
    match cs[j]? with
    | none => (sel, nxt)
    | some c =>
      let x := c.expert
      let i := replicaOf sel (ent x) x tok
      let a : Assn := { tok, expert := x, ent := xtDie (ent x) + i, replica := i, weight := ws.getD r 0, rank := r, fell }
      ({ sel with used := Store.set sel.used x (Store.getD sel.used x 0 + 1),
                  out := Store.set sel.out (x * 8 + i) (Store.getD sel.out (x * 8 + i) 0 + 1),
                  asg := sel.asg ++ [a] }, nxt)

/-- `finish` of R174: the assignments and the drops of a run. -/
def selectRun (s : Blk) (r : Run) : Sel :=
  let ent := xtEnt s r.set r.layer
  r.toks.foldl (fun sel p =>
    let cs := retained (setKeep s r.set) p.2
    let n := min (setK s r.set) cs.length
    let ws := weightsOf (setNorm s r.set) ((cs.take n).map (·.v))
    ((List.range n).foldl (selOne ent (setPolicy s r.set == 0) p.1 cs ws) (sel, n)).1) {}

/-- An assignment record (R179). -/
def assnRec (die : Nat) (a : Assn) : Word64 :=
  BitVec.ofNat 64 (put die 63 43 + put a.tok 42 28 + put a.weight 27 12 + put a.rank 11 7 + put a.replica 6 4 +
    put (b2n a.fell) 0 0)

/-! ## Handing out -/

/-- Cut a list into pieces of at most n. -/
def chunks {α : Type} (n : Nat) : Nat → List α → List (List α)
  | 0, _ => []
  | _ + 1, [] => []
  | f + 1, xs => xs.take n :: chunks n f (xs.drop n)

/-- Pieces of at most 32. -/
def by32 {α : Type} (xs : List α) : List (List α) := chunks 32 (xs.length / 32 + 1) xs

/-- Distinct values, rising. -/
def rising (xs : List Nat) : List Nat := sortBy (fun a b => decide (a ≤ b)) xs.eraseDups

/-- The messages of one branch (R180): its TALLYs, the last of them final, then its ASSIGNs. -/
def branchMsgs (die : Nat) (r : Run) (mine : List Assn) : List FBody :=
  let xs := rising (mine.map (·.expert))
  let ents := xs.map (fun x => (x, (mine.filter (fun a => a.expert == x)).length))
  let parts := match by32 ents with | [] => [[]] | ps => ps
  let tallies := parts.zipIdx.map (fun p => FBody.tally (p.2 + 1 == parts.length) r.home r.scope r.expNode p.1)
  tallies ++ xs.flatMap (fun x =>
    (by32 (mine.filter (fun a => a.expert == x))).map (fun as => FBody.assign x r.home r.scope (as.map (assnRec die))))

/-- Take the waiting and repeated requests of a branch away (R185: nothing further is sent on it). -/
def dropBranch (s : Blk) (uid ent : Nat) : Blk :=
  let mine := fun (r : FReq) => r.owner == .run uid ent
  let keep := fun (r : Retry) => !mine r.what.req
  let keepW := fun (w : Work) => match w with | .fabReq q => !mine q | _ => true
  { s with xch := { s.xch with waitq := s.xch.waitq.filter (fun q => !mine q), retries := s.xch.retries.filter keep },
           work := s.work.filter keepW }

/-- Prune a branch of a run whose selection is done (R185). -/
def pruneNow (s : Blk) (i : Nat) (r : Run) (b : Branch) (code : Nat) : Blk :=
  let s := setRun s i (modBranch r b.ent (fun b => { b with pruned := some code, unanswered := 0, closed := true }))
  let s := dropBranch s r.uid b.ent
  let s := sveCount s rSvePruned 0xd6 r.ctx b.assigns
  let die := (dieEnt s b.ent).die
  let s := modLaunch s r.launch (fun l => { l with pruned := l.pruned ++ [(die, r.scope)] })
  let s := ctxFault s r.ctx uSve 0x5b (mkDetail (put r.ltag 31 0 + put die 52 32) (put code 3 0 + put i 25 16) b.assigns)
  push s (List.replicate b.pairs (.nodeArrive r.launch r.scope r.closeNode true) ++ [.runCheck i])

/-- An answer prunes a branch (R185); before selection the pruning is only noted, since the branch owes nothing yet. A branch is
pruned once. -/
def pruneBranch (s : Blk) (i : Nat) (ent code : Nat) : Blk :=
  match Store.get? s.sve.runs i with
  | none => s
  | some r =>
    let b := (branchAt r ent).getD { ent }
    if b.pruned.isSome then s
    else if r.phase == .fanout then pruneNow s i r b code
    else dropBranch (setRun s i (modBranch r ent (fun b => { b with pruned := some code }))) r.uid ent

/-- Send one branch's requests, or prune it (R180, R185). -/
def sendBranch (s : Blk) (i : Nat) (ent : Nat) (msgs : List FBody) : Blk :=
  match Store.get? s.sve.runs i with
  | none => s
  | some r =>
    let b := (branchAt r ent).getD { ent }
    if b.closed then s else match b.pruned with
    | some code => pruneNow s i r b code
    | none =>
      if entGone s ent then pruneNow s i r b kPeerFenced
      else
        let s := setRun s i (modBranch r ent (fun b => { b with unanswered := b.unanswered + msgs.length }))
        pushBack s (msgs.map (fun m => .fabReq (runReq s r ent m)))

/-- Send the CANCEL of a staged expert whose replica-0 die received no assignment of it (R190). -/
def sendCancel (s : Blk) (i x : Nat) : Blk :=
  match Store.get? s.sve.runs i with
  | none => s
  | some r =>
    let ent := xtDie (xtEnt s r.set r.layer x)
    if ((branchAt r ent).bind (·.pruned)).isSome || entGone s ent then sendBranch s i ent []
    else
      let s := sveCount s rSveStageCancel 0xdb r.ctx 1
      let s := trace s 7 (some r.ctx) (put x 127 112 + put 1 111 110 + put ent 109 100 + put r.scope 99 88)
      sendBranch s i ent [.cancel x r.scope r.expNode]

/-- The staging decisions of a ruled run at its release (R291): ascending token, then retained order. -/
def ruledStage (s : Blk) (i : Nat) (r : Run) : Blk :=
  forEach r.toks s (fun s p =>
    forEach (retained (setKeep s r.set) p.2) s (fun s c =>
      match Store.get? s.sve.runs i with
      | some r => if stageTest s r p.2 c then sendStage s i c.expert else s
      | none => s))

/-- Selection and the handing out of its outcome (R174, R180). -/
def finishRun (s : Blk) (i : Nat) : Blk :=
  match Store.get? s.sve.runs i with
  | none => s
  | some r0 =>
    let s := if isRuled s r0.ctx then ruledStage s i r0 else s
    let r := (Store.get? s.sve.runs i).getD r0
    let sel := selectRun s r
    let falls := (sel.asg.filter (·.fell)).length
    let degraded := r.deadEnd || r.timedOut || r.badDie || r.laneLost
    let ents := rising (sel.asg.map (·.ent) ++
      (if r.mode = 1 then (List.range (setRange s r.set 0x14).2).map (fun k => (setRange s r.set 0x14).1 + k) else []))
    let of := fun (ent : Nat) => sel.asg.filter (fun a => a.ent == ent)
    let pairsOf := fun (ent : Nat) => (rising ((of ent).map (·.expert))).length
    let r := ents.foldl (fun r ent =>
      modBranch r ent (fun b => { b with pairs := pairsOf ent, assigns := (of ent).length })) r
    let r := { r with phase := .fanout, nAssign := sel.asg.length, nFall := falls, nDrop := sel.drops }
    let s := setRun s i r
    let s := sveCount s rSveAssign 0xd3 r.ctx sel.asg.length
    let s := sveCount s rSveFall 0xd4 r.ctx falls
    let s := sveCount s rSveDrop 0xd5 r.ctx sel.drops
    let s := forEach sel.asg s (fun s a =>
      trace s 6 (some r.ctx) (put (assnRec (ownDie s) a).toNat 127 64 + put a.expert 63 48 + put a.ent 47 38 +
        put r.scope 37 26))
    let pairs := (ents.map pairsOf).foldl (· + ·) 0
    let s := pushBack s (.nodeClose r.launch r.scope r.closeNode (pairs + b2n degraded) ::
      (if degraded then [.nodeArrive r.launch r.scope r.closeNode true] else []))
    let unchosen := r.staged.filter (fun x =>
      !sel.asg.any (fun a => a.expert == x && a.ent == xtDie (xtEnt s r.set r.layer x)))
    let s := forEach unchosen s (fun s x => sendCancel s i x)
    let s := forEach ents s (fun s ent => sendBranch s i ent (branchMsgs (ownDie s) r (of ent)))
    pushBack s [.runCheck i]

/-- Intake ends (R173). A ruled run then waits for its release (R290); any other goes on to selection. -/
def endIntake (s : Blk) (i : Nat) : Blk :=
  match Store.get? s.sve.runs i with
  | none => s
  | some r =>
    let s := setRun s i { r with phase := .ready }
    let s :=
      if r.deadEnd || r.timedOut || r.badDie || r.laneLost then
        let s := sveCount s rSveDegraded 0xd8 r.ctx 1
        ctxFault s r.ctx uSve 0x5a (mkDetail (put r.ltag 31 0)
          (put i 9 0 + put (b2n r.deadEnd) 16 16 + put (b2n r.timedOut) 17 17 + put (b2n r.badDie) 18 18 +
            put (b2n r.laneLost) 19 19) r.admitted)
      else s
    if isRuled s r.ctx then s else finishRun s i

/-- The RUN trace record (R349). -/
def traceRun (s : Blk) (r : Run) : Blk :=
  trace s 5 (some r.ctx) (put (min r.admitted 0xffffff) 127 104 + put r.nAssign 103 84 + put r.nFall 83 64 +
    put r.nDrop 63 44 + put r.scope 43 32 + put r.layer 31 24 + put r.set 23 20 +
    put (b2n (r.deadEnd || r.timedOut || r.badDie || r.laneLost)) 19 19)

/-- Look at run i again: its intake may end (R173), or it may have finished (R180). -/
def runCheck (s : Blk) (i : Nat) : Blk :=
  match Store.get? s.sve.runs i with
  | none => s
  | some r =>
    match r.phase with
    | .intake =>
      let gone := (rangeDies s r.set 0x10).filter (srcGone s)
      let r := { r with badDie := r.badDie || !gone.isEmpty,
                        ends := (r.ends ++ (gone.filter (·.valid)).map (·.die)).eraseDups }
      let s := setRun s i r
      if (rangeDies s r.set 0x10).all (fun d => srcGone s d || r.ends.contains d.die) then endIntake s i else s
    | .ready => s
    | .fanout =>
      if r.branches.all (fun b => b.unanswered == 0) then
        let s := { s with sve := { s.sve with runs := Store.erase s.sve.runs i } }
        let s := modLaunch s r.launch (fun l => { l with sieved := l.sieved ++ [r.scope] })
        traceRun (ev s 0xd9 r.ctx) r
      else s

/-- A run's intake has timed out (R173): SVE_RUN_TIMEOUT has passed since its first record or marker. -/
def runTimeoutDue (s : Blk) (r : Run) : Bool :=
  r.phase == .intake && s.time.usable &&
    (match r.started with
     | some t => decide (now s ≥ t + rgf s rRunTimeout 19 0 * 1000)
     | none => false)

/-- The answer to a request of a run's fan-out (R180, R185, R273). -/
def runAnswer (s : Blk) (uid ent : Nat) (b : FBody) (code : Nat) : Blk :=
  match s.sve.runs.find? (fun p => p.2.uid == uid) with
  | none => s
  | some (i, r) =>
    if code = kAck then
      let stage := match b with | .stage _ _ _ => true | _ => false
      if stage then s
      else push (setRun s i (modBranch r ent (fun b => { b with unanswered := b.unanswered - 1 }))) [.runCheck i]
    else pruneBranch s i ent code

/-! ## The source side -/

/-- What the source side of a scope keeps. -/
def srcOf (s : Blk) (l scope : Nat) : SrcSt :=
  (s.sve.srcs.find? (fun x => x.launch == l && x.scope == scope)).getD { launch := l, scope }

/-- Write what the source side of a scope keeps. -/
def setSrc (s : Blk) (v : SrcSt) : Blk :=
  { s with sve := { s.sve with srcs := s.sve.srcs.filter (fun x => x.launch ≠ v.launch || x.scope ≠ v.scope) ++ [v] } }

/-- The homes of a scope's source: die-list entries (R168, R169). -/
def scopeHomes (s : Blk) (n : Word256) : List Nat :=
  if xpHomeMode n = 0 then [xpHomeIdx n]
  else let r := setRange s (xpSet n) 0xc; (List.range r.2).map (fun i => r.1 + i)

/-- The stream of a source scope to a home, made at its first use. -/
def needStream (s : Blk) (t : Task) (ent : Nat) : Stream × Blk :=
  match s.sve.streams.find? (fun x => x.launch == t.launch && x.scope == t.scope && x.ent == ent) with
  | some x => (x, s)
  | none =>
    let x : Stream := { uid := s.sve.uidNext, launch := t.launch, scope := t.scope, ctx := t.ctx, ctxGen := t.ctxGen,
                        ltag := t.ltag, ent }
    (x, { s with sve := { s.sve with streams := s.sve.streams ++ [x], uidNext := s.sve.uidNext + 1 } })

/-- Change a stream. -/
def modStream (s : Blk) (uid : Nat) (f : Stream → Stream) : Blk :=
  { s with sve := { s.sve with streams := s.sve.streams.map (fun x => if x.uid = uid then f x else x) } }

/-- Send the records a stream holds as one CAND message (R168, R169). -/
def sendCand (s : Blk) (x : Stream) (fin dead : Bool) : Blk :=
  let d := dieEnt s x.ent
  let r : FReq := { dst := d.die, dstCtx := d.ctx, dstGen := d.gen, srcCtx := x.ctx, srcGen := x.ctxGen, ltag := x.ltag,
                    body := .cand x.scope dead fin x.recs, owner := .cand x.uid }
  let s := modStream s x.uid (fun y => { y with recs := [] })
  if !d.valid then push s [.answered r kPeerFenced true]
  else
    let s := if d.die = ownDie s then s else ev s 0xe3 x.ctx
    push s [.fabReq r]

/-- A checked record goes to its home (R168): at once into the local sieve, or into the message for its home, which
leaves when it is full. -/
def emitRec (s : Blk) (t : Task) (ent : Nat) (w : Word64) : Blk :=
  let (x, s) := needStream s t ent
  if x.stopped then sveCount s rSveCandBad 0xd1 t.ctx 1
  else
    let x := { x with recs := x.recs ++ [w] }
    let s := modStream s x.uid (fun _ => x)
    if x.recs.length ≥ 32 || (dieEnt s ent).die = ownDie s then sendCand s x false false else s

/-- A stream to a home has been refused for good (R168): its remaining records are discarded and counted. -/
def stopStream (s : Blk) (uid : Nat) (c : Nat) (recs : List Word64) : Blk :=
  let mine := fun (r : FReq) => r.owner == .cand uid
  let count := fun (r : FReq) => match r.body with | .cand _ _ _ rs => rs.length | _ => 0
  let kept := (s.sve.streams.find? (fun x => x.uid == uid)).map (fun x => x.recs.length)
  let waits := ((s.xch.waitq.filter mine).map count).foldl (· + ·) 0
  let held := ((s.xch.retries.filter (fun r => mine r.what.req)).map (fun r => count r.what.req)).foldl (· + ·) 0
  let keep := fun (r : Retry) => !mine r.what.req
  let s := { s with xch := { s.xch with waitq := s.xch.waitq.filter (fun q => !mine q),
                                        retries := s.xch.retries.filter keep } }
  let s := modStream s uid (fun x => { x with recs := [], stopped := true })
  sveCount s rSveCandBad 0xd1 c (recs.length + kept.getD 0 + waits + held)

/-- The source task of a scope has reached a final state: END markers go to its homes (R169). -/
def streamEnd (s : Blk) (slot : Nat) (dead : Bool) : Blk :=
  match taskOf s slot with
  | none => s
  | some t =>
    match (launchOf s t.launch).bind (fun l => expertNode s l t.scope) with
    | none => s
    | some (_, n) =>
      if (srcOf s t.launch t.scope).ended then s
      else
        let s := setSrc s { srcOf s t.launch t.scope with ended := true }
        let s := forEach (scopeHomes s n).reverse s (fun s ent =>
          let (x, s) := needStream s t ent
          if x.stopped then s else sendCand s x true (dead || t.dead))
        { s with sve := { s.sve with
            streams := s.sve.streams.filter (fun x => x.launch ≠ t.launch || x.scope ≠ t.scope || x.stopped) } }

/-- A candidate record, whose word has been taken from engine e, is checked and sent to its home (R167, R168). -/
def candRecord (s : Blk) (e : Nat) (w : Word64) : Blk :=
  let bad := fun (s : Blk) (c : Option Nat) => evN (bump s rSveCandBad) 0xd1 c 1
  let slot := crSlot w
  match taskOf s slot with
  | none => unitFault (bad s none) uSve 0x31 none (slotDetail' slot e)
  | some t =>
    match (launchOf s t.launch).bind (fun l => expertNode s l t.scope) with
    | none => unitFault (bad s none) uSve 0x31 none (slotDetail' slot e)
    | some (_, n) =>
      if t.kind ≠ .kernel || t.state ≠ .issued || t.issuedEng ≠ e || xpSrc n ≠ t.node then
        unitFault (bad s none) uSve 0x31 none (slotDetail' slot e)
      else if (srcOf s t.launch t.scope).ended then bad s (some t.ctx)
      else
        let set := xpSet n
        if (setV s set (crScore w)).isNone then bad s (some t.ctx)
        else
          let h := crTok w >>> setHshift s set
          let homes := if xpHomeMode n = 0 then 1 else (setRange s set 0xc).2
          if h ≥ homes || crExpert w ≥ setNexp s set then
            let s := bad s (some t.ctx)
            let src := srcOf s t.launch t.scope
            if src.faulted then s
            else ctxFault (setSrc s { src with faulted := true }) t.ctx uSve 0x31 (slotDetail' slot e)
          else emitRec s t ((scopeHomes s n).getD h 0) w
where
  /-- DETAIL of a fault that names a slot and an engine (R392). -/
  slotDetail' (slot e : Nat) : Nat := mkDetail (put slot 16 0) (put e 11 0) 0

end Sys2Proof.Machine
end

