-- ==== Sys2Proof/Machine/Expander.lean ====
section
/-! DEFINITION. The expander at the expert die: scopes and expert tasks (R181), assignment lists (R182), home maps (R183),
limits (R186), weight-fetch tasks (R189, R190), and the release of a ruled scope (R291). -/
namespace Sys2Proof.Machine

/-- The expander scope of a scope of a launch, with its record number. -/
def scopeAt (s : Blk) (l scope : Nat) : Option (Nat × XScope) :=
  s.sve.scopes.find? (fun p => p.2.launch == l && p.2.scope == scope)

/-- An expander scope by its identity. -/
def scopeUid (s : Blk) (uid : Nat) : Option (Nat × XScope) := s.sve.scopes.find? (fun p => p.2.uid == uid)

/-- Write a scope record. -/
def setScope (s : Blk) (i : Nat) (x : XScope) : Blk :=
  { s with sve := { s.sve with scopes := Store.set s.sve.scopes i x } }

/-- Change the entry of an expert of a scope. -/
def modX (s : Blk) (i expert : Nat) (f : XTask → XTask) : Blk :=
  { s with sve := { s.sve with scopes := Store.modify s.sve.scopes i (fun x =>
      { x with tasks := x.tasks.map (fun k => if k.expert = expert then f k else k) }) } }

/-- The home-map rows in use (R183). -/
def rowsUsed (s : Blk) : List Nat := (Store.vals s.sve.scopes).flatMap (fun x => x.tasks.filterMap (·.row))

/-- The homes of an EXPERT node: home index and die-list entry (R168). -/
def homeList (s : Blk) (n : Word256) : List (Nat × Nat) := (scopeHomes s n).zipIdx.map (fun p => (p.2, p.1))

/-- The EXPERT node that a request names, where its launch, scope and EXP_NODE fit (R181). -/
def xNode (s : Blk) (l : Launch) (scope node : Nat) : Option Word256 :=
  match scopeNode s l scope node with
  | some n => if nKind n = 3 && setOwner s (xpSet n) == l.ctx then some n else none
  | none => none

/-- SVE_XL_LINES. -/
def xlLines (s : Blk) : Nat := rgf s rXlLines 8 0

/-- The address of a task's list (R182). -/
def listAddr (s : Blk) (hlist : Nat) : Nat := (rg2 s rXlBaseLo rXlBaseHi + 64 * hlist) % 2 ^ 52

/-- Fault 0x56 (R186). -/
def expFail (s : Blk) (i : Nat) (x : XScope) : Blk :=
  let ltag := ((launchOf s x.launch).map (·.ltag)).getD 0
  ctxFault (ev s 0xe2 x.ctx) x.ctx uSve 0x56 (mkDetail (put ltag 31 0) (put i 9 0) 1)

/-- A new scope record; a scope of a ruled context starts held until its release (R291). -/
def newScope (s : Blk) (l : Nat) (lv : Launch) (scope node : Nat) (n : Word256) : Option (Nat × Blk) :=
  let free := (List.range 1024).filter (fun i => (Store.get? s.sve.scopes i).isNone)
  if free.isEmpty then none
  else
    let (k, s) := choose s free.length
    let i := free.getD k 0
    let x : XScope := { uid := s.sve.uidNext, ctx := lv.ctx, ctxGen := lv.ctxGen, launch := l, scope, node,
                        set := xpSet n, layer := xpLayer n,
                        released := !isRuled s lv.ctx || lv.xrel.contains scope }
    some (i, setScope { s with sve := { s.sve with uidNext := s.sve.uidNext + 1 } } i x)

/-- Take the next EXPERT reservation of a scope (R95, R181). -/
def takeResv (s : Blk) (l scope : Nat) : Option (Resv × Blk) :=
  match launchOf s l with
  | none => none
  | some lv =>
    match lv.resv.find? (fun r => r.scope == scope) with
    | none => none
    | some r => some (r, modLaunch s l (fun v => { v with resv := v.resv.erase r }))

/-- A task made from a node of a scope's template with a reservation. -/
def makeX (s : Blk) (x : XScope) (r : Resv) (node : Nat) (n : Word256) (gj : Option Nat) (expert hlist : Nat) : Blk :=
  match launchOf s x.launch with
  | none => s
  | some lv =>
    match topImg s lv, scopeGen s lv x.scope with
    | some top, some g =>
      let (q, s) := nextSeq s
      let t := mkTask x.launch lv g.tid g.gen x.scope node n .expert gj (argOf top lv x.scope n) q
      let s := placeTask s r.slot { t with expert, hlist }
      modLaunch s x.launch (fun v => { v with
        members := v.members ++ [{ scope := x.scope, node, slot := r.slot, joint := gj }] })
    | _, _ => s

/-- A word of a node's record has been lost for the operation that reads the node (R372, ID 0x01): fault 0x20 against its context. -/
def nodeLost (s : Blk) (x : XScope) : Option Blk :=
  match (launchOf s x.launch).bind (fun v => scopeGen s v x.scope) with
  | none => none
  | some g => recLost s g [1 + x.node] x.ctx

/-- Step 1 of R181 for an expert with no task yet; none is created where the node's record is lost (R186, R372). -/
def makeExpert (s : Blk) (i expert : Nat) (n : Word256) : Blk :=
  match Store.get? s.sve.scopes i with
  | none => s
  | some x =>
    match nodeLost s x with
    | some s => modX s i expert (fun k => { k with row := none })
    | none =>
    match takeResv s x.launch x.scope with
    | none => modX s i expert (fun k => { k with row := none })
    | some (r, s) =>
      let s := newJoint s r.joint openWord (.task r.slot) x.ctx
      let s := makeX s x r x.node n (some r.joint) expert (r.slot * xlLines s % 2 ^ 32)
      ev (modX s i expert (fun k => { k with slot := some r.slot, joint := r.joint })) 0xde x.ctx

/-- Send a dead arrival to one home by the HOME entries of an expert's node (R86, R183, R186). -/
def homeDead (s : Blk) (x : XScope) (n : Word256) (slot home : Nat) : Blk :=
  match launchOf s x.launch with
  | none => s
  | some lv =>
    match topImg s lv, scopeGen s lv x.scope with
    | some top, some g =>
      let es := (imgSuccs (genImg s g) (nSucc n)).filter (fun e => sMode e == 2)
      let d := dieEnt s (if xpHomeMode n = 0 then xpHomeIdx n else (setRange s (xpSet n) 0xc).1 + home)
      pushBack s (es.filterMap (fun e =>
        (resolve top e x.scope).map (fun p =>
          let r : FReq := { dst := d.die, dstCtx := d.ctx, dstGen := d.gen, srcCtx := x.ctx, srcGen := x.ctxGen,
                            ltag := lv.ltag, body := .arrive p.1 p.2 true, owner := .succ slot }
          if d.valid then .fabReq r else .answered r kPeerFenced true)))
    | _, _ => s

/-- One (expert, count) entry of a TALLY of a home (R181). -/
def tallyEntry (s : Blk) (i home : Nat) (n : Word256) (p : Nat × Nat) : Blk :=
  match Store.get? s.sve.scopes i with
  | none => s
  | some x =>
    match x.tasks.find? (fun k => k.expert == p.1) with
    | none => s
    | some k =>
      let s := if k.slot.isNone && k.row.isSome then makeExpert s i p.1 n else s
      let homes := match k.homes.find? (fun h => h.1 == home) with
        | some _ => k.homes.map (fun h => if h.1 = home then (home, h.2 + p.2) else h)
        | none => k.homes ++ [(home, p.2)]
      let s := modX s i p.1 (fun k => { k with pend := k.pend + p.2, homes })
      match (Store.get? s.sve.scopes i).bind (fun x => x.tasks.find? (fun k => k.expert == p.1)) with
      | some k' =>
        if k'.slot.isNone then expFail s i x
        else if k'.sent && (k.homes.find? (fun h => h.1 == home)).isNone then homeDead s x n (k'.slot.getD 0) home
        else s
      | none => s

/-- The list header of an expert task (R182). -/
def listHeader (s : Blk) (x : XScope) (k : XTask) (ltag : Nat) : List Byte :=
  leBytes 4 (min k.pend (8 * (xlLines s - 1))) ++ leBytes 2 k.expert ++ leBytes 2 k.homes.length ++ leBytes 4 ltag ++
    leBytes 1 x.layer ++ leBytes 1 x.set ++ leBytes 2 0 ++
    leBytes 32 ((k.homes.map (fun h => 2 ^ (h.1 % 256))).foldl (· + ·) 0) ++ leBytes 16 0

/-- Every final of a scope has come (R181); that of a home whose die has been fenced counts as received, from then on (R327). -/
def finalsIn (s : Blk) (x : XScope) (n : Word256) : Bool :=
  let fenced := ((launchOf s x.launch).map (·.peerFinals)).getD []
  (homeList s n).all (fun h => x.finals.contains h.1 || fenced.contains (x.scope, h.1))

/-- NHOME is set and the header of each task is written; experts without a task answer their homes (R181, R186). -/
def scopeFinal (s : Blk) (i : Nat) (x : XScope) (n : Word256) : Blk :=
  let s := setScope s i { x with closing := true }
  let ltag := ((launchOf s x.launch).map (·.ltag)).getD 0
  forEach x.tasks s (fun s k =>
    match k.slot with
    | none => forEach (rising (k.homes.map Prod.fst)) s (fun s h => homeDead s x n 0 h)
    | some slot =>
      let s := match taskOf s slot with
        | some t => setTask s slot { t with nhome := k.homes.length }
        | none => s
      memWrite s (listAddr s (slot * xlLines s % 2 ^ 32)) (listHeader s x k ltag) 1 (some x.ctx) uSve i
        (.listHeader x.uid k.expert))

/-- A task is in a final state, or gone. -/
def taskFinal (s : Blk) (slot : Nat) : Bool :=
  match taskOf s slot with
  | some t => t.state == .done || t.state == .cancelled || t.state == .fenced
  | none => true

/-- Look at a scope again: its finals may have come, or it may have ended (R181). -/
def scopeCheck (s : Blk) (i : Nat) : Blk :=
  match Store.get? s.sve.scopes i with
  | none => s
  | some x =>
    match (launchOf s x.launch).bind (fun l => scopeNode s l x.scope x.node) with
    | none => s
    | some n =>
      if !x.opened || !x.released then s
      else
        let s := if x.closing || !finalsIn s x n then s else scopeFinal s i x n
        match Store.get? s.sve.scopes i with
        | none => s
        | some x =>
          if x.closing && x.tasks.all (fun k => k.row.isNone && (k.slot.map (taskFinal s)).getD true) &&
              x.staged.all (fun p => taskFinal s p.2) then
            let s := { s with sve := { s.sve with scopes := Store.erase s.sve.scopes i } }
            modLaunch s x.launch (fun l => { l with xdone := l.xdone ++ [x.scope] })
          else s

/-- An arrival of a task has not left yet: it waits, is to be offered again, or is being offered. -/
def succBusy (s : Blk) (slot : Nat) : Bool :=
  s.xch.waitq.any (fun r => r.owner == .succ slot) || s.xch.retries.any (fun r => r.what.req.owner == .succ slot) ||
    (Store.vals s.xch.out).any (fun e => e.req.owner == .succ slot && e.phase ≠ .waiting)

/-- The arrivals of an expert or weight-fetch task have left: its home-map row is free (R183). Until then the row is kept. -/
def rowFree (s : Blk) (slot : Nat) : Blk :=
  if succBusy s slot then { s with sve := { s.sve with rowWait := s.sve.rowWait ++ [slot] } }
  else match s.sve.scopes.find? (fun p => p.2.tasks.any (fun k => k.slot == some slot) ||
      p.2.staged.any (fun k => k.2 == slot)) with
  | none => s
  | some (i, x) =>
    let tasks := x.tasks.map (fun k => if k.slot = some slot then { k with row := none, sent := true } else k)
    scopeCheck (setScope s i { x with tasks }) i

/-- The rows whose last arrival has left by now. -/
def pumpRows (s : Blk) : Blk :=
  let gone := s.sve.rowWait.filter (fun slot => !succBusy s slot)
  if gone.isEmpty then s
  else push { s with sve := { s.sve with rowWait := s.sve.rowWait.filter (fun slot => !gone.contains slot) } } (gone.map .rowFree)

/-- New experts of a TALLY get their place and their home-map row (R183); none where rows are lacking. -/
def reserveRows (s : Blk) (i : Nat) (x : XScope) (resv : Nat) (entries : List (Nat × Nat)) : Option Blk :=
  let new := (entries.map Prod.fst).eraseDups.filter (fun e => !x.tasks.any (fun k => k.expert == e))
  let used := rowsUsed s
  let waiting := (x.tasks.filter (fun k => k.slot.isNone && k.row.isSome)).length
  let withRow := new.take (resv - waiting)
  if used.length + withRow.length > 8192 then none
  else
    let free := (List.range 8192).filter (fun r => !used.contains r)
    let ks := new.zipIdx.map (fun p => ({ expert := p.1, slot := none,
                                          row := if p.2 < withRow.length then free[p.2]? else none } : XTask))
    some (setScope s i { x with tasks := x.tasks ++ ks })

/-- A TALLY request (R181, R183): the answer. -/
def takeTally (s : Blk) (c ltag : Nat) (final : Bool) (home scope expNode : Nat) (entries : List (Nat × Nat)) :
    Nat × Blk :=
  match liveLaunch s c ltag with
  | none => (kRingFull, s)
  | some (l, lv) =>
    match xNode s lv scope expNode with
    | none => (kAck, ctxFault s c uSve 0x31 0)
    | some n =>
      if !(homeList s n).any (fun h => h.1 == home) || lv.xdone.contains scope then (kAck, ctxFault s c uSve 0x31 0)
      else
        let rec? := match scopeAt s l scope with
          | some p => some (p.1, s)
          | none => newScope s l lv scope expNode n
        match rec? with
        | none => (kRingFull, s)
        | some (i, s1) =>
          match Store.get? s1.sve.scopes i with
          | none => (kRingFull, s)
          | some x =>
            let resv := (lv.resv.filter (fun r => r.scope == scope)).length
            match reserveRows s1 i x resv entries with
            | none => (kRingFull, s)
            | some s2 =>
              let s2 := if x.opened then s2 else ev s2 0xdf c
              let s2 := ev s2 0xe0 c
              match Store.get? s2.sve.scopes i with
              | none => (kRingFull, s)
              | some x =>
                let x := { x with opened := true, finals := if final then (x.finals ++ [home]).eraseDups else x.finals }
                if !x.released then
                  (kAck, setScope s2 i { x with held := x.held ++ [{ home, ty := 5, entries }] })
                else
                  let s3 := forEach entries (setScope s2 i x) (fun s p => tallyEntry s i home n p)
                  (kAck, push s3 [.scopeCheck i])

/-! ## Assignment records -/

/-- One record of an ASSIGN (R182, R186, R291). -/
def assignRec (s : Blk) (i home expert : Nat) (w : Word64) : Blk :=
  match Store.get? s.sve.scopes i with
  | none => s
  | some x =>
    match x.tasks.find? (fun k => k.expert == expert) with
    | none => s
    | some k =>
      let mine := ((k.got.find? (fun h => h.1 == home)).map Prod.snd).getD 0
      let lower := ((k.homes.filter (fun h => decide (h.1 < home))).map Prod.snd).foldl (· + ·) 0
      let pos := if isRuled s x.ctx then lower + mine else k.placed
      let got := k.got.filter (fun h => h.1 ≠ home) ++ [(home, mine + 1)]
      let s := modX s i expert (fun k => { k with got, placed := k.placed + 1 })
      if pos ≥ 8 * (xlLines s - 1) then push (expFail s i x) [.arrive k.joint true]
      else
        let base := listAddr s ((k.slot.getD 0) * xlLines s % 2 ^ 32)
        memWrite s (base + 0x40 + 8 * pos) (leBytes 8 w.toNat) 1 (some x.ctx) uSve i (.listRecord x.uid expert)

/-- An ASSIGN request (R181, R182, R186, R291): the answer. Before the release of a ruled scope it is refused; where no TALLY of its home
has named the expert, a scope that is not open included, it is discarded. -/
def takeAssign (s : Blk) (c ltag expert home scope : Nat) (recs : List Word64) : Nat × Blk :=
  match liveLaunch s c ltag with
  | none => (kRingFull, s)
  | some (l, lv) =>
    if isRuled s c && !lv.xrel.contains scope && !lv.xdone.contains scope then (kRingFull, s)
    else match scopeAt s l scope with
    | none => (kAck, ctxFault s c uSve 0x31 0)
    | some (i, x) =>
      match x.tasks.find? (fun k => k.expert == expert && k.homes.any (fun h => h.1 == home)) with
        | none => (kAck, ctxFault s c uSve 0x31 0)
        | some k =>
          if k.slot.isNone then (kAck, s)
          else (kAck, forEach recs s (fun s w => assignRec s i home expert w))

/-- A record's write has been answered (R182, R186). -/
def recWritten (s : Blk) (uid expert : Nat) (ok : Bool) : Blk :=
  match scopeUid s uid with
  | none => s
  | some (i, x) =>
    match x.tasks.find? (fun k => k.expert == expert) with
    | none => s
    | some k =>
      if ok then push (ev s 0xe1 x.ctx) [.arrive k.joint false]
      else push (expFail s i x) [.arrive k.joint true]

/-- Set DEAD_SEEN in a joint without counting (R181). -/
def markDead (s : Blk) (j : Nat) : Blk :=
  match jointOf s j with
  | none => s
  | some x =>
    match jointRead s j x with
    | (some w, s) => putJoint s j { w with deadSeen := true }
    | (none, s) => s

/-- A list header's write has been answered: the task's joint is closed with its pending total (R181). -/
def headerWritten (s : Blk) (uid expert : Nat) (ok : Bool) : Blk :=
  match scopeUid s uid with
  | none => s
  | some (i, x) =>
    match x.tasks.find? (fun k => k.expert == expert) with
    | none => s
    | some k =>
      let s := modX s i expert (fun k => { k with header := true })
      let s := if ok then s else markDead (expFail s i x) k.joint
      push s [.closeJ k.joint k.pend]

/-! ## Weight staging -/

/-- The STAGE trace record of the expander (R349): the die-list index is that of the expert's replica 0, as in the record of its
sender (DEDUCED, assumption 20). -/
def traceStage (s : Blk) (c set layer expert action scope : Nat) : Blk :=
  trace s 7 (some c) (put expert 127 112 + put action 111 110 + put (xtDie (xtEnt s set layer expert)) 109 100 + put scope 99 88)

/-- The weight-fetch task of a STAGE (R189), or the count of one served without a task. -/
def applyStage (s : Blk) (i expert : Nat) (n : Word256) : Blk :=
  match Store.get? s.sve.scopes i with
  | none => s
  | some x =>
    let skip := fun (s : Blk) => traceStage (sveCount s rSveStageSkip 0xdc x.ctx 1) x.ctx x.set x.layer expert 2 x.scope
    match xpStage n, (launchOf s x.launch).bind (fun l => (xpStage n).bind (scopeNode s l x.scope)) with
    | some node, some sn =>
      if x.tasks.any (fun k => k.expert == expert) || x.staged.any (fun p => p.1 == expert) then skip s
      else match takeResv s x.launch x.scope with
        | none => skip s
        | some (r, s) =>
          let s := makeX s x r node sn none expert 0
          let s := setScope s i { x with staged := x.staged ++ [(expert, r.slot)] }
          startTask s r.slot
    | _, _ => skip s

/-- A STAGE request (R189): the answer. -/
def takeStage (s : Blk) (c ltag home expert scope expNode : Nat) : Nat × Blk :=
  match liveLaunch s c ltag with
  | none => (kRingFull, s)
  | some (l, lv) =>
    match xNode s lv scope expNode with
    | none => (kAck, ctxFault s c uSve 0x31 0)
    | some n =>
      if lv.xdone.contains scope then
        (kAck, traceStage (sveCount s rSveStageSkip 0xdc c 1) c (xpSet n) (xpLayer n) expert 2 scope)
      else
        let rec? := match scopeAt s l scope with
          | some p => some (p.1, s)
          | none => newScope s l lv scope expNode n
        match rec? with
        | none => (kRingFull, s)
        | some (i, s1) =>
          match Store.get? s1.sve.scopes i with
          | none => (kRingFull, s)
          | some x =>
            if !x.released then (kAck, setScope s1 i { x with held := x.held ++ [{ home, ty := 7, expert }] })
            else (kAck, applyStage s1 i expert n)

/-- Cancel a weight-fetch task that has not been issued (R190). -/
def applyCancel (s : Blk) (i expert : Nat) : Blk :=
  match Store.get? s.sve.scopes i with
  | none => s
  | some x =>
    match x.staged.find? (fun p => p.1 == expert) with
    | none => s
    | some (_, slot) =>
      match taskOf s slot with
      | some t =>
        if t.state == .waiting || t.state == .ready || t.state == .delayed then
          finishTask (traceStage s x.ctx x.set x.layer expert 3 x.scope) slot .cancelled true
        else s
      | none => s

/-- A CANCEL request (R190): always answered ACK. -/
def takeCancel (s : Blk) (c ltag home expert scope : Nat) : Nat × Blk :=
  match liveLaunch s c ltag with
  | none => (kAck, s)
  | some (l, _) =>
    match scopeAt s l scope with
    | none => (kAck, s)
    | some (i, x) =>
      if !x.released then (kAck, setScope s i { x with held := x.held ++ [{ home, ty := 8, expert }] })
      else (kAck, applyCancel s i expert)

/-- The home index that a source die has for an EXPERT node of a launch. -/
def homeOfDie (s : Blk) (c ltag scope expNode die : Nat) : Nat :=
  match (liveLaunch s c ltag).bind (fun p => scopeNode s p.2 scope expNode) with
  | none => 0
  | some n => (((homeList s n).find? (fun h => (dieEnt s h.2).die == die)).map Prod.fst).getD 0

/-! ## Ruled release -/

/-- The experts of a ruled scope get its rows in the order in which their tasks are made (R291). -/
def orderRows (x : XScope) : XScope :=
  let of := fun (h : Nat) => (x.held.filter (fun q => q.ty == 5 && q.home == h)).flatMap (fun q => q.entries.map Prod.fst)
  let order := ((rising (x.held.map (·.home))).flatMap of).eraseDups
  let rows := x.tasks.filterMap (·.row)
  { x with tasks := order.zipIdx.filterMap (fun p =>
      (x.tasks.find? (fun k => k.expert == p.1)).map (fun k => { k with row := rows[p.2]? })) }

/-- The expander waiter of a scope is released (R290, R291): homes in index order, and within each home the STAGE and
CANCEL requests before the TALLY entries. -/
def releaseScope (s : Blk) (l scope : Nat) : Blk :=
  let s := modLaunch s l (fun v => { v with xrel := (v.xrel ++ [scope]).eraseDups })
  match scopeAt s l scope with
  | none => s
  | some (i, x) =>
    match (launchOf s l).bind (fun v => scopeNode s v scope x.node) with
    | none => s
    | some n =>
      let s := setScope s i { orderRows x with released := true, held := [] }
      let s := forEach (rising (x.held.map (·.home))) s (fun s h =>
        let mine := x.held.filter (fun q => q.home == h)
        let s := forEach (mine.filter (fun q => q.ty ≠ 5)) s (fun s q =>
          if q.ty = 7 then applyStage s i q.expert n else applyCancel s i q.expert)
        forEach (mine.filter (fun q => q.ty == 5)) s (fun s q =>
          forEach q.entries s (fun s p => tallyEntry s i h n p)))
      push s [.scopeCheck i]

end Sys2Proof.Machine
end

