-- ==== Sys2Proof/Machine/Latch.lean ====
section
/-! DEFINITION. Counter latches and their records (R342 to R346), and the drains of the Scribe (R355, R356). -/
namespace Sys2Proof.Machine

/-- OBS_CNTn_CFG.CTX names context c and the counter is enabled. -/
def cntOn (s : Blk) (n c : Nat) : Bool := rgb s (cntReg n) 31 && rgf s (cntReg n) 7 0 == c

/-- The counters a latch of a context takes (R342, R344): `all` adds the enabled global ones with FILT = 0. -/
def latchSet (s : Blk) (c : Nat) (all : Bool) : List Nat :=
  (List.range 64).filter (fun n =>
    if n < 48 then cntOn s n c
    else (cntOn s n c && rgb s (cntReg n) 30) || (all && rgb s (cntReg n) 31 && !rgb s (cntReg n) 30))

/-- The 8 bytes of an entry of a latch record (R345). -/
def latchEntry (s : Blk) (set : List Nat) (n : Nat) : List Byte :=
  if set.contains n then
    let k := Store.getD s.obs.cnt n {}
    leBytes 8 (k.live + put (b2n k.ovf) 48 48)
  else leBytes 8 0

/-- The 576 bytes of a latch record (R345). -/
def latchBytes (s : Blk) (c kind ltag tid : Nat) (set : List Nat) : List Byte :=
  let v := slotOf s c
  leBytes 4 kind ++ leBytes 4 v.lseq ++ leBytes 8 (now s) ++ leBytes 8 (if isRuled s c then v.tick else 0) ++
    leBytes 4 ltag ++ leBytes 1 c ++ leBytes 1 v.gen ++ leBytes 2 tid ++
    leBytes 8 ((set.map (2 ^ ·)).foldl (· + ·) 0) ++ leBytes 4 (Store.getD s.sqt.ctxs c {}).stepCnt ++ leBytes 20 0 ++
    (List.range 64).flatMap (latchEntry s set)

/-- The effect of a latch on the counters (R342, R344): `snap` sets SNAP, and `clr` says which are cleared. -/
def latchCounters (s : Blk) (set : List Nat) (snap : Bool) (clr : Nat → Bool) : Blk :=
  let cnt := set.foldl (fun m n =>
    let k := Store.getD m n {}
    let k := if snap then { k with snap := k.live } else k
    Store.put {} m n (if clr n then { k with live := 0 } else k)) s.obs.cnt
  { s with obs := { s.obs with cnt } }

/-- Lines of a byte list that begins on a line. -/
def toLines (bs : List Byte) : List Line := (linesOf 0 bs).map (fun p => lineOf 0 p.2)

/-- OBS_CTX_LCFG of a context. -/
def lcfg (c : Nat) : Nat := bank rLcfg c

/-- Queue a latch record for its lines to be written. -/
def latchJob (s : Blk) (c : Nat) (q : Option Nat) (addr : Nat) (bs : List Byte) : Blk :=
  let j : LatchJob := { id := s.obs.latchNext, ctx := c, queue := q, addr, lines := toLines bs, left := 9 }
  { s with obs := { s.obs with latch := s.obs.latch ++ [j], latchNext := s.obs.latchNext + 1 } }

/-- The launch latch of a context (R342, R346). -/
def launchLatch (s : Blk) (c : Nat) (atEnd : Bool) (ltag tid : Nat) : Blk :=
  let set := latchSet s c false
  let bs := latchBytes s c (if atEnd then 2 else 1) ltag tid set
  let s := if atEnd then latchCounters s set true (fun n => rgb s (cntReg n) 29) else s
  let v := slotOf s c
  let s := setSlot s c { v with lseq := (v.lseq + 1) % 2 ^ 32 }
  let mine := (s.obs.latch.filter (fun j => j.ctx == c && j.queue.isNone)).length
  let tail := Store.getD s.obs.ltail c 0 + mine
  let size := 2 ^ rgf s (lcfg c) 3 0
  let lost := !rgb s (lcfg c) 31 || rgb s (lcfg c) 30 ||
    decide ((tail + 65536 - rgf s (pageReg c 0x814) 15 0) % 65536 ≥ size)
  if lost then ev (bump s rLatchLost) 0x149 c
  else
    let base := rg2 s (bank rLringLo c) (bank rLringHi c)
    latchJob s c none ((base + 576 * (tail % 65536 % size)) % 2 ^ 52) bs

/-- The latch of a LATCH command (R344); a record is written where `addr` is not 0. -/
def cmdLatchTake (s : Blk) (c q : Nat) (priv clear : Bool) (addr : Nat) : Blk :=
  let set := latchSet s c priv
  let bs := latchBytes s c (if clear then 4 else 3) 0 0 set
  let s := latchCounters s set true (fun _ => clear)
  let v := slotOf s c
  let s := setSlot s c { v with lseq := (v.lseq + 1) % 2 ^ 32 }
  if addr = 0 then s else latchJob s c (some q) addr bs

/-! ## Offering lines -/

/-- The memory address of a line `i` of a latch record of which `n` lines are left to offer. -/
def latchLineAddr (j : LatchJob) : Nat := (j.addr + 64 * (9 - j.lines.length)) % 2 ^ 52

/-- Offer the next line of a latch record. -/
def offerLatch (s : Blk) (j : LatchJob) : Blk :=
  match j.lines with
  | [] => s
  | l :: r =>
    let upd := fun (k : LatchJob) => if k.id = j.id then { k with lines := r } else k
    let s := { s with obs := { s.obs with latch := s.obs.latch.map upd, tags := s.obs.tags + 1 } }
    memReq s { write := true, addr := latchLineAddr j, first := latchLineAddr j, be := beOf 0 64, data := l, qos := 3,
               ctx := some j.ctx, unit := uObs, index := j.queue.getD 0, owner := .latchRec j.id }

/-- The LOSS record of a run of losses (R352). -/
def lossRec (l : Nat × Nat × Nat) : Word256 :=
  BitVec.ofNat 256 (put l.2.1 63 0 + put 0x11 71 64 + ((put (min l.1 0xffffffff) 127 96 + put l.2.2 95 32) <<< 128))

/-- The stream of a buffer: the LOSS record of a run of losses comes first. -/
def drainStream (t : TBuf) : List Word256 := (t.lossRun.map lossRec).toList ++ t.recs

/-- Take the first n records of a buffer's stream out. -/
def drainTake (t : TBuf) (n : Nat) : TBuf :=
  match t.lossRun with
  | some _ => { t with lossRun := none, recs := t.recs.drop (n - 1) }
  | none => { t with recs := t.recs.drop n }

/-- The lines of a buffer's memory ring. -/
def ringLines (s : Blk) (b : Nat) : Nat := 2 ^ (rgf s (bufReg b 0) 4 0 - 6)

/-- A line of two records. -/
def twoRecs (a b : Word256) : Line := BitVec.ofNat 512 (a.toNat + b.toNat * 2 ^ 256)

/-- The PAD record (R349, R355). -/
def padRec : Word256 := 0

/-- Append a line to a buffer's drain. -/
def newDrainLine (s : Blk) (b : Nat) (t : TBuf) (d : Line) : Blk :=
  setBuf s b { t with lines := t.lines ++ [{ k := (t.tail + t.lines.length) % 2 ^ 32, data := d, phase := .waiting }] }

/-- The drain's memory ring is full (R355). -/
def drainFull (s : Blk) (b : Nat) : Bool :=
  let t := bufOf s b
  decide ((t.tail + t.lines.length + 2 ^ 32 - rg s (bufReg b 0x14)) % 2 ^ 32 ≥ ringLines s b)

/-- A buffer has a line to offer. -/
def drainReady (s : Blk) (b : Nat) : Bool :=
  let t := bufOf s b
  bufDrain s b && !t.fault && (t.lines.any (fun l => l.phase == .waiting) ||
    (decide ((drainStream t).length ≥ 2) && !drainFull s b))

/-- Offer the first waiting line of a buffer's drain. -/
def offerWaiting (s : Blk) (b : Nat) : Blk :=
  let t := bufOf s b
  match t.lines.find? (fun l => l.phase == .waiting) with
  | none => s
  | some l =>
    let s := setBuf s b { t with lines := t.lines.map (fun x => if x.k = l.k then { x with phase := .offered } else x) }
    let a := (rg2 s (bufReg b 0xc) (bufReg b 0x10) + 64 * (l.k % ringLines s b)) % 2 ^ 52
    let s := { s with obs := { s.obs with tags := s.obs.tags + 1, drainNext := (b + 1) % 4 } }
    memReq s { write := true, addr := a, first := a, be := beOf 0 64, data := l.data, qos := 3, ctx := none,
               unit := uObs, index := b, owner := .drain b l.k }

/-- Offer a buffer's next line: one whose write failed first, else the next two records. -/
def offerDrain (s : Blk) (b : Nat) : Blk :=
  let t := bufOf s b
  if t.lines.any (fun l => l.phase == .waiting) then offerWaiting s b
  else match drainStream t with
    | x :: y :: _ => offerWaiting (newDrainLine s b (drainTake t 2) (twoRecs x y)) b
    | _ => s

/-- One paced line is offered (R355): latch records go first, then the drains in turn. -/
def drainLine (s : Blk) : Blk :=
  if !s.time.usable || decide (now s < s.obs.spaceAt) || decide (s.obs.tags ≥ 16) || s.cfg.srst then s
  else
    let paced := fun (s : Blk) => { s with obs := { s.obs with spaceAt := now s + rgf s rTrcCfg 15 0 } }
    match s.obs.latch.find? (fun j => !j.lines.isEmpty) with
    | some j => paced (offerLatch s j)
    | none =>
      match ((List.range 4).map (fun i => (s.obs.drainNext + i) % 4)).find? (drainReady s) with
      | some b => paced (offerDrain s b)
      | none => s

/-- A lone record has waited OBS_TRC_FLUSH for a partner: it is written with a PAD record (R355). -/
def flushLone (s : Blk) (b : Nat) : Blk :=
  let t := bufOf s b
  match drainStream t with
  | [x] =>
    if bufDrain s b && !t.fault && !drainFull s b && s.time.usable &&
        decide (now s ≥ recTime x + rgf s rTrcFlush 15 0 * 1000) then
      newDrainLine s b (drainTake t 1) (twoRecs x padRec)
    else s
  | _ => s

/-- TAIL counts the leading lines whose writes have been answered. -/
def drainAdvance : Nat → TBuf → Nat × TBuf
  | 0, t => (0, t)
  | f + 1, t =>
    match t.lines with
    | l :: r =>
      if l.phase = .written then
        let (n, t') := drainAdvance f { t with lines := r, tail := (t.tail + 1) % 2 ^ 32 }
        (n + 1, t')
      else (0, t)
    | [] => (0, t)

/-- A drain line's write has been answered (R355, R356). -/
def drainAnswered (s : Blk) (b k : Nat) (ok : Bool) : Blk :=
  let s := { s with obs := { s.obs with tags := s.obs.tags - 1 } }
  let t := bufOf s b
  let mark := fun (p : DPhase) => t.lines.map (fun l => if l.k = k && l.phase == .offered then { l with phase := p } else l)
  if ok then
    let (n, t) := drainAdvance 32 { t with lines := mark .written }
    evN (setBuf s b t) (0x144 + b) none n
  else orBits (setBuf s b { t with lines := mark .waiting, fault := true }) rObsIrq 4

/-- Latch records of a context's ring that no line has been offered of are lost when the ring faults (R346). -/
def latchFault (s : Blk) (c : Nat) : Blk :=
  let fresh := fun (j : LatchJob) => j.ctx == c && j.queue.isNone && j.lines.length == 9
  let n := (s.obs.latch.filter fresh).length
  let s := { s with obs := { s.obs with latch := s.obs.latch.filter (fun j => !fresh j) } }
  evN (orBits (orBits (bumpN s rLatchLost n) (lcfg c) (2 ^ 30)) rObsIrq 4) 0x149 (some c) n

end Sys2Proof.Machine
end

