-- ==== Sys2Proof/Machine/Launch.lean ====
section
/-! DEFINITION. Launches: their checks and expansion (R94 to R96, R440), per-sequence tasks (R210, R211), their end (R97),
updates that name a node (R109, R110, R185), and spill and refill (R113 to R117). -/
namespace Sys2Proof.Machine

/-- What a LAUNCH command supplies (R94, R230). -/
structure LArgs where
  q : Nat
  ctx : Nat
  tid : Nat
  ltag : Nat
  argBase : Nat
  endJ : Option Nat
  course : Bool
deriving DecidableEq, Repr

/-- The Sequence Table's side of a context. -/
def sqtOf (s : Blk) (c : Nat) : SqtCtx := Store.getD s.sqt.ctxs c {}

/-- Write the Sequence Table's side of a context. -/
def setSqt (s : Blk) (c : Nat) (v : SqtCtx) : Blk :=
  { s with sqt := { s.sqt with ctxs := Store.put {} s.sqt.ctxs c v } }

/-- A context is attached: SQT_CTX_CFG.EN. -/
def attached (s : Blk) (c : Nat) : Bool := rgb s (bank rSqtCfg c) 31

/-- SQT_CTX_COURSE. -/
def courseAddr (s : Blk) (c : Nat) : Nat := rg2 s (bank rSqtCourseLo c) (bank rSqtCourseHi c)

/-- PSNODE, where PS_VALID is 1 (R210). -/
def psNode (s : Blk) (c : Nat) : Option Nat :=
  if rgb s (bank rSqtCfg c) 30 then some (rgf s (bank rSqtCfg c) 27 16) else none

/-- A course launch of a context that has not been freed yet. -/
def courseLaunch (s : Blk) (c : Nat) : Option (Nat × Launch) :=
  s.tsk.launches.find? (fun p => p.2.ctx == c && p.2.course.isSome)

/-! ## Planning -/

/-- The templates that a top template's SUBGRAPH nodes name, by rising node index. -/
def subTids (im : Img) : List (Nat × Nat) := (imgKind im 4).map (fun i => (i, nSubTid (imgNode im i)))

/-- The pins of a launch (R95, step 1); none where a template has no current generation. -/
def pinsFor (s : Blk) (tid : Nat) : Option (List (Nat × Nat)) :=
  match curGen s tid with
  | none => none
  | some g =>
    let tids := (tid :: (subTids (genImg s g)).map Prod.snd).eraseDups
    tids.mapM (fun t => (curGen s t).map (fun g => (t, g.gen)))

/-- The launch record before anything is taken: enough to resolve scopes. -/
def draft (a : LArgs) (gen tgen : Nat) (pins : List (Nat × Nat)) (course : Option (List CourseEnt)) : Launch :=
  { ctx := a.ctx, ctxGen := gen, ltag := a.ltag, argBase := a.argBase, tid := a.tid, tgen, pins, members := [],
    resv := [], slots := [], joints := [], endJoint := a.endJ, queue := a.q, course, rank := 0 }

/-- The scopes of a launch in order, top template first, with their generations (R95, step 3). -/
def scopesOf (s : Blk) (l : Launch) : List (Nat × Gen) :=
  match topImg s l with
  | none => []
  | some im =>
    (topScope :: imgKind im 4).filterMap (fun sc => (scopeGen s l sc).map (fun g => (sc, g)))

/-- A task to be created: scope, template, generation, node index, node record, and for a per-sequence task its course
entry. -/
structure Plan where
  scope : Nat
  tid : Nat
  tgen : Nat
  node : Nat
  nrec : Word256
  ent : Option (Nat × CourseEnt) := none
deriving DecidableEq, Repr

/-- The NULL and KERNEL nodes of a scope, in node order, the prototype left out. -/
def planScope (s : Blk) (l : Launch) (p : Nat × Gen) : List Plan :=
  let im := genImg s p.2
  ((List.range (hNodes (im 0))).filter (fun i =>
    (nKind (imgNode im i) == 0 || nKind (imgNode im i) == 1) && !isProto s l p.1 i)).map (fun i =>
      { scope := p.1, tid := p.2.tid, tgen := p.2.gen, node := i, nrec := imgNode im i })

/-- The per-sequence tasks of a course launch, in course order (R210). -/
def planCourse (s : Blk) (l : Launch) : List Plan :=
  match l.course, psNode s l.ctx, findGen s l.tid l.tgen with
  | some es, some n, some g =>
    es.zipIdx.map (fun e =>
      { scope := topScope, tid := l.tid, tgen := l.tgen, node := n, nrec := imgNode (genImg s g) n, ent := some (e.2, e.1) })
  | _, _, _ => []

/-- The tasks of a launch, in task order. -/
def planOf (s : Blk) (l : Launch) : List Plan := (scopesOf s l).flatMap (planScope s l) ++ planCourse s l

/-- The EXPERT nodes of a launch: scope and node record. -/
def expertsOf (s : Blk) (l : Launch) : List (Nat × Word256) :=
  (scopesOf s l).filterMap (fun p =>
    let im := genImg s p.2
    ((imgKind im 3).head?).map (fun i => (p.1, imgNode im i)))

/-- The SIEVE nodes of a launch with the EXPERT node of their template: scope, SIEVE and EXPERT records. -/
def sievesOf (s : Blk) (l : Launch) : List (Nat × Word256 × Word256) :=
  (scopesOf s l).flatMap (fun p =>
    let im := genImg s p.2
    (imgKind im 2).map (fun i => (p.1, imgNode im i, imgNode im (svExp (imgNode im i)))))

/-- The scopes of the EXPERT reservations of a launch, one each (R95). -/
def resvOf (s : Blk) (l : Launch) : List Nat :=
  (expertsOf s l).flatMap (fun p => List.replicate (xpMax p.2) p.1)

/-- The slots a launch needs (R95, step 2). -/
def slotsNeeded (s : Blk) (l : Launch) : Nat := (planOf s l).length + ((expertsOf s l).map (fun p => xpMax p.2)).foldl (· + ·) 0

/-! ## Checks -/

/-- A LOCAL target that depends on the pinned templates is in order (R440). -/
def targetOk (s : Blk) (l : Launch) (top im : Img) (scope : Nat) (e : Word64) : Bool :=
  if sMode e ≠ 0 || knownTarget im e then true
  else match resolve top e scope with
    | none => false
    | some (sc, nd) =>
      match scopeNode s l sc nd with
      | some n => isGate n
      | none => false

/-- Every successor and start entry of a launch is in order (R440). -/
def targetsOk (s : Blk) (l : Launch) (top : Img) : Bool :=
  (scopesOf s l).all (fun p =>
    let im := genImg s p.2
    (List.range (hNodes (im 0))).all (fun i =>
      (imgSuccs im (nSucc (imgNode im i))).all (targetOk s l top im p.1))) &&
  (imgSuccs top (hStart (top 0))).all (targetOk s l top top topScope)

/-- The prototype of a course launch is in order (R210, R211). -/
def protoOk (s : Blk) (l : Launch) (top : Img) : Bool :=
  if l.course.isNone then true
  else match psNode s l.ctx with
    | none => true
    | some n =>
      decide (n < hNodes (top 0)) && nKind (imgNode top n) == 1 &&
        (imgSuccs top (nSucc (imgNode top n))).all (fun e =>
          sMode e == 0 &&
          (match resolve top e topScope with
           | some (sc, nd) => ((scopeNode s l sc nd).map (fun t => nJkind t == 2)).getD false
           | none => false))

/-- Every ARG of a launch fits 52 bits. -/
def argsOk (s : Blk) (l : Launch) (top : Img) : Bool :=
  (planOf s l).all (fun p => p.ent.isSome || decide (argOf top l p.scope p.nrec < 2 ^ 52)) &&
    (expertsOf s l).all (fun p => decide (argOf top l p.1 p.2 < 2 ^ 52)) &&
    (l.course.isNone || decide (courseAddr s l.ctx + 0x40 + 32 * (l.course.getD []).length ≤ 2 ^ 52))

/-- The shape checks of R96. -/
def shapeOk (s : Blk) (l : Launch) (top : Img) : Bool :=
  decide (l.pins.length ≤ 16) &&
    (scopesOf s l).all (fun p =>
      p.1 == topScope || ((imgKind (genImg s p.2) 4).isEmpty &&
        ((imgKind (genImg s p.2) 2).isEmpty || hHome (genImg s p.2 0)))) &&
    targetsOk s l top && protoOk s l top && decide (slotsNeeded s l ≤ 65536) && argsOk s l top

/-- Live launches: those not freed yet. -/
def liveCount (s : Blk) : Nat := s.tsk.launches.length

/-- The context checks of R96. -/
def ctxChecks (s : Blk) (a : LArgs) : Bool :=
  (liveLaunch s a.ctx a.ltag).isNone &&
    decide ((s.tsk.launches.filter (fun p => p.2.ctx == a.ctx)).length < 16) &&
    (!a.course || (attached s a.ctx && (courseLaunch s a.ctx).isNone))

/-- The course a launch would use; an empty one stands in while none is built. -/
def courseFor (s : Blk) (a : LArgs) : Option (List CourseEnt) :=
  if a.course then some ((sqtOf s a.ctx).course.getD []) else none

/-- The records of the templates of a launch that are lost to it (R372, ID 0x01). -/
def launchLost (s : Blk) (pins : List (Nat × Nat)) : List (Nat × Nat × Bool) :=
  s.tsk.lost.filter (fun l => (pins.filterMap (fun p => findGen s p.1 p.2)).any (fun g => decide (g.base ≤ l.1 ∧ l.1 < g.base + g.nrec)))

/-- The first reason in the order of R96 for which a LAUNCH is refused: its fault code. -/
def launchRefusal (s : Blk) (a : LArgs) : Option Nat :=
  if !ctxChecks s a then some 0x31
  else match pinsFor s a.tid, curGen s a.tid with
    | some pins, some g =>
      let l := draft a (ctxGen s a.ctx) g.gen pins (courseFor s a)
      let top := genImg s g
      if !(launchLost s pins).isEmpty then some 0x20
      else if !shapeOk s l top then some 0x31
      else
        let n := slotsNeeded s l
        if !fits8 s.tsk.freeSlots n || !fits8 s.tsk.freeJoints n || decide (ctxUsed s a.ctx + n > ctxQuota s a.ctx) ||
            decide (liveCount s ≥ 4096) then some 0x53
        else
          let sv := sievesOf s l
          if sv.any (fun p => armBad s a.ctx p.2.1 p.2.2) then some 0x55
          else if s.sve.runs.length + sv.length > 1024 then some 0x53
          else none
    | _, _ => some 0x50

/-- A run that a LAUNCH would arm waits for an Expert Table load that overlaps its entries (R162). -/
def armWaits (s : Blk) (a : LArgs) : Bool :=
  match s.sve.xtJob, pinsFor s a.tid, curGen s a.tid with
  | some (first, count, _, _), some pins, some g =>
    (sievesOf s (draft a (ctxGen s a.ctx) g.gen pins (courseFor s a))).any (fun p =>
      spansMeet (first, count) (xtSpan s (svSet p.2.1) (svLayer p.2.1)))
  | _, _, _ => false

/-- A refused LAUNCH is counted and recorded (R96, R392). The code-specific count of DETAIL is 1 for 0x53 and 0 for every other
code: the manual does not say what it counts (DESIGN CHOICE, assumption 23). -/
def refuseLaunch (s : Blk) (a : LArgs) (code : Nat) : Blk :=
  let gone := if code = 0x20 then launchLost s ((pinsFor s a.tid).getD []) else []
  let s := { s with tsk := { s.tsk with lost := s.tsk.lost.filter (fun l => !gone.contains l) } }
  let n := if code = 0x53 then 1 else 0
  let d := mkDetail (put a.ltag 31 0 + put (b2n (code == 0x31)) 62 62) (put a.tid 11 0) n
  ctxFault (ev s 0x6b a.ctx) a.ctx uTsk code d

/-! ## Carrying out -/

/-- The descriptor of a planned task. -/
def planTask (s : Blk) (i : Nat) (l : Launch) (top : Img) (p : Plan) (gj : Option Nat) (seq : Nat) : Task :=
  let kind := if nKind p.nrec = 0 then TaskKind.null else TaskKind.kernel
  let t := mkTask i l p.tid p.tgen p.scope p.node p.nrec kind gj (argOf top l p.scope p.nrec) seq
  match p.ent with
  | none => t
  | some (k, e) => { t with cls := e.prio / 64, level := e.prio % 64, arg := courseAddr s l.ctx + 0x40 + 32 * k }

/-- Write one planned task and its gate joint (R95, step 4). -/
def putPlan (i : Nat) (l : Launch) (top : Img) (s : Blk) (x : Plan × Nat × Nat) : Blk :=
  let (p, slot, j) := x
  let gj := if nJkind p.nrec = 0 then none else some j
  let (q, s) := nextSeq s
  let s := placeTask s slot (planTask s i l top p gj q)
  if nJkind p.nrec = 0 then s
  else newJoint s j (if nJkind p.nrec = 1 then closedWord (nTarget p.nrec) else openWord) (.task slot) l.ctx

/-- The work of one start or successor entry of the launch itself. -/
def entryWork (i : Nat) (l : Launch) (top : Img) (e : Word64) : List Work :=
  match resolve top e topScope with
  | none => []
  | some (sc, nd) =>
    if sMode e = 0 then [.nodeArrive i sc nd false]
    else
      [.fabReq { dst := sDie e, dstCtx := sCtx e, dstGen := sGen e, srcCtx := l.ctx, srcGen := l.ctxGen, ltag := l.ltag,
                 body := .arrive sc nd false, owner := .succ 0 }]

/-- Start entries for other dies that lead nowhere: fault 0x31 is recorded for each launch that has one (R87). -/
def lostEntries (top : Img) : Nat :=
  ((imgSuccs top (hStart (top 0))).filter (fun e => sMode e ≠ 0 && (resolve top e topScope).isNone)).length

/-- The closes of R211: one per entry of the prototype, with t = NENT. -/
def protoCloses (s : Blk) (i : Nat) (l : Launch) (top : Img) : List Work :=
  match l.course, psNode s l.ctx with
  | some es, some n =>
    (imgSuccs top (nSucc (imgNode top n))).filterMap (fun e =>
      (resolve top e topScope).map (fun p => .nodeClose i p.1 p.2 es.length))
  | _, _ => []

/-- A held arrival or close at the LAUNCH of its launch (R95, step 6). A foreign one acts outside the tick of a ruled context
(R118, R291). -/
def earlyWork (s : Blk) (e : Early) : List Work :=
  if e.foreign && s.ctx.inTick.isSome then [.tick none, .early e, .tick s.ctx.inTick] else [.early e]

/-- The homes of a launch's scopes whose die is fenced as `hit` says (R327). -/
def fencedHomes (s : Blk) (l : Launch) (hit : Nat → Bool) : List (Nat × Nat) :=
  (expertsOf s l).flatMap (fun p => ((homeList s p.2).filter (fun h => hit (dieEnt s h.2).die)).map (fun h => (p.1, h.1)))

/-- A LAUNCH that passes every check (R95). -/
def doLaunch (s : Blk) (a : LArgs) : Blk :=
  match pinsFor s a.tid, curGen s a.tid with
  | some pins, some g =>
    let top := genImg s g
    let l0 := draft a (ctxGen s a.ctx) g.gen pins (courseFor s a)
    let plan := planOf s l0
    let resv := resvOf s l0
    let sieves := sievesOf s l0
    let n := plan.length + resv.length
    match takeSlots s n with
    | (none, _) => s
    | (some slots, s1) =>
      match takeJoints s1 n with
      | (none, _) => s
      | (some joints, s) =>
        let free := (List.range 4096).filter (fun i => (Store.get? s.tsk.launches i).isNone)
        let (k, s) := choose s free.length
        let i := free.getD k 0
        let xs := plan.zip (slots.zip joints)
        let rs := resv.zip ((slots.drop plan.length).zip (joints.drop plan.length))
        let members := xs.map (fun x =>
          ({ scope := x.1.scope, node := x.1.node, slot := x.2.1,
             joint := if nJkind x.1.nrec = 0 then none else some x.2.2 } : Member))
        let tail := (Store.getD s.csq.queues a.q {}).preTail.getD (rgf s (pageReg a.ctx 0x200) 15 0)
        let l := { l0 with members, slots, joints, rank := s.tsk.rankNext, reqTail := tail, peerFinals := fencedHomes s l0 (peerFenced s)
                           resv := rs.map (fun r => ({ scope := r.1, slot := r.2.1, joint := r.2.2 } : Resv)) }
        let s := setLaunch { s with tsk := { s.tsk with rankNext := s.tsk.rankNext + 1 } } i l
        let lseq := (slotOf s a.ctx).lseq
        let s := launchLatch s a.ctx false a.ltag a.tid
        let s := ev s 0x69 a.ctx
        let s := trace s 4 (some a.ctx) (put a.ltag 127 96 + put a.tid 95 84 + put g.gen 83 68 +
          put (plan.length % 65536) 67 51 + put (b2n a.endJ.isSome) 50 50 + put lseq 31 0)
        let s := forEach xs s (putPlan i l top)
        let bare := xs.filter (fun x => nJkind x.1.nrec == 0)
        let isNull := fun (x : Plan × Nat × Nat) => nKind x.1.nrec == 0 && nDelay x.1.nrec == 0
        let s := forEach (bare.filter (fun x => !isNull x)) s (fun s x => startTask s x.2.1)
        let s := forEach sieves s (fun s p => armRun s i l p.1 p.2.1 p.2.2)
        let mine := fun (e : Early) => e.ctx == a.ctx && e.ltag == a.ltag
        let early := s.tsk.early.filter mine
        let s := { s with tsk := { s.tsk with early := s.tsk.early.filter (fun e => !mine e) } }
        let s := if lostEntries top = 0 then s
          else ctxFault s a.ctx uTsk 0x31 (mkDetail (put a.ltag 31 0) (put a.tid 11 0) 0)
        push s (protoCloses s i l top ++ early.flatMap (earlyWork s) ++
          (bare.filter isNull).map (fun x => .fireTask x.2.1) ++
          (imgSuccs top (hStart (top 0))).flatMap (entryWork i l top))
  | _, _ => s

/-! ## Updates that name a node -/

/-- An arrival (`close` none) or close at a named node of a live launch (R109, R110). -/
def namedUpdate (s : Blk) (i : Nat) (l : Launch) (scope node : Nat) (close : Option Nat) (dead : Bool) : Blk :=
  match scopeNode s l scope node with
  | none => ctxFault s l.ctx uTsk 0x31 0
  | some n =>
    if !isGate n then ctxFault s l.ctx uTsk 0x31 0
    else match close with
      | none => push s [.nodeArrive i scope node dead]
      | some t => push s [.nodeClose i scope node t]

/-- An arrival from a die whose branch was pruned, at the run's CLOSE_NODE (R185). -/
def prunedLate (s : Blk) (l : Launch) (die scope node : Nat) : Bool :=
  l.pruned.contains (die, scope) &&
    (match scopeGen s l scope with
     | some g => (imgKind (genImg s g) 2).any (fun i => svClose (imgNode (genImg s g) i) == node)
     | none => false)

/-- TSK_EARLY_TTL in ns. -/
def earlyTtl (s : Blk) : Nat := rgf s rEarlyTtl 15 0 * 1000

/-- Apply an arrival or close to a context's launch with an LTAG, or hold it where that launch is not live (R109 to
R112). Answers NK_RING_FULL where the early list is full. `die`: the sending die; `flit`: flit 0 as received (R424). -/
def namedArrive (s : Blk) (die c ltag scope node : Nat) (close : Option Nat) (dead : Bool) (flit : Word256) : Nat × Blk :=
  match liveLaunch s c ltag with
  | some (i, l) =>
    if close.isNone && prunedLate s l die scope node then (kAck, sveCount s rSvePruneLate 0xd7 c 1)
    else (kAck, namedUpdate s i l scope node close dead)
  | none =>
    if s.tsk.early.length ≥ 4096 then (kRingFull, s)
    else
      let e : Early := { ctx := c, ltag, scope, node, close, dead, born := now s, flit, foreign := foreignTo s c }
      (kAck, ev { s with tsk := { s.tsk with early := s.tsk.early ++ [e] } } 0x75 c)

/-- A held arrival or close is applied at the LAUNCH of its LTAG (R95, step 6). -/
def applyEarly (s : Blk) (e : Early) : Blk :=
  match liveLaunch s e.ctx e.ltag with
  | some (i, l) => namedUpdate s i l e.scope e.node e.close e.dead
  | none => s

/-- An early entry has outlived TSK_EARLY_TTL (R111): it is discarded. -/
def dropEarly (s : Blk) (e : Early) : Blk :=
  let s := { s with tsk := { s.tsk with early := s.tsk.early.erase e } }
  ctxFault (ev (bump s rEarlyDrop) 0x76 e.ctx) e.ctx uTsk 0x51 0

/-! ## The end of a launch -/

/-- The conditions of R97; the advance of a course comes before its launch ends (R208). -/
def launchDue (s : Blk) (i : Nat) (l : Launch) : Bool :=
  !l.ended && l.spill == .live && !l.advWait && l.members.all (fun m => taskFinal s m.slot) &&
    !(Store.vals s.sve.runs).any (fun r => r.launch == i)

/-- Steps 4 and 5 of R97: the arrival at the end joint, and the launch record is freed. -/
def freeLaunch (s : Blk) (i : Nat) : Blk :=
  match launchOf s i with
  | none => s
  | some l =>
    let s := { s with tsk := { s.tsk with launches := Store.erase s.tsk.launches i }
                      ctx := { s.ctx with seen := s.ctx.seen.filter (fun x => !(x.1 == l.ctx && x.2.2.1 == l.ltag)) } }
    push (gstRelease s) ((l.endJoint.map (fun j => Work.arrive j false)).toList ++ [.ringsOf i])

/-- Everything of a launch leaves the stores but its record (R97, steps 2 and 3; R181). -/
def clearLaunch (s : Blk) (i : Nat) (l : Launch) : Blk :=
  let s := giveJoints (giveSlots s l.slots) l.joints
  let s := { s with sve := { s.sve with
    scopes := s.sve.scopes.filter (fun p => p.2.launch ≠ i),
    srcs := s.sve.srcs.filter (fun x => x.launch ≠ i),
    streams := s.sve.streams.filter (fun x => x.launch ≠ i) } }
  gstRelease (setLaunch s i { l with members := [], resv := [], slots := [], joints := [], pins := [], ended := true })

/-- A launch ends (R97): a course launch goes on to its step boundary (R205). -/
def launchEnd (s : Blk) (i : Nat) : Blk :=
  match launchOf s i with
  | none => s
  | some l =>
    if !launchDue s i l then s
    else
      let s := ev (launchLatch s l.ctx true l.ltag l.tid) 0x6a l.ctx
      let s := clearLaunch s i l
      if l.course.isNone then freeLaunch s i
      else
        let b : Boundary := { ctx := l.ctx, launch := some i, pre := none, tail := l.reqTail }
        push { s with sqt := { s.sqt with bounds := s.sqt.bounds ++ [b] } } [.boundaries]

/-! ## Spill and refill -/

/-- KIND of a descriptor as R98 codes it. -/
def kindBits : TaskKind → Nat | .null => 0 | .kernel => 1 | .expert => 3 | .enqueued => 5

/-- STATE of a descriptor as R98 codes it. -/
def stateBits : TaskState → Nat
  | .waiting => 0 | .ready => 1 | .delayed => 2 | .issued => 3 | .done => 4 | .cancelled => 5 | .fenced => 6

/-- A task descriptor as a line (R98). -/
def taskLine (t : Task) : Line :=
  BitVec.ofNat 512 (put t.mark 511 448 + put t.hlist 447 416 + put t.nhome 415 400 + put t.expert 399 384 +
    put t.seq 383 320 + put t.delay 303 288 + put t.issuedEng 281 270 + put t.eng 269 258 + put t.engMode 257 256 +
    put t.arg 243 192 + put t.kernel 191 160 + put t.ltag 159 128 + put (b2n t.gjoint.isSome) 118 118 +
    put (t.gjoint.getD 0) 117 100 + put t.launch 99 88 + put t.scope 87 76 + put t.node 75 64 + put t.tgen 59 44 +
    put t.tid 43 32 + put t.ctxGen 31 24 + put t.ctx 23 16 + put (kindBits t.kind) 14 12 + put (b2n t.dead) 11 11 +
    put t.level 10 5 + put t.cls 4 3 + put (stateBits t.state) 2 0)

/-- The descriptor a line spells. -/
def lineTask (l : Line) : Task :=
  { mark := fld l 511 448, hlist := fld l 447 416, nhome := fld l 415 400, expert := fld l 399 384, seq := fld l 383 320,
    delay := fld l 303 288, issuedEng := fld l 281 270, eng := fld l 269 258, engMode := fld l 257 256,
    arg := fld l 243 192, kernel := fld l 191 160, ltag := fld l 159 128,
    gjoint := if bitAt l 118 then some (fld l 117 100) else none, launch := fld l 99 88, scope := fld l 87 76,
    node := fld l 75 64, tgen := fld l 59 44, tid := fld l 43 32, ctxGen := fld l 31 24, ctx := fld l 23 16,
    kind := match fld l 14 12 with | 0 => .null | 1 => .kernel | 3 => .expert | _ => .enqueued,
    dead := bitAt l 11, level := fld l 10 5, cls := fld l 4 3,
    state := match fld l 2 0 with
      | 0 => .waiting | 1 => .ready | 2 => .delayed | 3 => .issued | 4 => .done | 5 => .cancelled | _ => .fenced }

/-- The header line of a spill image (R115). -/
def spillHeader (l : Launch) : Line :=
  BitVec.ofNat 512 (put l.members.length 143 128 + put l.argBase 115 64 + put l.ctxGen 47 40 + put l.ctx 39 32 +
    put l.ltag 31 0)

/-- A SPILL is refused (R114). -/
def spillBad (s : Blk) (l : Launch) : Bool :=
  l.spill ≠ .live || l.ended ||
    (scopesOf s l).any (fun p => !(imgKind (genImg s p.2) 2).isEmpty || !(imgKind (genImg s p.2) 3).isEmpty) ||
    l.members.any (fun m => match taskOf s m.slot with
      | some t => t.state == .ready || t.state == .delayed || t.state == .issued
      | none => false)

/-- Write one line of a spill image. -/
def spillWrite (s : Blk) (i : Nat) (l : Launch) (addr k : Nat) (d : Line) : Blk :=
  let a := (addr + 64 * k) % 2 ^ 52
  memReq s { write := true, addr := a, first := a, be := beOf 0 64, data := d, qos := 2, ctx := some l.ctx, unit := uTsk,
             index := i, owner := .spillLine i k }

/-- A SPILL begins (R114): the launch is SPILLING. -/
def spillBegin (s : Blk) (i : Nat) (l : Launch) (q addr : Nat) : Blk :=
  let lines := spillHeader l :: l.members.map (fun m => ((taskOf s m.slot).map taskLine).getD 0)
  let waits := fun (p : Member × Nat) => ((taskOf s p.1.slot).map (fun t => t.state == .waiting)).getD false
  let s := setLaunch s i { l with spill := .spilling, spillAddr := addr, spillN := l.members.length,
                                  spillLeft := lines.length, spillBad := false, spillQ := some q,
                                  spillWait := (l.members.zipIdx.filter waits).map Prod.snd, away := [] }
  let s := forEach l.members s (fun s m => match taskOf s m.slot with
    | some t => if t.dlyWait then setTask s m.slot { t with dlyWait := false } else s
    | none => s)
  forEach lines.zipIdx s (fun s p => spillWrite s i l addr p.2 p.1)

/-- Members that ended while their launch was away take their final state, in task order (assumption 17). -/
def endAway (s : Blk) (l : Launch) : Blk :=
  let ends := sortBy (fun a b => decide (a.1 ≤ b.1)) l.away
  forEach ends.reverse s (fun s p => match l.members[p.1]? with
    | some m => finishTask s m.slot p.2 true
    | none => s)

/-- Fires recorded while a launch was away are applied, in joint-index order (R117) or in task order (R116). A task that
waited for a delay entry waits for one again. -/
def firedWork (s : Blk) (l : Launch) (byJoint : Bool) : List Work :=
  let ms := l.members.filter (fun m =>
    ((taskOf s m.slot).map (fun t => t.state == .waiting)).getD false && ((m.joint.map (jointFired s)).getD true))
  let ms := if byJoint then sortBy (fun a b => decide (a.joint.getD 0 ≤ b.joint.getD 0)) ms else ms
  ms.map (fun m => .fireTask m.slot)

/-- A spill write has been answered (R114, R117). -/
def spillAnswered (s : Blk) (i : Nat) (ok : Bool) : Blk :=
  match launchOf s i with
  | none => s
  | some l =>
    if l.spill ≠ .spilling then s
    else
      let l := { l with spillLeft := l.spillLeft - 1, spillBad := l.spillBad || !ok }
      if l.spillLeft > 0 then setLaunch s i l
      else if l.spillBad then
        let s := endAway (setLaunch s i { l with spill := .live, wantRefill := none, spillQ := none }) l
        push s ((l.spillQ.map (fun q => Work.cmdDone q 0x14)).toList ++ firedWork s l true)
      else
        let s := giveSlots (setLaunch s i { l with spill := .spilled, slots := [], spillQ := none }) l.slots
        push (ev s 0x6c l.ctx) ((l.spillQ.map (fun q => Work.cmdDone q 0)).toList)

/-- A REFILL begins (R116): slots are taken and the image is read; none where too few slots are free. -/
def refillBegin (s : Blk) (i : Nat) (l : Launch) (q addr : Nat) : Option Blk :=
  if ctxUsed s l.ctx + l.spillN > ctxQuota s l.ctx || !fits8 s.tsk.freeSlots l.spillN then none
  else match takeSlots s l.spillN with
    | (none, _) => none
    | (some slots, s) =>
      let s := setLaunch s i { l with spill := .refilling, spillAddr := addr, refillSlots := slots, spillLines := [],
                                      spillLeft := l.spillN + 1, spillBad := false, spillQ := some q }
      some (forEach (List.range (l.spillN + 1)) s (fun s k =>
        memRead s ((addr + 64 * k) % 2 ^ 52) 2 (some l.ctx) uTsk i (.refillLine i k)))

/-- A refill image passes the checks of R116. -/
def refillOk (i : Nat) (l : Launch) (ls : Store Line) : Bool :=
  let h := Store.getD ls 0 0
  h.toNat == (spillHeader l).toNat &&
    (List.range l.spillN).all (fun k =>
      let d := Store.getD ls (k + 1) 0
      let t := lineTask d
      t.ctx == l.ctx && t.ctxGen == l.ctxGen && t.ltag == l.ltag && t.launch == i &&
        (fld d 2 0 == 0 || fld d 2 0 == 4 || fld d 2 0 == 5 || fld d 2 0 == 6))

/-- A slot number that names no slot: where the tasks of a launch are that count as FENCED after a refill (R116). -/
abbrev noSlot := 2 ^ 17

/-- Write a joint's link to a task slot (R102). -/
def linkJoint (s : Blk) (j slot : Nat) : Blk :=
  { s with tsk := { s.tsk with joints := Store.modify s.tsk.joints j (fun x => { x with waiter := .task slot }) } }

/-- Put the refilled descriptors into their new slots and rewrite the joint links (R116). A refill makes no task, so that the
slots' stamps stand (R134; DEDUCED, assumption 17). -/
def refillPut (s : Blk) (l : Launch) (ls : Store Line) : Blk :=
  forEach (l.refillSlots.zipIdx.zip l.members) s (fun s p =>
    let t := lineTask (Store.getD ls (p.1.2 + 1) 0)
    let s := setTask s p.1.1 { t with gjoint := p.2.joint }
    match p.2.joint with
    | some j => linkJoint s j p.1.1
    | none => s)

/-- A refill read has been answered (R116, R117). After a failed check the joints of the launch lead to no task any more. -/
def refillAnswered (s : Blk) (i k : Nat) (d : Option Line) : Blk :=
  match launchOf s i with
  | none => s
  | some l =>
    if l.spill ≠ .refilling then s
    else
      let l := { l with spillLeft := l.spillLeft - 1, spillBad := l.spillBad || d.isNone,
                        spillLines := match d with | some x => Store.set l.spillLines k x | none => l.spillLines }
      let done := fun (code : Nat) => (l.spillQ.map (fun q => Work.cmdDone q code)).toList
      if l.spillLeft > 0 then setLaunch s i l
      else if l.spillBad then
        let s := setLaunch s i { l with spill := .spilled, spillLines := [], refillSlots := [], spillQ := none }
        push (giveSlots s l.refillSlots) (done 0x14)
      else if !refillOk i l l.spillLines then
        let s := setLaunch s i { l with spill := .live, spillLines := [], refillSlots := [], spillQ := none,
                                        wantRefill := none, members := l.members.map (fun m => { m with slot := noSlot }) }
        let s := forEach (l.members.filterMap (·.joint)) s (fun s j => linkJoint s j noSlot)
        push (giveSlots s l.refillSlots) (done 0x31)
      else
        let members := (l.members.zip l.refillSlots).map (fun p => { p.1 with slot := p.2 })
        let l' := { l with spill := .live, spillLines := [], refillSlots := [], spillQ := none, wantRefill := none,
                           slots := l.refillSlots, members }
        let s := endAway (setLaunch (refillPut s l l.spillLines) i l') l'
        push (ev s 0x6d l.ctx) (done 0 ++ firedWork s l' false)

end Sys2Proof.Machine
end

