-- ==== Sys2Proof/Machine/Seq.lean ====
section
/-! DEFINITION. The Sequence Table: entries, requests and notices (R198 to R203), the step boundary and the course (R204 to
R207, R215, R216), advancing and parking (R208, R209), and the reactions to memory faults (R213). -/
namespace Sys2Proof.Machine

/-! ## Entries -/

/-- A Sequence Table entry, where it is not FREE. -/
def seqAt (s : Blk) (e : Nat) : Option SeqEnt := Store.get? s.sqt.ents e

/-- Write a Sequence Table entry. -/
def setSeq (s : Blk) (e : Nat) (v : SeqEnt) : Blk := { s with sqt := { s.sqt with ents := Store.set s.sqt.ents e v } }

/-- Free a Sequence Table entry. -/
def freeSeq (s : Blk) (e : Nat) : Blk := { s with sqt := { s.sqt with ents := Store.erase s.sqt.ents e } }

/-- The entries of a context, in index order. -/
def seqsOf (s : Blk) (c : Nat) : List (Nat × SeqEnt) := s.sqt.ents.filter (fun p => p.2.ctx == c)

/-- The resident entries of a context: the ACTIVE ones. -/
def residents (s : Blk) (c : Nat) : Nat := ((seqsOf s c).filter (fun p => p.2.state == .active)).length

/-- The next ASEQ of a context (R203). -/
def nextAseq (s : Blk) (c : Nat) : Nat × Blk :=
  let v := sqtOf s c
  (v.aseq, setSqt s c { v with aseq := (v.aseq + 1) % 2 ^ 32 })

/-- The lowest FREE entry, within the context's quota (R198, R212). -/
def freeEntry (s : Blk) (c : Nat) : Option Nat :=
  if (seqsOf s c).length ≥ rgf s (bank rSqtQuota c) 16 0 then none
  else (List.range 65536).find? (fun i => (seqAt s i).isNone)

/-- An entry as the 384 bits of R199, STATE 000, HOLD 0 and PARK_REQ 0, as a park record holds it (R209). -/
def entBits (v : SeqEnt) : Nat :=
  put v.agent 383 320 + put v.memBase 319 268 + put v.parkAddr 263 212 + put v.pos 207 176 + put v.remain 175 152 +
    put v.chunk 151 140 + put v.aseq 135 104 + put v.user 103 72 + put v.skips 71 56 + put v.ctxGen 55 48 +
    put v.ctx 47 40 + put v.level 13 8 + put v.cls 7 6

/-- STATE of an entry (R199); a FREE one reads 0. -/
def SeqState.num : SeqState → Nat
  | .restoring => 1 | .active => 2 | .parking => 3

/-- An entry as the Sequence Table holds it (R199). -/
def entFull (v : SeqEnt) : Nat := entBits v + put (b2n v.hold) 5 5 + put (b2n v.parkReq) 4 4 + put v.state.num 2 0

/-- The park record of an entry (R209). -/
def parkRecord (v : SeqEnt) : List Byte :=
  leBytes 48 (entBits v) ++ leBytes 1 v.prsn ++ leBytes 1 0 ++ leBytes 2 1 ++ leBytes 4 0 ++ leBytes 8 v.parkTime

/-- The entry a park record holds, for a context (R209); none where the record is refused. -/
def restored (l : Line) (c gen agent addr : Nat) : Option SeqEnt :=
  let v : SeqEnt :=
    { agent := fld l 383 320, memBase := fld l 319 268, parkAddr := fld l 263 212, pos := fld l 207 176,
      remain := fld l 175 152, chunk := fld l 151 140, user := fld l 103 72, skips := fld l 71 56, ctxGen := gen, ctx := c,
      level := fld l 13 8, cls := fld l 7 6, state := .active }
  if fld l 415 400 ≠ 1 || v.agent ≠ agent || fld l 47 40 ≠ c || v.parkAddr ≠ addr || v.remain = 0 || v.chunk = 0 ||
      fld l 267 264 ≠ 0 || fld l 211 208 ≠ 0 || fld l 139 136 ≠ 0 || fld l 39 14 ≠ 0 || bitAt l 3 || fld l 399 392 ≠ 0 ||
      fld l 447 416 ≠ 0 then none
  else some v

/-! ## Faults -/

/-- Fault 0x57: a course was not advanced (R208). -/
def courseFault (s : Blk) (l : Launch) : Blk :=
  ctxFault (orBits s rSqtIrq 2) l.ctx uSqt 0x57 (mkDetail (put l.ltag 31 0) (put l.tid 11 0) (l.course.getD []).length)

/-! ## Notices -/

/-- Records of the notice ring. -/
def ntcSize (s : Blk) (c : Nat) : Nat := 2 ^ rgf s (bank rSqtRings c) 12 8

/-- SQT_NTC_HEAD. -/
def ntcHead (s : Blk) (c : Nat) : Nat := rgf s (pageReg c 0x20c) 15 0

/-- Free slots of the notice ring (R202, R221). -/
def ntcFree (s : Blk) (c : Nat) : Nat :=
  let n := ntcSize s c
  n - 1 - ((sqtOf s c).ntcTail + n - ntcHead s c % n) % n

/-- Notice slots that no pending notice and no restore under way is to take: room to take a request (R205). -/
def ntcRoom (s : Blk) (c : Nat) : Nat :=
  ntcFree s c - ((sqtOf s c).notices.length + ((seqsOf s c).filter (fun p => p.2.state == .restoring)).length)

/-- Queue a notice (R202). -/
def notice (s : Blk) (c kind code idx pos agent remain : Nat) (freeIdx : Option Nat) : Blk :=
  let v := sqtOf s c
  let n : Notice := { kind, code, index := idx, pos, agent, time := now s, remain, step := v.stepCnt, freeIdx }
  push (setSqt s c { v with notices := v.notices ++ [n] }) [.notices c]

/-- A notice as its 32 bytes (R202). -/
def noticeBytes (n : Notice) : List Byte :=
  leBytes 1 n.kind ++ leBytes 1 n.code ++ leBytes 2 n.index ++ leBytes 4 n.pos ++ leBytes 8 n.agent ++ leBytes 8 n.time ++
    leBytes 4 n.remain ++ leBytes 4 n.step

/-- The slot is being torn down, so that its Sequence Table entries are to be settled (R316). -/
def tearing (s : Blk) (c : Nat) : Bool :=
  ctxSt s c == .closing || ctxSt s c == .pendingReuse || (slotOf s c).rpend

/-- The entries of a slot are being settled: by a teardown, or while a slot that was reset in QUIESCED opens (R214, R319). -/
def settling (s : Blk) (c : Nat) : Bool := tearing s c || ctxSt s c == .opening

/-- The notices that wait are lost and counted (R214); the entries that they were to free are FREE. -/
def loseNotices (s : Blk) (c : Nat) : Blk :=
  let v := sqtOf s c
  let n := v.notices.length
  let s := forEach (v.notices.filterMap (·.freeIdx)) s freeSeq
  evN (bumpN (setSqt s c { v with notices := [], ntcBusy := false }) rSqtNtcWait n) 0xef (some c) n

/-- Write the oldest notice of a context into a free slot, one at a time (R202, R213). In a teardown, notices for which the ring
has no room are lost (R214). -/
def noticePump (s : Blk) (c : Nat) : Blk :=
  let v := sqtOf s c
  match v.notices with
  | [] => s
  | n :: _ =>
    if v.ntcBusy then s
    else if v.reqFault || ntcFree s c == 0 then (if settling s c then loseNotices s c else s)
    else
      let a := (rg2 s (bank rSqtNtcLo c) (bank rSqtNtcHi c) + 32 * v.ntcTail) % 2 ^ 52
      memWrite (setSqt s c { v with ntcBusy := true }) a (noticeBytes n) 1 (some c) uSqt 0 (.notice c)

/-- A notice write has been answered (R200, R202, R213). -/
def noticeAnswered (s : Blk) (c : Nat) (ok : Bool) : Blk :=
  let v := sqtOf s c
  match v.notices with
  | [] => setSqt s c { v with ntcBusy := false }
  | n :: r =>
    if !ok then push (setSqt s c { v with ntcBusy := false, reqFault := true }) [.notices c]
    else
      let s := if ntcHead s c % ntcSize s c = v.ntcTail then orBits s rSqtIrq 1 else s
      let s := setSqt s c { v with ntcBusy := false, notices := r, ntcTail := (v.ntcTail + 1) % ntcSize s c }
      let s := match n.freeIdx with | some e => freeSeq s e | none => s
      push (ev s 0xee c) [.notices c]

/-! ## Parking -/

/-- `park` of R208: the earlier reason stands. -/
def SeqEnt.park (v : SeqEnt) (why : Nat) : SeqEnt := if v.parkReq then v else { v with parkReq := true, prsn := why }

/-- Begin the park write of an ACTIVE entry (R200, R209). -/
def parkBegin (s : Blk) (e : Nat) (v : SeqEnt) : Blk :=
  let v := { v with state := .parking, parkTime := now s, answered := false }
  memWrite (setSeq s e v) v.parkAddr (parkRecord v) 2 (some v.ctx) uSqt 0 (.park e)

/-- Park phase: every ACTIVE entry of the context with PARK_REQ, in index order (R205). Answers how many. -/
def parkPhase (s : Blk) (c : Nat) : Nat × Blk :=
  let es := (seqsOf s c).filter (fun p => p.2.state == .active && p.2.parkReq)
  (es.length, forEach es s (fun s p => parkBegin s p.1 p.2))

/-- A park write has been answered (R200, R212). In a teardown an entry whose write faults is freed, since no entry of an old
generation may stay (R214; DEDUCED, assumption 21). -/
def parkAnswered (s : Blk) (e : Nat) (ok : Bool) : Blk :=
  match seqAt s e with
  | none => s
  | some v =>
    if v.state ≠ .parking || v.answered then s
    else if ok then
      let waits := decide ((sqtOf s v.ctx).notices.length ≥ ntcFree s v.ctx)
      let s := ev (bump (setSeq s e { v with answered := true }) rSqtParks) 0xe6 v.ctx
      let s := if waits then ev (bump s rSqtNtcWait) 0xef v.ctx else s
      notice s v.ctx 3 v.prsn e v.pos v.agent v.remain (some e)
    else
      let s := if settling s v.ctx then freeSeq s e
        else setSeq s e { v with state := .active, hold := true, parkReq := false }
      notice s v.ctx 8 6 e v.pos v.agent v.remain none

/-- A restore read has been answered (R200, R209, R213). -/
def restoreAnswered (s : Blk) (e : Nat) (d : Option Line) : Blk :=
  match seqAt s e with
  | none => s
  | some v =>
    if v.state ≠ .restoring then s
    else
      let refuse := fun (code : Nat) => notice (ev (freeSeq s e) 0xe9 v.ctx) v.ctx 8 code e 0 v.agent 0 none
      match d with
      | none => refuse 4
      | some l =>
        match restored l v.ctx (ctxGen s v.ctx) v.agent v.parkAddr with
        | none => refuse 3
        | some w =>
          let (a, s) := nextAseq s v.ctx
          let s := ev (bump (setSeq s e { w with aseq := a }) rSqtRestores) 0xe5 v.ctx
          notice s v.ctx 2 0 e w.pos w.agent w.remain none

/-! ## Requests -/

/-- A request record (R201). -/
structure SeqReq where
  op : Nat
  prio : Nat
  chunk : Nat
  remain : Nat
  pos : Nat
  user : Nat
  agent : Nat
  memBase : Nat
  parkAddr : Nat
  index : Nat
deriving DecidableEq, Repr

/-- The request that a line spells. -/
def seqReq (l : Line) : SeqReq :=
  { op := fld l 7 0, prio := fld l 15 8, chunk := fld l 31 16, remain := fld l 63 32, pos := fld l 95 64,
    user := fld l 127 96, agent := fld l 191 128, memBase := fld l 255 192, parkAddr := fld l 319 256,
    index := fld l 335 320 }

/-- A request is refused with BAD_REQ (R201, R30). -/
def badReq (l : Line) : Bool :=
  let r := seqReq l
  let bare := r.prio == 0 && r.chunk == 0 && r.remain == 0 && r.pos == 0 && r.user == 0 && r.memBase == 0
  let addrOk := decide (r.parkAddr < 2 ^ 52) && r.parkAddr % 64 == 0
  fld l 511 336 ≠ 0 ||
    (if r.op = 1 then
      !(decide (1 ≤ r.chunk ∧ r.chunk ≤ 4095 ∧ 1 ≤ r.remain ∧ r.remain ≤ 0xffffff ∧ r.memBase < 2 ^ 52) && addrOk &&
        r.index == 0)
     else if r.op = 2 then !(bare && addrOk && r.index == 0)
     else if r.op = 3 || r.op = 4 || r.op = 5 then !(bare && r.parkAddr == 0)
     else true)

/-- Take one request (R200, R201, R212). -/
def takeRequest (s : Blk) (c : Nat) (l : Line) : Blk :=
  let r := seqReq l
  let refuse := fun (s : Blk) (code : Nat) => notice (ev s 0xe9 c) c 8 code 0 0 r.agent 0 none
  if badReq l then refuse s 2
  else if r.op = 1 then
    match freeEntry s c with
    | none => refuse s 1
    | some e =>
      let (a, s) := nextAseq s c
      let v : SeqEnt :=
        { agent := r.agent, memBase := r.memBase, parkAddr := r.parkAddr, pos := r.pos, remain := r.remain,
          chunk := r.chunk, aseq := a, user := r.user, ctxGen := ctxGen s c, ctx := c, level := r.prio % 64,
          cls := r.prio / 64 }
      notice (ev (setSeq s e v) 0xe4 c) c 1 0 e r.pos r.agent r.remain none
  else if r.op = 2 then
    match freeEntry s c with
    | none => refuse s 1
    | some e =>
      let v : SeqEnt := { agent := r.agent, parkAddr := r.parkAddr, ctx := c, ctxGen := ctxGen s c, state := .restoring }
      memRead (setSeq s e v) r.parkAddr 2 (some c) uSqt 0 (.restore e)
  else
    match seqAt s r.index with
    | none => refuse s 5
    | some v =>
      if v.state ≠ .active || v.ctx ≠ c || v.agent ≠ r.agent then refuse s 5
      else if r.op = 3 then setSeq s r.index (v.park 4)
      else
        let on := r.op == 4
        let s := ev (setSeq s r.index { v with hold := on }) (if on then 0xe7 else 0xe8) c
        notice s c (if on then 4 else 5) 0 r.index v.pos v.agent v.remain none

/-! ## The step boundary -/

/-- Write the boundary that runs, the first of the list (R216). -/
def setBound (s : Blk) (b : Boundary) : Blk := { s with sqt := { s.sqt with bounds := b :: s.sqt.bounds.drop 1 } }

/-- SQT_CTX_REQ: where request slot i lies. -/
def reqAddr (s : Blk) (c i : Nat) : Nat := (rg2 s (bank rSqtReqLo c) (bank rSqtReqHi c) + 64 * i) % 2 ^ 52

/-- Records of the request ring. -/
def reqSize (s : Blk) (c : Nat) : Nat := 2 ^ rgf s (bank rSqtRings c) 4 0

/-- Go on with the request phase of the boundary that runs: read the next request, or go over to the wait for the
restores (R205, R213, R215). -/
def requestStep (s : Blk) (b : Boundary) : Blk :=
  let v := sqtOf s b.ctx
  if ctxSt s b.ctx ≠ .opened then setBound s { b with phase := .writing, build := false, readOut := false }
  else if b.left == 0 || v.reqHead == b.tail % reqSize s b.ctx || v.reqFault then
    setBound s { b with phase := .restores, readOut := false }
  else if ntcRoom s b.ctx == 0 then
    setBound (setSqt s b.ctx { v with ntcFull := true }) { b with phase := .restores, readOut := false }
  else
    memRead (setBound s { b with left := b.left - 1, readOut := true }) (reqAddr s b.ctx v.reqHead) 0 (some b.ctx) uSqt
      (b.launch.getD 0) (.reqRead b.ctx)

/-- Begin the work of a boundary (R204, R205, R215). -/
def beginBound (s : Blk) (b : Boundary) (others : List Nat) : Blk :=
  let s := contested s b.ctx others
  let s := ev s 0xea b.ctx
  let st := ctxSt s b.ctx
  let parks := b.launch.isSome && (st == .opened || st == .orphaned)
  let (n, s) := if parks then parkPhase s b.ctx else (0, s)
  let b := { b with parks := n, left := rgf s (bank rSqtRings b.ctx) 28 16, phase := .requests }
  requestStep (setBound s b) b

/-- S[n] of a queue is written. -/
def setScratch (s : Blk) (q n v : Nat) : Blk :=
  let x := Store.getD s.csq.queues q {}
  let x := { x with scratch := Store.put 0 x.scratch n (BitVec.ofNat 64 v) }
  { s with csq := { s.csq with queues := Store.put {} s.csq.queues q x } }

/-- Wake a queue whose course LAUNCH waited for its course; the LAUNCH latched its request tail as it began to wait (R204,
R205). -/
def wakeBoundary (s : Blk) (q tail : Nat) : Blk :=
  { s with csq := { s.csq with queues := Store.modify s.csq.queues q (fun x =>
    if x.wait = .boundary then { x with wait := .none, preTail := some tail } else x) } }

/-- Start a boundary. The work ahead of a course LAUNCH is left out where a course stands by then, or a course launch runs
(R204): a LAUNCH of another queue was before it. -/
def startBound (s : Blk) (b : Boundary) (others : List Nat) : Blk :=
  if b.launch.isNone && ((sqtOf s b.ctx).course.isSome || (courseLaunch s b.ctx).isSome) then
    let s := { s with sqt := { s.sqt with bounds := s.sqt.bounds.drop 1 } }
    push (match b.pre with | some q => wakeBoundary s q b.tail | none => s) [.boundaries]
  else beginBound s b others

/-- The boundary at the head of the list goes on where it can; boundaries run one at a time (R216). That of a ruled context begins in
a tick of its own (R292). -/
def boundaries (s : Blk) : Blk :=
  match s.sqt.bounds with
  | [] => s
  | b :: r =>
    if b.phase = .queued then
      if ruledLive s b.ctx && s.ctx.inTick ≠ some b.ctx then s else startBound s b ((r.map (·.ctx)).filter (· ≠ b.ctx))
    else if b.phase = .requests && !b.readOut then requestStep s b
    else s

/-- A read of the request ring has been answered (R205, R213). -/
def requestAnswered (s : Blk) (c : Nat) (d : Option Line) : Blk :=
  match s.sqt.bounds with
  | [] => s
  | b :: _ =>
    if b.ctx ≠ c || !b.readOut then s
    else
      let v := sqtOf s c
      match d with
      | none => setBound (setSqt s c { v with reqFault := true }) { b with phase := .restores, readOut := false }
      | some l =>
        let rest := if (seqReq l).op = 2 then b.restores + 1 else b.restores
        let s := setSqt s c { v with reqHead := (v.reqHead + 1) % reqSize s c }
        let s := takeRequest (setBound s { b with readOut := false, restores := rest }) c l
        push s [.boundaries]

/-! ## The build phase -/

/-- `cands` of R206: class, then level, then ASEQ counted from the oldest one held (R203); none of an old generation (R214). -/
def seqCands (s : Blk) (c : Nat) : List (Nat × SeqEnt) :=
  let next := (sqtOf s c).aseq
  let age := fun (v : SeqEnt) => (v.aseq + 2 ^ 32 - next) % 2 ^ 32
  let key := fun (p : Nat × SeqEnt) => (p.2.cls * 64 + p.2.level) * 2 ^ 32 + age p.2
  sortBy (fun a b => decide (key a ≤ key b))
    ((seqsOf s c).filter (fun p => p.2.state == .active && !p.2.hold && !p.2.parkReq && p.2.ctxGen == ctxGen s c))

/-- What the build has made so far: the block, the entries, the tokens, and the sequences passed over. -/
structure Built where
  blk : Blk
  ents : List CourseEnt := []
  tok : Nat := 0
  passed : Nat := 0
deriving DecidableEq, Repr

/-- One round of `build_course` (R206). -/
def buildOne (c maxent maxtok tokbase : Nat) (x : Built) (p : Nat × SeqEnt) : Built :=
  let v := p.2
  let k := min v.chunk v.remain
  if x.ents.length < maxent ∧ x.tok + k ≤ maxtok then
    let (a, s) := nextAseq x.blk c
    let e : CourseEnt := { idx := p.1, tokens := k, token := tokbase + x.tok, prio := v.cls * 64 + v.level, pos := v.pos,
                           user := v.user, memBase := v.memBase }
    { x with blk := setSeq s p.1 { v with aseq := a, skips := 0 }, ents := x.ents ++ [e], tok := x.tok + k }
  else { x with blk := setSeq x.blk p.1 { v with skips := min (v.skips + 1) 0xffff }, passed := x.passed + 1 }

/-- `build_course` of R206. -/
def buildCourse (s : Blk) (c : Nat) : Built :=
  (seqCands s c).foldl (buildOne c (rgf s (bank rSqtLimits c) 30 16 + 1) (rgf s (bank rSqtLimits c) 14 0 + 1)
    (rgf s (bank rSqtTokBase c) 14 0)) { blk := s }

/-- The bytes of a course (R207). -/
def courseBytes (step tok : Nat) (es : List CourseEnt) : List Byte :=
  leBytes 4 es.length ++ leBytes 4 tok ++ leBytes 4 step ++ leBytes 52 0 ++
    es.flatMap (fun e =>
      leBytes 2 e.idx ++ leBytes 2 e.tokens ++ leBytes 2 e.token ++ leBytes 1 e.prio ++ leBytes 1 0 ++ leBytes 4 e.pos ++
        leBytes 4 e.user ++ leBytes 8 e.memBase ++ leBytes 8 0)

/-- The build phase of the boundary that runs may begin: its restores are answered (R205, Order 3). -/
def buildDue (s : Blk) (b : Boundary) : Bool :=
  b.phase == .restores && (seqsOf s b.ctx).all (fun p => p.2.state ≠ .restoring)

/-- Order 4 of R205 for the boundary that runs. -/
def buildBound (s : Blk) (b : Boundary) : Blk :=
  if ctxSt s b.ctx ≠ .opened then setBound s { b with phase := .writing, build := false }
  else
    let x := buildCourse s b.ctx
    let n := x.ents.length
    let s := evN (evN x.blk 0xeb (some b.ctx) n) 0xec (some b.ctx) x.passed
    let v := sqtOf s b.ctx
    let step := (v.stepCnt + b2n b.launch.isSome) % 2 ^ 32
    let s := trace s 0xc (some b.ctx) (put step 127 96 + put n 95 80 + put x.tok 79 64 + put b.parks 63 48 +
      put b.restores 47 32 + put x.passed 31 16)
    let bs := courseBytes step x.tok x.ents
    let s := setSqt s b.ctx { v with nbuilt := n, course := none }
    let s := setBound s { b with phase := .writing, build := true, course := x.ents, passed := x.passed, writes := cdiv bs.length 64 }
    memWrite s (courseAddr s b.ctx) bs 1 (some b.ctx) uSqt (b.launch.getD 0) (.courseLine b.ctx)

/-- COURSE_BUILD: the boundary that runs builds its course, once every restore read is answered (R205, R206). -/
def courseBuild (s : Blk) : Blk :=
  match s.sqt.bounds with
  | b :: _ => if buildDue s b then buildBound s b else s
  | [] => s

/-- A write of the course area has been answered (R213). -/
def courseAnswered (s : Blk) (c : Nat) (ok : Bool) : Blk :=
  match s.sqt.bounds with
  | b :: _ =>
    if b.ctx = c && b.phase == .writing then setBound s { b with writes := b.writes - 1, failed := b.failed || !ok } else s
  | [] => s

/-- Order 5 of R205: the step counter, S14 and S15. -/
def stepOn (s : Blk) (c n : Nat) : Blk :=
  let v := sqtOf s c
  let s := setSqt s c { v with stepCnt := (v.stepCnt + 1) % 2 ^ 32 }
  let q := rgf s (bank rSqtSq c) 5 0
  setScratch (setScratch s q 14 n) q 15 (residents s c)

/-- BOUNDARY_END for the boundary that runs (R204, R205, R213). -/
def endBound (s : Blk) (b : Boundary) : Blk :=
  let good := b.build && !b.failed && ctxSt s b.ctx == .opened
  let course := if good then some b.course else none
  let s := { s with sqt := { s.sqt with bounds := s.sqt.bounds.drop 1 } }
  let s := setSqt s b.ctx { sqtOf s b.ctx with course }
  match b.launch with
  | some l =>
    let s := stepOn s b.ctx (if good then b.course.length else 0)
    freeLaunch (push s [.boundaries]) l
  | none =>
    let s := if good then s else setScratch s (rgf s (bank rSqtSq b.ctx) 5 0) 14 0
    push (match b.pre with | some q => wakeBoundary s q b.tail | none => s) [.boundaries]

/-- The course writes of a boundary are answered. -/
def boundDue (b : Boundary) : Bool := b.phase == .writing && b.writes == 0

/-- BOUNDARY_END. -/
def boundaryEnd (s : Blk) : Blk :=
  match s.sqt.bounds with
  | b :: _ => if boundDue b then endBound s b else s
  | [] => s

/-- A course LAUNCH finds no course: its request and build phases run first (R204). -/
def preBoundary (s : Blk) (c q : Nat) : Blk :=
  let b : Boundary := { ctx := c, launch := none, pre := some q, tail := rgf s (pageReg c 0x200) 15 0 }
  push { s with sqt := { s.sqt with bounds := s.sqt.bounds ++ [b] } } [.boundaries]

/-! ## Advancing -/

/-- A task is the ADVNODE task of a course launch (R208). -/
def isAdvTask (s : Blk) (l : Launch) (t : Task) : Bool :=
  l.course.isSome && t.scope == topScope && t.node == rgf s (bank rSqtCfg l.ctx) 11 0 &&
    (t.kind == .kernel || t.kind == .null)

/-- The ADVNODE task has entered a final state: the RESULT words are read, or the course is not advanced (R208). In a FAULTED
context the entries stay unchanged (R215). -/
def advHook (s : Blk) (slot : Nat) : Blk :=
  match taskOf s slot with
  | none => s
  | some t =>
    match launchOf s t.launch with
    | none => s
    | some l =>
      if !isAdvTask s l t || l.advWait || ctxSt s l.ctx == .faulted then s
      else if t.state ≠ .done || t.dead then courseFault s l
      else
        let n := cdiv (l.course.getD []).length 2
        if n = 0 then s
        else
          let s := setLaunch s t.launch { l with advWait := true, resLeft := n, resBad := false, resLines := [] }
          forEach (List.range n) s (fun s i =>
            memRead s ((courseAddr s l.ctx + 0x40 + 64 * i) % 2 ^ 52) 0 (some l.ctx) uSqt t.launch (.resultLine t.launch i))

/-- A read of RESULT words has been answered. -/
def resultAnswered (s : Blk) (l i : Nat) (d : Option Line) : Blk :=
  modLaunch s l (fun v =>
    { v with resLeft := v.resLeft - 1, resBad := v.resBad || d.isNone,
             resLines := match d with | some x => Store.set v.resLines i x | none => v.resLines })

/-- RESULT of course entry i. -/
def resultOf (ls : Store Line) (i : Nat) : Nat :=
  let l := Store.getD ls (i / 2) 0
  fld l (256 * (i % 2) + 255) (256 * (i % 2) + 192)

/-- `advance` of R208 on an entry; whether its RESULT word was missing. -/
def SeqEnt.advance (v : SeqEnt) (tokens r : Nat) : SeqEnt × Bool :=
  let valid := r.testBit 63
  let missing := !valid || (r >>> 19) % 2 ^ 44 ≠ 0
  let adv := if missing then 0 else min (min (r % 65536) tokens) v.remain
  let v := if v.pos + adv > 0xffffffff then { v with pos := 0xffffffff }.park 5 else { v with pos := v.pos + adv }
  let v := { v with remain := v.remain - adv }
  let v := if valid && r.testBit 16 then v.park 1
    else if v.remain = 0 then v.park 2
    else if valid && r.testBit 17 then v.park 3
    else v
  (if valid && r.testBit 18 then { v with hold := true } else v, missing)

/-- Advance one course entry. -/
def advanceOne (c : Nat) (ls : Store Line) (s : Blk) (p : CourseEnt × Nat) : Blk :=
  match seqAt s p.1.idx with
  | none => s
  | some v =>
    if v.ctx ≠ c || v.state ≠ .active then s
    else
      let (w, missing) := v.advance p.1.tokens (resultOf ls p.2)
      let s := setSeq s p.1.idx w
      if missing then ev (bump s rSqtResMissing) 0xed c else s

/-- The RESULT words of a launch stand ready. -/
def advDue (l : Launch) : Bool := l.advWait && l.resLeft == 0

/-- SEQ_ADVANCE for a launch whose RESULT reads are answered (R208, R213). -/
def advanceLaunch (s : Blk) (i : Nat) (l : Launch) : Blk :=
  let s := setLaunch s i { l with advWait := false, resLines := [] }
  if ctxSt s l.ctx == .faulted then s
  else if l.resBad then courseFault s l
  else forEach (l.course.getD []).zipIdx s (advanceOne l.ctx l.resLines)

/-- SEQ_ADVANCE of a context. -/
def seqAdvance (s : Blk) (c : Nat) : Blk :=
  match courseLaunch s c with
  | some (i, l) => if advDue l then advanceLaunch s i l else s
  | none => s

/-! ## The driver's side -/

/-- SQT_CTX_STATUS.REQ_FAULT is cleared: requests and notices go on (R213). -/
def clearReqFault (s : Blk) (c : Nat) : Blk :=
  push (setSqt s c { sqtOf s c with reqFault := false }) [.notices c, .boundaries]

/-! ## Teardown (R214) -/

/-- Settle the entries of a context that is torn down: ACTIVE ones are parked with reason TEARDOWN, RESTORING ones are
freed. -/
def seqTeardown (s : Blk) (c : Nat) : Blk :=
  push (forEach (seqsOf s c) s (fun s p =>
    match p.2.state with
    | .active => parkBegin s p.1 { p.2 with parkReq := true, prsn := 6 }
    | .restoring => freeSeq s p.1
    | .parking => s)) [.notices c]

/-- Entries whose park the quiesce bound cut off are freed, with fault 0x15 and their last state in the context's log; the
notices left are lost and counted (R214). A context that is only fenced keeps its ACTIVE entries (R316). -/
def seqForce (s : Blk) (c : Nat) : Blk :=
  let left := (seqsOf s c).filter (fun p => settling s c || (p.2.state == .parking && !p.2.answered))
  let s := forEach left s (fun s p =>
    let s := if p.2.state == .parking && p.2.answered then s
      else orBits (ctxFault s c uSqt 0x15 (mkDetail p.2.parkAddr 0 0)) rSqtIrq 2
    freeSeq s p.1)
  loseNotices s c

end Sys2Proof.Machine
end

