-- ==== Sys2Proof/Machine/Csq.lean ====
section
/-! DEFINITION. The Command Sequencer: queues and their states (R222, R226), fetching (R225), the issue point (R239),
breakpoints (R247 to R249), retirement, halts and completion records (R241 to R245, R324), flush (R237, R243), the Pulse
(R246), and stall codes and sampling (R250, R251). -/
namespace Sys2Proof.Machine

/-! ## Queues -/

/-- A submission queue. -/
def queueOf (s : Blk) (q : Nat) : Queue := Store.getD s.csq.queues q {}

/-- Write a submission queue. -/
def setQ (s : Blk) (q : Nat) (v : Queue) : Blk :=
  { s with csq := { s.csq with queues := Store.put {} s.csq.queues q v } }

/-- Change a submission queue. -/
def modQ (s : Blk) (q : Nat) (f : Queue → Queue) : Blk := setQ s q (f (queueOf s q))

/-- CSQ_SQq_CFG.CTX: the bound context. -/
def sqCtx (s : Blk) (q : Nat) : Nat := rgf s (sqReg q 0) 23 16

/-- CSQ_SQq_CFG.PRIV. -/
def sqPriv (s : Blk) (q : Nat) : Bool := rgb s (sqReg q 0) 30

/-- CSQ_SQq_CFG.PRIO. -/
def sqPrio (s : Blk) (q : Nat) : Nat := rgf s (sqReg q 0) 29 28

/-- Slots of the command ring. -/
def sqSize (s : Blk) (q : Nat) : Nat := 2 ^ rgf s (sqReg q 0) 4 0

/-- Slots of the completion ring. -/
def cplSize (s : Blk) (q : Nat) : Nat := 2 ^ rgf s (sqReg q 0) 12 8

/-- The command ring's address. -/
def sqBase (s : Blk) (q : Nat) : Nat := rg2 s (sqReg q 4) (sqReg q 8)

/-- The address of the ring slot a queue executes next. -/
def ringPc (s : Blk) (q h : Nat) : Nat := (sqBase s q + 32 * h) % 2 ^ 52

/-- A scratch register. -/
def scratch (v : Queue) (i : Nat) : Word64 := Store.getD v.scratch i 0

/-- S[i] of a queue is written. -/
def wrScratch (v : Queue) (i : Nat) (x : Word64) : Queue := { v with scratch := Store.put 0 v.scratch i x }

/-- Commands fetched ahead are discarded (R225). -/
def dropAhead (v : Queue) : Queue := { v with buf := [], bad := [], fetching := [], epoch := v.epoch + 1 }

/-- The tail a queue will have: of the doorbell that is held for it, if any. -/
def Queue.tailNow (v : Queue) : Nat := v.door.getD v.tail

/-- A doorbell's tail is taken. A line of which only the first slot was below the tail is read again. -/
def Queue.takeTail (v : Queue) (tail : Nat) : Queue :=
  let v := if v.tail % 2 == 1 then dropAhead v else v
  { v with tail, door := none }

/-- A queue's context is OPEN, so that its commands begin (R222). -/
def ctxOpen (s : Blk) (q : Nat) : Bool := ctxSt s (sqCtx s q) == .opened

/-! ## Fetching -/

/-- The lines a queue wants: the one of its PC and two ahead (R225). In the ring only lines with slots below TAIL. -/
def wantLines (s : Blk) (q : Nat) (v : Queue) : List Nat :=
  if v.stack.isEmpty then
    let size := sqSize s q
    let n := (v.tail + size - v.head) % size
    ((List.range 3).filter (fun k => decide (2 * k < n + v.head % 2))).map (fun k =>
      (sqBase s q + (v.head / 2 * 64 + 64 * k) % (32 * size)) % 2 ^ 52)
  else (List.range 3).map (fun k => (v.pc / 64 * 64 + 64 * k) % 2 ^ 52)

/-- Ask for the lines a running queue wants and does not have. -/
def fetchPump (s : Blk) (q : Nat) : Blk :=
  let v := queueOf s q
  if v.state ≠ .run || !ctxOpen s q || (v.stack.isEmpty && v.head == v.tail) then s
  else
    let want := wantLines s q v
    let new := want.filter (fun a =>
      !v.fetching.contains a && !v.buf.any (fun b => b.1 == a) && !v.bad.any (fun b => b.1 == a))
    let v := { v with buf := v.buf.filter (fun b => want.contains b.1), bad := v.bad.filter (fun b => want.contains b.1),
                      fetching := v.fetching ++ new }
    forEach new (setQ s q v) (fun s a => memRead s a 0 (some (sqCtx s q)) uCsq q (.fetch q v.epoch a))

/-- A fetch has been answered: a line, or the DETAIL of the fault that executing a command of it is to record (R225). -/
def fetchAnswered (s : Blk) (q epoch addr : Nat) (d : Option Line) (detail : Nat) : Blk :=
  let v := queueOf s q
  if v.epoch ≠ epoch || !v.fetching.contains addr then s
  else
    let v := { v with fetching := v.fetching.erase addr }
    match d with
    | some l => ev (setQ s q { v with buf := v.buf ++ [(addr, l)] }) 0xc4 (sqCtx s q)
    | none => setQ s q { v with bad := v.bad ++ [(addr, detail)] }

/-- The command word at a queue's PC, where its line has been read. -/
def pcWord (v : Queue) : Option Word256 :=
  (v.buf.find? (fun b => b.1 == v.pc / 64 * 64)).map (fun b =>
    BitVec.ofNat 256 (fld b.2 (256 * (v.pc / 32 % 2) + 255) (256 * (v.pc / 32 % 2))))

/-! ## The issue point -/

/-- A queue has a command that may begin (R222, R239). -/
def cmdReady (s : Blk) (q : Nat) (v : Queue) : Bool :=
  v.state == .run && v.wait == .none && v.pend.isNone && ctxOpen s q && (pcWord v).isSome &&
    !(v.stack.isEmpty && v.head == v.tail)

/-- The queues that wait at the issue point; those of ruled contexts are taken by their ticks (R240). -/
def readyQueues (s : Blk) : List Nat :=
  (s.csq.queues.filter (fun p => cmdReady s p.1 p.2 && !ruledLive s (sqCtx s p.1))).map Prod.fst

/-- The queue served next (R239): lowest PRIO, then round-robin among equals after the one served last. -/
def issueNext (s : Blk) : Option Nat :=
  argmin (fun q => sqPrio s q * 64 + (q + 63 - Store.getD s.csq.lastServed (sqPrio s q) 63) % 64) (readyQueues s)

/-! ## Completion records -/

/-- Slots of the completion ring that are free (R245). -/
def cplFree (s : Blk) (q : Nat) (v : Queue) : Nat := cplSize s q - 1 - (v.cplTail + cplSize s q - v.cplHead % cplSize s q) % cplSize s q

/-- Records of a context are in the overflow, or wait for it: every further record of it goes there (R324). -/
def ovfMode (s : Blk) (c : Nat) : Bool := (s.ctx.ovf ++ s.ctx.ovfWait).any (fun r => r.ctx == c)

/-- The command needs a record (R244). -/
def Retire.needsRec (r : Retire) : Bool := r.act == .halt || cReport r.word

/-- A retirement must wait (R245, R324). -/
def retireWaits (s : Blk) (q : Nat) (r : Retire) : Bool :=
  let c := sqCtx s q
  s.ctx.ovfWait.any (fun r => r.ctx == c) ||
    (r.needsRec && (cplFree s q (queueOf s q) == 0 || (ovfMode s c && decide (s.ctx.ovf.length ≥ 64))))

/-- A completion record (R244). -/
def cplBytes (s : Blk) (q : Nat) (v : Queue) (r : Retire) : List Byte :=
  let value := match r.value with | some x => x.toNat % 2 ^ 32 | none => 0
  leBytes 8 (cTag r.word) ++ leBytes 8 r.pc ++ leBytes 8 (now s) ++ leBytes 4 value ++ leBytes 1 (cOp r.word) ++
    leBytes 1 r.code ++ leBytes 1 (q + put (b2n v.phase) 7 7) ++ leBytes 1 (ctxGen s (sqCtx s q))

/-- The lowest free index of the overflow. -/
def ovfIdx (s : Blk) : Nat := ((List.range 64).find? (fun i => !s.ctx.ovf.any (fun r => r.idx == i))).getD 0

/-- Put a record into the overflow, or keep it until an entry frees (R324). -/
def ovfPut (s : Blk) (r : OvfRec) : Blk :=
  if s.ctx.ovf.length < 64 then
    let ovf := insertBy (fun x y => decide (x.num ≤ y.num)) { r with idx := ovfIdx s } s.ctx.ovf
    ev { s with ctx := { s.ctx with ovf } } 0xc9 r.ctx
  else { s with ctx := { s.ctx with ovfWait := s.ctx.ovfWait ++ [r] } }

/-- Write a completion record into the next slot of its ring, or place it in the overflow (R244, R245, R324). -/
def putRecord (s : Blk) (q : Nat) (r : Retire) : Blk :=
  let v := queueOf s q
  let c := sqCtx s q
  let bs := cplBytes s q v r
  let slot := v.cplTail
  let tail := (slot + 1) % cplSize s q
  let num := s.csq.recs
  let s := ev (setQ s q { v with cplTail := tail, phase := if tail = 0 then !v.phase else v.phase }) 0xc8 c
  let s := { s with csq := { s.csq with recs := num + 1 } }
  if ovfMode s c then ovfPut s { idx := 0, q, ctx := c, slot, bytes := bs, num }
  else memWrite s ((rg2 s (sqReg q 0xc) (sqReg q 0x10) + 32 * slot) % 2 ^ 52) bs 1 (some c) uCsq q (.cplRecord q slot num bs)

/-! ## Retirement and halts -/

/-- The queue runs on: nothing is set aside any more. -/
def Queue.clearCmd (v : Queue) : Queue :=
  { v with state := .run, wait := .none, pend := none, cur := none, jw := none, deadline := none, preTail := none }

/-- HEAD passes the slot of a retired ring command (R223). -/
def headOn (s : Blk) (q : Nat) (v : Queue) : Queue :=
  let h := (v.head + 1) % sqSize s q
  { v with head := h, pc := ringPc s q h }

/-- A live launch names a joint as its end joint. -/
def isEndJoint (s : Blk) (j : Nat) : Bool := (Store.vals s.tsk.launches).any (fun l => l.endJoint == some j)

/-- A queue gives its joints back; end joints of live launches wait for their arrival (R237). -/
def dropJoints (s : Blk) (q : Nat) : Blk :=
  let v := queueOf s q
  let ends := v.joints.filter (isEndJoint s)
  let s := setQ s q { v with joints := [], endFree := v.endFree ++ ends }
  giveJoints s (v.joints.filter (fun j => !isEndJoint s j))

/-- An end joint that a flushed queue has left behind is freed once no live launch names it (R237). -/
def freeEnd (s : Blk) (j : Nat) : Blk :=
  if isEndJoint s j then s
  else
    let had := (Store.vals s.csq.queues).any (fun v => v.endFree.contains j)
    if !had then s
    else
      let s := { s with csq := { s.csq with queues := s.csq.queues.map (fun p =>
        (p.1, { p.2 with endFree := p.2.endFree.filter (· ≠ j) })) } }
      giveJoints s [j]

/-- What the rest of the block owes a command that is abandoned: nothing of it comes back to the queue. -/
def abandonCmd (s : Blk) (q : Nat) : Blk :=
  let mine := fun (r : Retry) => match r.what.req.owner with | .signal p _ => p == q | _ => false
  { s with
    tsk := { s.tsk with
      job := s.tsk.job.map (fun j => if j.patch = some q then { j with patch := some 64 } else j)
      launches := s.tsk.launches.map (fun p =>
        (p.1, { p.2 with spillQ := if p.2.spillQ = some q then none else p.2.spillQ })) }
    obs := { s.obs with latch := s.obs.latch.map (fun j => if j.queue = some q then { j with queue := some 64 } else j) }
    sqt := { s.sqt with bounds := s.sqt.bounds.map (fun b => if b.pre = some q then { b with pre := some 64 } else b) }
    ctx := { s.ctx with owed := s.ctx.owed.filter (fun o => o.what ≠ .answer q (queueOf s q).life) }
    xch := { s.xch with retries := s.xch.retries.filter (fun r => !mine r) } }

/-- FLUSH: queued and called work is discarded (R243). The queue is left in `st`. -/
def flushTo (s : Blk) (q : Nat) (st : QState) : Blk :=
  let s := dropJoints (abandonCmd s q) q
  modQ s q (fun v => dropAhead { v.clearCmd with
    state := st, head := v.tailNow, tail := v.tailNow, door := none, stack := [], ringCall := none, backj := 0, life := v.life + 1,
    heldCtl := none, passBrk := false, stepArm := false })

/-- Carry out a halt (R242), for which a blot may be requested (R359). -/
def doHalt (s : Blk) (q : Nat) (r : Retire) : Blk :=
  let v := queueOf s q
  let s := setQ s q (dropAhead { v.clearCmd with state := .halted, passBrk := false, stepArm := false })
  let s := wr s (sqReg q 0x20) (put r.code 31 24 + put v.stack.length 2 0)
  let s := forEach (List.range 8) s (fun s i =>
    wr s (sqReg q (0x40 + 4 * i)) (if r.code = 0x12 then 0 else fld r.word (32 * i + 31) (32 * i)))
  let s := ev (orBits s rCsqIrq 1) 0xc0 (sqCtx s q)
  let s := match r.log with
    | some d => ctxFault s (sqCtx s q) uCsq r.code d
    | none => s
  blotAuto s 4 7 r.code (sqCtx s q)

/-- A HELLO that retires with ACCEPTED makes HIF ready in the same update (R411). -/
def hifAccept (s : Blk) (r : Retire) : Blk :=
  if cOp r.word = oHello && (r.value.map (fun x => x.toNat % 256 == 0)).getD false && r.value.isSome then
    let s := if s.cfg.ready.testBit 15 then s
      else orBits { s with cfg := { s.cfg with ready := s.cfg.ready ||| 2 ^ 15, hifRefused := false } } rCfgIrq 1
    wr s rHifActive (cImm r.word)
  else s

/-- Carry out a retirement or halt whose record has its place. The ring CALL of a RET to depth 0 retires after it
(R223). -/
def finishOne (s : Blk) (q : Nat) (r : Retire) : Option Retire × Blk :=
  let s := if r.needsRec then putRecord s q r else s
  let s := if r.act = .halt then s else hifAccept s r
  if r.act = .halt then (none, doHalt s q r)
  else
    let v := (queueOf s q).clearCmd
    let v := match r.value with | some x => wrScratch v (cRd r.word) x | none => v
    let s := ev (bump s (sqReg q 0x30)) (0x80 + q) (sqCtx s q)
    let s := if cOp r.word = oLoad then ev s 0xcd (sqCtx s q) else if cOp r.word = oStore then ev s 0xce (sqCtx s q) else s
    let s := { s with csq := { s.csq with retired := s.csq.retired + 1 } }
    let v := { v with passBrk := false }
    match r.act with
    | .jump t => (none, setQ s q (dropAhead { v with pc := t }))
    | .call t => (none, setQ s q (dropAhead { v with stack := (v.pc + 32) % 2 ^ 52 :: v.stack, pc := t }))
    | .ret =>
      match v.stack with
      | a :: b :: rest => (none, setQ s q (dropAhead { v with stack := b :: rest, pc := a }))
      | _ =>
        let s := setQ s q (dropAhead { v with stack := [], ringCall := none })
        (v.ringCall.map (fun c => { word := c.1, pc := c.2 }), s)
    | .flush => (none, flushTo (setQ s q v) q .idle)
    | _ => (none, setQ s q (if v.stack.isEmpty then headOn s q v else { v with pc := (v.pc + 32) % 2 ^ 52 }))

/-- A retirement or halt, or its wait for a record slot (R245). -/
def retireOne (s : Blk) (q : Nat) (r : Retire) : Option Retire × Blk :=
  if retireWaits s q r then (none, modQ s q (fun v => { v with state := .run, wait := .cpl, pend := some r }))
  else finishOne s q r

/-- Retire a command, and the ring CALL that its RET ends. -/
def retire (s : Blk) (q : Nat) (r : Retire) : Blk :=
  match retireOne s q r with
  | (some r', s) => (retireOne s q r').2
  | (none, s) => s

/-- A completion slot or overflow entry has freed: a waiting command retires (R245, R324). -/
def cplPump (s : Blk) (q : Nat) : Blk :=
  match (queueOf s q).pend with
  | none => s
  | some r => if retireWaits s q r then s else retire s q r

/-- Retire the command at the PC with a value for S[RD]. -/
def retireVal (s : Blk) (q : Nat) (w : Word256) (x : Option Word64) : Blk :=
  retire s q { word := w, pc := (queueOf s q).pc, value := x }

/-- DETAIL of the faults 0x30 to 0x34 of a command (R392). -/
def cmdDetail (s : Blk) (q refusal : Nat) : Nat := mkDetail (queueOf s q).pc (put q 5 0) refusal

/-- DETAIL of fault 0x60 (R411): the version announced, BLK_HIF_VERSION, and the queue. -/
def hifDetail (version q : Nat) : Nat := mkDetail (put version 31 0) 0x30001 q

/-- Halt a queue at its command, recording the fault (R242). A command that comes before HELLO announces no version: DETAIL of its
0x60 shows BLK_HIF_ACTIVE in that place (R412; DESIGN CHOICE, assumption 22). -/
def haltCmd (s : Blk) (q : Nat) (w : Word256) (code : Nat) : Blk :=
  let d := if code = 0x60 then hifDetail (rg s rHifActive) q else cmdDetail s q 0
  retire s q { word := w, pc := (queueOf s q).pc, code, act := .halt, log := some d }

/-- Halt a queue at its command with a fault that is recorded already, or with a DETAIL of its own. -/
def haltWith (s : Blk) (q : Nat) (w : Word256) (code : Nat) (log : Option Nat) : Blk :=
  retire s q { word := w, pc := (queueOf s q).pc, code, act := .halt, log }

/-- An outcome that R241 names: with FTOL the value goes to S[RD] and the queue goes on, else the queue halts. -/
def refused (s : Blk) (q : Nat) (w : Word256) (value code : Nat) (log : Option Nat) : Blk :=
  if cFtol w then
    retire (ev s 0xc7 (sqCtx s q)) q { word := w, pc := (queueOf s q).pc, value := some (BitVec.ofNat 64 value), code }
  else haltWith s q w code log

/-- Set a command aside until what it waits for has come (R239). -/
def aside (s : Blk) (q : Nat) (w : Word256) (k : QWait) : Blk := modQ s q (fun v => { v with wait := k, cur := some w })

/-- The command begins anew once a unit is free: it is not tested against the breakpoints again. -/
def waitUnit (s : Blk) (q : Nat) (k : QWait) : Blk := modQ s q (fun v => { v with wait := k, passBrk := true })

/-- Queues that wait for a busy unit try again. -/
def wakeUnits (s : Blk) : Blk :=
  { s with csq := { s.csq with queues := s.csq.queues.map (fun p =>
    if p.2.wait = .unit then (p.1, { p.2 with wait := .none }) else p) } }

/-! ## Breakpoints -/

/-- A comparator matches a command of a queue (R247). -/
def brkMatch (s : Blk) (q : Nat) (v : Queue) (w : Word256) (n : Nat) : Bool :=
  let k := rBrk + 0x10 * n
  rgb s k 31 && (rgb s k 28 || rgf s k 21 16 == q) &&
    (if rgb s k 29 then rgf s k 7 0 == cOp w else rg2 s (k + 4) (k + 8) == v.pc)

/-- The comparator that matches a command, and its MODE. -/
def brkHit (s : Blk) (q : Nat) (v : Queue) (w : Word256) : Option (Nat × Bool) :=
  ((List.range 4).find? (brkMatch s q v w)).map (fun n => (n, rgb s (rBrk + 0x10 * n) 30))

/-- A queue enters BREAK (R226). -/
def enterBreak (s : Blk) (q : Nat) : Blk := modQ s q (fun v => dropAhead { v with state := .brk, backj := 0 })

/-- A break is taken (R247); a trigger with COND 100 acts (R353). -/
def takeBreak (s : Blk) (q n : Nat) (mode : Bool) : Blk :=
  let s := { s with csq := { s.csq with brkHit := true, brkComp := n, brkQueue := q, brkCtx := sqCtx s q, brkMode := mode } }
  let s := enterBreak (ev (orBits s rCsqIrq 2) 0xc1 (sqCtx s q)) q
  if trigCond s = 4 then trigger s 4 0 else s

/-- The tests of a command that is about to execute (R247 to R249): whether it executes. -/
def brkTest (s : Blk) (q : Nat) (w : Word256) : Bool × Blk :=
  let v := queueOf s q
  if v.passBrk then (true, s)
  else if brkHolds s (sqCtx s q) && q ≠ s.csq.brkQueue then (false, enterBreak s q)
  else
    let hit := if v.stepArm then some (s.csq.brkComp, s.csq.brkMode) else brkHit s q v w
    match hit with
    | none => (true, s)
    | some (n, mode) =>
      let s := modQ s q (fun v => { v with stepArm := false })
      if s.csq.brkHit then (true, bump s rDbBad) else (false, takeBreak s q n mode)

/-- RESUME: the break ends (R249). `step` arms the matching queue. -/
def endBreak (s : Blk) (step : Bool) : Blk :=
  if !s.csq.brkHit then s
  else
    let q := s.csq.brkQueue
    let back := fun (p : Nat × Queue) =>
      if p.2.state = .brk then
        (p.1, { p.2 with state := .run, passBrk := decide (p.1 = q), stepArm := step && decide (p.1 = q) })
      else p
    { s with csq := { s.csq with queues := s.csq.queues.map back, brkHit := false } }

/-! ## Beginning a command -/

/-- The checks of R228 that come before the operands, in order: the code that halts the queue. -/
def frontCheck (s : Blk) (q : Nat) (w : Word256) : Option Nat :=
  if !opKnown (cOp w) then some 0x30
  else if !fnReady s 15 && cOp w ≠ oHello && cOp w ≠ oNop then some 0x60
  else if privOp w (sqCtx s q) && !sqPriv s q then some 0x33
  else if !operandsOk w then some 0x31
  else none

/-- The command at a queue's PC begins: breakpoints, checks, then `run` with the word, and whether the command's break has
been resumed (R247). -/
def beginCmd (s : Blk) (q : Nat) (w : Word256) (run : Blk → Word256 → Bool → Blk) : Blk :=
  let passed := (queueOf s q).passBrk
  match brkTest s q w with
  | (false, s) => s
  | (true, s) =>
    match frontCheck s q w with
    | some code => haltCmd s q w code
    | none => run s w passed

/-- The word that a queue may begin now: it is the queue the issue point serves next, or its context's tick runs. -/
def issueWord (s : Blk) (q : Nat) : Option Word256 :=
  let v := queueOf s q
  if !cmdReady s q v then none
  else if ruledLive s (sqCtx s q) then (if s.ctx.inTick = some (sqCtx s q) then pcWord v else none)
  else if issueNext s = some q then pcWord v
  else none

/-- The issue point serves queue q: round-robin goes on after it, and a contested grant is counted (R239, R297); then the store
that the command updates grants it, where `waiting` are the contexts of the requests that wait there. -/
def serve (s : Blk) (q : Nat) (waiting : List Nat) : Blk :=
  if ruledLive s (sqCtx s q) then contested s (sqCtx s q) waiting
  else
    let others := (readyQueues s).filter (· ≠ q)
    let s := { s with csq := { s.csq with lastServed := Store.set s.csq.lastServed (sqPrio s q) q } }
    contested (contested s (sqCtx s q) (others.map (sqCtx s))) (sqCtx s q) waiting

/-- Execute the command at the PC of queue q, where it has the opcode `op`; nothing happens where it has another, or where
the queue is not served next. -/
def execCmd (s : Blk) (q op : Nat) (waiting : List Nat) (run : Blk → Word256 → Bool → Blk) : Blk :=
  match issueWord s q with
  | none => s
  | some w => if cOp w = op then beginCmd (serve s q waiting) q w run else s

/-- ILLEGAL_OPCODE: the command at the PC has an opcode that R229 does not list (R228). -/
def illegalOpcode (s : Blk) (q : Nat) : Blk :=
  match issueWord s q with
  | none => s
  | some w => if opKnown (cOp w) then s else beginCmd (serve s q []) q w (fun s _ _ => s)

/-! ## Flush, enable and disable -/

/-- EN written 1: DISABLED to IDLE (R226, R235). The completion ring starts at slot 0 with PHASE 1 (R244). -/
def enableQ (s : Blk) (q : Nat) : Blk :=
  modQ s q (fun v => { v with state := .idle, head := 0, tail := 0, door := none, cplHead := 0, cplTail := 0, phase := true, stack := [],
                              ringCall := none, backj := 0 })

/-- EN written 0: to DISABLED (R226). The fetch-ahead is discarded and joints are freed as FLUSH does; the pointers, the call stack
and BACKJ stand. -/
def disableQ (s : Blk) (q : Nat) : Blk :=
  let s := dropJoints (abandonCmd s q) q
  modQ s q (fun v => dropAhead { v.clearCmd with
    state := .disabled, life := v.life + 1, heldCtl := none, passBrk := false, stepArm := false })

/-- The actions of CSQ_SQq_CTL on a HALTED queue whose context is OPEN (R243): 1 RETRY, 2 SKIP, 3 FLUSH. A skipped command
is retired without effect, and so without a second record after that of its halt. DEDUCED: assumption 15. -/
def ctlAct (s : Blk) (q act : Nat) : Blk :=
  let v := queueOf s q
  if v.state ≠ .halted then s
  else if act = 3 then flushTo s q .idle
  else
    let s := setQ s q { v with state := .run, heldCtl := none }
    if act = 2 then
      let w : Word256 := BitVec.ofNat 256 (((List.range 8).map (fun i => rg s (sqReg q (0x40 + 4 * i)) * 2 ^ (32 * i))).foldl
        (· + ·) 0)
      retire s q { word := w &&& ~~~(256 : Word256), pc := v.pc }
    else s

/-- A held CTL action is taken once the context is OPEN (R243). -/
def ctlHeld (s : Blk) (q : Nat) : Blk :=
  match (queueOf s q).heldCtl with
  | some act => if ctxOpen s q then ctlAct s q act else s
  | none => s

/-- A CTL write (R243). -/
def ctlWrite (s : Blk) (q act : Nat) : Blk :=
  let v := queueOf s q
  if v.state ≠ .halted then bump s rDbBad
  else if ctxOpen s q then ctlAct s q act
  else setQ s q { v with heldCtl := some act }

/-! ## Movement between commands -/

/-- IDLE to RUN, RUN to IDLE, the halt at a command that could not be read, and the next fetches of one queue (R225,
R226). -/
def pumpQueue (s : Blk) (q : Nat) : Blk :=
  let s := match (queueOf s q).door with
    | some t => if ruledLive s (sqCtx s q) then s else modQ s q (fun v => v.takeTail t)
    | none => s
  let v := queueOf s q
  let s :=
    if v.state == .idle && v.head ≠ v.tail && ctxOpen s q && !ruledLive s (sqCtx s q) then
      setQ s q { v with state := .run, pc := ringPc s q v.head }
    else if v.state == .run && v.wait == .none && v.pend.isNone && v.stack.isEmpty && v.head == v.tail then
      setQ s q (dropAhead { v with state := .idle, backj := 0, passBrk := false })
    else s
  let v := queueOf s q
  match v.bad.find? (fun b => b.1 == v.pc / 64 * 64) with
  | some b =>
    if v.state == .run && v.wait == .none && v.pend.isNone && ctxOpen s q && (!ruledLive s (sqCtx s q) ||
        s.ctx.inTick == some (sqCtx s q)) then
      haltWith s q 0 0x12 (some b.2)
    else s
  | none => fetchPump s q

/-- The queues' movement at the end of a step. -/
def pumpQueues (s : Blk) : Blk :=
  let s := forEach (Store.keys s.csq.queues) s pumpQueue
  if (Store.vals s.csq.queues).any (fun v => v.state == .run) then { s with csq := { s.csq with active := true } } else s

/-! ## The Pulse, stall codes and sampling -/

/-- The Sequencer is active (R246). -/
def csqActive (s : Blk) : Bool := (Store.vals s.csq.queues).any (fun v => v.state == .run)

/-- Emit a Pulse (R246). -/
def emitPulse (s : Blk) (active : Bool) : Blk :=
  let n := s.csq.pulseSeq
  let s := ev0 (bump s rPulseCount) 0xc5
  let s := trace s 0xb none (put n 127 112 + put (b2n active) 111 111 + put s.csq.retired 95 64)
  { s with csq := { s.csq with pulseSeq := (n + 1) % 65536, retired := 0, active, pulseAt := now s }
           saf := { s.saf with pulseAt := now s, pulseActive := active, pulseLost := false } }

/-- PULSE: one while active, and one with ACTIVE 0 on becoming inactive (R246). -/
def pulseCmd (s : Blk) : Blk :=
  if csqActive s then emitPulse s true else if s.csq.active then emitPulse s false else s

/-- The stall code of a queue (R250). -/
def stallOf (s : Blk) (q : Nat) : Nat :=
  let v := queueOf s q
  match v.state with
  | .disabled => 4
  | .idle => 4
  | .wait => 2
  | .sleep => 11
  | .brk => 5
  | .halted => 6
  | .run =>
    match v.wait with
    | .memory => 3
    | .image => 3
    | .remote => 12
    | .cpl => 10
    | .none =>
      if !ctxOpen s q then 8
      else if (pcWord v).isNone then 1
      else if issueNext s = some q || ruledLive s (sqCtx s q) then 0
      else 7
    | _ => 9

/-- PC_SAMPLE is due: every 2^SHIFT ns of Time Port time (R251). -/
def pcsDue (s : Blk) : Bool :=
  rgb s rPcsCfg 31 && s.time.usable && decide (now s ≥ s.csq.pcsAt + 2 ^ rgf s rPcsCfg 4 0)

/-- The next enabled queue by number (R251). -/
def pcsQueue (s : Blk) : Option Nat :=
  ((List.range 64).map (fun i => (s.csq.pcsNext + i) % 64)).find? (fun q => (queueOf s q).state ≠ .disabled)

/-- Take a PC sample (R251). -/
def pcSample (s : Blk) : Blk :=
  if !pcsDue s then s
  else match pcsQueue s with
    | none => s
    | some q =>
      let v := queueOf s q
      let st := stallOf s q
      let s := wr s rPcsLast (put st 31 28 + 2 ^ 27 + put v.stack.length 26 24 + put q 21 16)
      let s := wr (wr s rPcsPcLo (v.pc % 2 ^ 32)) rPcsPcHi (v.pc / 2 ^ 32 % 2 ^ 20)
      let s := { s with csq := { s.csq with pcsNext := (q + 1) % 64, pcsAt := now s } }
      trace (ev s 0xc6 (sqCtx s q)) 0xa (some (sqCtx s q))
        (put (v.pc >>> 5) 127 81 + put v.stack.length 80 78 + put st 77 74 + put q 73 68)

end Sys2Proof.Machine
end

