-- ==== Sys2Proof/Machine/CsqCmd.lean ====
section
/-! DEFINITION. The Nib's graph, joint, scratch, memory, flow and template commands (R230, R231, R234 to R237), and what their
answers do. FENCE, AUDIT, HELLO and ADOPT stand with their units. -/
namespace Sys2Proof.Machine

/-- A source scratch register as a number. -/
def sreg (s : Blk) (q i : Nat) : Nat := (scratch (queueOf s q) i).toNat

/-- The joint index in S[RA] (R230). -/
def raJoint (s : Blk) (q : Nat) (w : Word256) : Nat := sreg s q (cRa w) % 2 ^ 18

/-! ## Launches -/

/-- What a LAUNCH command supplies (R230). -/
def launchArgs (s : Blk) (q : Nat) (w : Word256) : LArgs :=
  { q, ctx := sqCtx s q, tid := opaF w 63 52, ltag := if opbB w 20 then sreg s q (cRa w) % 2 ^ 32 else cImm w,
    argBase := opaF w 51 0,
    endJ := if opbB w 18 then some (if opbB w 19 then sreg s q (cRb w) % 2 ^ 18 else opbF w 17 0) else none,
    course := opbB w 21 }

/-- The end joint of a LAUNCH is the queue's own and has not fired (R230). -/
def endJointOk (s : Blk) (q : Nat) (a : LArgs) : Bool :=
  match a.endJ with
  | none => true
  | some j => (queueOf s q).joints.contains j && !jointFired s j

/-- LAUNCH (R95, R96, R204, R230). -/
def runLaunch (s : Blk) (q : Nat) (w : Word256) : Blk :=
  let a := launchArgs s q w
  if !endJointOk s q a then haltCmd s q w 0x31
  else if a.course && ctxChecks s a && (sqtOf s a.ctx).course.isNone then preBoundary (waitUnit s q .boundary) a.ctx q
  else if armWaits s a then waitUnit s q .unit
  else match launchRefusal s a with
    | some code => refused (refuseLaunch s a code) q w code code none
    | none => retireVal (doLaunch s a) q w (some 0)

/-! ## Joints of a queue -/

/-- A queue frees one of its joints. -/
def dropJoint (s : Blk) (q j : Nat) : Blk :=
  giveJoints (modQ s q (fun v => { v with joints := v.joints.filter (· ≠ j) })) [j]

/-- JALLOC (R236). -/
def runJalloc (s : Blk) (q : Nat) (w : Word256) : Blk :=
  if (queueOf s q).joints.length ≥ 16 then haltCmd s q w 0x31
  else if runTotal s.tsk.freeJoints = 0 then haltWith s q w 0x53 (some (mkDetail 0 0 1))
  else match takeJoints s 1 with
    | (some [j], s) =>
      let s := newJoint s j (if opbB w 24 then openWord else closedWord (opbF w 23 0)) (.queue q) (sqCtx s q)
      let s := modQ s q (fun v => { v with joints := v.joints ++ [j] })
      retireVal (ev s 0xcc (sqCtx s q)) q w (some (BitVec.ofNat 64 j))
    | _ => haltWith s q w 0x53 (some (mkDetail 0 0 1))

/-- JFREE (R236). -/
def runJfree (s : Blk) (q : Nat) (w : Word256) : Blk :=
  let j := raJoint s q w
  if !(queueOf s q).joints.contains j || isEndJoint s j then haltCmd s q w 0x31
  else retireVal (dropJoint s q j) q w none

/-- WAIT (R236): it passes at once on a fired joint, else the queue enters WAIT. -/
def runWait (s : Blk) (q : Nat) (w : Word256) : Blk :=
  let j := raJoint s q w
  if !(queueOf s q).joints.contains j then haltCmd s q w 0x31
  else if jointFired s j then retireVal (dropJoint s q j) q w (some 0)
  else
    let us := opbF w 19 0
    modQ s q (fun v => { v with state := .wait, jw := some j, cur := some w, backj := 0, passBrk := false,
                                deadline := if us = 0 then none else some (now s + us * 1000) })

/-- A queue's joint has fired (R236): the WAIT on it is released. -/
def fireQueue (s : Blk) (q j : Nat) : Blk :=
  let v := queueOf s q
  if v.state == .wait && v.jw == some j then
    match v.cur with
    | some w => retireVal (dropJoint s q j) q w (some 0)
    | none => s
  else s

/-- WAIT_TIMEOUT: a WAIT's timeout has passed (R236); the joint is kept. -/
def waitTimeout (s : Blk) (q : Nat) : Blk :=
  let v := queueOf s q
  match v.state, v.deadline, v.cur with
  | .wait, some d, some w =>
    if s.time.usable && decide (d ≤ now s) then retireVal (ev s 0xca (sqCtx s q)) q w (some 1) else s
  | _, _, _ => s

/-! ## Arrivals, closes and cancels -/

/-- The request of a SIGNAL or CLOSE at a named node, in the queue's name. -/
def nodeReq (s : Blk) (q : Nat) (w : Word256) (close : Option Nat) (dst dctx dgen : Nat) : FReq :=
  let sc := opaF w 61 50
  let nd := opaF w 49 38
  { dst, dstCtx := dctx, dstGen := dgen, srcCtx := sqCtx s q, srcGen := ctxGen s (sqCtx s q), ltag := cImm w,
    body := match close with
      | none => .arrive sc nd (opaF w 0 0 == 1)
      | some t => .close t sc nd,
    owner := .signal q (queueOf s q).life }

/-- SIGNAL (`close` none) and CLOSE, once their operands are read (R109, R111, R112, R230). -/
def runUpdate (s : Blk) (q : Nat) (w : Word256) (close : Option Nat) : Blk :=
  if opbB w 18 then
    let j := opbF w 17 0
    if !(queueOf s q).joints.contains j then haltCmd s q w 0x31
    else
      let s := push s [match close with | none => .arrive j false | some t => .closeJ j t]
      retireVal s q w (some 0)
  else if opaF w 63 62 = 0 then
    let c := sqCtx s q
    let r := nodeReq s q w close (ownDie s) c (ctxGen s c)
    match namedArrive s (ownDie s) c (cImm w) (opaF w 61 50) (opaF w 49 38) close (close.isNone && opaF w 0 0 == 1)
        (flit0Of r.ltag c r.dstGen c r.srcGen 0 0 false r.body) with
    | (0, s) => retireVal s q w (some 0)
    | (_, s) =>
      let s := aside s q w .early
      { s with xch := { s.xch with retries := s.xch.retries ++ [{ what := .localMsg r, ctx := c, due := now s + 1000 }] } }
  else
    let r := nodeReq s q w close (opaF w 37 17) (opaF w 16 9) (opaF w 8 1)
    let c := sqCtx s q
    let s := if ruledLive s c then
        owe s { ctx := c, due := (slotOf s c).tick + 1, party := queueParty s q, what := .answer q (queueOf s q).life }
      else s
    push (aside s q w .remote) [.fabReq r]

/-- SIGNAL. -/
def runSignal (s : Blk) (q : Nat) (w : Word256) : Blk := runUpdate s q w none

/-- CLOSE. -/
def runClose (s : Blk) (q : Nat) (w : Word256) : Blk :=
  runUpdate s q w (some (if opbB w 19 then sreg s q (cRa w) % 2 ^ 24 else opbF w 47 24))

/-- The answer of a SIGNAL or CLOSE (R241, R273). -/
def signalAnswered (s : Blk) (q life code : Nat) : Blk :=
  let v := queueOf s q
  if v.life ≠ life then s
  else match v.cur with
    | none => s
    | some w =>
      if v.wait ≠ .remote && v.wait ≠ .early then s
      else if code = 0 then retireVal s q w (some 0)
      else refused s q w code 0x34 (some (cmdDetail s q code))

/-- The tasks a CANCEL names that it cancels, by SEQ (R230). -/
def cancelSet (s : Blk) (l : Launch) (w : Word256) : List Nat :=
  let named := fun (t : Task) =>
    opaF w 24 24 == 1 || (t.scope == opaF w 23 12 && t.node == opaF w 11 0)
  let ts := (l.slots.filterMap (fun i => (taskOf s i).map (fun t => (i, t)))).filter (fun p =>
    named p.2 && (p.2.state == .waiting || p.2.state == .ready || p.2.state == .delayed))
  (sortBy (fun a b => decide (a.2.seq ≤ b.2.seq)) ts).map Prod.fst

/-- CANCEL (R230): the tasks are cancelled in one update, and their successors follow in SEQ order. Tasks of a launch that is
away are cancelled on their return (assumption 17). -/
def runCancel (s : Blk) (q : Nat) (w : Word256) : Blk :=
  match liveLaunch s (sqCtx s q) (cImm w) with
  | none => retireVal s q w (some 0)
  | some (i, l) =>
    let named := fun (m : Member) => opaF w 24 24 == 1 || (m.scope == opaF w 23 12 && m.node == opaF w 11 0)
    if launchAway l then
      retireVal (setLaunch s i (awayEnds l .cancelled named)) q w (some (BitVec.ofNat 64 (awayWaiters l named).length))
    else
      let ts := cancelSet s l w
      let s := forEach ts.reverse s (fun s i => finishTask s i .cancelled true)
      retireVal s q w (some (BitVec.ofNat 64 ts.length))

/-! ## Scratch registers and memory -/

/-- GET's sources (R231). -/
def getSource (s : Blk) (q src : Nat) : Nat :=
  let c := sqCtx s q
  match src with
  | 0 => (sqtOf s c).stepCnt
  | 1 => now s
  | 2 => ctxGen s c
  | 3 => residents s c
  | _ => cplFree s q (queueOf s q)

/-- SET (R231). -/
def runSet (s : Blk) (q : Nat) (w : Word256) : Blk := retireVal s q w (some (BitVec.ofNat 64 (cOpa w)))

/-- ADD (R231). -/
def runAdd (s : Blk) (q : Nat) (w : Word256) : Blk :=
  retireVal s q w (some (scratch (queueOf s q) (cRa w) + BitVec.ofNat 64 (cOpa w)))

/-- GET (R231). -/
def runGet (s : Blk) (q : Nat) (w : Word256) : Blk :=
  retireVal s q w (some (BitVec.ofNat 64 (getSource s q (immF w 3 0))))

/-- LOAD (R231): the line is read, and the command waits. -/
def runLoad (s : Blk) (q : Nat) (w : Word256) : Blk :=
  let s := aside s q w .memory
  memRead s (cOpa w) 0 (some (sqCtx s q)) uCsq q (.csqLoad q (queueOf s q).life)

/-- STORE (R231): the 8 bytes are written, and the command waits. -/
def runStore (s : Blk) (q : Nat) (w : Word256) : Blk :=
  let s := aside s q w .memory
  memWrite s (cOpa w) (leBytes 8 (sreg s q (cRa w))) 1 (some (sqCtx s q)) uCsq q (.csqStore q (queueOf s q).life)

/-- A LOAD or STORE has been answered (R231): a fault is recorded already, and halts the queue. -/
def accessAnswered (s : Blk) (q life : Nat) (ok : Bool) (d : Line) : Blk :=
  let v := queueOf s q
  if v.life ≠ life || v.wait ≠ .memory then s
  else match v.cur with
    | none => s
    | some w =>
      if !ok then haltWith s q w 0x12 none
      else if cOp w = oLoad then
        let i := cOpa w % 64
        retireVal s q w (some (BitVec.ofNat 64 (fld d (8 * i + 63) (8 * i))))
      else retireVal s q w none

/-! ## Flow -/

/-- The target of a branch (R231). -/
def branchTo (v : Queue) (w : Word256) : Nat := ((((v.pc : Int) + offOf w) % 2 ^ 52).toNat) % 2 ^ 52

/-- A branch is taken (R234, R235); `upd` is what the command does to the queue besides. -/
def takeBranch (s : Blk) (q : Nat) (w : Word256) (upd : Queue → Queue) : Blk :=
  let v := queueOf s q
  if v.stack.isEmpty then haltCmd s q w 0x31
  else
    let t := branchTo v w
    let back := decide (offOf w ≤ 0)
    let max := rg s rLoopMax
    if back && max ≠ 0 && decide (v.backj + 1 > max) then haltCmd s q w 0x32
    else
      let s := modQ s q upd
      let s := if back then ev (modQ s q (fun v => { v with backj := v.backj + 1 })) 0xcf (sqCtx s q) else s
      retire s q { word := w, pc := v.pc, act := .jump t }

/-- BR (R231). -/
def runBr (s : Blk) (q : Nat) (w : Word256) : Blk :=
  let b := if immF w 4 4 = 1 then cOpb w else sreg s q (cRb w)
  if brCond (immF w 3 0) (sreg s q (cRa w)) b then takeBranch s q w id else retireVal s q w none

/-- LOOP (R231). -/
def runLoop (s : Blk) (q : Nat) (w : Word256) : Blk :=
  let n := sreg s q (cRa w)
  let dec := fun (v : Queue) => wrScratch v (cRa w) (BitVec.ofNat 64 (n - 1))
  if n = 0 then retireVal s q w none
  else if n = 1 then retireVal (modQ s q dec) q w none
  else takeBranch s q w dec

/-- CALL (R223, R231, R234): in a ring slot it retires with the RET that returns to depth 0. -/
def runCall (s : Blk) (q : Nat) (w : Word256) : Blk :=
  let v := queueOf s q
  if v.stack.length ≥ 4 then haltCmd s q w 0x31
  else if v.stack.isEmpty then
    setQ s q (dropAhead { v with stack := [(v.pc + 32) % 2 ^ 52], ringCall := some (w, v.pc), pc := cOpa w, passBrk := false })
  else retire s q { word := w, pc := v.pc, act := .call (cOpa w) }

/-- RET (R231, R234). -/
def runRet (s : Blk) (q : Nat) (w : Word256) : Blk :=
  let v := queueOf s q
  if v.stack.isEmpty then haltCmd s q w 0x31 else retire s q { word := w, pc := v.pc, act := .ret }

/-- SLEEP (R231). -/
def runSleep (s : Blk) (q : Nat) (w : Word256) : Blk :=
  let t := now s + cOpa w
  modQ (ev s 0xcb (sqCtx s q)) q (fun v =>
    { v with state := .sleep, deadline := some t, cur := some w, backj := 0, passBrk := false })

/-- SLEEP_WAKE: the Time Port has reached the wake time (R231). -/
def sleepWake (s : Blk) (q : Nat) : Blk :=
  let v := queueOf s q
  match v.state, v.deadline, v.cur with
  | .sleep, some d, some w => if s.time.usable && decide (d ≤ now s) then retireVal s q w none else s
  | _, _, _ => s

/-- BRK (R247): a match of its own command; its RESUME retires it. With another break held it is a missed break. -/
def runBrk (s : Blk) (q : Nat) (w : Word256) (passed : Bool) : Blk :=
  if passed then retireVal s q w none
  else if s.csq.brkHit then retireVal (bump s rDbBad) q w none
  else takeBreak s q 0 false

/-! ## Templates, spills and latches -/

/-- The PATCH of a queue has ended with a code and a generation (R230, R241). -/
def patchDone (s : Blk) (q code gen : Nat) : Blk :=
  match (queueOf s q).cur with
  | none => s
  | some w =>
    let x := put code 19 16 + put gen 15 0
    if code = 0 then retireVal s q w (some (BitVec.ofNat 64 x)) else refused s q w x 0x31 (some (cmdDetail s q 0))

/-- PATCH (R92, R230, R441): it waits while the Graph Store is busy. -/
def runPatch (s : Blk) (q : Nat) (w : Word256) : Blk :=
  if gstBusy s then waitUnit s q .unit
  else
    let s := aside s q w .image
    match gstBegin s (some q) (opaF w 63 52) (opaF w 51 0) (immF w 13 0) (some (sqCtx s q)) with
    | (some code, s) => patchDone s q code 0
    | (none, s) => s

/-- SPILL (R114). -/
def runSpill (s : Blk) (q : Nat) (w : Word256) : Blk :=
  match liveLaunch s (sqCtx s q) (cImm w) with
  | none => refused s q w 0x31 0x31 (some (cmdDetail s q 0))
  | some (i, l) =>
    if spillBad s l then refused s q w 0x31 0x31 (some (cmdDetail s q 0))
    else spillBegin (aside s q w .spill) i l q (cOpa w)

/-- REFILL (R116). One that names no live launch, or one that is not SPILLED, faults 0x31 as a SPILL does (R114); the manual names
no code for it (DESIGN CHOICE, assumption 17). -/
def runRefill (s : Blk) (q : Nat) (w : Word256) : Blk :=
  match liveLaunch s (sqCtx s q) (cImm w) with
  | none => refused s q w 0x31 0x31 (some (cmdDetail s q 0))
  | some (i, l) =>
    if l.spill ≠ .spilled then refused s q w 0x31 0x31 (some (cmdDetail s q 0))
    else match refillBegin (aside s q w .spill) i l q l.spillAddr with
      | some s => s
      | none => refused s q w 0x53 0x53 (some (mkDetail (put l.ltag 31 0) (put l.tid 11 0) l.spillN))

/-- LATCH (R344). -/
def runLatch (s : Blk) (q : Nat) (w : Word256) : Blk :=
  let addr := cOpa w
  let s := cmdLatchTake s (sqCtx s q) q (sqPriv s q) (immF w 0 0 == 1) addr
  if addr = 0 then retireVal s q w none else aside s q w .memory

/-- A command that was set aside for a unit is done, with 0 or its fault code (R114, R116, R117, R344). -/
def cmdDone (s : Blk) (q code : Nat) : Blk :=
  match (queueOf s q).cur with
  | none => s
  | some w =>
    if code = 0 then retireVal s q w (if writesRd (cOp w) then some 0 else none)
    else if cOp w = oLatch then haltWith s q w code none
    else refused s q w code code (if code = 0x31 then some (cmdDetail s q 0) else none)

/-! ## Doorbells and the completion head -/

/-- A doorbell (R224): none where R14 refuses it. In a ruled context it is a foreign event, which a queue takes as an IDLE waiter: until
then it is held (R286, R290). -/
def doorbell (s : Blk) (page q tail : Nat) : Option Blk :=
  let v := queueOf s q
  if sqCtx s q ≠ page || tail ≥ sqSize s q then none
  else
    some (ev (setQ s q (if ruledLive s page && v.state ≠ .idle then { v with door := some tail } else v.takeTail tail)) 0xc2 page)

end Sys2Proof.Machine
end

