-- ==== Sys2Proof/Machine/Xch.lean ====
section
/-! DEFINITION. The Message Exchange on its own side: send channels and records (R257 to R260), receive rings, placement and
publication (R261 to R265), check 6 of R266, and what a change of generation does (R279, R280). -/
namespace Sys2Proof.Machine

/-! ## Grants -/

/-- The context whose grant holds an index: BASE from bit 0, COUNT from bit 16 of XCH_CTX_RINGS or XCH_CTX_SCHS (R283). -/
def grantOf (s : Blk) (off i : Nat) : Option Nat :=
  (s.regs.find? (fun p => p.1 % 0x1000000 == off &&
    decide (fld p.2 13 0 ≤ i ∧ i < fld p.2 13 0 + fld p.2 30 16))).map (fun p => p.1 / 0x1000000)

/-- The context a send channel is granted to. -/
def chanCtx (s : Blk) (ch : Nat) : Option Nat := grantOf s rXchSchs ch

/-- The context a receive ring is granted to. -/
def ringCtx (s : Blk) (g : Nat) : Option Nat := grantOf s rXchRings g

/-- The number of handles a context holds changes (R260). -/
def setHandles (s : Blk) (c n : Nat) : Blk := setSlot s c { slotOf s c with handles := n }

/-- Record a fault of the Exchange against a context. -/
def xchFault (s : Blk) (c code detail : Nat) : Blk := ctxFault s c uXch code detail

/-! ## Send channels -/

/-- A send channel. -/
def chanOf (s : Blk) (ch : Nat) : Chan := Store.getD s.xch.chans ch {}

/-- Write a send channel. -/
def setChan (s : Blk) (ch : Nat) (v : Chan) : Blk :=
  { s with xch := { s.xch with chans := Store.put {} s.xch.chans ch v } }

/-- The address of a send record. -/
def sendAddr (v : Chan) (slot : Nat) : Nat := (v.base + 32 * slot) % 2 ^ 52

/-- Change the record a channel has taken up at a slot. -/
def Chan.modRec (v : Chan) (slot : Nat) (f : SendRec → SendRec) : Chan :=
  { v with recs := v.recs.map (fun r => if r.slot = slot then f r else r) }

/-- The record a channel has taken up at a slot, where the answer belongs to the channel's present life. -/
def recFor (s : Blk) (ch epoch slot : Nat) : Option SendRec :=
  let v := chanOf s ch
  if v.epoch = epoch then v.recs.find? (fun r => r.slot == slot) else none

/-! Fields of a send record (R258). -/

/-- OP. -/
def SendRec.op (r : SendRec) : Nat := leAt r.bytes 0 1
/-- HANDLER. -/
def SendRec.handler (r : SendRec) : Nat := leAt r.bytes 2 2
/-- LEN. -/
def SendRec.len (r : SendRec) : Nat := leAt r.bytes 4 2
/-- FLAGS. -/
def SendRec.flags (r : SendRec) : Nat := leAt r.bytes 6 1
/-- FLAGS.HANDLE. -/
def SendRec.isHandle (r : SendRec) : Bool := r.flags % 2 == 1
/-- FLAGS.POOL. -/
def SendRec.pool (r : SendRec) : Nat := r.flags / 16
/-- DST_GEN. -/
def SendRec.dstGen (r : SendRec) : Nat := leAt r.bytes 7 1
/-- DST_DIE, with its reserved bits. -/
def SendRec.dstDie (r : SendRec) : Nat := leAt r.bytes 8 4
/-- RING, with its reserved bits. -/
def SendRec.ring (r : SendRec) : Nat := leAt r.bytes 12 2
/-- RGEN. -/
def SendRec.rgen (r : SendRec) : Nat := leAt r.bytes 14 1
/-- DST_CTX. -/
def SendRec.dstCtx (r : SendRec) : Nat := leAt r.bytes 15 1
/-- USER. -/
def SendRec.user (r : SendRec) : Nat := leAt r.bytes 16 8
/-- ADDR. -/
def SendRec.addr (r : SendRec) : Nat := leAt r.bytes 24 8

/-- A record's reserved fields are not 0, or LEN or ADDR is out of place (R259). -/
def SendRec.malformed (r : SendRec) : Bool :=
  r.flags / 2 % 8 ≠ 0 || decide (r.dstDie ≥ 2 ^ 21) || decide (r.ring ≥ 2 ^ 14) || (r.isHandle && r.len ≠ 0) ||
    (r.op == 1 && !r.isHandle && decide (r.addr ≥ 2 ^ 52))

/-- The outcome of R259's checks on a record, before anything is sent: the CODE, and whether fault 0x31 is recorded. -/
def sendCheck (s : Blk) (c : Nat) (r : SendRec) : Option (Nat × Bool) :=
  if r.len > 4096 then some (kTooLong, false)
  else if r.op = 0 || r.op > 3 || r.malformed then some (kAck, true)
  else if (r.op = 3 || (r.op = 1 && r.isHandle)) && (slotOf s c).handles = 0 then some (kAck, true)
  else if r.op = 1 && peerFenced s r.dstDie then some (kPeerFenced, false)
  else none

/-- Write a record's STATUS (R258, R259). -/
def writeStatus (s : Blk) (ch slot status : Nat) : Blk :=
  let v := chanOf s ch
  let s := setChan s ch (v.modRec slot (fun r => { r with phase := .status, status, left := 1 }))
  memWrite s ((sendAddr v slot + 1) % 2 ^ 52) (leBytes 1 status) 1 (chanCtx s ch) uXch ch (.status ch v.epoch slot)

/-- A record's outcome is decided without an answer of a receiver (R259). -/
def localStatus (s : Blk) (ch slot code : Nat) : Blk :=
  writeStatus (evN s (0xfb + code) (chanCtx s ch) 1) ch slot (0xc0 + code)

/-- A record that fails R259's checks. -/
def refuseRec (s : Blk) (c ch slot : Nat) (p : Nat × Bool) : Blk :=
  let s := if p.2 then xchFault s c 0x31 (mkDetail 0 0 p.1) else s
  localStatus s ch slot p.1

/-- A record is being read, or has been and has not begun. -/
def Chan.busy (v : Chan) : Bool := v.recs.any (fun r => r.phase == .fetch || r.phase == .payload || r.phase == .ready)

/-- The record that may begin next, and the one before it in the ring. -/
def Chan.front (v : Chan) : Option (SendRec × Option SendRec) :=
  match v.recs.reverse with
  | r :: rest => if r.phase = .ready then some (r, rest.head?) else none
  | [] => none

/-- SENDs of a channel that are not answered (R259). -/
def Chan.unanswered (v : Chan) : Nat := (v.recs.filter (fun r => r.phase == .offered)).length

/-- Records of a channel that have been taken up and are not answered: SENDs, and ALLOCs and FREEs on their way (R284). -/
def Chan.underWay (v : Chan) : Bool := v.recs.any (fun r => r.phase == .offered || r.phase == .aw)

/-- HEAD advances over every leading record whose STATUS has been written (R259). -/
def headOver (v : Chan) : Nat → Chan
  | 0 => v
  | n + 1 =>
    match v.recs with
    | r :: rest =>
      if r.phase = .done then headOver { v with recs := rest, head := (r.slot + 1) % 2 ^ v.log2 } n else v
    | [] => v

/-- The next record of a channel is fetched once the one before it has begun (R259, R312). A reserved OP needs no step of
its own to be refused. -/
def chanPump (s : Blk) (ch : Nat) : Blk :=
  let v := headOver (chanOf s ch) (chanOf s ch).recs.length
  let s := setChan s ch v
  match chanCtx s ch with
  | none => s
  | some c =>
    if !v.en || v.fault then s
    else match v.front with
      | some (r, _) =>
        if r.op = 0 || r.op > 3 then refuseRec s c ch r.slot ((sendCheck s c r).getD (kAck, true)) else s
      | none =>
        if v.busy || v.next == v.tail || ctxSt s c ≠ .opened then s
        else
          let s := setChan s ch { v with next := (v.next + 1) % 2 ^ v.log2,
                                         recs := v.recs ++ [{ slot := v.next, phase := .fetch }] }
          memRead s (sendAddr v v.next) 0 (some c) uXch ch (.sendRec ch v.epoch v.next)

/-- A doorbell of a send channel (R257): none where R14 refuses it. -/
def sendDoorbell (s : Blk) (page ch tail : Nat) : Option Blk :=
  let v := chanOf s ch
  if chanCtx s ch ≠ some page || !v.en || tail ≥ 2 ^ v.log2 then none
  else some (push (setChan s ch { v with tail }) [.chanPump ch])

/-- The lines of a record's payload. -/
def payLines (r : SendRec) : List (Nat × List Byte) :=
  if r.op = 1 && !r.isHandle && r.len ≤ 4096 && !r.malformed then linesOf r.addr (List.replicate r.len 0#8) else []

/-- The channel stops (R280). -/
def stopChan (s : Blk) (ch : Nat) : Blk := setChan s ch { chanOf s ch with fault := true }

/-- A record read has ended (R259, R280). -/
def recFetched (s : Blk) (ch epoch slot : Nat) (d : Option Line) : Blk :=
  match recFor s ch epoch slot with
  | none => s
  | some r =>
    let v := chanOf s ch
    match d with
    | none => stopChan (setChan s ch { v with next := slot, recs := v.recs.filter (fun x => x.slot ≠ slot) }) ch
    | some l =>
      let r := { r with bytes := bytesAt (lineBytes l) (32 * (slot % 2)) 32 }
      let ls := payLines r
      if ls.isEmpty then push (setChan s ch (v.modRec slot (fun _ => { r with phase := .ready }))) [.chanPump ch]
      else
        let s := setChan s ch (v.modRec slot (fun _ => { r with phase := .payload, left := ls.length }))
        forEach ls.zipIdx s (fun s p => memRead s p.1.1 0 (chanCtx s ch) uXch ch (.payload ch epoch slot p.2))

/-- A payload line has been read, or its read has faulted: the record is fetched again once FAULT is cleared (R280). -/
def payloadRead (s : Blk) (ch epoch slot i : Nat) (d : Option Line) : Blk :=
  match recFor s ch epoch slot with
  | none => s
  | some r =>
    let r := { r with left := r.left - 1, lines := match d with | some l => Store.set r.lines i l | none => r.lines }
    let s := setChan s ch ((chanOf s ch).modRec slot (fun _ => r))
    let s := if d.isNone then stopChan s ch else s
    if r.left > 0 then s
    else
      let v := chanOf s ch
      if r.lines.length = (payLines r).length then
        setChan s ch (v.modRec slot (fun _ => { r with phase := .ready }))
      else push (setChan s ch { v with next := slot, recs := v.recs.filter (fun x => x.slot ≠ slot) }) [.chanPump ch]

/-- The payload of a record: its handle, or the bytes read. -/
def payloadOf (r : SendRec) : List Byte :=
  if r.isHandle then leBytes 8 r.addr
  else bytesAt ((Store.vals r.lines).flatMap lineBytes) (r.addr % 64) r.len

/-- The request a SEND record makes (R258, R263, R270). -/
def sendReq (s : Blk) (c ch : Nat) (v : Chan) (r : SendRec) : FReq :=
  { dst := r.dstDie, dstCtx := r.dstCtx, dstGen := r.dstGen, srcCtx := c, srcGen := ctxGen s c, ltag := 0
    body := .am v.reply { rgen := r.rgen, ring := r.ring, handle := r.isHandle, handler := r.handler
                          len := if r.isHandle then 8 else r.len, sch := ch, mseq := v.mseq, user := r.user }
              (payloadOf r)
    owner := .am ch v.epoch r.slot }

/-- SEND: the next record of a channel is checked and offered, locally or over the fabric (R259). -/
def sendCmd (s : Blk) (ch : Nat) : Blk :=
  let v := chanOf s ch
  match chanCtx s ch, v.front with
  | some c, some (r, _) =>
    if r.op ≠ 1 || v.fault || v.unanswered ≥ 8 then s
    else match sendCheck s c r with
      | some p => push (refuseRec s c ch r.slot p) [.chanPump ch]
      | none =>
        let s := setChan s ch { v.modRec r.slot (fun x => { x with phase := .offered, lines := [] }) with
                                mseq := (v.mseq + 1) % 2 ^ 32 }
        push s [.fabReq (sendReq s c ch v r), .chanPump ch]
  | _, _ => s

/-- A SEND has its outcome (R259, R260, R273): a handle answered ACK leaves the sender. A request of an earlier life of the
channel has no record any more (R279). -/
def amAnswered (s : Blk) (r : FReq) (ch epoch slot code : Nat) (byUs : Bool) : Blk :=
  match recFor s ch epoch slot with
  | none => s
  | some x =>
    if x.phase ≠ .offered then s else
    let s := if x.isHandle && code = kAck then
        let s := setHandles s r.srcCtx ((slotOf s r.srcCtx).handles - 1)
        if r.dst = ownDie s then s else { s with xch := { s.xch with handles := s.xch.handles - 1 } }
      else s
    writeStatus s ch slot (0x80 + (if byUs then 0x40 else 0) + code)

/-- Whether an ALLOC or FREE may begin: the record before it has its STATUS (R259). -/
def afterStatus (p : Option SendRec) : Bool := match p with | some r => r.phase == .done | none => true

/-- ALLOC: a handle is read from its pool (R260). -/
def allocCmd (s : Blk) (ch : Nat) : Blk :=
  let v := chanOf s ch
  match chanCtx s ch, v.front with
  | some c, some (r, p) =>
    if r.op ≠ 2 || v.fault || !afterStatus p then s
    else
      let s := ev s 0x11e c
      match sendCheck s c r with
      | some p => push (refuseRec s c ch r.slot p) [.chanPump ch]
      | none =>
        let a := rg2 s (rPools + 0x10 * r.pool) (rPools + 0x10 * r.pool + 4)
        if a = 0 then push (localStatus s ch r.slot kPoolEmpty) [.chanPump ch]
        else
          let s := setChan s ch (v.modRec r.slot (fun x => { x with phase := .aw, left := 1 }))
          push (memRead s a 0 (some c) uXch ch (.allocRead ch v.epoch r.slot)) [.chanPump ch]
  | _, _ => s

/-- Write the handle obtained into a record's ADDR (R260). -/
def writeHandle (s : Blk) (ch slot h : Nat) : Blk :=
  let v := chanOf s ch
  let s := setChan s ch (v.modRec slot (fun r => { r with handle := h, left := 1 }))
  memWrite s ((sendAddr v slot + 0x18) % 2 ^ 52) (leBytes 8 h) 1 (chanCtx s ch) uXch ch (.handleWrite ch v.epoch slot)

/-- The read of an ALLOC has ended (R260, R280). -/
def allocRead (s : Blk) (ch epoch slot : Nat) (d : Option Line) : Blk :=
  match recFor s ch epoch slot, d with
  | none, _ => s
  | some _, none => localStatus s ch slot kPoolEmpty
  | some _, some l => if fld l 63 0 = 0 then localStatus s ch slot kPoolEmpty else writeHandle s ch slot (fld l 63 0)

/-- The handle has been written to ADDR: it is the context's, and STATUS reads ACK (R260). -/
def handleWritten (s : Blk) (ch epoch slot : Nat) (ok : Bool) : Blk :=
  match recFor s ch epoch slot, chanCtx s ch with
  | some _, some c =>
    if ok then
      let s := setHandles s c ((slotOf s c).handles + 1)
      writeStatus { s with xch := { s.xch with handles := s.xch.handles + 1 } } ch slot 0x80
    else stopChan (setChan s ch ((chanOf s ch).modRec slot (fun r => { r with left := 0 }))) ch
  | _, _ => s

/-- FREE: a handle goes back to its pool (R260). -/
def freeCmd (s : Blk) (ch : Nat) : Blk :=
  let v := chanOf s ch
  match chanCtx s ch, v.front with
  | some c, some (r, p) =>
    if r.op ≠ 3 || v.fault || !afterStatus p then s
    else
      let s := ev s 0x11f c
      match sendCheck s c r with
      | some p => push (refuseRec s c ch r.slot p) [.chanPump ch]
      | none =>
        let a := rg2 s (rPools + 0x10 * r.pool + 8) (rPools + 0x10 * r.pool + 12)
        let s := setChan s ch (v.modRec r.slot (fun x => { x with phase := .aw, left := 1 }))
        push (memWrite s a (leBytes 8 r.addr) 1 (some c) uXch ch (.freeWrite ch v.epoch r.slot)) [.chanPump ch]
  | _, _ => s

/-- The write of a FREE has ended (R260, R280). -/
def freeWritten (s : Blk) (ch epoch slot : Nat) (ok : Bool) : Blk :=
  match recFor s ch epoch slot, chanCtx s ch with
  | some _, some c =>
    if ok then
      let s := setHandles s c ((slotOf s c).handles - 1)
      writeStatus { s with xch := { s.xch with handles := s.xch.handles - 1 } } ch slot 0x80
    else localStatus s ch slot kAck
  | _, _ => s

/-- A STATUS write has been answered (R259, R280). -/
def statusWritten (s : Blk) (ch epoch slot : Nat) (ok : Bool) : Blk :=
  match recFor s ch epoch slot with
  | none => s
  | some _ =>
    let v := chanOf s ch
    if ok then push (setChan s ch (v.modRec slot (fun r => { r with phase := .done, left := 0 }))) [.chanPump ch]
    else stopChan (setChan s ch (v.modRec slot (fun r => { r with left := 0 }))) ch

/-- XCH_SCFG.FAULT is cleared: STATUS and handle writes that faulted go out again, and records are fetched on (R280). -/
def chanResume (s : Blk) (ch : Nat) : Blk :=
  let s := setChan s ch { chanOf s ch with fault := false }
  let s := forEach (chanOf s ch).recs s (fun s r =>
    if r.left ≠ 0 then s
    else if r.phase = .status then writeStatus s ch r.slot r.status
    else if r.phase = .aw then writeHandle s ch r.slot r.handle
    else s)
  push s [.chanPump ch]

/-- A write of XCH_SCFG (R284): none where R14 refuses it. -/
def chanCfg (s : Blk) (page ch : Nat) (w : Word) : Option Blk :=
  let v := chanOf s ch
  let en := bitAt w 31
  let reply := bitAt w 30
  let log2 := fld w 4 0
  if chanCtx s ch ≠ some page || log2 < 4 || log2 > 16 || (v.en && (reply ≠ v.reply || log2 ≠ v.log2)) ||
      (v.en && !en && v.underWay) then none
  else
    let s := if bitAt w 29 && v.fault then chanResume s ch else s
    let v := { chanOf s ch with reply, log2 }
    some (if en && !v.en then
        setChan s ch { v with en := true, head := 0, tail := 0, next := 0, mseq := 0, recs := [], epoch := v.epoch + 1 }
      else if !en && v.en then setChan s ch { v with en := false, recs := [], epoch := v.epoch + 1 }
      else setChan s ch v)

/-! ## Receive rings -/

/-- A receive ring. -/
def ringOf (s : Blk) (g : Nat) : Ring := Store.getD s.xch.rings g {}

/-- Write a receive ring. -/
def setRing (s : Blk) (g : Nat) (v : Ring) : Blk :=
  { s with xch := { s.xch with rings := Store.put {} s.xch.rings g v } }

/-- Write a ring's pointer block (R262): one write at a time, each covering every publication before it. -/
def writePtr (s : Blk) (g : Nat) : Blk :=
  let v := ringOf s g
  if v.ptrBusy then setRing s g { v with ptrDirty := true }
  else
    let s := setRing s g { v with ptrBusy := true, ptrDirty := false }
    let st := if v.state = .opened then 1 else 2
    memWrite s v.ptrAddr (leBytes 4 v.wptr ++ leBytes 1 v.rgen ++ leBytes 1 st ++ leBytes 2 0) 1 (some v.ctx) uXch g
      (.ringPtr g v.rgen)

/-- A ring opens (R261). -/
def openNow (s : Blk) (g : Nat) (bound : Option Nat) : Blk :=
  let v := ringOf s g
  let gen := if (v.rgen + 1) % 256 = 0 then 1 else v.rgen + 1
  writePtr (setRing s g { v with state := .opened, rgen := gen, resv := 0, wptr := 0, rptr := 0, badOnce := false, bound,
                                 openHeld := none, ctx := (ringCtx s g).getD v.ctx }) g

/-- A held OPEN is carried out once no delivery of the old generation is unpublished (R261). -/
def ringPump (s : Blk) (g : Nat) : Blk :=
  let v := ringOf s g
  match v.openHeld with
  | some h =>
    if v.places.isEmpty then
      let live := h ≠ 0 && (launchOf s (h - 1)).isSome
      openNow s g (if live then some (h - 1) else none)
    else s
  | none => s

/-- XCH_RCTL OPEN or OPEN_BOUND (R261). -/
def openRing (s : Blk) (g : Nat) (bound : Option Nat) : Blk :=
  let v := ringOf s g
  if v.state = .opened then s
  else ringPump (setRing s g { v with openHeld := some (match bound with | some l => l + 1 | none => 0) }) g

/-- A ring closes; what was placed before is still published (R261). -/
def closeRing (s : Blk) (g : Nat) : Blk :=
  let v := ringOf s g
  if v.state = .opened then writePtr (setRing s g { v with state := .closed, bound := none }) g else s

/-- The placements of a ring that are not published are discarded and counted (R279, R280). -/
def dropPlaces (s : Blk) (g : Nat) : Blk :=
  let v := ringOf s g
  let n := v.places.length
  evN (bumpN (setRing s g { v with places := [] }) rLostPlaced n) 0x113 (some v.ctx) n

/-- A memory fault of a ring (R280): it becomes CLOSED. `ptr`: the pointer-block write itself faulted. -/
def ringFault (s : Blk) (g : Nat) (ptr : Bool) : Blk :=
  let s := dropPlaces s g
  let v := ringOf s g
  let s := if v.state = .opened then
      let s := setRing s g { v with state := .closed, bound := none }
      if ptr then s else writePtr s g
    else s
  push s [.ringPump g]

/-- Start a refresh of the RPTR copy: at most one read in flight per ring (R262). -/
def startRefresh (s : Blk) (g : Nat) : Blk :=
  let v := ringOf s g
  if v.refreshing then s
  else
    let s := setRing s g { v with refreshing := true }
    let s := ev (bump s rRptrReads) 0x108 v.ctx
    memRead s v.ptrAddr 0 (some v.ctx) uXch g (.ringRefresh g v.rgen)

/-- The length of a delivered record (R263). -/
def recLen (len : Nat) : Nat := 32 + 32 * cdiv len 32

/-- The bytes of a delivered message (R263). -/
def msgBytes (die sctx sgen : Nat) (reply : Bool) (m : AmHdr) (payload : List Byte) : List Byte :=
  leBytes 4 (recLen m.len) ++ leBytes 1 1 ++ leBytes 1 (b2n m.handle + 2 * b2n reply) ++ leBytes 2 m.handler ++
    leBytes 2 m.len ++ leBytes 2 m.sch ++ leBytes 4 die ++ leBytes 1 sctx ++ leBytes 1 sgen ++ leBytes 2 0 ++
    leBytes 4 m.mseq ++ leBytes 8 m.user ++ bytesAt payload 0 (recLen m.len - 32)

/-- The header of a SKIP record (R263). -/
def skipBytes (n : Nat) : List Byte := leBytes 4 n ++ leBytes 1 2 ++ List.replicate 27 0#8

/-- Write record bytes at an offset of a ring. -/
def writeRec (s : Blk) (g id off : Nat) (bs : List Byte) : Blk :=
  let v := ringOf s g
  memWrite s ((v.base + off) % 2 ^ 52) bs 1 (some v.ctx) uXch g (.ringWrite g id)

/-- `place` of R264. The SKIP and the message of one placement are published together. -/
def place (s : Blk) (g die sctx sgen : Nat) (reply : Bool) (m : AmHdr) (payload : List Byte) : Nat × Blk :=
  let v := ringOf s g
  let size := 2 ^ v.log2
  let len := recLen m.len
  if len > size then (kTooLong, s)
  else if !v.ready then (kRingFull, s)
  else
    let used := (v.resv + 2 ^ 32 - v.rptr) % 2 ^ 32
    let off := v.resv % size
    let skip := if len > size - off then size - off else 0
    if used + skip + len > size then (kRingFull, startRefresh s g)
    else
      let id := s.xch.placeNext
      let at_ := (v.resv + skip) % size
      let bs := msgBytes die sctx sgen reply m payload
      let lines := (linesOf ((v.base + at_) % 2 ^ 52) bs).length + (if skip > 0 then 1 else 0)
      let endc := (v.resv + skip + len) % 2 ^ 32
      let s := { s with xch := { s.xch with placeNext := id + 1 } }
      let s := setRing s g { v with resv := endc, places := v.places ++ [{ endc, left := lines, id, gen := v.rgen, len := skip + len }] }
      let s := if skip > 0 then writeRec (ev (bump s rSkips) 0x107 v.ctx) g id off (skipBytes skip) else s
      let s := ev (bump (writeRec s g id at_ bs) rDelivered) 0x106 v.ctx
      (kAck, if size - (used + skip + len) < size / 4 then startRefresh s g else s)

/-- Check 6 of R266 and placement: the answer to an active message to context c. -/
def takeAm (s : Blk) (c die sctx sgen : Nat) (reply : Bool) (m : AmHdr) (payload : List Byte) : Nat × Blk :=
  let v := ringOf s m.ring
  if ringCtx s m.ring ≠ some c || v.state ≠ .opened || v.rgen ≠ m.rgen then (kGone, s)
  else if reply ≠ v.reply || m.handler ≥ v.hcount then (kBadHandler, s)
  else
    let (code, s) := place s m.ring die sctx sgen reply m payload
    if code = kAck && m.handle then
      let s := setHandles s c ((slotOf s c).handles + 1)
      (code, if die = ownDie s then s else { s with xch := { s.xch with handles := s.xch.handles + 1 } })
    else (code, s)

/-- WPTR passes the leading placements whose writes have all been answered (R265). -/
def publishOver (v : Ring) : Nat → Ring
  | 0 => v
  | n + 1 =>
    match v.places with
    | p :: rest => if p.left = 0 then publishOver { v with wptr := p.endc, places := rest } n else v
    | [] => v

/-- Publish what can be published, with its NOTE (R265). -/
def publish (s : Blk) (g : Nat) : Blk :=
  let v := ringOf s g
  let w := publishOver v v.places.length
  if w.places.length = v.places.length then s
  else
    let s := setRing s g w
    let s := if v.note && v.wptr == v.rptr && w.wptr ≠ v.rptr then
        wr (orBits s rXchIrq 1) rNoteLast (2 ^ 31 + put v.ctx 29 22 + put g 13 0)
      else s
    push (writePtr s g) [.ringPump g]

/-- A line of a placement has been written, or its write has faulted (R265, R280). -/
def placeWritten (s : Blk) (g id : Nat) (ok : Bool) : Blk :=
  let v := ringOf s g
  if !v.places.any (fun p => p.id == id) then s
  else if !ok then ringFault s g false
  else
    let less := fun (p : Placement) => if p.id = id then { p with left := p.left - 1 } else p
    publish (setRing s g { v with places := v.places.map less }) g

/-- A pointer-block write has been answered (R262, R280). -/
def ptrWritten (s : Blk) (g gen : Nat) (ok : Bool) : Blk :=
  let v := ringOf s g
  let s := setRing s g { v with ptrBusy := false, ptrDirty := false }
  let s := if !ok && v.rgen = gen then ringFault s g true else s
  if v.ptrDirty && (ok || v.rgen ≠ gen) then writePtr s g else s

/-- A refresh read has ended (R262, R280). -/
def refreshed (s : Blk) (g gen : Nat) (d : Option Line) : Blk :=
  let v := ringOf s g
  let s := setRing s g { v with refreshing := false }
  let v := { v with refreshing := false }
  if v.rgen ≠ gen then s
  else match d with
    | none => ringFault s g false
    | some l =>
      let r := fld l (8 * 0x24 - 1) (8 * 0x20)
      let used := (v.resv + 2 ^ 32 - r) % 2 ^ 32
      if used ≤ 2 ^ v.log2 ∧ used ≤ (v.resv + 2 ^ 32 - v.rptr) % 2 ^ 32 then setRing s g { v with rptr := r }
      else
        let s := ev (bump s rRptrBad) 0x109 v.ctx
        if v.badOnce then s else xchFault (setRing s g { v with badOnce := true }) v.ctx 0x31 0

/-- The rings bound to a launch close as it ends (R261). -/
def ringsOfLaunch (s : Blk) (l : Nat) : Blk :=
  forEach (Store.keys (s.xch.rings.filter (fun p => p.2.bound == some l))) s closeRing

/-- A write of XCH_RCFG (R284): none where R14 refuses it. -/
def ringCfg (s : Blk) (page g : Nat) (w : Word) : Option Blk :=
  let v := ringOf s g
  let reply := bitAt w 21
  let log2 := fld w 18 14
  let hcount := fld w 13 0
  if ringCtx s g ≠ some page || log2 < 10 || log2 > 24 ||
      (v.state == .opened && (reply ≠ v.reply || log2 ≠ v.log2 || hcount ≠ v.hcount)) then none
  else some (setRing s g { v with reply, ready := bitAt w 20, note := bitAt w 19, log2, hcount })

/-- The rings of a range become FREE as their grant changes (R261). -/
def freeRings (s : Blk) (base count : Nat) : Blk :=
  { s with xch := { s.xch with rings := s.xch.rings.map (fun p =>
    if base ≤ p.1 && p.1 < base + count then (p.1, { p.2 with state := .free, openHeld := none }) else p) } }

/-! ## A change of generation -/

/-- What the Exchange does when the generation of a context changes (R279). -/
def xchGenChange (s : Blk) (c : Nat) : Blk :=
  let rings := Store.keys (s.xch.rings.filter (fun p => p.2.ctx == c && (p.2.state == .opened || !p.2.places.isEmpty)))
  let s := forEach rings s (fun s g =>
    let s := dropPlaces s g
    closeRing (setRing s g { ringOf s g with openHeld := none }) g)
  let chans := (Store.keys s.xch.chans).filter (fun ch => chanCtx s ch == some c)
  let s := forEach chans s (fun s ch =>
    let v := chanOf s ch
    setChan s ch { v with en := false, recs := [], epoch := v.epoch + 1 })
  let isAm := fun (r : FReq) => r.srcCtx == c && (match r.body with | .am _ _ _ => true | _ => false)
  let n := (slotOf s c).handles
  let s := { s with xch := { s.xch with
    waitq := s.xch.waitq.filter (fun r => !isAm r)
    retries := s.xch.retries.filter (fun t => t.ctx ≠ c)
    handles := s.xch.handles - n } }
  setHandles (logFault s (ctxLog c) uXch 0 (some c) (mkDetail n 0 0) false) c 0

end Sys2Proof.Machine
end

