-- ==== Sys2Proof/Machine/FabIn.lean ====
section
/-! DEFINITION. The receiving side of the Fabric Port: the checks of R266, order within a pair and the hold store (R275,
R276), what a request does (R109 to R112, R167 to R191, R264), answers (R271 to R273), and epoch notices (R62). -/
namespace Sys2Proof.Machine

/-! ## Taking a request -/

/-- A request that names a launch and a scope has come from a die (R290). -/
def noteSeen (s : Blk) (c die ltag scope : Nat) : Blk :=
  let e := (c, die, ltag, scope)
  if s.ctx.seen.contains e then s else { s with ctx := { s.ctx with seen := s.ctx.seen ++ [e] } }

/-- Scope named by a request, for the types that name one (R290). -/
def FBody.scope? : FBody → Option Nat
  | .arrive sc _ _ => some sc
  | .close _ sc _ => some sc
  | .cand sc _ _ _ => some sc
  | .tally _ _ sc _ _ => some sc
  | .assign _ _ sc _ => some sc
  | .stage _ sc _ => some sc
  | .cancel _ sc _ => some sc
  | .am _ _ _ => none

/-- What a request does at its context, and its answer (R266, checks 5 and 6). -/
def takeBody (s : Blk) (src c sctx sgen ltag : Nat) (flit : Word256) (b : FBody) : Nat × Blk :=
  match b with
  | .arrive sc nd dead => namedArrive s src c ltag sc nd none dead flit
  | .close t sc nd => namedArrive s src c ltag sc nd (some t) false flit
  | .cand sc dead fin recs => takeCand s src c ltag sc dead fin recs
  | .tally fin home sc nd es => takeTally s c ltag fin home sc nd es
  | .assign x home sc recs => takeAssign s c ltag x home sc recs
  | .stage x sc nd => takeStage s c ltag (homeOfDie s c ltag sc nd src) x sc nd
  | .cancel x sc nd => takeCancel s c ltag (homeOfDie s c ltag sc nd src) x sc
  | .am reply m payload => takeAm s c src sctx sgen reply m payload

/-- Check 4 of R266: the refusal of a context that is not the one named, or does not take requests. -/
def slotCheck (s : Blk) (c gen : Nat) : Option Nat :=
  if gen ≠ ctxGen s c then some kGone
  else if ctxSt s c == .opened || ctxSt s c == .orphaned then none
  else some kCtxFenced

/-- A late arrival is counted: of an old generation, or of one that is fenced (R320, R335). -/
def lateArrival (s : Blk) (c code : Nat) : Blk :=
  if code = kGone || ctxSt s c == .draining || ctxSt s c == .quiesced then ev (bump s rLateFab) 0x13d c else s

/-- Checks 4 to 6 of R266 for a request of die `src`; a contested grant is counted (R297). -/
def takeCode (s : Blk) (src c gen sctx sgen ltag : Nat) (flit : Word256) (b : FBody) (waiting : List Nat) : Nat × Blk :=
  match slotCheck s c gen with
  | some code => (code, lateArrival s c code)
  | none =>
    let s := contested s c waiting
    let s := match b.scope? with
      | some sc => noteSeen s c src ltag sc
      | none => s
    takeBody s src c sctx sgen ltag flit b

/-- `take` of R276: checks 3 to 6, and the answer. -/
def takeMsg (s : Blk) (m : FMsg) : Blk :=
  let h := m.h
  let flit := flit0Of h.ltag h.dstCtx h.dstGen h.srcCtx h.srcGen h.rqid h.pseq h.sync m.body
  let (code, s) := if peerFenced s h.src then (kPeerFenced, s)
    else takeCode s h.src h.dstCtx h.dstGen h.srcCtx h.srcGen h.ltag flit m.body h.waiting
  giveAnswer s h.src h.rqid m.body.ty code h.dstCtx

/-- A request of this instance to itself: checks 4 to 6 of R266, and its outcome, with no fabric traffic. -/
def takeLocal (s : Blk) (r : FReq) : Blk :=
  let flit := flit0Of r.ltag r.dstCtx r.dstGen r.srcCtx r.srcGen 0 0 false r.body
  let (code, s) := takeCode s (ownDie s) r.dstCtx r.dstGen r.srcCtx r.srcGen r.ltag flit r.body []
  let s := codeGiven s (ownDie s) 0 r.body.ty code r.dstCtx
  push (refusalTaken s r code 0) [.answered r code false]

/-- A local message waits while one of its stream or branch before it is to be offered again or waits itself (R112, R169). -/
def localBehind (s : Blk) (r : FReq) : Bool :=
  match r.owner with
  | .cand _ | .run _ _ => behindRetry s r || s.xch.waitq.any (fun q => q.dst == ownDie s && q.owner == r.owner)
  | _ => false

/-- Offer a request to its destination: this instance, or a die of the fabric. -/
def offerReq (s : Blk) (r : FReq) : Blk :=
  if r.dst = ownDie s then
    if localBehind s r then { s with xch := { s.xch with waitq := s.xch.waitq ++ [r] } } else takeLocal s r
  else fabSend s r

/-- Local messages that waited behind a repeated offer go on once it is settled. -/
def pumpLocal (s : Blk) : Blk :=
  let go := fun (r : FReq) => r.dst == ownDie s && !behindRetry s r
  let rs := s.xch.waitq.filter go
  if rs.isEmpty then s
  else push { s with xch := { s.xch with waitq := s.xch.waitq.filter (fun r => !go r) } } (rs.map .fabReq)

/-! ## Order within a pair -/

/-- Write an inbound pair entry, which is then the one used last; the least recently used of 4,096 makes room (R275). -/
def setPairIn (s : Blk) (d expected : Nat) (gap : Bool) : Blk :=
  let p : PairIn := { expected := expected % 65536, gap, used := s.xch.lru }
  let tbl := s.xch.pairsIn
  let tbl := if (Store.get? tbl d).isNone && tbl.length ≥ 4096 then
      match tbl with
      | [] => tbl
      | e :: r => Store.erase tbl (r.foldl (fun b x => if x.2.used < b.2.used then x else b) e).1
    else tbl
  { s with xch := { s.xch with pairsIn := Store.set tbl d p, lru := s.xch.lru + 1 } }

/-- Flits in the hold store (XCH_HOLD_USED). -/
def holdUsed (s : Blk) : Nat := (s.xch.hold.map (fun h => h.m.body.flits)).foldl (· + ·) 0

/-- Answer a request NK_ORDER_GAP (R276). -/
def answerGap (s : Blk) (m : FMsg) : Blk := giveAnswer s m.h.src m.h.rqid m.body.ty kGap m.h.dstCtx

/-- `hold` of R276. -/
def holdMsg (s : Blk) (m : FMsg) : Blk :=
  if holdUsed s + m.body.flits > 1024 then answerGap s m
  else
    let s := { s with xch := { s.xch with
      hold := s.xch.hold ++ [{ m, deadline := now s + rgf s rOrderHold 10 0 }] } }
    ev (bump s rHeld) 0x10c m.h.dstCtx

/-- The held request of a die with a PSEQ. -/
def heldAt (s : Blk) (src pseq : Nat) : Option HeldMsg :=
  s.xch.hold.find? (fun h => h.m.h.src == src && h.m.h.pseq == pseq)

/-- Take the held requests of a die that have become the expected ones (R276). -/
def takeHeld (src : Nat) : Nat → Blk → Blk
  | 0, s => s
  | n + 1, s =>
    match Store.get? s.xch.pairsIn src with
    | none => s
    | some p =>
      match heldAt s src p.expected with
      | none => s
      | some h =>
        let s := { s with xch := { s.xch with hold := s.xch.hold.erase h } }
        takeHeld src n (takeMsg (setPairIn s src (p.expected + 1) p.gap) h.m)

/-- The reorder window is open (R276). -/
def windowOpen (s : Blk) : Bool := match s.xch.winEnd with | some e => decide (now s < e) | none => false

/-- `admitMsg` of R276. -/
def admitMsg (s : Blk) (m : FMsg) : Blk :=
  let h := m.h
  match Store.get? s.xch.pairsIn h.src with
  | none => takeMsg (setPairIn s h.src (h.pseq + 1) false) m
  | some p =>
    let d := (h.pseq + 65536 - p.expected) % 65536
    if h.sync then takeMsg (setPairIn s h.src (h.pseq + 1) false) m
    else if d = 0 then
      let s := takeMsg (setPairIn s h.src (p.expected + 1) false) m
      takeHeld h.src s.xch.hold.length s
    else if d ≥ 32768 then takeMsg (ev0 (bump (setPairIn s h.src p.expected p.gap) rOrderLate) 0x10e) m
    else if p.gap || (windowOpen s && h.epoch == s.xch.epoch) then
      holdMsg (setPairIn s h.src p.expected p.gap) m
    else takeMsg (ev0 (bump (setPairIn s h.src (h.pseq + 1) p.gap) rPseqSkip) 0x10f) m

/-- A held request's time has passed (R276). -/
def holdExpiry (s : Blk) (src pseq : Nat) : Blk :=
  match heldAt s src pseq with
  | none => s
  | some h =>
    if s.time.usable && decide (h.deadline ≤ now s) then
      answerGap { s with xch := { s.xch with hold := s.xch.hold.erase h } } h.m
    else s

/-- The GAP flag after an answer of NK_PARITY to a request whose SRC_DIE can be trusted (R276). -/
def parityGap (s : Blk) (src pseq : Nat) (pseqOk : Bool) : Blk :=
  match Store.get? s.xch.pairsIn src with
  | some p => setPairIn s src p.expected true
  | none => if pseqOk then setPairIn s src pseq true else s

/-! ## Intake -/

/-- The outcome of the checks of R60: reserved bits of a routing header that are not 0 act as a failure of its parity (R57). They lie
in the upper 32 bits of the header, whose parity bit does not cover SRC_DIE. -/
def hdrCheck (h : FHdr) : MsgCheck := if h.rsv ≠ 0 ∧ (h.chk = .ok ∨ h.chk = .layout) then .parity true else h.chk

/-- A whole request message has been taken on FQI: R60, R76 and check 1 of R266, then R276. -/
def inbound (s : Blk) (h : FHdr) (ty : Nat) (body : Option FBody) : Blk :=
  let flits := match body with | some b => b.flits | none => 1
  let s := evN s 0x116 none flits
  let refuse := fun s code => giveAnswer s h.src h.rqid ty code h.dstCtx
  match hdrCheck h with
  | .untrusted => orBits s rPortFault 4
  | .parity ok => refuse (parityGap s h.src h.pseq ok) kParity
  | chk =>
    if h.dst ≠ ownDie s then ev0 s 0x11c
    else if s.cfg.srst then refuse s kCtxFenced
    else match body with
      | none => refuse (ev0 (bump s rBadType) 0x111) kBadHandler
      | some b => if chk = .layout then refuse (parityGap s h.src h.pseq true) kParity else admitMsg s { h, body := b }

/-- An outstanding request whose answer is not wanted any more: its generation has gone, or its context was quiesced by
force (R279, R316). -/
def answerUnwanted (s : Blk) (r : FReq) : Bool := r.orphan || r.srcGen ≠ ctxGen s r.srcCtx

/-- An answer to such a request is discarded and counted. -/
def dropAnswer (s : Blk) (i : Nat) (r : FReq) : Blk :=
  let s := if r.srcGen ≠ ctxGen s r.srcCtx then ev0 (bump s rLateAnswer) 0x110 else s
  endOut (ev (bump s rLateFab) 0x13d r.srcCtx) i

/-- An answer is discarded and counted as late (R272). -/
def lateAnswer (s : Blk) : Blk := ev0 (bump s rLateAnswer) 0x110

/-- An ANSWER message of a number of flits is taken on FPI (R58, R60, R267, R271 to R273). R60 and R267 name no counter for a
reply that fails a check and for a reserved code: the first shows in 0x118 and the FAB bit of BLK_PORT_FAULT alone, the second is
counted with the late answers (DESIGN CHOICE, assumption 25). -/
def inAnswer (s : Blk) (rqid code : Nat) (parityOk : Bool) (flits : Nat) (waiting : List Nat) : Blk :=
  let s := evN s 0x118 none (max 1 flits)
  if flits > 1 then ev0 s 0x11d
  else if !parityOk then orBits s rPortFault 4
  else if code > 10 then lateAnswer s
  else match Store.get? s.xch.out (rqid % 4096) with
    | none => lateAnswer s
    | some e =>
      if e.stamp ≠ rqid / 4096 % 16 || e.phase ≠ .waiting then lateAnswer s
      else
        let s := contested (ev s 0x115 e.req.srcCtx) e.req.srcCtx waiting
        if answerUnwanted s e.req then dropAnswer s (rqid % 4096) e.req else takeAnswer s (rqid % 4096) code

/-- The reply timer of an outstanding request is due (R272). -/
def replyExpiry (s : Blk) (i : Nat) (waiting : List Nat) : Blk :=
  match Store.get? s.xch.out i with
  | none => s
  | some e =>
    if e.phase == .waiting && s.time.usable && decide (e.deadline ≤ now s) then timeoutOut (contested s e.req.srcCtx waiting) i else s

/-- An FEP notice (R62, R276). -/
def takeEpoch (s : Blk) (epoch : Nat) : Blk :=
  let s := ev0 s 0x11a
  if epoch % 2 = s.xch.epoch then ev0 s 0x11b
  else { s with xch := { s.xch with epoch := epoch % 2, winEnd := some (now s + rgf s rOrderWin 9 0 * 1000) } }

/-- The reorder window closes (R276). -/
def windowClose (s : Blk) : Blk :=
  match s.xch.winEnd with
  | some e => if s.time.usable && decide (e ≤ now s) then { s with xch := { s.xch with winEnd := none } } else s
  | none => s

/-- A repeated offer is due (R112): each is counted. -/
def retryOffer (s : Blk) (i : Nat) : Blk :=
  match s.xch.retries[i]? with
  | none => s
  | some t =>
    if !(s.time.usable && decide (t.due ≤ now s)) then s
    else
      let s := { s with xch := { s.xch with retries := s.xch.retries.eraseIdx i } }
      let s := ev (bump s rSveRetry) 0xdd t.ctx
      match t.what with
      | .localMsg r => push s [.fabReq r]
      | .fabric r =>
        if peerFenced s r.dst then outcome s r kPeerFenced 0 true
        else { s with xch := { s.xch with waitq := r :: s.xch.waitq } }

end Sys2Proof.Machine
end

