-- ==== Sys2Proof/Machine/CtxOps.lean ====
section
/-! DEFINITION. Context slots: opening (R303 to R307), leases (R309 to R313), fence and drain (R314 to R318), reset and close
(R319 to R321), resume and the overflow (R324, R325), and PEER_STATE (R326 to R328). -/
namespace Sys2Proof.Machine

/-! ## The fence board -/

/-- The fence board's address; 0 where there is none (R318). -/
def boardBase (s : Blk) : Nat := rg2 s rBoardLo rBoardHi

/-- Write a slot's fence-board entry (R318): nothing where there is no board, or while BOARD_FAULT is set. -/
def boardWrite (s : Blk) (c : Nat) (run : Bool) : Blk :=
  if boardBase s = 0 || rgb s rCtxStatus 31 then s
  else
    let s := setSlot s c { slotOf s c with boardBusy := (slotOf s c).boardBusy + 1 }
    memWrite s ((boardBase s + 8 * c) % 2 ^ 52) (leBytes 1 (ctxGen s c) ++ leBytes 1 (b2n run)) 1 none uCtx c (.board c)

/-- A fence-board write has been answered (R318). -/
def boardAnswered (s : Blk) (c : Nat) (ok : Bool) : Blk :=
  let s := setSlot s c { slotOf s c with boardBusy := (slotOf s c).boardBusy - 1 }
  if ok then s else orBits s rCtxStatus (2 ^ 31)

/-! ## Generations and opening -/

/-- The generation after one (R304). -/
def genAfter (g : Nat) : Nat := if (g + 1) % 256 = 0 then 1 else (g + 1) % 256

/-- The overflow takes in the records that wait for an entry, and commands that wait to retire are looked at (R324). -/
def ovfFill (s : Blk) : Blk :=
  let s := (s.ctx.ovfWait.take (64 - s.ctx.ovf.length)).foldl (fun s r =>
    ovfPut { s with ctx := { s.ctx with ovfWait := s.ctx.ovfWait.erase r } } r) s
  pushBack s ((Store.keys s.csq.queues).map Work.cplPump)

/-- The overflow records of a slot are discarded and counted (R320, R325). -/
def ovfDiscard (s : Blk) (c : Nat) : Blk :=
  let n := ((s.ctx.ovf ++ s.ctx.ovfWait).filter (fun r => r.ctx == c)).length
  if n = 0 then s
  else
    let s := { s with ctx := { s.ctx with ovf := s.ctx.ovf.filter (fun r => r.ctx ≠ c),
                                          ovfWait := s.ctx.ovfWait.filter (fun r => r.ctx ≠ c) } }
    ovfFill (bumpN s rOvfDiscard n)

/-- The generation of a slot changes (R279, R304, R325). A retirement still waiting for a record slot is abandoned. -/
def genChange (s : Blk) (c : Nat) : Blk :=
  let s := ovfDiscard (xchGenChange s c) c
  let s := forEach (s.csq.queues.filter (fun p => p.2.pend.isSome && sqCtx s p.1 == c)) s (fun s p => flushTo s p.1 .idle)
  let s := { s with ctx := { s.ctx with seen := s.ctx.seen.filter (fun x => x.1 ≠ c) } }
  setSlot s c { slotOf s c with gen := genAfter (ctxGen s c) }

/-- The slot enters OPENING, and its opening work begins (R307). -/
def openWork (s : Blk) (c : Nat) : Blk :=
  let s := setSlot s c { slotOf s c with gen := if ctxGen s c = 0 then 1 else ctxGen s c, code := 0, rpend := false }
  let s := setCtxSt s c .opening
  let s := setSlot s c { slotOf s c with
    leaseEnd := none, tick := 0, rotor := 0, tcc := 0, front := none, frontAt := none, frontStalled := false, lseq := 0,
    tickOpen := false, decided := 0, replay := false }
  let s := setSqt s c { sqtOf s c with stepCnt := 0, aseq := 0, course := none, nbuilt := 0 }
  boardWrite s c true

/-- CTX_LEASE of a slot, in ns. -/
def leaseNs (s : Blk) (c : Nat) : Nat := rg2 s (bank rLeaseLo c) (bank rLeaseHi c) % 2 ^ 40

/-- The lease of a slot starts (R309). -/
def startLease (s : Blk) (c : Nat) : Blk :=
  setSlot s c { slotOf s c with leaseEnd := if leaseNs s c = 0 then none else some (now s + leaseNs s c) }

/-- `new_token` of R311. -/
def newToken (c gen time prev : Nat) : Nat :=
  let tok := quillMix (time % 2 ^ 64 ^^^ (c <<< 56) ^^^ (gen <<< 48) ^^^ prev) % 2 ^ 32
  if tok = 0 then 1 else tok

/-- A slot becomes OPEN: its queues act on what was held for them (R243). -/
def becomeOpen (s : Blk) (c : Nat) : Blk :=
  let qs := (Store.keys s.csq.queues).filter (fun q => sqCtx s q == c)
  let chs := (Store.keys s.xch.chans).filter (fun ch => chanCtx s ch == some c)
  push (setCtxSt s c .opened) (qs.map Work.ctlHeld ++ chs.map Work.chanPump)

/-- A new lease token, and a fresh lease (R309, R311). -/
def newLease (s : Blk) (c : Nat) : Blk :=
  let v := slotOf s c
  startLease (setSlot s c { v with token := newToken c v.gen (now s) v.token }) c

/-- OPENING_DONE: the opening work ends once its board write has been answered (R307), and the entries of the old generation are
settled (R214; DEDUCED, assumption 26). -/
def openingDone (s : Blk) (c : Nat) : Blk :=
  if ctxSt s c == .opening && (slotOf s c).boardBusy == 0 && (seqsOf s c).isEmpty then becomeOpen (newLease s c) c else s

/-! ## Leases -/

/-- CTX_RENEW (R310): none where R14 refuses it. -/
def renew (s : Blk) (w : Word) : Option Blk :=
  let c := fld w 7 0
  let g := fld w 15 8
  if bitAt w 16 then
    if c ≠ 0 || g ≠ 0 then none
    else some (forEach ((Store.keys s.ctx.slots).filter (fun x => ctxSt s x == .opened)) s startLease)
  else if ctxSt s c == .opened && g == ctxGen s c then some (startLease s c)
  else none

/-- A lease expires (R306, R309): the slot is ORPHANED, and fault 0x40 is logged. -/
def leaseExpiry (s : Blk) (c : Nat) : Blk :=
  match (slotOf s c).leaseEnd with
  | none => s
  | some e =>
    if ctxSt s c == .opened && s.time.usable && decide (e ≤ now s) then
      let s := setSlot s c { slotOf s c with leaseEnd := none }
      let s := ev (orBits (setCtxSt s c .orphaned) rCtxIrq 2) 0x138 c
      logFault s (ctxLog c) uCtx 0x40 (some c) 0 false
    else s

/-! ## Fence -/

/-- A queue is bound to a context and enabled. -/
def queuesOf (s : Blk) (c : Nat) : List Nat :=
  (Store.keys s.csq.queues).filter (fun q => sqCtx s q == c && (queueOf s q).state ≠ .disabled)

/-- Whose answers have nowhere to go once a context's launches are discarded. -/
def MemOwner.ofLaunch : MemOwner → Bool
  | .spillLine _ _ | .refillLine _ _ | .resultLine _ _ => true
  | _ => false

/-- Change every Memory Port request that is not settled. -/
def mapMem (s : Blk) (f : MemReq → MemReq) : Blk :=
  { s with mem := { s.mem with waitq := s.mem.waitq.map (fun p => (p.1, f p.2)), mq := s.mem.mq.map (fun p => (p.1, f p.2)),
                               out := s.mem.out.map (fun p => (p.1, f p.2)) } }

/-- The requests of a context with certain owners find nobody to take their answers. -/
def ignoreMem (s : Blk) (c : Nat) (p : MemOwner → Bool) : Blk :=
  mapMem s (fun r => if r.ctx = some c && p r.owner then { r with owner := .ignored } else r)

/-- Every non-final task of a context becomes FENCED, with no arrivals (R100, R154, R315); a source task ends its stream
(R169), and an ADVNODE task leaves its course not advanced (R208). -/
def fenceTasks (s : Blk) (c : Nat) : Blk :=
  let ts := s.tsk.tasks.filter (fun p => p.2.ctx == c && !taskFinal s p.1)
  let s := forEach ts s (fun s p =>
    let s := dropDelay s p.1
    let s := if p.2.state == .issued then holdSlot s (heldOf s p.1 p.2) else s
    advHook (ev (setTask s p.1 { p.2 with state := .fenced, dlyWait := false }) 0x5e c) p.1)
  forEach (ts.filter (fun p => isSource s p.2)) s (fun s p => streamEnd s p.1 true)

/-- A launch of a fenced context is discarded by steps 2, 3 and 5 of R97 (R315). -/
def discardLaunch (s : Blk) (i : Nat) : Blk :=
  match launchOf s i with
  | none => s
  | some l =>
    let s := ringsOfLaunch (giveSlots (clearLaunch s i l) l.refillSlots) i
    gstRelease { s with tsk := { s.tsk with launches := Store.erase s.tsk.launches i } }

/-- Release what a ruled context holds for its due ticks: from the fence on it is applied on receipt (R332). -/
def releaseOwed (s : Blk) (c : Nat) : Blk :=
  let evs := (s.ctx.owed.filter (fun o => o.ctx == c)).flatMap (·.evs)
  let s := { s with ctx := { s.ctx with owed := s.ctx.owed.filter (fun o => o.ctx ≠ c),
                                        inTick := if s.ctx.inTick = some c then none else s.ctx.inTick } }
  let s := closeTick s c
  let s := setSlot s c { slotOf s c with front := none, frontStalled := false }
  push s (evs.map Work.owedEv)

/-- The requests of a context to this instance itself that are still to be taken are dropped with its work, and so are the
requests of its runs that have not been offered (R187). -/
def dropLocal (s : Blk) (c : Nat) : Blk :=
  let ours := fun (r : FReq) => r.srcCtx == c &&
    ((match r.owner with | .run _ _ => true | _ => false) ||
      (r.dst == ownDie s && !(match r.body with | .am _ _ _ => true | _ => false)))
  let mine := fun (w : Work) => match w with | .fabReq r => ours r | _ => false
  { s with work := s.work.filter (fun w => !mine w)
           xch := { s.xch with waitq := s.xch.waitq.filter (fun r => !ours r) } }

/-- A fence is put in force, in one update (R315). The slot goes to `st`; queue `keep` runs the fencing FENCE itself. -/
def fenceUpdate (s : Blk) (c : Nat) (st : CtxState) (keep : Option Nat) : Blk :=
  let s := ev s 0x135 c
  let s := setSlot s c { slotOf s c with fenceAt := now s, forced := false, replay := false }
  let s := setCtxSt s c st
  let s := { s with xch := { s.xch with retries := s.xch.retries.filter (fun r => r.ctx ≠ c) } }
  let s := dropLocal (fenceTasks s c) c
  let s := { s with
    sve := { s.sve with runs := s.sve.runs.filter (fun p => p.2.ctx ≠ c), scopes := s.sve.scopes.filter (fun p => p.2.ctx ≠ c) }
    tsk := { s.tsk with early := s.tsk.early.filter (fun e => e.ctx ≠ c) }
    sqt := { s.sqt with bounds := s.sqt.bounds.filter (fun b => b.ctx ≠ c) } }
  let s := forEach ((s.tsk.launches.filter (fun p => p.2.ctx == c)).map Prod.fst) s discardLaunch
  let s := ignoreMem s c MemOwner.ofLaunch
  let s := forEach ((queuesOf s c).filter (fun q => some q ≠ keep)) s (fun s q => flushTo s q .idle)
  let s := boardWrite (releaseOwed s c) c false
  push (pushBack s [.boundaries]) [.dlyFill]

/-- A slot on which a fence can be put in force (R306). -/
def fenceable (s : Blk) (c : Nat) : Bool := ctxSt s c == .opened || ctxSt s c == .orphaned || ctxSt s c == .faulted

/-- Fence a slot as CTX_CTL FENCE does, where its state allows it. -/
def fenceSlot (s : Blk) (c : Nat) : Blk := if fenceable s c then fenceUpdate s c .draining none else s

/-- The alarm is raised: every strict context is fenced (R385). -/
def fenceStrict (s : Blk) : Blk := forEach ((Store.keys s.ctx.slots).filter (isStrict s)) s fenceSlot

/-- The Sequence Table's writes for a slot. -/
def MemOwner.ofSeq : MemOwner → Bool
  | .park _ | .notice _ => true
  | _ => false

/-- The slot's entries of the Sequence Table are settled (R214); the answers of discarded restores are not wanted. -/
def teardownSeqs (s : Blk) (c : Nat) : Blk :=
  let gone := (seqsOf s c).filter (fun p => p.2.state == .restoring)
  let s := ignoreMem s c (fun o => match o with | .restore e => gone.any (fun p => p.1 == e) | _ => false)
  seqTeardown s c

/-! ## Drain -/

/-- The conditions of R316. -/
def drained (s : Blk) (c : Nat) : Bool :=
  !s.tsk.tasks.any (fun p => p.2.ctx == c) && !s.tsk.held.any (fun p => p.2.ctx == c) && memBusy s c == 0 &&
    fabBusy s c == 0 && !s.xch.rings.any (fun p => p.2.ctx == c && !p.2.places.isEmpty) &&
    (!tearing s c || (seqsOf s c).isEmpty) && (slotOf s c).boardBusy == 0

/-- Queues whose FENCE with WAITQ waits for a slot to leave DRAINING retire it (R314). -/
def drainRelease (s : Blk) (c : Nat) : Blk :=
  forEach (s.csq.queues.filter (fun p => p.2.wait == .fenceOf c)) s (fun s p =>
    match p.2.cur with
    | some w => retireVal s p.1 w (some 0)
    | none => s)

/-- DRAINING ends (R306, R319): QUIESCED, or OPENING with a new generation where a reset is pending. -/
def leaveDraining (s : Blk) (c : Nat) : Blk :=
  let s := orBits s rCtxIrq 1
  let s := if (slotOf s c).rpend then openWork (genChange s c) c else setCtxSt s c .quiesced
  push s [.drainRelease c]

/-- DRAIN_COMPLETE. -/
def drainComplete (s : Blk) (c : Nat) : Blk :=
  if ctxSt s c == .draining && drained s c then leaveDraining s c else s

/-- The release of a close, once its drain is complete (R320). -/
def closeRelease (s : Blk) (c : Nat) : Blk :=
  let s := orBits s rCtxIrq 1
  let qs := queuesOf s c
  let s := forEach qs s (fun s q => wrf (disableQ s q) (sqReg q 0) 31 31 0)
  let s := ovfDiscard s c
  if ctxSt s c == .pendingReuse then openWork s c else setCtxSt s c .free

/-- CLOSE_RELEASE_DONE. -/
def closeReleaseDone (s : Blk) (c : Nat) : Blk :=
  if (ctxSt s c == .closing || ctxSt s c == .pendingReuse) && drained s c then closeRelease s c else s

/-- Write off the held words of a context (R316, R317): how many went, and how many stay held. -/
def forceWords (s : Blk) (c : Nat) : Nat × Nat × Blk :=
  (s.tsk.held.filter (fun p => p.2.ctx == c)).foldl (fun (a : Nat × Nat × Blk) p =>
    let (gone, s) := writeOff a.2.2 p.2
    if gone then (a.1 + 1, a.2.1, s) else (a.1, a.2.1 + 1, s)) (0, 0, s)

/-- The outstanding tags of a context are orphaned, those of its board writes too; its requests that were never offered are
dropped, but for a board write, whose answer then finds nobody (R316). -/
def forceMem (s : Blk) (c : Nat) : Nat × Blk :=
  let mine := fun (r : MemReq) => r.ctx == some c && r.owner ≠ .orphaned
  let s := { s with mem := { s.mem with waitq := s.mem.waitq.filter (fun p => p.1.isSome || !mine p.2) } }
  let s := mapMem s (fun r => if r.owner = .board c then { r with ctx := some c } else r)
  let n := ((Store.vals s.mem.out).filter mine).length + (s.mem.mq.toList.filter (fun p => mine p.2)).length +
    (s.mem.waitq.filter (fun p => p.1.isSome && mine p.2)).length
  (n, mapMem s (fun r => if mine r then { r with owner := .orphaned } else r))

/-- QUIESCE_EXPIRY: the context is quiesced by force (R316). A slot that opens after a reset in QUIESCED only gives up the entries
that are not settled by then (R214). -/
def quiesceExpiry (s : Blk) (c : Nat) : Blk :=
  let st := ctxSt s c
  let due := s.time.usable && decide (now s ≥ (slotOf s c).fenceAt + rgf s (bank rQuiesce c) 15 0 * 1000)
  if st == .opening then (if due && !(seqsOf s c).isEmpty then seqForce (ignoreMem s c MemOwner.ofSeq) c else s)
  else if !(st == .draining || st == .closing || st == .pendingReuse) || !due || drained s c then s
  else
    let (off, kept, s) := forceWords s c
    let (tags, s) := forceMem s c
    let old := fun (r : FReq) => if r.srcCtx = c then { r with orphan := true } else r
    let s := { s with xch := { s.xch with out := s.xch.out.map (fun e => (e.1, { e.2 with req := old e.2.req })),
                                          waitq := s.xch.waitq.map old } }
    let s := seqForce s c
    let s := forEach (Store.keys (s.xch.rings.filter (fun p => p.2.ctx == c && !p.2.places.isEmpty))) s dropPlaces
    let s := setSlot s c { slotOf s c with forced := true, boardBusy := 0 }
    let s := ev (bump s rForced) 0x13b c
    let s := ctxFault s c uCtx 0x47 (mkDetail off tags kept)
    if st == .draining then leaveDraining s c else closeRelease s c

/-! ## CTX_CTL -/

/-- CTX_CTL OPEN (R306, R321, R401): none where R14 refuses it. -/
def ctlOpen (s : Blk) (c : Nat) : Option Blk :=
  if c ≥ rgf s rCfgLimits 8 0 then none
  else match ctxSt s c with
    | .free => some (openWork s c)
    | .closing => some (setCtxSt s c .pendingReuse)
    | _ => none

/-- CTX_CTL FENCE (R306, R314). -/
def ctlFence (s : Blk) (c : Nat) : Option Blk :=
  if fenceable s c then some (fenceUpdate s c .draining none)
  else if ctxSt s c == .draining || ctxSt s c == .quiesced then some s
  else none

/-- CTX_CTL RESET (R306, R319). -/
def ctlReset (s : Blk) (c : Nat) : Option Blk :=
  let pend := fun (s : Blk) => setSlot s c { slotOf s c with rpend := true }
  if fenceable s c then some (teardownSeqs (pend (fenceUpdate (ev s 0x136 c) c .draining none)) c)
  else match ctxSt s c with
    | .draining => some (teardownSeqs (pend (ev s 0x136 c)) c)
    | .quiesced =>
      let s := setSlot s c { slotOf s c with fenceAt := now s, forced := false }
      some (openWork (genChange (teardownSeqs (ev s 0x136 c) c) c) c)
    | _ => none

/-- CTX_CTL CLOSE (R306, R320, R321). -/
def ctlClose (s : Blk) (c : Nat) : Option Blk :=
  let begin_ := fun (s : Blk) =>
    let s := genChange (ev s 0x137 c) c
    setSlot s c { slotOf s c with rpend := false }
  if fenceable s c then some (teardownSeqs (fenceUpdate (begin_ s) c .closing none) c)
  else match ctxSt s c with
    | .draining =>
      some (push (boardWrite (teardownSeqs (setCtxSt (begin_ s) c .closing) c) c false) [.drainRelease c])
    | .quiesced =>
      let s := setCtxSt (begin_ s) c .closing
      some (boardWrite (teardownSeqs (setSlot s c { slotOf s c with fenceAt := now s, forced := false }) c) c false)
    | .pendingReuse => some (setCtxSt s c .closing)
    | _ => none

/-! ## Resume and the overflow -/

/-- The next overflow record of a slot that its replay has still to write. -/
def nextReplay (s : Blk) (c : Nat) : Option OvfRec := s.ctx.ovf.find? (fun r => r.ctx == c && !r.replaying)

/-- Offer the write of an overflow record (R325). -/
def replayRec (s : Blk) (r : OvfRec) : Blk :=
  memWrite s ((rg2 s (sqReg r.q 0xc) (sqReg r.q 0x10) + 32 * r.slot) % 2 ^ 52) r.bytes 1 (some r.ctx) uCsq r.q
    (.cplReplay r.idx)

/-- Offer the next record of a replay, or end it: the records are freed, and the slot becomes OPEN (R325). A lease that had ended
in ORPHANED starts again with it (R309). -/
def replayOn (s : Blk) (c : Nat) : Blk :=
  match nextReplay s c with
  | some r => replayRec s r
  | none =>
    let s := ovfFill { s with ctx := { s.ctx with ovf := s.ctx.ovf.filter (fun r => r.ctx ≠ c) } }
    match nextReplay s c with
    | some r => replayRec s r
    | none =>
      let s := setSlot s c { slotOf s c with replay := false, code := 0 }
      becomeOpen (if (slotOf s c).leaseEnd.isNone then startLease s c else s) c

/-- CTX_CTL RESUME (R306, R325, R385). -/
def ctlResume (s : Blk) (c : Nat) : Option Blk :=
  if ctxSt s c ≠ .faulted || (isStrict s c && (slotOf s c).code ≠ 0x10) then none
  else if (slotOf s c).replay then some s
  else some (replayOn (setSlot s c { slotOf s c with replay := true }) c)

/-- A replayed record's write has been answered (R325). -/
def replayAnswered (s : Blk) (idx : Nat) (ok : Bool) : Blk :=
  match s.ctx.ovf.find? (fun r => r.idx == idx) with
  | none => s
  | some r =>
    let c := r.ctx
    if !(slotOf s c).replay then s
    else if ok then
      let mark := fun (x : OvfRec) => if x.idx = idx then { x with replaying := true } else x
      replayOn { s with ctx := { s.ctx with ovf := s.ctx.ovf.map mark } } c
    else
      let s := setSlot s c { slotOf s c with replay := false }
      ovfFill { s with ctx := { s.ctx with ovf := s.ctx.ovf.filter (fun x => x.ctx ≠ c || !x.replaying) } }

/-! ## Commands -/

/-- FENCE (R314). -/
def runFence (s : Blk) (q : Nat) (w : Word256) : Blk :=
  let c := immF w 7 0
  let own := decide (c = sqCtx s q)
  let st := ctxSt s c
  let done := fun (s : Blk) (n : Nat) => retireVal s q w (some (BitVec.ofNat 64 n))
  if st == .free || st == .opening || st == .closing || st == .pendingReuse then done s 2
  else if immF w 15 8 ≠ ctxGen s c then done s 1
  else
    let new := fenceable s c
    let s := if new then fenceUpdate s c .draining (if own then some q else none) else s
    if own then retire s q { word := w, pc := (queueOf s q).pc, value := some 0, act := if new then .flush else .next }
    else if immF w 16 16 = 1 && ctxSt s c == .draining then aside s q w (.fenceOf c)
    else done s 0

/-- ADOPT (R313). -/
def runAdopt (s : Blk) (q : Nat) (w : Word256) : Blk :=
  let c := immF w 7 0
  let v := slotOf s c
  let bad := fun (n : Nat) => retireVal (bump s rAdoptBad) q w (some (BitVec.ofNat 64 n))
  if v.state ≠ .orphaned then bad 1
  else if immF w 15 8 ≠ v.gen then bad 2
  else if opaF w 31 0 ≠ v.token then bad 3
  else
    let s := ev (becomeOpen (newLease (dropCourse s c) c) c) 0x13a c
    retireVal s q w (some (BitVec.ofNat 64 ((slotOf s c).token * 2 ^ 32)))

/-! ## PEER_STATE -/

/-- A write of CTX_PEER_ENT at entry i (R326 to R328). A write that newly fences a die or a package acts in one update. -/
def peerWrite (s : Blk) (i : Nat) (w : Word) : Blk :=
  let k := bank rPeerEnt i
  let v : Word := w &&& 0xc01fffff#32
  let old := rgw s k
  let s := wr s k v.toNat
  if !bitAt v 31 || v = old then s
  else
    let hit := entFences v
    let s := fenceOut s hit
    let back := s.xch.retries.filter (fun r => match r.what with | .fabric q => hit q.dst | _ => false)
    let s := { s with xch := { s.xch with
      retries := s.xch.retries.filter (fun r => !back.contains r)
      hold := s.xch.hold.filter (fun h => !hit h.m.h.src)
      pairsIn := s.xch.pairsIn.filter (fun p => !hit p.1) } }
    let s := forEach back.reverse s (fun s r => outcome s r.what.req kPeerFenced 0 true)
    let s := { s with tsk := { s.tsk with launches := s.tsk.launches.map (fun p =>
      (p.1, { p.2 with peerFinals := (p.2.peerFinals ++ fencedHomes s p.2 hit).eraseDups })) } }
    let s := ev0 (orBits (wr s rPeerLast (2 ^ 31 + fld v 20 0)) rCtxIrq 8) 0x13e
    pushBack s ((Store.keys s.sve.runs).map Work.runCheck ++ (Store.keys s.sve.scopes).map Work.scopeCheck)

end Sys2Proof.Machine
end

