-- ==== Sys2Proof/Machine/Front.lean ====
section
/-! DEFINITION. Ruled contexts: the waiters and their keys, their release, the front, and idleness (R289, R290, R302). -/
namespace Sys2Proof.Machine

/-- A waiter of a ruled context (R290): its key, its FKIND (R302), and the number that names it: a task slot, a run record,
4,096 × launch record + scope for an expander waiter, a launch record, a queue. -/
structure RWait where
  rank : Nat
  scope : Nat
  node : Nat
  sub : Nat
  kind : Nat
  idx : Nat
deriving DecidableEq, Repr

/-- The order of waiters (R290): launch rank, scope, node, sub-rank. -/
def RWait.lt (a b : RWait) : Bool :=
  decide (a.rank < b.rank) || (a.rank == b.rank && (decide (a.scope < b.scope) || (a.scope == b.scope &&
    (decide (a.node < b.node) || (a.node == b.node && decide (a.sub < b.sub))))))

/-- The creation rank of a task among the tasks of its node. -/
def taskRank (s : Blk) (t : Task) : Nat :=
  ((Store.vals s.tsk.tasks).filter (fun u =>
    u.launch == t.launch && u.scope == t.scope && u.node == t.node && decide (u.seq < t.seq))).length

/-- The tasks of a context that wait: WAITING, DELAYED, or READY with an empty eligible set (R290). -/
def taskWaiters (s : Blk) (c : Nat) : List RWait :=
  (s.tsk.tasks.filter (fun p => p.2.ctx == c &&
      (p.2.state == .waiting || p.2.state == .delayed || (p.2.state == .ready && p.2.bound.isNone && p.2.starved)))).filterMap
    (fun p => (launchOf s p.2.launch).map (fun l =>
      { rank := l.rank, scope := p.2.scope, node := p.2.node, sub := 1 + taskRank s p.2, kind := 1, idx := p.1 }))

/-- The sieve runs of a context that are in intake, or whose release is to be taken. -/
def runWaiters (s : Blk) (c : Nat) : List RWait :=
  (s.sve.runs.filter (fun p => p.2.ctx == c && p.2.phase ≠ .fanout)).filterMap (fun p =>
    (launchOf s p.2.launch).map (fun l =>
      let src := ((expertNode s l p.2.scope).map (fun n => xpSrc n.2)).getD 0
      { rank := l.rank, scope := p.2.scope, node := src, sub := 65537, kind := 2, idx := p.1 }))

/-- The live launches of a context that have not ended. -/
def liveOf (s : Blk) (c : Nat) : List (Nat × Launch) := s.tsk.launches.filter (fun p => p.2.ctx == c && !p.2.ended)

/-- The expander waiters of a context: the EXPERT node of each scope of a launch that is not released. -/
def scopeWaiters (s : Blk) (c : Nat) : List RWait :=
  (liveOf s c).flatMap (fun p =>
    (scopesOf s p.2).filterMap (fun g =>
      if p.2.xrel.contains g.1 then none
      else (expertNode s p.2 g.1).map (fun n =>
        { rank := p.2.rank, scope := g.1, node := n.1, sub := 0, kind := 3, idx := 4096 * p.1 + g.1 })))

/-- The launch ends of a context: each comes after every scope of its launch. -/
def endWaiters (s : Blk) (c : Nat) : List RWait :=
  ((liveOf s c).filter (fun p => !p.2.advWait)).map (fun p =>
    { rank := p.2.rank, scope := 4096, node := 0, sub := 0, kind := 4, idx := p.1 })

/-- The rank of the queues, after every launch. -/
abbrev queueRank := 2 ^ 64

/-- The queues of a context in WAIT, SLEEP or IDLE. -/
def queueWaiters (s : Blk) (c : Nat) : List RWait :=
  ((Store.keys s.csq.queues).filter (fun q => sqCtx s q == c &&
      ((queueOf s q).state == .wait || (queueOf s q).state == .sleep || (queueOf s q).state == .idle))).map (fun q =>
    { rank := queueRank, scope := 0, node := 0, sub := 64 * sqPrio s q + q, kind := 5, idx := q })

/-- The waiters of a context (R290). -/
def waiters (s : Blk) (c : Nat) : List RWait :=
  taskWaiters s c ++ runWaiters s c ++ scopeWaiters s c ++ endWaiters s c ++ queueWaiters s c

/-- A request of the home die has named a later scope of a launch, or a later launch of the context (R290). -/
def laterSeen (s : Blk) (c : Nat) (l : Launch) (scope die : Nat) : Bool :=
  s.ctx.seen.any (fun e =>
    e.1 == c && e.2.1 == die && ((e.2.2.1 == l.ltag && decide (e.2.2.2 > scope)) ||
      (liveOf s c).any (fun p => p.2.ltag == e.2.2.1 && decide (p.2.rank > l.rank))))

/-- The final TALLY of a home has arrived, or its die has been fenced (R327). -/
def homeFinal (s : Blk) (l scope : Nat) (h : Nat × Nat) : Bool :=
  ((scopeAt s l scope).map (fun p => p.2.finals.contains h.1)).getD false ||
    ((launchOf s l).map (fun v => v.peerFinals.contains (scope, h.1))).getD false

/-- The run of a scope of a launch has finished selection. -/
def runSelected (s : Blk) (i : Nat) (l : Launch) (scope : Nat) : Bool :=
  match (Store.vals s.sve.runs).find? (fun r => r.launch == i && r.scope == scope) with
  | some r => r.phase == .fanout
  | none => l.sieved.contains scope

/-- An expander waiter is released (R290). -/
def scopeReleased (s : Blk) (i scope : Nat) : Bool :=
  match launchOf s i with
  | none => false
  | some l =>
    match expertNode s l scope with
    | none => false
    | some (_, n) =>
      let homes := homeList s n
      if xpHomeMode n = 1 then homes.all (homeFinal s i scope)
      else homes.any (fun h => homeFinal s i scope h || laterSeen s l.ctx l scope (dieEnt s h.2).die ||
        (decide ((dieEnt s h.2).die = ownDie s) && runSelected s i l scope))

/-- A queue's joint has fired, or its timeout, its wake time or a doorbell has come (R290). -/
def queueReleased (s : Blk) (q : Nat) : Bool :=
  let v := queueOf s q
  let timed := match v.deadline with
    | some d => s.time.usable && decide (d ≤ now s)
    | none => false
  match v.state with
  | .wait => timed || ((v.jw.map (jointFired s)).getD false)
  | .sleep => timed
  | .idle => v.head ≠ v.tailNow && ctxOpen s q
  | _ => false

/-- A waiting task is released (R290). -/
def taskReleased (s : Blk) (slot : Nat) : Bool :=
  match taskOf s slot with
  | none => false
  | some t =>
    match t.state with
    | .waiting => !t.dlyWait && ((t.gjoint.map (jointFired s)).getD false)
    | .delayed => !s.iss.dly.any (fun d => d.slot == slot)
    | .ready => !(eligible s t).isEmpty
    | _ => false

/-- A waiter is released (R290). -/
def RWait.released (s : Blk) (w : RWait) : Bool :=
  match w.kind with
  | 1 => taskReleased s w.idx
  | 2 => ((Store.get? s.sve.runs w.idx).map (fun r => r.phase == .ready)).getD false
  | 3 => scopeReleased s (w.idx / 4096) (w.idx % 4096)
  | 4 => ((launchOf s w.idx).map (launchDue s w.idx)).getD false
  | _ => queueReleased s w.idx

/-- The waiter with the least key; the one picked at this idle point stays while it is a waiter. -/
def frontOf (s : Blk) (c : Nat) : Option RWait :=
  let ws := waiters s c
  let least := match ws with
    | [] => none
    | w :: r => some (r.foldl (fun b x => if x.lt b then x else b) w)
  match (slotOf s c).front with
  | some f => (ws.find? (fun w => w.kind == f.1 && w.idx == f.2)).or least
  | none => least

/-- The owed events of a context. -/
def owedOf (s : Blk) (c : Nat) : List Owed := s.ctx.owed.filter (fun o => o.ctx == c)

/-- The queues of a context with a command that can begin. -/
def readyCmds (s : Blk) (c : Nat) : List Nat :=
  (s.csq.queues.filter (fun p => sqCtx s p.1 == c && (cmdReady s p.1 p.2 || (p.2.state == .run && p.2.wait == .none &&
    p.2.pend.isNone && ctxOpen s p.1 && p.2.bad.any (fun b => b.1 == p.2.pc / 64 * 64))))).map Prod.fst

/-- The READY tasks of a context that are to be bound (R138). -/
def unboundTasks (s : Blk) (c : Nat) : List (Nat × Task) :=
  s.tsk.tasks.filter (fun p => p.2.ctx == c && p.2.state == .ready && p.2.bound.isNone && !p.2.starved)

/-- Sequence Table work of a context that can go on: an advance, the start of a boundary, a build, the end of a boundary. -/
def boundaryWork (s : Blk) (c : Nat) : Bool :=
  (Store.vals s.tsk.launches).any (fun l => l.ctx == c && advDue l) ||
    (match s.sqt.bounds with
     | b :: _ => b.ctx == c && (b.phase == .queued || buildDue s b || boundDue b)
     | [] => false)

/-- A boundary of a context waits for those of other contexts to end (R216): its tick waits with it, so that they change only the
wall time of the context's decisions (R301). -/
def boundWaits (s : Blk) (c : Nat) : Bool :=
  match s.sqt.bounds with
  | b :: r => b.ctx ≠ c && r.any (fun b => b.ctx == c)
  | [] => false

/-- A decision of a context can be taken, or is due and waits for the Sequence Table. -/
def hasWork (s : Blk) (c : Nat) : Bool :=
  (slotOf s c).tickOpen || !(unboundTasks s c).isEmpty || !(readyCmds s c).isEmpty || boundaryWork s c || boundWaits s c

/-- The front picked at an idle point is still a waiter: the context waits for its release, whatever else comes (R292). -/
def frontPicked (s : Blk) (c : Nat) : Bool :=
  match (slotOf s c).front with
  | some f => (waiters s c).any (fun w => w.kind == f.1 && w.idx == f.2)
  | none => false

/-- A ruled context is idle (R290), or waits for the front that it picked when it was (R292). -/
def ctxIdle (s : Blk) (c : Nat) : Bool := ruledLive s c && (frontPicked s c || ((owedOf s c).isEmpty && !hasWork s c))

/-- Waiters other than the front whose release is held. -/
def heldWaiters (s : Blk) (c : Nat) (f : RWait) : Nat := ((waiters s c).filter (fun w => w ≠ f && w.released s)).length

/-- FKIND and FINDEX of a front (R302). -/
def RWait.shown (s : Blk) (w : RWait) : Nat :=
  let i := if w.kind = 3 then ((scopeAt s (w.idx / 4096) (w.idx % 4096)).map Prod.fst).getD 0 else w.idx
  put w.kind 30 28 + put i 16 0

/-- CTX_RULE_STAT (R302). -/
def ruleStat (s : Blk) (c : Nat) : Nat :=
  if !ctxIdle s c then 0
  else match frontOf s c with
    | none => 2 ^ 31
    | some f => 2 ^ 31 + f.shown s + put (min (heldWaiters s c f) 2047) 27 17

/-- The limit CTX_RULE_WAIT of a context, in ns. -/
def ruleWait (s : Blk) (c : Nat) : Nat := rgf s (bank rRuleWait c) 19 0 * 1000

/-- The front of an idle context waits while an event of another waiter is held (R293). -/
def frontBlocked (s : Blk) (c : Nat) : Bool :=
  match frontOf s c with
  | none => false
  | some f => ctxIdle s c && (slotOf s c).front == some (f.kind, f.idx) && !f.released s && heldWaiters s c f ≠ 0

/-- The time since which the front of a ruled context has waited while an event of another waiter is held. -/
def armFront (s : Blk) (c : Nat) : Blk :=
  let v := slotOf s c
  match frontBlocked s c, v.frontAt with
  | true, none => setSlot s c { v with frontAt := some (now s) }
  | false, some _ => setSlot s c { v with frontAt := none }
  | _, _ => s

/-- The fronts of the ruled contexts. -/
def armFronts (s : Blk) : Blk := forEach ((Store.keys s.ctx.slots).filter (ruledLive s)) s armFront

/-- FRONT_STALL_EXPIRY: the front has waited its limit while an event of another waiter is held (R293). -/
def frontStall (s : Blk) (c : Nat) : Blk :=
  let v := slotOf s c
  match frontOf s c with
  | none => s
  | some f =>
    let held := heldWaiters s c f
    if frontBlocked s c && !v.frontStalled && ruleWait s c ≠ 0 && s.time.usable &&
        decide (now s ≥ v.frontAt.getD (now s) + ruleWait s c) then
      let ltag := if f.kind = 5 then 0
        else (((liveOf s c).find? (fun p => p.2.rank == f.rank)).map (fun p => p.2.ltag)).getD 0
      let s := setSlot s c { v with frontStalled := true }
      ctxFault s c uCtx 0x58 (mkDetail (put ltag 31 0) (f.shown s) (min held 2047))
    else s

end Sys2Proof.Machine
end

