-- ==== Sys2Proof/Machine/RegRead.lean ====
section
/-! DEFINITION. Reading the registers: the map of R420 to R422, the value each register shows, and the value that a read of a
_LO register fixes for the matching _HI. -/
namespace Sys2Proof.Machine

/-! ## Selectors and stored words -/

/-- The selector register that chooses which word an offset shows, and its highest bit. -/
def selOf (off : Nat) : Option (Nat × Nat) :=
  if off = rTskQuota then some (rTskCtxSel, 7)
  else if off = rDieId || off = rDieCtx then some (rDieSel, 9)
  else if rSqtCfg ≤ off && off ≤ 0xe0138 then some (rSqtCtxSel, 7)
  else if off = rXchRings || off = rXchSchs then some (rXchCtxSel, 7)
  else if (0x120004 ≤ off && off ≤ rQuiesce) then some (rCtxSel, 7)
  else if off = rPeerEnt then some (rPeerSel, 7)
  else if rOrdMode ≤ off && off ≤ rReplayStep then some (rOrdSel, 7)
  else if rObsLevel ≤ off && off ≤ rLcfg then some (rObsCtxSel, 7)
  else none

/-- The index that a selector shows at an offset; 0 where there is none. -/
def selIdx (s : Blk) (off : Nat) : Nat :=
  match selOf off with
  | some (r, hi) => rgf s r hi 0
  | none => 0

/-- The key of the word that an offset shows. -/
def selKey (s : Blk) (off : Nat) : Nat := bank off (selIdx s off)

/-- The registers that hold a word of their own which a read returns as it is, with their RW bits; 0 where software writes
none of it: (offset, mask) for one register, repeated at a stride for a group. -/
structure RegRow where
  off : Nat
  mask : Nat
  n : Nat := 1
  step : Nat := 4

/-- Address words: bits [31:6] and [51:32]. -/
abbrev mLo := 0xffffffc0
/-- Bits [51:32] of an address. -/
abbrev mHi := 0xfffff
/-- All of a word. -/
abbrev mAll := 0xffffffff
/-- EN and LINE of an _IRQ_CFG register. -/
abbrev mIrq := 0x107

/-- The stored registers of BLK, CFG and CSQ. -/
def rowsA : List RegRow :=
  [⟨rIrqEn, 0xff, 1, 4⟩, ⟨rRegionFail, 0, 2, 4⟩, ⟨rDiagSel, 0x1f, 1, 4⟩, ⟨rHifActive, 0, 1, 4⟩,
   ⟨rCfgFormat, 0, 6, 4⟩, ⟨rSrstDrain, 0xffff, 1, 4⟩, ⟨rCfgIrqCfg, mIrq, 1, 4⟩, ⟨rCfgIrq, 0, 1, 4⟩,
   ⟨rPulseNs, 0x3ff, 1, 4⟩, ⟨rPulseCount, 0, 1, 4⟩, ⟨rLoopMax, mAll, 1, 4⟩, ⟨rPcsCfg, 0x8000001f, 1, 4⟩,
   ⟨rPcsLast, 0, 4, 4⟩, ⟨rCsqIrqCfg, mIrq, 1, 4⟩, ⟨rCsqIrq, 0, 1, 4⟩, ⟨rBrk, 0xf03f00ff, 4, 16⟩,
   ⟨rBrk + 4, 0xffffffe0, 4, 16⟩, ⟨rBrk + 8, mHi, 4, 16⟩, ⟨rSq, 0xf0ff1f1f, 64, 256⟩, ⟨rSq + 4, mLo, 64, 256⟩,
   ⟨rSq + 8, mHi, 64, 256⟩, ⟨rSq + 0xc, mLo, 64, 256⟩, ⟨rSq + 0x10, mHi, 64, 256⟩, ⟨rSq + 0x20, 0, 64, 256⟩,
   ⟨rSq + 0x30, 0, 64, 256⟩]

/-- The stored registers of GST, TSK, JNT, RDY, DLY, ISS and SVE. -/
def rowsB : List RegRow :=
  [⟨rGstAddrLo, mLo, 1, 4⟩, ⟨rGstAddrHi, mHi, 1, 4⟩, ⟨rGstRecs, 0x3fff, 1, 4⟩, ⟨rGstStatus, 0, 2, 4⟩,
   ⟨rGstTidSel, 0xfff, 1, 4⟩, ⟨rTskCtxSel, 0xff, 1, 4⟩, ⟨rTskQuota, 0x3ffff, 1, 4⟩, ⟨rEarlyTtl, 0xffff, 1, 4⟩,
   ⟨rEarlyDrop, 0, 1, 4⟩, ⟨rTskIrqCfg, mIrq, 1, 4⟩, ⟨rTskIrq, 0, 1, 4⟩, ⟨rJntRepair, 0, 4, 4⟩, ⟨rNoEngine, 0, 1, 4⟩,
   ⟨rDlyTick, 0x1f, 1, 4⟩, ⟨rDlyWaits, 0, 1, 4⟩, ⟨rDepth, 0x3f, 5, 4⟩, ⟨rC0Resv, 0xf, 1, 4⟩, ⟨rThrFloor, 0xff, 1, 4⟩,
   ⟨rThrBurst, 0x7f, 1, 4⟩, ⟨rEngSel, 0xfff, 1, 4⟩, ⟨rOverrun, 0xfffff, 4, 4⟩, ⟨rStaleCmpl, 0, 3, 4⟩,
   ⟨rOverrunLast, 0, 1, 4⟩, ⟨rIssIrqCfg, mIrq, 1, 4⟩, ⟨rIssIrq, 0, 1, 4⟩, ⟨rXtAddrLo, mLo, 1, 4⟩, ⟨rXtAddrHi, mHi, 1, 4⟩,
   ⟨rXtFirst, 0x3ffff, 1, 4⟩, ⟨rXtCount, 0x7ffff, 1, 4⟩, ⟨rXtStatus, 0, 1, 4⟩, ⟨rDieSel, 0x3ff, 1, 4⟩,
   ⟨rDieId, 0x801fffff, 1, 4⟩, ⟨rDieCtx, 0xffff, 1, 4⟩, ⟨rXlBaseLo, mLo, 1, 4⟩, ⟨rXlBaseHi, mHi, 1, 4⟩,
   ⟨rXlLines, 0x1ff, 1, 4⟩, ⟨rRunTimeout, 0xfffff, 1, 4⟩, ⟨rSveCandIn, 0, 13, 4⟩, ⟨rSet, 0xfffffff8, 16, 64⟩,
   ⟨rSet + 4, 0x3ffff, 16, 64⟩, ⟨rSet + 8, 0x1ffff, 16, 64⟩, ⟨rSet + 0xc, 0x3ff01ff, 16, 64⟩,
   ⟨rSet + 0x10, 0x3ff01ff, 16, 64⟩, ⟨rSet + 0x14, 0x3ff01ff, 16, 64⟩, ⟨rSet + 0x18, 0xffff0fff, 16, 64⟩,
   ⟨rSet + 0x1c, 0x1fff, 16, 64⟩, ⟨rSet + 0x20, mAll, 16, 64⟩, ⟨rSet + 0x24, mAll, 16, 64⟩]

/-- The stored registers of SQT, XCH and CTX. -/
def rowsC : List RegRow :=
  [⟨rSqtCtxSel, 0xff, 1, 4⟩, ⟨rSqtParks, 0, 4, 4⟩, ⟨rSqtIrqCfg, mIrq, 1, 4⟩, ⟨rSqtIrq, 0, 1, 4⟩, ⟨rSqtCfg, 0xcfff0fff, 1, 4⟩,
   ⟨rSqtQuota, 0x1ffff, 1, 4⟩, ⟨rSqtLimits, 0x7fff7fff, 1, 4⟩, ⟨rSqtTokBase, 0x7fff, 1, 4⟩, ⟨rSqtCourseLo, mLo, 1, 4⟩,
   ⟨rSqtCourseHi, mHi, 1, 4⟩, ⟨rSqtReqLo, mLo, 1, 4⟩, ⟨rSqtReqHi, mHi, 1, 4⟩, ⟨rSqtNtcLo, 0xffffffe0, 1, 4⟩,
   ⟨rSqtNtcHi, mHi, 1, 4⟩, ⟨rSqtRings, 0x1fff1f1f, 1, 4⟩, ⟨rSqtSq, 0x3f, 1, 4⟩, ⟨rReplyTimer, 0x3ff, 1, 4⟩,
   ⟨rOrderHold, 0x7ff, 1, 4⟩, ⟨rOrderWin, 0x3ff, 1, 4⟩, ⟨rXchCtxSel, 0xff, 1, 4⟩, ⟨rXchRings, 0x7fff3fff, 1, 4⟩,
   ⟨rXchSchs, 0x7ff03ff, 1, 4⟩, ⟨rXchIrqCfg, mIrq, 1, 4⟩, ⟨rXchIrq, 0, 3, 4⟩, ⟨rPools, mLo, 16, 16⟩,
   ⟨rPools + 4, mHi, 16, 16⟩, ⟨rPools + 8, mLo, 16, 16⟩, ⟨rPools + 12, mHi, 16, 16⟩, ⟨rDelivered, 0, 15, 4⟩,
   ⟨rCtxSel, 0xff, 1, 4⟩, ⟨rLeaseLo, mAll, 1, 4⟩, ⟨rLeaseHi, 0xff, 1, 4⟩, ⟨rFpol, 0x3e, 1, 4⟩, ⟨rQuiesce, 0xffff, 1, 4⟩,
   ⟨rBoardLo, 0xfffff800, 1, 4⟩, ⟨rBoardHi, mHi, 1, 4⟩, ⟨rLateMem, 0, 6, 4⟩, ⟨rCtxIrqCfg, mIrq, 1, 4⟩, ⟨rCtxIrq, 0, 1, 4⟩,
   ⟨rOvfSel, 0x3f, 1, 4⟩, ⟨rPeerSel, 0xff, 1, 4⟩, ⟨rPeerEnt, 0xc01fffff, 1, 4⟩, ⟨rPeerLast, 0, 1, 4⟩, ⟨rOrdSel, 0xff, 1, 4⟩,
   ⟨rOrdMode, 7, 1, 4⟩, ⟨rRlat, mAll, 1, 4⟩, ⟨rRuleWait, 0xfffff, 1, 4⟩, ⟨rReplayStep, mAll, 1, 4⟩]

/-- The stored registers of OBS, SAF and DBG, and of the context pages. -/
def rowsD : List RegRow :=
  [⟨rObsCtxSel, 0xff, 1, 4⟩, ⟨rObsLevel, 3, 1, 4⟩, ⟨rLringLo, mLo, 1, 4⟩, ⟨rLringHi, mHi, 1, 4⟩, ⟨rLcfg, 0x8000000f, 1, 4⟩,
   ⟨rTrcCfg, 0x3ffff, 1, 4⟩, ⟨rTrcFlush, 0xffff, 1, 4⟩, ⟨rTrcRoute, 0xfffffff, 1, 4⟩, ⟨rTrigCfg, 0xf03fff1f, 1, 4⟩,
   ⟨rTrigThrLo, mAll, 1, 4⟩, ⟨rTrigThrHi, 0xffff, 1, 4⟩, ⟨rTrigCount, 0, 2, 4⟩, ⟨rObsIrqCfg, mIrq, 1, 4⟩, ⟨rObsIrq, 0, 1, 4⟩,
   ⟨rBuf, 0xe000001f, 4, 64⟩, ⟨rBuf + 0xc, mLo, 4, 64⟩, ⟨rBuf + 0x10, mHi, 4, 64⟩, ⟨rBuf + 0x14, mAll, 4, 64⟩,
   ⟨rBuf + 0x1c, 0, 4, 64⟩, ⟨rBuf + 0x20, 0, 4, 64⟩, ⟨rAlarmCause, 0, 1, 4⟩, ⟨rWdog, 0x1f, 1, 4⟩, ⟨rSweep, 0x7ff, 1, 4⟩,
   ⟨rTagAge, 0xffff, 1, 4⟩, ⟨rAuditCfg, 0xffff00ff, 1, 4⟩, ⟨rAuditResult, 0, 6, 4⟩, ⟨rStrict, mAll, 8, 4⟩,
   ⟨rLogSel, 0x1fff, 1, 4⟩, ⟨rSafIrqCfg, mIrq, 1, 4⟩, ⟨rSafIrq, 0, 1, 4⟩, ⟨rDbgCfg, 0xc0001f7f, 1, 4⟩,
   ⟨rDbgBaseLo, 0xffff0000, 1, 4⟩, ⟨rDbgBaseHi, mHi, 1, 4⟩, ⟨rDbgAuto, 0x1f, 1, 4⟩, ⟨rDbgSpace, 0xffff, 1, 4⟩,
   ⟨rBlots, 0, 2, 4⟩, ⟨rDbgIrqCfg, mIrq, 1, 4⟩, ⟨rDbgIrq, 0, 1, 4⟩]

/-- The stored registers of a context page, by page offset (R422). -/
def rowsPage : List RegRow :=
  [⟨4, 0x3f, 1, 4⟩, ⟨0x200, 0xffff, 1, 4⟩, ⟨0x20c, 0xffff, 1, 4⟩, ⟨0x404, 0x3ff, 1, 4⟩, ⟨0x418, 0x3fff, 1, 4⟩,
   ⟨0x800, 0x3f, 1, 4⟩, ⟨0x814, 0xffff, 1, 4⟩]

/-- The RW mask of a stored register in a list of rows. -/
def rowMask (rows : List RegRow) (off : Nat) : Option Nat :=
  (rows.find? (fun r => r.off ≤ off && off < r.off + r.n * r.step && (off - r.off) % r.step == 0)).map (·.mask)

/-- The RW mask of a stored register below the context pages. -/
def storedMask (off : Nat) : Option Nat :=
  if off < 0x40000 then rowMask rowsA off
  else if off < 0xe0000 then rowMask rowsB off
  else if off < 0x140000 then rowMask rowsC off
  else rowMask rowsD off

/-- The registers that a read clears (RC, R11). -/
def isRc (off : Nat) : Bool :=
  off == rDbBad || (rSq ≤ off && off < 0x25000 && off % 0x100 == 0x30) || off == rEarlyDrop || off == rJntRepair ||
  off == rJntMismatch || off == rJntFaultCount || off == rNoEngine || off == rDlyWaits || (rStaleCmpl ≤ off && off ≤ rEnqRefused) ||
  (rSveCandIn ≤ off && off ≤ rSveRetry) || (rSqtParks ≤ off && off ≤ rSqtNtcWait) || (rDelivered ≤ off && off ≤ rLostPlaced) ||
  (rLateMem ≤ off && off ≤ rOvfDiscard) || off == rTrigCount || off == rLatchLost ||
  (rBuf ≤ off && off < rBuf + 0x100 && (off % 0x40 == 0x1c || off % 0x40 == 0x20)) ||
  (rSweepLate ≤ off && off ≤ rAuditFails) || off == rBlots || off == rDbgDrop

/-! ## Computed registers -/

/-- STATE of CSQ_SQq_STATUS (R255). -/
def QState.num : QState → Nat
  | .disabled => 0 | .idle => 1 | .run => 2 | .wait => 3 | .sleep => 4 | .brk => 5 | .halted => 6

/-- CSQ_SQq_STATUS. -/
def sqStatus (s : Blk) (q : Nat) : Nat :=
  let v := queueOf s q
  let jw := if v.state = .wait then v.jw else none
  put v.state.num 31 29 + put (stallOf s q) 28 25 + put v.stack.length 24 22 + put (b2n jw.isSome) 21 21 +
    put (jw.getD 0) 17 0

/-- CSQ_SQq_PTRS. -/
def sqPtrs (s : Blk) (q : Nat) : Nat := put (queueOf s q).tailNow 31 16 + put (queueOf s q).head 15 0

/-- CSQ_SQq_CPL_PTRS. -/
def cplPtrs (s : Blk) (q : Nat) : Nat := put (queueOf s q).cplHead 31 16 + put (queueOf s q).cplTail 15 0

/-- CSQ_BRK_STAT (R248, R249, R254). HIT and DRAINED fall at RESUME; the fields of the last break stay. -/
def brkStat (s : Blk) : Nat :=
  let busy := (Store.vals s.tsk.tasks).any (fun t => t.ctx == s.csq.brkCtx && t.state == .issued)
  let drained := s.csq.brkHit && s.csq.brkMode && !busy
  put (b2n s.csq.brkHit) 31 31 + put (b2n drained) 30 30 + put s.csq.brkComp 25 24 + put s.csq.brkQueue 21 16 +
    put s.csq.brkCtx 15 8

/-- A register of submission queue q that is computed. -/
def readSq (s : Blk) (q off : Nat) : Option Nat :=
  let v := queueOf s q
  if off = 0x14 then some (sqStatus s q)
  else if off = 0x18 then some (v.pc % 2 ^ 32)
  else if off = 0x1c then some (v.pc / 2 ^ 32)
  else if off = 0x24 then some 0
  else if off = 0x28 then some v.backj
  else if off = 0x2c then some v.joints.length
  else if off = 0x34 then some (sqPtrs s q)
  else if off = 0x38 then some (cplPtrs s q)
  else if 0x40 ≤ off && off < 0x60 then some (rg s (sqReg q off))
  else if 0x80 ≤ off then
    let x := (scratch v ((off - 0x80) / 8)).toNat
    some (if off % 8 = 0 then x % 2 ^ 32 else x / 2 ^ 32)
  else none

/-- BLK and CFG (R80, R418, R419). -/
def readBlkCfg (s : Blk) (off : Nat) : Option Nat :=
  if off = 0x0 then some 0x514d4e53
  else if off = 0x4 then some 0x00030001
  else if off = 0x8 then some 0x00020001
  else if off = 0xc then some 0x00030001
  else if off = 0x10 then some (s.cfg.ready % 2 ^ 16)
  else if 0x14 ≤ off && off ≤ 0x20 then some (whyWord s ((off - 0x14) / 4))
  else if off = rBlkDie then some (if s.cfg.dieValid then 2 ^ 31 + shownDie s else 0)
  else if off = rBlkKey then
    some (put (b2n s.cfg.signed) 1 1 + put (b2n (!s.cfg.low && s.cfg.keyhash ≠ 0)) 0 0)
  else if off = 0x100 then some (irqPend s)
  else if off = 0x118 then some s.iss.ceil
  else if off = 0x120 then some (s.time.last % 2 ^ 32)
  else if off = 0x124 then some (s.time.last / 2 ^ 32)
  else if off = rCfgStatus then
    let st := match s.cfg.phase with
      | .image _ => 1 | .verified => 3 | .done => 4 | .failed => 5 | _ => 0
    some (put st 31 28 + put (if s.cfg.phase = .failed then s.cfg.code else 0) 7 0)
  else if off = rCfgNvm then
    some (put (b2n s.cfg.sfdp) 31 31 + put (b2n s.cfg.mode.2.2) 13 13 + put s.cfg.mode.2.1 12 8 + put s.cfg.mode.1 7 0)
  else if off = 0x10020 then some 0
  else if rCfgDigest ≤ off && off ≤ 0x1006c then some (fld (BitVec.ofNat 384 s.cfg.digest) (8 * (off - rCfgDigest) + 31)
    (8 * (off - rCfgDigest)))
  else none

/-- The global registers of CSQ (R254). -/
def readCsq (s : Blk) (off : Nat) : Option Nat :=
  if rSq ≤ off && off < 0x25000 then readSq s ((off - rSq) / 0x100) (off % 0x100)
  else if off = 0x20000 then
    some (put (b2n (csqActive s)) 31 31 + put ((Store.vals s.csq.queues).filter (fun v => v.state ≠ .disabled)).length 6 0)
  else if off = rDbBad then some (rg s rDbBad)
  else if off = 0x2002c || off = 0x20030 then
    let b := if off = 0x2002c then 0 else 32
    some (((List.range 32).map (fun i => if (queueOf s (b + i)).state = .halted then 2 ^ i else 0)).foldl (· + ·) 0)
  else if off = rBrkStat then some (brkStat s)
  else if off = 0x20144 then some 0
  else none

/-- GST, TSK and JNT (R119 to R121). TSK_REFILL_WANT shows the launch that first came to want a refill; R120 does not say whether the
oldest is meant by that or by launch order (DESIGN CHOICE, assumption 17). -/
def readGraph (s : Blk) (off : Nat) : Option Nat :=
  let tid := rgf s rGstTidSel 11 0
  let c := rgf s rTskCtxSel 7 0
  if off = 0x4000c then some 0
  else if off = 0x40018 then some (runTotal (gstFree s))
  else if off = 0x4001c then some (runMax (gstFree s))
  else if off = 0x40024 then
    some (put (b2n (curGen s tid).isSome) 31 31 + put (resident s tid).length 19 16 +
      put (((curGen s tid).map (·.gen)).getD 0) 15 0)
  else if off = 0x40028 then some (((Store.vals s.tsk.launches).filter (fun l => (pinOf l tid).isSome)).length)
  else if off = 0x50000 then some (runTotal s.tsk.freeSlots)
  else if off = 0x50004 then some (runMax s.tsk.freeSlots)
  else if off = 0x50008 then some s.tsk.launches.length
  else if off = 0x50014 then some (ctxUsed s c)
  else if off = 0x50018 then some s.tsk.early.length
  else if off = 0x50024 then
    let ws := s.tsk.launches.filterMap (fun p => p.2.wantRefill.map (fun n => (n, p.1, p.2.ctx)))
    match ws with
    | [] => some 0
    | w :: r =>
      let o := r.foldl (fun b x => if x.1 < b.1 then x else b) w
      some (2 ^ 31 + put o.2.2 19 12 + put o.2.1 11 0)
  else if off = 0x60000 then some (runTotal s.tsk.freeJoints)
  else if off = 0x60004 then some (runMax s.tsk.freeJoints)
  else none

/-- RDY_HEADc (R157). -/
def rdyHead (s : Blk) (c : Nat) : Nat :=
  match readyOf s c with
  | [] => 0
  | p :: _ => 2 ^ 31 + put p.2.level 29 24 + put p.1 16 0

/-- RDY_LVL_LOc and RDY_LVL_HIc as one number. -/
def rdyLevels (s : Blk) (c : Nat) : Nat := ((readyOf s c).map (fun p => p.2.level)).eraseDups.foldl (fun a l => a + 2 ^ l) 0

/-- The earliest release time held (R158); all ones while none is. -/
def dlyNext (s : Blk) : Nat := (s.iss.dly.map (·.release)).foldl min (2 ^ 64 - 1)

/-- ISS_ENG_CREDIT of an engine (R159). -/
def engCredit (s : Blk) (e : Nat) : Nat :=
  if engMasked s e then 2 ^ 31
  else put (b2n (isReserve s e)) 30 30 + put (occ s e 3) 23 18 + put (occ s e 2) 17 12 + put (occ s e 1) 11 6 +
    put (occ s e 0) 5 0

/-- CODE and ENGINE of the newest entry of a unit log, with its context (R390). -/
def errLast (s : Blk) (unit : Nat) : Nat × Nat × Nat :=
  match (logOf s unit).newest with
  | none => (0, 0, 0)
  | some e => (e.code, e.ctx.getD 0, if e.detail.testBit 63 || e.code = 0x20 then 0 else e.detail >>> 64 % 2 ^ 12)

/-- The ring or send channel that the newest entry of the Exchange's log concerns: DETAIL names one for 0x10 to 0x18 (R392). -/
def xchErrIndex (s : Blk) : Nat :=
  match (logOf s uXch).newest with
  | some e => if 0x10 ≤ e.code ∧ e.code ≤ 0x18 then e.detail >>> 96 else 0
  | none => 0

/-- RDY, DLY and ISS (R157 to R159). -/
def readIssue (s : Blk) (off : Nat) : Option Nat :=
  if 0x80000 ≤ off && off < 0x80010 then some (readyOf s ((off - 0x80000) / 4)).length
  else if 0x80010 ≤ off && off < 0x80020 then some (rdyHead s ((off - 0x80010) / 4))
  else if 0x80020 ≤ off && off < 0x80040 then
    let x := rdyLevels s ((off - 0x80020) / 8)
    some (if off % 8 = 0 then x % 2 ^ 32 else x / 2 ^ 32)
  else if off = 0x80040 then some (s.tsk.seqNext % 2 ^ 32)
  else if off = 0x80044 then some (s.tsk.seqNext / 2 ^ 32)
  else if off = 0x81004 then some s.iss.dly.length
  else if off = 0x81008 then some (dlyWaiters s).length
  else if off = 0x81010 then some (dlyNext s % 2 ^ 32)
  else if off = 0x81014 then some (dlyNext s / 2 ^ 32)
  else if 0x81020 ≤ off && off < 0x81040 then
    some (s.iss.dly.filter (fun d => d.lst == (off - 0x81020) / 4)).length
  else if off = 0xa0020 then some s.iss.tokens
  else if off = 0xa0028 then some (engCredit s (rgf s rEngSel 11 0))
  else if off = 0xa004c then
    let e := errLast s uIss
    some (put e.1 31 24 + put e.2.2 11 0)
  else none

/-- The computed registers of SVE (R196, R197). -/
def readSve (s : Blk) (off : Nat) : Option Nat :=
  if off = 0xc0010 then some 0
  else if off = 0xc0034 then some (put (openScopes s).length 26 16 + put s.sve.runs.length 10 0)
  else if off = 0xc0038 then some (laneFree s)
  else if off = 0xc003c then some (8192 - (rowsUsed s).length)
  else if off = 0xc0074 then
    let e := errLast s uSve
    some (put e.1 31 24 + put e.2.1 23 16 + put e.2.2 11 0)
  else if rSet ≤ off && off < rSet + 0x400 && off % 0x40 = 0x28 then some (setLive s ((off - rSet) / 0x40))
  else none

/-- The computed registers of SQT (R219, R220). -/
def readSqt (s : Blk) (off : Nat) : Option Nat :=
  let c := rgf s rSqtCtxSel 7 0
  let v := sqtOf s c
  if off = 0xe0000 then some (65536 - s.sqt.ents.length)
  else if off = 0xe0108 then some (seqsOf s c).length
  else if off = 0xe0134 then some v.stepCnt
  else if off = 0xe0138 then some (put (b2n v.course.isSome) 2 2 + put (b2n v.ntcFull) 1 1 + put (b2n v.reqFault) 0 0)
  else none

/-- The computed registers of XCH (R283). -/
def readXch (s : Blk) (off : Nat) : Option Nat :=
  if off = 0x10000c then some (put (b2n (windowOpen s)) 31 31 + put s.xch.epoch 0 0)
  else if off = 0x100010 then some (put (outAll s) 28 16 + put (outReserved s) 9 0)
  else if off = 0x100014 then some (holdUsed s)
  else if off = 0x100024 then some (slotOf s (rgf s rXchCtxSel 7 0)).handles
  else if off = rXchErr then
    let e := errLast s uXch
    some (put e.1 31 24 + put e.2.1 23 16 + put (xchErrIndex s) 13 0)
  else none

/-- CTX_STATE (R334). -/
def ctxState (s : Blk) (c : Nat) : Nat :=
  let v := slotOf s c
  put v.state.num 31 28 + put (b2n v.rpend) 27 27 + put (b2n v.forced) 26 26 +
    put (b2n (s.ctx.ovf.any (fun r => r.ctx == c))) 25 25 + put v.code 15 8 + put v.gen 7 0

/-- CTX_LEASE_LEFT (R309). -/
def leaseLeft (s : Blk) (c : Nat) : Nat :=
  match (slotOf s c).leaseEnd with
  | some e => if ctxSt s c == .opened then e - now s else 0
  | none => 0

/-- The computed registers of CTX (R302, R334 to R336). -/
def readCtx (s : Blk) (off : Nat) : Option Nat :=
  let c := rgf s rCtxSel 7 0
  let o := rgf s rOrdSel 7 0
  let v := slotOf s o
  let tick := if isRuled s o then v.tick else 0
  let rec_ := s.ctx.ovf.find? (fun r => r.idx == rgf s rOvfSel 5 0)
  if off = 0x120004 then some (ctxState s c)
  else if off = 0x120008 then some 0
  else if off = 0x12000c then some (ctxGen s c)
  else if off = 0x120018 then some (leaseLeft s c % 2 ^ 32)
  else if off = 0x12001c then some (leaseLeft s c / 2 ^ 32)
  else if off = 0x120020 then some (slotOf s c).token
  else if off = 0x120100 then some 0
  else if off = rCtxStatus then
    some (put (b2n (rgb s rCtxStatus 31)) 31 31 + put s.iss.purge.length 26 16 + put s.ctx.ovf.length 6 0)
  else if off = 0x120134 then
    some (match rec_ with
      | some r => 2 ^ 31 + put r.q 29 24 + put r.ctx 23 16 + put r.slot 15 0
      | none => 0)
  else if 0x120140 ≤ off && off < 0x120160 then
    some (match rec_ with
      | some r => leAt r.bytes (off - 0x120140) 4
      | none => 0)
  else if off = 0x120208 then
    some ((s.regs.filter (fun p => p.1 % 0x1000000 == rPeerEnt && bitAt p.2 31)).length)
  else if off = 0x12080c then some (tick % 2 ^ 32)
  else if off = 0x120810 then some (tick / 2 ^ 32)
  else if off = 0x120814 then some (v.tcc % 2 ^ 32)
  else if off = 0x120818 then some (v.tcc / 2 ^ 32)
  else if off = 0x12081c then some (ruleStat s o)
  else if off = 0x120824 then some 0
  else none

/-- OBS_CNTn_CFG: FILT reads 1 for counters 0 to 47, OVF is the counter's (R366). -/
def cntCfg (s : Blk) (n : Nat) : Nat :=
  (rg s (cntReg n) &&& 0xa1ff00ff) + put (b2n (decide (n < 48) || rgb s (cntReg n) 30)) 30 30 +
    put (b2n (Store.getD s.obs.cnt n {}).ovf) 28 28

/-- STATE of OBS_Bb_STAT (R368). -/
def TBufState.num : TBufState → Nat | .off => 0 | .armed => 1 | .post => 2 | .frozen => 3

/-- LIVE and SNAP of a counter: k = 0 LIVE_LO, 1 LIVE_HI, 2 SNAP_LO, 3 SNAP_HI. -/
def cntHalf (s : Blk) (n k : Nat) : Nat :=
  let v := Store.getD s.obs.cnt n {}
  let x := if k < 2 then v.live else v.snap
  if k % 2 = 0 then x % 2 ^ 32 else x / 2 ^ 32

/-- The computed registers of OBS (R366 to R368). -/
def readObs (s : Blk) (off : Nat) : Option Nat :=
  if off < rCnt + 0x800 then
    let n := (off - rCnt) / 0x20
    let o := (off - rCnt) % 0x20
    if o = 0 then some (cntCfg s n)
    else if o ≤ 0x10 then some (cntHalf s n (o / 4 - 1))
    else if o = 0x14 then some 0
    else none
  else if off = 0x140918 then some 0
  else if rBuf ≤ off && off < rBuf + 0x100 then
    let b := (off - rBuf) / 0x40
    let t := bufOf s b
    if off % 0x40 = 4 then some 0
    else if off % 0x40 = 8 then some (put t.state.num 31 30 + put (b2n t.fault) 29 29 + put t.recs.length 11 0)
    else if off % 0x40 = 0x18 then some t.tail
    else none
  else none

/-- FLAGS of a log entry (R391). -/
def LogEnt.flags (e : LogEnt) : Nat :=
  1 + put (b2n e.ctx.isSome) 1 1 + put (b2n e.strict) 2 2 + put (b2n e.alarm) 3 3 + put (b2n e.badPar) 4 4

/-- The 32 bytes of a log entry (R391). -/
def LogEnt.bytes (e : LogEnt) : List Byte :=
  leBytes 8 e.time ++ leBytes 1 e.code ++ leBytes 1 e.unit ++ leBytes 1 (e.ctx.getD 0) ++ leBytes 1 e.ctxGen ++
    leBytes 1 e.flags ++ leBytes 1 0 ++ leBytes 2 e.rep ++ leBytes 16 e.detail

/-- Entry k of a log: 0 FIRST, 1 the newest of the ring, and so on. -/
def ELog.entry (l : ELog) (k : Nat) : Option LogEnt := if k = 0 then l.first else l.ring[k - 1]?

/-- The bytes of an entry; an unused one is zeros. -/
def entryBytes (e : Option LogEnt) : List Byte := match e with | some e => e.bytes | none => List.replicate 32 0#8

/-- The computed registers of SAF (R395). -/
def readSaf (s : Blk) (off : Nat) : Option Nat :=
  let l := logOf s (rgf s rLogSel 12 4)
  if off = 0x160000 then
    some (put (b2n (alarmOn s)) 31 31 + put (b2n (s.saf.monitor && s.saf.selfBad)) 30 30 + put (b2n s.saf.monitor) 29 29 +
      put (b2n s.saf.auditRun.isSome) 28 28)
  else if off = 0x160008 then some 0
  else if off = 0x160034 then some s.mem.retired.length
  else if off = 0x160064 then some (put l.past 31 16 + put (l.first.toList.length + l.ring.length) 4 0)
  else if off = 0x160068 then some 0
  else if 0x160070 ≤ off && off < 0x160090 then
    some (leAt (entryBytes (l.entry (rgf s rLogSel 3 0))) (off - 0x160070) 4)
  else if off = 0x160090 then some (put (errLast s uSaf).1 31 24)
  else none

/-- The computed registers of DBG (R370). -/
def readDbg (s : Blk) (off : Nat) : Option Nat :=
  if off = 0x180000 then some 0
  else if off = 0x180004 then
    some (put (b2n (s.dbg.phase ≠ .idle)) 31 31 + put (b2n s.dbg.held.isSome) 30 30 + put s.dbg.cause 15 8 + put s.dbg.slot 5 0)
  else if off = 0x180024 then some s.dbg.bseq
  else if off = 0x180028 then some s.dbg.moved
  else none

/-! ## Context pages -/

/-- XCH_SCFG of a channel (R284). -/
def scfgWord (v : Chan) : Nat :=
  put (b2n v.en) 31 31 + put (b2n v.reply) 30 30 + put (b2n v.fault) 29 29 + put v.log2 4 0

/-- XCH_SPTRS of a channel. -/
def sptrsWord (v : Chan) : Nat := put v.tail 31 16 + put v.head 15 0

/-- STATE of XCH_RCFG. -/
def RingState.num : RingState → Nat | .free => 0 | .opened => 1 | .closed => 2

/-- XCH_RCFG of a ring (R284). -/
def rcfgWord (v : Ring) : Nat :=
  put v.state.num 31 30 + put v.rgen 29 22 + put (b2n v.reply) 21 21 + put (b2n v.ready) 20 20 + put (b2n v.note) 19 19 +
    put v.log2 18 14 + put v.hcount 13 0

/-- A register of a context page, by page offset (R422). -/
def readPage (s : Blk) (c off : Nat) : Option Nat :=
  let q := rgf s (pageReg c 4) 5 0
  let mine := sqCtx s q == c
  let ch := rgf s (pageReg c 0x404) 9 0
  let v := chanOf s ch
  let myCh := chanCtx s ch == some c
  let g := rgf s (pageReg c 0x418) 13 0
  let r := ringOf s g
  let myRing := ringCtx s g == some c
  let n := rgf s (pageReg c 0x800) 5 0
  let x := sqtOf s c
  let own := fun (b : Bool) (w : Nat) => some (if b then w else 0)
  if off = 0 then some 0
  else if off = 8 then own mine (sqPtrs s q)
  else if off = 0xc then own mine (put (queueOf s q).state.num 6 4 + put (stallOf s q) 3 0)
  else if off = 0x10 then own mine (queueOf s q).cplHead
  else if off = 0x14 then own mine (queueOf s q).cplTail
  else if off = 0x204 then some x.reqHead
  else if off = 0x208 then some x.ntcTail
  else if off = 0x210 then some (residents s c)
  else if off = 0x214 then some (x.nbuilt % 0x8000)
  else if off = 0x400 then some 0
  else if off = 0x408 then own myCh (scfgWord v)
  else if off = 0x40c then own myCh (v.base % 2 ^ 32)
  else if off = 0x410 then own myCh (v.base / 2 ^ 32)
  else if off = 0x414 then own myCh (sptrsWord v)
  else if off = 0x41c then own myRing (rcfgWord r)
  else if off = 0x420 then own myRing (r.base % 2 ^ 32)
  else if off = 0x424 then own myRing (r.base / 2 ^ 32)
  else if off = 0x428 then own myRing (r.ptrAddr % 2 ^ 32)
  else if off = 0x42c then own myRing (r.ptrAddr / 2 ^ 32)
  else if off = 0x430 then some 0
  else if off = 0x434 then own myRing r.rltag
  else if off = 0x438 then own myRing r.wptr
  else if off = 0x600 then some (put (slotOf s c).state.num 31 28 + put (slotOf s c).code 15 8 + put (slotOf s c).gen 7 0)
  else if 0x804 ≤ off && off ≤ 0x810 then own (cntOn s n c) (cntHalf s n ((off - 0x804) / 4))
  else if off = 0x818 then some (Store.getD s.obs.ltail c 0)
  else match rowMask rowsPage off with
    | some _ => some (rg s (pageReg c off))
    | none => none

/-! ## The map -/

/-- The value a register shows, below the diagnostic window; none where no register lies at the offset. -/
def regPlain (s : Blk) (off : Nat) : Option Nat :=
  if off % 4 ≠ 0 then none
  else if rPage ≤ off then (if off < 0x300000 then readPage s ((off - rPage) / 0x1000) (off % 0x1000) else none)
  else match storedMask off with
    | some _ => if off = 0x10018 then some (shownDie s) else some (rg s (selKey s off))
    | none =>
      if off < 0x20000 then readBlkCfg s off
      else if off < 0x40000 then readCsq s off
      else if off < 0x70000 then readGraph s off
      else if off < 0xb0000 then readIssue s off
      else if off < 0xd0000 then readSve s off
      else if off < 0xf0000 then readSqt s off
      else if off < 0x110000 then readXch s off
      else if off < 0x130000 then readCtx s off
      else if off < 0x150000 then readObs s off
      else if off < 0x170000 then readSaf s off
      else readDbg s off

/-- The _LO registers of the pairs whose _HI a read of _LO fixes (R80, R157, R255, R302, R334, R366, R369). -/
def loPair (off : Nat) : Bool :=
  off == 0x120 || (0x80020 ≤ off && off < 0x80040 && off % 8 == 0) || off == 0x80040 || off == 0x81010 ||
  (rSq ≤ off && off < 0x25000 && 0x80 ≤ off % 0x100 && off % 8 == 0) || off == 0x120018 || off == rLeaseLo || off == rBoardLo ||
  off == 0x12080c || off == 0x120814 ||
  (rCnt ≤ off && off < rCnt + 0x800 && (off % 0x20 == 4 || off % 0x20 == 0xc)) || off == rLringLo || off == rTrigThrLo ||
  (rBuf ≤ off && off < rBuf + 0x100 && off % 0x40 == 0xc) || off == rDbgBaseLo ||
  (rPage ≤ off && (off % 0x1000 == 0x804 || off % 0x1000 == 0x80c))

/-- The value a read returns: a _HI whose _LO has been read returns what that read fixed. -/
def regRead (s : Blk) (off : Nat) : Option Nat :=
  match regPlain s off with
  | none => none
  | some v =>
    match Store.get? s.hi off with
    | some w => some w.toNat
    | none => some v

/-- What a read does: a _LO fixes the next value of its _HI, a _HI gives that value up, and an RC register is cleared. -/
def regReadEffect (s : Blk) (off : Nat) : Blk :=
  let s := if loPair off then { s with hi := Store.set s.hi (off + 4) (w32 ((regPlain s (off + 4)).getD 0)) }
    else { s with hi := Store.erase s.hi off }
  if isRc off then wr s off 0 else s

/-- A Register Port read below the diagnostic window (R63 to R65, R408): its outcome and its effect. It waits while an earlier access is
held (R65). -/
def readReg (s : Blk) (off : Nat) (a : Access) : Blk :=
  if !fnReady s 0 || s.ports.diag.isSome then s
  else if !a.parityOk then rgpEnd s rgpParity 0
  else if !a.priv && !unprivOk off false then rgpEnd s rgpPriv 0
  else match regRead s off with
    | none => rgpEnd s rgpNotMapped 0
    | some v => rgpEnd (regReadEffect s off) rgpOk (w32 v)

end Sys2Proof.Machine
end

