-- ==== Sys2Proof/Machine/Blot.lean ====
section
/-! DEFINITION. The Blotter (R358 to R363): finding a slot, the sections and the header of a blot, and the writing of its
lines. The cut takes the value of every entry; an entry is read when the line that it begins in is offered. -/
namespace Sys2Proof.Machine

/-- Write the Blotter. -/
def setDbg (s : Blk) (d : Dbg) : Blk := { s with dbg := d }

/-! ## Sections -/

/-- A word of 4 bytes. -/
def word4 (n : Nat) : List Byte := leBytes 4 n

/-- The value a register shows, 0 where no register lies. -/
def shown (s : Blk) (off : Nat) : Nat := (regPlain s off).getD 0

/-- An entry of STATUS. -/
def entStatus (s : Blk) : List Byte := (List.range 128).flatMap (fun i => word4 (shown s (4 * i)))

/-- Entry k of LOGS: 16 places for each log, of which a context log uses 8 (R391). -/
def entLog (s : Blk) (k : Nat) : List Byte := entryBytes ((logOf s (k / 16)).entry (k % 16))

/-- An entry of QUEUES. -/
def entQueue (s : Blk) (q : Nat) : List Byte :=
  [0x14, 0x34, 0x38, 0x18, 0x1c, 0x20, 0x28, 0x0].flatMap (fun o => word4 (shown s (sqReg q o)))

/-- The entry of HEADS. -/
def entHeads (s : Blk) : List Byte :=
  [0x80010, 0x80014, 0x80018, 0x8001c, 0x80000, 0x80004, 0x80008, 0x8000c, 0x81004, 0x81008, 0x81010, 0x81014, 0xa0020, 0x118,
    0x20000, 0x100010].flatMap (fun o => word4 (shown s o))

/-- An entry of CONTEXTS. -/
def entCtx (s : Blk) (c : Nat) : List Byte :=
  word4 (ctxState s c) ++ word4 (leaseLeft s c) ++ word4 (ctxUsed s c) ++ word4 (ruleStat s c)

/-- An entry of JOINTS; a joint that has been freed since shows zeros. -/
def entJoint (s : Blk) (j : Nat) : List Byte :=
  match Store.get? s.tsk.joints j with
  | some x => word4 x.a.w.bits ++ word4 j ++ word4 x.waiter.bits ++ word4 (x.ctx + put (ctxGen s x.ctx) 15 8)
  | none => leBytes 4 0 ++ word4 j ++ leBytes 8 0

/-- An entry of RINGS: the place of STATE[1] is MOVED's. -/
def entRing (s : Blk) (g : Nat) : List Byte :=
  let v := ringOf s g
  if v.state = .free then leBytes 16 0
  else word4 v.resv ++ word4 v.wptr ++ word4 v.rptr ++ word4 (rcfgWord v % 2 ^ 31)

/-- The word of a tag in the TAGS section (R362). A tag is outstanding from MQ_ACK to MP_ACK (R50). -/
def tagWord (s : Blk) (t : Nat) : Nat :=
  match Store.get? s.mem.out t with
  | some r => put 1 30 30 + put r.qos 29 28 + put (b2n r.write) 27 27 + put (r.ctx.getD 0xff) 7 0
  | none => 0xff

/-- The 8 bytes of an outstanding-table entry in the FABRIC section (R362). A request is outstanding from the FQO_ACK of its last
flit until its ANSWER (R272). -/
def fabEntry (s : Blk) (i : Nat) : Nat :=
  match Store.get? s.xch.out i with
  | some e =>
    if e.phase ≠ .waiting then 0
    else put 1 63 63 + put e.req.body.ty 61 56 + put e.req.dst 52 32 + put e.req.srcCtx 31 24 +
      put (min ((now s - e.since) / 1000) 0xffffff) 23 0
  | none => 0

/-- The bytes of entry k of a section as they stand (R362). -/
def entBytes (s : Blk) (sec k : Nat) : List Byte :=
  match sec with
  | 1 => entStatus s
  | 2 => entLog s k
  | 3 => entQueue s k
  | 4 => entHeads s
  | 5 => entCtx s k
  | 6 => entJoint s k
  | 7 => word4 (engCredit s k)
  | 8 => entRing s k
  | 9 => word4 (sptrsWord (chanOf s k)) ++ word4 (scfgWord (chanOf s k))
  | 10 => word4 (tagWord s k)
  | _ => leBytes 8 (fabEntry s k)

/-- A section: its ID, the bytes of one entry, and its entries' numbers. -/
structure Section where
  id : Nat
  size : Nat
  keys : List Nat

/-- The joints that have a waiter and have not fired. -/
def jointKeys (s : Blk) : List Nat := (s.tsk.joints.filter (fun p => !p.2.a.w.fired)).map Prod.fst

/-- The entries of every log, unused ones too (R391). -/
def logKeys : List Nat := (List.range 272).flatMap (fun n => (List.range (if n < 16 then 16 else 8)).map (16 * n + ·))

/-- The sections of a blot, in ID order (R362). -/
def sectionsOf (s : Blk) (snapshot : Bool) : List Section :=
  [⟨1, 512, [0]⟩, ⟨2, 32, logKeys⟩] ++
    (if snapshot then [⟨3, 32, List.range 64⟩, ⟨4, 64, [0]⟩, ⟨5, 16, List.range 256⟩, ⟨6, 16, jointKeys s⟩, ⟨7, 4, List.range 4096⟩,
      ⟨8, 16, List.range 16384⟩, ⟨9, 8, List.range 1024⟩, ⟨10, 4, List.range 1024⟩, ⟨11, 8, List.range 4096⟩] else [])

/-- The bit of an entry that is MOVED (R362). The rule names it for JOINTS, CREDITS and RINGS, and the one word of TAGS leaves bit 31
to it; an entry of another section that has moved is only counted (DESIGN CHOICE, assumption 33). -/
def movedBit : Nat → Option Nat
  | 6 => some 63 | 7 => some 29 | 8 => some 127 | 10 => some 31 | _ => none

/-- The bytes of an entry with MOVED set. -/
def withMoved (sec : Nat) (bs : List Byte) : List Byte :=
  match movedBit sec with
  | some b => leBytes bs.length (ofLe bs ||| 2 ^ b)
  | none => bs

/-- A section as it is placed: ID, TRUNC, offset, the bytes of an entry, and the entries written. -/
structure Placed where
  id : Nat
  trunc : Bool
  off : Nat
  size : Nat
  keys : List Nat

/-- Lay sections out from an offset in a slot of `size` bytes: the first that does not fit is cut at a whole entry, and those
after it are left out (R362). -/
def layout (size : Nat) : Nat → List Section → List Placed
  | _, [] => []
  | off, x :: r =>
    let room := (size - off) / x.size
    if x.keys.length ≤ room then
      { id := x.id, trunc := false, off, size := x.size, keys := x.keys } :: layout size (off + x.size * x.keys.length) r
    else [{ id := x.id, trunc := true, off, size := x.size, keys := x.keys.take room }]

/-- The 12 bytes of a SECT entry. -/
def sectBytes (p : Placed) : List Byte := leBytes 2 p.id ++ leBytes 2 (b2n p.trunc) ++ leBytes 4 p.off ++ leBytes 4 p.keys.length

/-- The first 64 bytes of the header, with MOVED and TDONE left 0 until the last line is made (R361). -/
def headLine (s : Blk) (r : BlotReq) (nsect bytes : Nat) : List Byte :=
  leBytes 4 0x544f4c42 ++ leBytes 2 1 ++ leBytes 1 1 ++ leBytes 1 r.cause ++ leBytes 4 (shown s 4) ++
    leBytes 4 (shownDie s % 2 ^ 21) ++ leBytes 8 (now s) ++ leBytes 4 (s.dbg.bseq + 1) ++ leBytes 1 r.code ++
    leBytes 1 r.ctx ++ leBytes 2 nsect ++ leBytes 4 0 ++ leBytes 4 bytes ++ leBytes 8 0 ++ leBytes 16 0

/-- The header line with MOVED and TDONE. -/
def withDone (d : Dbg) : List Byte :=
  d.head.take 0x20 ++ leBytes 4 d.moved ++ bytesAt d.head 0x24 4 ++ leBytes 8 d.done ++ d.head.drop 0x30

/-! ## Slots and lines -/

/-- Bytes of a slot: 2^LOG2. -/
def slotSize (s : Blk) : Nat := 2 ^ rgf s rDbgCfg 12 8

/-- The address of a slot. -/
def slotAddr (s : Blk) (i : Nat) : Nat := (rg2 s rDbgBaseLo rDbgBaseHi + i * slotSize s) % 2 ^ 52

/-- The Blotter reads a slot's first line (R358). -/
def blotScan (s : Blk) (i : Nat) : Blk :=
  memRead (setDbg s { s.dbg with phase := .scan i }) (slotAddr s i) 3 none uDbg 0 (.blotScan i)

/-- The Blotter is done with a request: a held one goes next. -/
def blotNext (s : Blk) : Blk :=
  match s.dbg.held with
  | some r => setDbg s { s.dbg with phase := .asked, req := some r, held := none, snap := [], buf := [], left := 0, head := [] }
  | none => setDbg s { s.dbg with phase := .idle, req := none, snap := [], buf := [], left := 0, head := [] }

/-- A blot is not written, or is abandoned (R358, R363): the answers of its lines still out find nobody. -/
def blotDrop (s : Blk) : Blk :=
  let s := mapMem s (fun r => if r.owner = .blotLine then { r with owner := .ignored } else r)
  blotNext (ev0 (orBits (bump s rDbgDrop) rDbgIrq 2) 0x14c)

/-- The first line of slot i has been read: it is free where its VALID byte reads 0 (R358). -/
def blotScanned (s : Blk) (i : Nat) (d : Option Line) : Blk :=
  if s.dbg.phase ≠ .scan i then s
  else match d with
    | none => blotDrop s
    | some l =>
      if fld l 55 48 = 0 then setDbg s { s.dbg with phase := .found i }
      else if i + 1 < rgf s rDbgCfg 6 0 then blotScan s (i + 1)
      else blotDrop s

/-- A line of the blot is offered at QoS 11 (R363). -/
def blotOffer (s : Blk) (a : Nat) (d : Line) (o : MemOwner) : Blk :=
  memReq s { write := true, addr := a % 2 ^ 52, first := a % 2 ^ 52, be := beOf 0 64, data := d, qos := 3, ctx := none,
             unit := uDbg, index := 0, owner := o }

/-- The cut (R360): the value of every entry as it stands. Bytes 64 to 255 of the header are ready to be written. -/
def blotCut (s : Blk) (i : Nat) (r : BlotReq) : Blk :=
  let s := if r.snapshot then ev0 s 0x14d else s
  let ps := layout (slotSize s) 256 (sectionsOf s r.snapshot)
  let bytes := 256 + ((ps.map (fun p => p.size * p.keys.length)).foldl (· + ·) 0)
  let ent := fun (p : Placed) k =>
    let v := entBytes s p.id k
    { sec := p.id, key := k, val := v, seen := v : SnapEnt }
  setDbg s { s.dbg with phase := .body i, cause := r.cause, slot := i, head := headLine s r ps.length bytes,
                        snap := ps.flatMap (fun p => p.keys.map (ent p)), buf := bytesAt (ps.flatMap sectBytes) 0 192,
                        nextLine := 64, left := 0, moved := 0, done := 0, cutAt := now s }

/-- Places of the shadow: entries updated since the cut whose value at it is kept (R360). -/
def shadowUsed (es : List SnapEnt) : Nat := (es.filter (fun e => e.mark == .shadowed)).length

/-- An entry of which an update has been seen: the first one keeps its value at the cut while the shadow has room (R360). -/
def noteEnt (used : Nat) (v : List Byte) (e : SnapEnt) : Nat × SnapEnt :=
  if v = e.seen then (used, e)
  else if e.mark = .still then
    if used < 2048 then (used + 1, { e with seen := v, mark := .shadowed }) else (used, { e with seen := v, mark := .moved })
  else (used, { e with seen := v })

/-- The entries not read yet, after an update of the block. -/
def noteEnts (f : Nat → Nat → List Byte) : Nat → List SnapEnt → List SnapEnt
  | _, [] => []
  | used, e :: r =>
    let (used, e) := noteEnt used (f e.sec e.key) e
    e :: noteEnts f used r

/-- After every update the Blotter knows which of the entries it has still to read have changed (R360). Values that only follow wall time
are no updates: they are compared at the time of the cut. Of the entries that one update changes, the first in section order
take the places of the shadow (DESIGN CHOICE, assumption 33). -/
def blotTrack (s : Blk) : Blk :=
  match s.dbg.snap with
  | [] => s
  | es =>
    let t := { s with time := { s.time with last := s.dbg.cutAt } }
    setDbg s { s.dbg with snap := noteEnts (entBytes t) (shadowUsed es) es }

/-- The bytes that the blot records for an entry as it is read (R360), and whether MOVED is set in it. -/
def readEnt (s : Blk) (e : SnapEnt) : List Byte × Bool :=
  if e.mark = .moved then (withMoved e.sec (entBytes s e.sec e.key), true) else (e.val, false)

/-- The Blotter reads entries, in order, until a line can be made or none is left. -/
def blotRead (s : Blk) : List SnapEnt → Dbg → Dbg
  | [], d => { d with snap := [] }
  | e :: r, d =>
    if d.buf.length ≥ 64 then { d with snap := e :: r }
    else
      let x := readEnt s e
      blotRead s r { d with buf := d.buf ++ x.1, moved := d.moved + b2n x.2 }

/-- The pacing of R363 lets a line go. -/
def blotPaced (s : Blk) : Bool :=
  let ns := rgf s rDbgSpace 15 0
  ns == 0 || (s.time.usable && decide (now s ≥ s.dbg.lastLine + ns))

/-- BLOT_WRITE: the Blotter's next move (R358, R361, R363). -/
def blotWrite (s : Blk) : Blk :=
  match s.dbg.phase with
  | .idle => s
  | .asked => if rgb s rDbgCfg 31 then blotScan s 0 else blotDrop s
  | .scan _ => s
  | .found i =>
    match s.dbg.req with
    | some r => blotCut s i r
    | none => s
  | .body i =>
    if !blotPaced s then s
    else
      let d := blotRead s s.dbg.snap s.dbg
      if d.buf.isEmpty then
        if d.left = 0 then
          blotOffer (setDbg s { d with phase := .head i, lastLine := now s }) (slotAddr s i) (lineOf 0 (withDone d)) .blotHead
        else s
      else
        let t := setDbg s { d with buf := d.buf.drop 64, nextLine := d.nextLine + 64, left := d.left + 1, lastLine := now s }
        blotOffer t (slotAddr s i + d.nextLine) (lineOf 0 (d.buf.take 64)) .blotLine
  | .head _ => s

/-- A line of a blot has been written, or its write has faulted (R361, R363). TDONE is the time at which the last of them has
been written. -/
def blotLineDone (s : Blk) (ok : Bool) : Blk :=
  match s.dbg.phase with
  | .body _ => if ok then setDbg s { s.dbg with left := s.dbg.left - 1, done := now s } else blotDrop s
  | _ => s

/-- The header line has been written: the blot is complete. -/
def blotHeadDone (s : Blk) (ok : Bool) : Blk :=
  match s.dbg.phase with
  | .head _ =>
    if ok then
      let s := setDbg s { s.dbg with bseq := (s.dbg.bseq + 1) % 2 ^ 32 }
      blotNext (ev0 (orBits (bump s rBlots) rDbgIrq 1) 0x14b)
    else blotDrop s
  | _ => s

end Sys2Proof.Machine
end

