-- ==== Sys2Proof/Machine/Diag.lean ====
section
/-! DEFINITION. What the diagnostic window shows (R423, R424): the stores, the size of an entry of each, and its bytes as a
number. The places that the manual leaves to the block are those of assumption 12. -/
namespace Sys2Proof.Machine

/-- A receive-ring descriptor: base, pointer-block address, RESV, WPTR, RPTR copy, XCH_RCFG. -/
def dgRing (v : Ring) : Nat :=
  put v.base 63 0 + put v.ptrAddr 127 64 + put v.resv 159 128 + put v.wptr 191 160 + put v.rptr 223 192 +
    put (rcfgWord v) 255 224

/-- A send channel: base, XCH_SCFG, XCH_SPTRS, MSEQ, SENDs unanswered. -/
def dgChan (v : Chan) : Nat :=
  put v.base 63 0 + put (scfgWord v) 95 64 + put (sptrsWord v) 127 96 + put v.mseq 159 128 + put v.unanswered 163 160

/-- A delay entry: release time, slot, list, held. -/
def dgDelay (d : DlyEntry) : Nat := put d.release 63 0 + put d.slot 80 64 + put d.lst 90 88 + put 1 95 95

/-- A joint: copy A, then copy B. -/
def dgJoint (x : Joint) : Nat := put x.a.w.bits 31 0 + put x.b.w.bits 63 32

/-- A Sequence Table entry with its PRSN. -/
def dgSeq (v : SeqEnt) : Nat := entFull v + put v.prsn 386 384

/-- A home-map row: bit h for home h. -/
def dgRow (k : XTask) : Nat := (k.homes.map Prod.fst).eraseDups.foldl (fun a h => a ||| 2 ^ h) 0

/-- The expert task that holds a home-map row, with its scope. -/
def rowTask (s : Blk) (row : Nat) : Option (XScope × XTask) :=
  (Store.vals s.sve.scopes).findSome? (fun x => (x.tasks.find? (fun k => k.row == some row)).map (fun k => (x, k)))

/-- A place in a lane: the run, the token and the candidate that stands there. -/
structure LanePlace where
  run : Nat
  tok : Nat
  cand : Cand

/-- What stands at an entry of a lane. Runs take their shares in the order of their records, and a token's candidates their
order of selection (assumption 12). -/
def lanePlace (s : Blk) (lane entry : Nat) : Option LanePlace :=
  let at_ := fun (acc : Nat × Option (Nat × Run)) (p : Nat × Run) =>
    match acc.2 with
    | some _ => acc
    | none => if entry < acc.1 + p.2.share then (entry - acc.1, some p) else (acc.1 + p.2.share, none)
  match s.sve.runs.foldl at_ (0, none) with
  | (off, some (i, r)) =>
    let keep := setKeep s r.set
    let tok := r.home * 2 ^ setHshift s r.set + off / keep
    let mine := (sortBy candLe (Store.getD r.toks tok {}).kept).filter (fun c => c.expert % 16 == lane)
    (mine[off % keep]?).map (fun c => { run := i, tok, cand := c })
  | _ => none

/-- A sieve lane entry. -/
def dgLane (p : LanePlace) : Nat :=
  put (p.cand.key % 2 ^ 35).toNat 34 0 + put p.cand.expert 50 35 + put p.tok 65 51 + put p.run 75 66 + put 1 127 127

/-- The entries of a store of the window, and the bytes of one (R424). -/
def dgShape (st : Nat) : Nat × Nat :=
  match st with
  | 0x01 => (393216, 32) | 0x02 => (131072, 64) | 0x03 => (262144, 8) | 0x04 => (262144, 4) | 0x05 => (65536, 64)
  | 0x06 => (16384, 16) | 0x07 => (262144, 8) | 0x08 => (262144, 16) | 0x09 => (8192, 32) | 0x0a => (16384, 32)
  | 0x0b => (1024, 32) | 0x0c => (4096, 32) | 0x0d => (8192, 32) | 0x0e => (4352, 32) | 0x0f => (4096, 8)
  | 0x10 => (1024, 4) | _ => (0, 4)

/-- The content of entry e of a store of the window (R424). -/
def dgEntry (s : Blk) (st e : Nat) : Nat :=
  match st with
  | 0x01 => (Store.getD s.tsk.recs e 0).toNat
  | 0x02 => ((taskOf s e).map (fun t => (taskLine t).toNat)).getD 0
  | 0x03 => ((jointOf s e).map dgJoint).getD 0
  | 0x04 => ((jointOf s e).map (fun x => x.waiter.bits)).getD 0
  | 0x05 => ((seqAt s e).map dgSeq).getD 0
  | 0x06 => ((s.iss.dly.find? (fun d => d.idx == e)).map dgDelay).getD 0
  | 0x07 => (Store.getD s.sve.xt e 0).toNat
  | 0x08 => ((lanePlace s (e / 16384) (e % 16384)).map dgLane).getD 0
  | 0x09 => ((rowTask s e).map (fun p => dgRow p.2)).getD 0
  | 0x0a => dgRing (ringOf s e)
  | 0x0b => dgChan (chanOf s e)
  | 0x0c => ((s.tsk.early[e]?).map (fun x => x.flit.toNat)).getD 0
  | 0x0d => (((bufOf s (e / 2048)).recs[e % 2048]?).map (fun w => w.toNat)).getD 0
  | 0x0e => ofLe (entryBytes ((logOf s (e / 16)).entry (e % 16)))
  | 0x0f => fabEntry s e
  | 0x10 => tagWord s e
  | _ => 0

/-- The store shown (R423). -/
def diagStore (s : Blk) : Nat := rgf s rDiagSel 4 0

/-- The entry and the word in it that a window offset names; none past the last entry, and none while no store is shown. -/
def diagPlace (s : Blk) (off : Nat) : Option (Nat × Nat) :=
  let (n, size) := dgShape (diagStore s)
  if off % 4 = 0 && off / size < n then some (off / size, off % size / 4) else none

/-- The word at a place of the store shown. -/
def diagWord (s : Blk) (e w : Nat) : Nat := dgEntry s (diagStore s) e >>> (32 * w) % 2 ^ 32

/-- A word has been corrected (R371). -/
def wordFixed (s : Blk) : Blk := ev0 (bump s rCorr) 0x14e

/-- A word has been found unrecoverable (R371). -/
def wordLost (s : Blk) : Blk := ev0 (bump s rUncorr) 0x14f

/-! ## Graph Store words -/

/-- The generation whose image a Graph Store record came from. -/
def genOfRec (s : Blk) (e : Nat) : Option Gen := s.tsk.gens.find? (fun g => decide (g.base ≤ e ∧ e < g.base + g.nrec))

/-- Word w of record e is rewritten. -/
def putRecWord (s : Blk) (e w v : Nat) : Blk :=
  { s with tsk := { s.tsk with recs := Store.put 0 s.tsk.recs e (setFld (Store.getD s.tsk.recs e 0) (32 * w + 31) (32 * w) v) } }

/-- A Graph Store word is unrecoverable (R372, ID 0x01). A read that belongs to no operation of a context is logged in the
log of GST; for one that an operation reads, the operation fails when it does. The word takes a free value, since the outcome
implies none (assumption 13). -/
def graphLost (s : Blk) (e w : Nat) (replayed : Bool) : Blk :=
  let s := if s.tsk.wanted.contains e then
      { wordLost s with tsk := { s.tsk with wanted := s.tsk.wanted.erase e, lost := s.tsk.lost ++ [(e, w, replayed)] } }
    else unitFault (wordLost s) uGst 0x20 none (wordDetail 1 w e replayed 0)
  let (v, s) := draw s
  putRecWord s e w v

/-- A Graph Store word fails parity: its line is read again at QoS 00 from the image (R372, R374). -/
def graphReread (s : Blk) (e w : Nat) : Blk :=
  match genOfRec s e with
  | some g => memRead s ((g.image + 32 * (e - g.base)) % 2 ^ 52) 0 none uGst e (.graphReplay e w)
  | none => graphLost s e w false

/-- The window read that waits for word w of record e is answered (R425). -/
def diagGraphEnd (s : Blk) (e w : Nat) (ok : Bool) : Blk :=
  match s.ports.diag with
  | some (off, _) =>
    if diagStore s = 1 && diagPlace s off = some (e, w) then
      let s := { s with ports := { s.ports with diag := none } }
      if ok then rgpEnd s rgpOk (w32 (diagWord s e w)) else rgpEnd s rgpStoreError 0
    else s
  | none => s

/-- The line of a Graph Store word has been read again. GEN of a header is the block's own, and not in the image (R82). -/
def graphReplayed (s : Blk) (e w : Nat) (d : Option Line) : Blk :=
  match d, genOfRec s e with
  | some l, some g =>
    let img : Word256 := BitVec.ofNat 256 (fld l (256 * ((e - g.base) % 2) + 255) (256 * ((e - g.base) % 2)))
    let img := if e = g.base then setFld img 31 16 g.gen else img
    let s := { s with tsk := { s.tsk with wanted := s.tsk.wanted.erase e } }
    diagGraphEnd (putRecWord (wordFixed s) e w (fld img (32 * w + 31) (32 * w))) e w true
  | _, _ => diagGraphEnd (graphLost s e w true) e w false

/-- The initialiser of a store of the window (R397). -/
def diagInit (st : Nat) : InitStore :=
  match st with
  | 0x01 => .graph | 0x02 => .taskTable | 0x03 => .joints | 0x04 => .joints | 0x05 => .seqTable | 0x06 => .readyDelay
  | 0x07 => .expertTable | 0x08 => .lanes | 0x09 => .homeMap | 0x0a => .rings | 0x0d => .trace | 0x0e => .safLogs
  | 0x10 => .tags | _ => .other

end Sys2Proof.Machine
end

