-- ==== Sys2Proof/Machine/MemResp.lean ====
section
/-! DEFINITION. Responses of the Memory Port (R50 to R55): discards, repeated offers, abandonment, the fault code of each
purpose, and what each owner does with its answer. -/
namespace Sys2Proof.Machine

/-- The response completes the transaction, or faults it without a repeated offer (R52). -/
def respFaults (status : Nat) : Bool := status == 1 || status == 4

/-- The fault code that R53 gives for an owner's purpose; none where the owner records it itself, or nothing does. -/
def ownerCode : MemOwner → Option Nat
  | .cplRecord _ _ _ _ | .cplReplay _ => some 0x10
  | .gstLine _ | .xtLine _ => some 0x11
  | .csqLoad _ _ | .csqStore _ _ => some 0x12
  | .ringWrite _ _ | .ringPtr _ _ | .ringRefresh _ _ => some 0x13
  | .spillLine _ _ | .refillLine _ _ => some 0x14
  | .park _ | .restore _ | .reqRead _ | .notice _ | .courseLine _ | .resultLine _ _ => some 0x15
  | .sendRec _ _ _ | .payload _ _ _ _ | .status _ _ _ | .allocRead _ _ _ | .freeWrite _ _ _ | .handleWrite _ _ _ => some 0x16
  | .board _ => some 0x17
  | .latchRec _ | .drain _ _ | .blotScan _ | .blotLine | .blotHead => some 0x18
  | .fetch _ _ _ | .listHeader _ _ | .listRecord _ _ | .graphReplay _ _ | .orphaned | .ignored => none

/-- Record the fault of a purpose: against the owning context, in the SAF error log for drains and blots, else in the log of
the unit (R53). -/
def purposeFault (s : Blk) (r : MemReq) (code tag status : Nat) : Blk :=
  let d := memDetail r tag status
  let s := if code = 0x15 then orBits s rSqtIrq 2 else s
  match r.ctx with
  | some c => ctxFault s c r.unit code d
  | none => if code = 0x18 then safFault s r.unit code d false else unitFault s r.unit code none d

/-- The fault of an owner whose request has faulted, where its purpose has a code. -/
def ownerFault (s : Blk) (r : MemReq) (tag status : Nat) : Blk :=
  match ownerCode r.owner with
  | some code => purposeFault s r code tag status
  | none => s

/-! ## Images -/

/-- A line of an INSTALL or PATCH image has been answered (R441). -/
def gstLine (s : Blk) (i : Nat) (d : Option Line) : Blk :=
  match s.tsk.job with
  | none => s
  | some j =>
    let j := { j with left := j.left - 1, lines := match d with | some l => Store.set j.lines i l | none => j.lines }
    if j.left > 0 then { s with tsk := { s.tsk with job := some j } }
    else
      let (code, gen, s) := gstEnd s j (j.lines.length == cdiv j.nrec 2)
      let s := wakeUnits s
      match j.patch with
      | some q => patchDone s q code gen
      | none => s

/-- A line of an Expert Table load has been answered; at its end, what waits for the load tries again (R162). -/
def xtAnswered (s : Blk) (i : Nat) (d : Option Line) : Blk :=
  let s := xtLine s i d
  if s.sve.xtJob.isNone then wakeUnits s else s

/-! ## Latch records -/

/-- Latch records of a context's ring whose writes are all answered advance OBS_PG_LTAIL, in order (R346). -/
def latchAdvance (c : Nat) : Nat → Blk → Blk
  | 0, s => s
  | n + 1, s =>
    match s.obs.latch.find? (fun j => j.ctx == c && j.queue.isNone) with
    | some j =>
      if j.left = 0 then
        let t := (Store.getD s.obs.ltail c 0 + 1) % 65536
        let s := { s with obs := { s.obs with latch := s.obs.latch.filter (fun k => k.id ≠ j.id),
                                              ltail := Store.put 0 s.obs.ltail c t } }
        latchAdvance c n (ev s 0x148 c)
      else s
    | none => s

/-- The latch ring of a context faults (R346): its records in progress are lost with those not begun. -/
def latchRingFault (s : Blk) (c : Nat) : Blk :=
  let s := latchFault s c
  let stop := fun (j : LatchJob) =>
    if j.ctx = c && j.queue.isNone then { j with lines := [], left := j.left - j.lines.length, failed := true } else j
  let js := s.obs.latch.map stop
  let lost := fun (j : LatchJob) => j.ctx == c && j.queue.isNone && j.left == 0
  let n := (js.filter lost).length
  evN (bumpN { s with obs := { s.obs with latch := js.filter (fun j => !lost j) } } rLatchLost n) 0x149 (some c) n

/-- A line of a latch record has been answered (R344, R346). -/
def latchAnswered (s : Blk) (id : Nat) (ok : Bool) : Blk :=
  let s := { s with obs := { s.obs with tags := s.obs.tags - 1 } }
  match s.obs.latch.find? (fun j => j.id == id) with
  | none => s
  | some j =>
    let j := if ok then { j with left := j.left - 1 }
      else { j with lines := [], left := j.left - j.lines.length - 1, failed := true }
    let put_ := fun (s : Blk) =>
      { s with obs := { s.obs with latch := s.obs.latch.map (fun k => if k.id = id then j else k) } }
    let drop := fun (s : Blk) => { s with obs := { s.obs with latch := s.obs.latch.filter (fun k => k.id ≠ id) } }
    match j.queue with
    | some q =>
      if j.left > 0 then put_ s
      else if j.failed then push (drop s) [.cmdDone q 0x18]
      else push (ev (drop s) 0x148 j.ctx) [.cmdDone q 0]
    | none =>
      if !ok then latchRingFault (put_ s) j.ctx
      else if j.left > 0 then put_ s
      else if j.failed then ev (bump (drop s) rLatchLost) 0x149 j.ctx
      else latchAdvance j.ctx s.obs.latch.length (put_ s)

/-! ## Owners -/

/-- The completion records of a context that no offer has been made for. -/
def recordWaits (s : Blk) (c : Nat) : List (Option Nat × MemReq) :=
  s.mem.waitq.filter (fun p => p.1.isNone && p.2.ctx == some c && match p.2.owner with | .cplRecord _ _ _ _ => true | _ => false)

/-- A completion record whose write faults joins the overflow, and with it every record of its context that has not been offered
yet (R324). -/
def recordFaults (s : Blk) (q slot num : Nat) (bytes : List Byte) : Blk :=
  let c := sqCtx s q
  let more := recordWaits s c
  let s := ovfPut s { idx := 0, q, ctx := c, slot, bytes, num }
  let s := { s with mem := { s.mem with waitq := s.mem.waitq.filter (fun p => !more.contains p) } }
  forEach more s (fun s p => match p.2.owner with
    | .cplRecord q slot num bytes => ovfPut s { idx := 0, q, ctx := c, slot, bytes, num }
    | _ => s)

/-- What the owner of a request does with its answer: the line read (an empty one for a write), or none where the request
has faulted. -/
def ownerAnswer (s : Blk) (r : MemReq) (d : Option Line) (tag status : Nat) : Blk :=
  let ok := d.isSome
  match r.owner with
  | .cplRecord q slot num bytes => if ok then s else recordFaults s q slot num bytes
  | .cplReplay idx => replayAnswered s idx ok
  | .gstLine i => gstLine s i d
  | .xtLine i => xtAnswered s i d
  | .fetch q epoch addr => fetchAnswered s q epoch addr d (memDetail r tag status)
  | .csqLoad q life => accessAnswered s q life ok (d.getD 0)
  | .csqStore q life => accessAnswered s q life ok 0
  | .ringWrite g id => placeWritten s g id ok
  | .ringPtr g gen => ptrWritten s g gen ok
  | .ringRefresh g gen => refreshed s g gen d
  | .spillLine l _ => spillAnswered s l ok
  | .refillLine l i => refillAnswered s l i d
  | .park e => parkAnswered s e ok
  | .restore e => restoreAnswered s e d
  | .reqRead c => requestAnswered s c d
  | .notice c => noticeAnswered s c ok
  | .courseLine c => courseAnswered s c ok
  | .resultLine l i => resultAnswered s l i d
  | .sendRec ch epoch slot => recFetched s ch epoch slot d
  | .payload ch epoch slot i => payloadRead s ch epoch slot i d
  | .status ch epoch slot => statusWritten s ch epoch slot ok
  | .allocRead ch epoch slot => allocRead s ch epoch slot d
  | .freeWrite ch epoch slot => freeWritten s ch epoch slot ok
  | .handleWrite ch epoch slot => handleWritten s ch epoch slot ok
  | .board c => boardAnswered s c ok
  | .latchRec id => latchAnswered s id ok
  | .drain b k => drainAnswered s b k ok
  | .blotScan i => blotScanned s i d
  | .blotLine => blotLineDone s ok
  | .blotHead => blotHeadDone s ok
  | .listHeader uid expert => headerWritten s uid expert ok
  | .listRecord uid expert => recWritten s uid expert ok
  | .graphReplay e w => graphReplayed s e w d
  | .orphaned | .ignored => s

/-- Apply the outcome of a request: an abandoned one is recorded first (R54), then the fault of its purpose. A completion
record is in the overflow before its fault makes the context FAULTED, with CODE 0x10 also where it was abandoned (R324). -/
def applyMem (s : Blk) (r : MemReq) (d : Option Line) (tag status : Nat) : Blk :=
  match d with
  | some _ => ownerAnswer s r d tag status
  | none =>
    let lost := fun (s : Blk) => if respFaults status then s else abandonFault s r tag status
    match r.owner with
    | .cplRecord _ _ _ _ => lost (ownerFault (ownerAnswer s r none tag status) r tag status)
    | _ => ownerAnswer (ownerFault (lost s) r tag status) r none tag status

/-- The outcome of a request is held for its due tick where a ruled context is owed it (R286, R287). -/
def holdMem (s : Blk) (r : MemReq) (d : Option Line) (tag status : Nat) : Option Blk :=
  match r.serial, r.ctx with
  | some n, some c =>
    if ruledLive s c && s.ctx.owed.any (fun o => o.what == .memory n) then
      let upd := fun (o : Owed) =>
        if o.what = .memory n then { o with evs := o.evs ++ [.memory r.owner r d status tag], arrived := true } else o
      some { s with ctx := { s.ctx with owed := s.ctx.owed.map upd } }
    else none
  | _, _ => none

/-- A request has its outcome. -/
def memOutcome (s : Blk) (r : MemReq) (d : Option Line) (tag status : Nat) : Blk :=
  match holdMem s r d tag status with
  | some s => s
  | none => applyMem s r d tag status

/-! ## Taking a response -/

/-- A tag is free again. -/
def freeTag (s : Blk) (tag : Nat) : Blk := { s with mem := { s.mem with out := Store.erase s.mem.out tag } }

/-- A request is offered again under its tag (R54). -/
def memAgain (s : Blk) (tag : Nat) (r : MemReq) (last : Nat) : Blk :=
  let s := freeTag s tag
  ev0 { s with mem := { s.mem with waitq := s.mem.waitq ++ [(some tag, { r with fails := r.fails + 1, last })] } } 0x131

/-- A response that names no outstanding tag (R55, R389). -/
def memStray (s : Blk) (tag : Nat) : Blk :=
  let s := { s with mem := { s.mem with retired := s.mem.retired.filter (· ≠ tag) } }
  orBits (ev0 s 0x130) rPortFault 2

/-- A response is to be repeated (R52, R54). A read response that says FAULT 001 or 100 in a control word that checks ends its
request although its data fail their parity: R52 allows those no repeated offer, and nothing of the data is used. DESIGN CHOICE:
assumption 28. -/
def respAgain (r : MemReq) (status : Nat) (dataOk ctlOk : Bool) : Bool :=
  !ctlOk || (!r.write && !dataOk && status == 0) || (status ≠ 0 && !respFaults status)

/-- A response for an outstanding tag (R52 to R54). A tag orphaned by a quiesce by force is only freed (R316). -/
def memTaken (s : Blk) (tag status : Nat) (data : Line) (dataOk ctlOk : Bool) (waiting : List Nat) (r : MemReq) : Blk :=
  let s := contestedOpt s r.ctx waiting
  let s := if ctlOk then evN s (0x120 + status) r.ctx 1 else s
  if r.owner = .orphaned then evN (bump (freeTag s tag) rLateMem) 0x13c r.ctx 1
  else if respAgain r status dataOk ctlOk then
    let last := if ctlOk && (r.write || dataOk) then status else 0
    if r.fails < 3 then memAgain s tag r last else memOutcome (freeTag s tag) r none tag last
  else if status = 0 then memOutcome (freeTag s tag) r (some (if r.write then 0 else data)) tag 0
  else memOutcome (freeTag s tag) r none tag status

/-- MEMORY_RESPONSE. During the drain of a soft reset a response frees its tag and does nothing else (R76), unless it belongs
to the blot that the reset waits for (R414). -/
def memResponse (s : Blk) (tag status : Nat) (data : Line) (dataOk ctlOk : Bool) (waiting : List Nat) : Blk :=
  if !fnReady s 2 then s
  else match Store.get? s.mem.out tag with
    | none => memStray s tag
    | some r =>
      if srstDrains s && !(r.unit == uDbg && !s.cfg.srstBoard) then freeTag s tag else memTaken s tag status data dataOk ctlOk waiting r

/-- MQ_ACK: the request on MQ is taken, and its tag is outstanding (R50). -/
def memTake (s : Blk) : Blk :=
  match s.mem.mq with
  | none => s
  | some (t, r) => { s with mem := { s.mem with mq := none, out := Store.set s.mem.out t { r with age := now s } } }

end Sys2Proof.Machine
end

