-- ==== Sys2Proof/Machine/Settle.lean ====
section
/-! DEFINITION. The end of a step: the pieces of a cascade that an update leaves to be done, the outcomes of fabric requests
(R112, R273), and what the ports and queues do next. -/
namespace Sys2Proof.Machine

/-! ## Outcomes of fabric requests -/

/-- A request refused with NK_RING_FULL is offered again a microsecond later, while its context still wants it (R112). -/
def retryLater (s : Blk) (r : FReq) : Blk :=
  if answerUnwanted s r || !(ctxSt s r.srcCtx == .opened || ctxSt s r.srcCtx == .orphaned || ctxSt s r.srcCtx == .faulted)
  then s
  else
    let t : Retry := { what := if r.dst = ownDie s then .localMsg r else .fabric r, ctx := r.srcCtx, due := now s + 1000 }
    { s with xch := { s.xch with retries := s.xch.retries ++ [t] } }

/-- A successor arrival has been refused for good: it is lost (R109). -/
def succLost (s : Blk) (r : FReq) (slot code : Nat) : Blk :=
  xchFault (ev (bump s rLost) 0x112 r.srcCtx) r.srcCtx 0x35 (mkDetail (put slot 16 0) 0 code)

/-- The records of a CAND message. -/
def FBody.candRecs : FBody → List Word64
  | .cand _ _ _ rs => rs
  | _ => []

/-- The answer of a SIGNAL or CLOSE; a ruled context admits it at its due tick (R286). -/
def signalOutcome (s : Blk) (q life code : Nat) : Blk :=
  match s.ctx.owed.find? (fun o => o.what == .answer q life) with
  | some o =>
    if ruledLive s o.ctx then
      let upd := fun (p : Owed) =>
        if p.what = .answer q life then { p with evs := p.evs ++ [.answer q life code], arrived := true } else p
      { s with ctx := { s.ctx with owed := s.ctx.owed.map upd } }
    else signalAnswered s q life code
  | none => signalAnswered s q life code

/-- What the sender of a request does with its outcome (R112, R168, R180, R185, R259, R273). -/
def reqAnswered (s : Blk) (r : FReq) (code : Nat) (byUs : Bool) : Blk :=
  match r.owner with
  | .am ch epoch slot => amAnswered s r ch epoch slot code byUs
  | .signal q life => if code = kRingFull then retryLater s r else signalOutcome s q life code
  | .succ slot => if code = kRingFull then retryLater s r else if code = kAck then s else succLost s r slot code
  | .cand uid =>
    if code = kRingFull then retryLater s r
    else if code = kAck then s
    else stopStream s uid r.srcCtx r.body.candRecs
  | .run uid ent => if code = kRingFull then retryLater s r else runAnswer s uid ent r.body code

/-! ## Events of ruled contexts -/

/-- An owed event takes effect (R287, R332). -/
def owedEv (s : Blk) (e : OwedEv) : Blk :=
  match e with
  | .completion engine w => applyCompletion s engine w
  | .enqueue engine w => applyEnqueue s engine w
  | .memory owner r d status tag => applyMem s { r with owner } d tag status
  | .answer q life code => signalAnswered s q life code

/-! ## The cascade -/

/-- One piece of a cascade. A task that enters a final state may be its course's ADVNODE task (R208). -/
def doWork (s : Blk) (w : Work) : Blk :=
  match w with
  | .arrive j dead => arrive s j dead
  | .closeJ j t => closeJoint s j t
  | .fireTask slot => gateFires s slot
  | .fireQueue q j => fireQueue s q j
  | .succs slot dead => applySuccs (advHook s slot) slot dead
  | .nodeArrive l scope node dead => nodeArrive s l scope node dead
  | .nodeClose l scope node t => nodeClose s l scope node t
  | .streamEnd slot dead => streamEnd s slot dead
  | .rowFree slot => rowFree s slot
  | .fenceStrict => fenceStrict s
  | .runCheck r => runCheck s r
  | .scopeCheck x => scopeCheck s x
  | .dlyFill => dlyFill s
  | .answered r code byUs => reqAnswered s r code byUs
  | .fabReq r => offerReq s r
  | .early e => applyEarly s e
  | .tick c => { s with ctx := { s.ctx with inTick := c } }
  | .chanPump ch => chanPump s ch
  | .ringPump g => ringPump s g
  | .ctlHeld q => ctlHeld s q
  | .cmdDone q code => cmdDone s q code
  | .ringsOf l => ringsOfLaunch s l
  | .cplPump q => cplPump s q
  | .notices c => noticePump s c
  | .boundaries => boundaries s
  | .drainRelease c => drainRelease s c
  | .owedEv e => owedEv s e

/-- Do the pieces that wait, the first of them first, at most a number of them. -/
def drain : Nat → Blk → Blk
  | 0, s => s
  | n + 1, s =>
    match s.work with
    | [] => s
    | w :: r => drain n (doWork { s with work := r } w)

/-- The pieces that one round does at most (assumption 5). -/
def workBound : Nat := 1048576

/-- End joints that flushed queues have left behind are freed once no live launch names them (R237). -/
def freeEnds (s : Blk) : Blk := forEach ((Store.vals s.csq.queues).flatMap (·.endFree)) s freeEnd

/-- The cascade and the queues' movement, until nothing is left. -/
def cascade : Nat → Blk → Blk
  | 0, s => s
  | n + 1, s =>
    let s := pumpRows (pumpLocal (freeEnds (pumpQueues (drain workBound s))))
    if s.work.isEmpty then s else cascade n s

/-- The Sequencer owes work to a queue whose context is OPEN (R377). -/
def owesWork (s : Blk) : Bool :=
  s.csq.queues.any (fun p => ctxOpen s p.1 &&
    match p.2.state with
    | .idle => p.2.head ≠ p.2.tailNow
    | .wait => (p.2.jw.map (jointFired s)).getD false ||
        (s.time.usable && (p.2.deadline.map (fun d => decide (d ≤ now s))).getD false)
    | .sleep => s.time.usable && (p.2.deadline.map (fun d => decide (d ≤ now s))).getD false
    | _ => false)

/-- The Pulse watchdog is armed (R377). -/
def pulseArmed (s : Blk) : Bool := s.saf.pulseActive || owesWork s

/-- The time since which the Pulse watchdog has been armed. -/
def armPulse (s : Blk) : Blk :=
  match pulseArmed s, s.saf.pulseArmedAt with
  | true, none => { s with saf := { s.saf with pulseArmedAt := some (now s) } }
  | false, some _ => { s with saf := { s.saf with pulseArmedAt := none } }
  | _, _ => s

/-- The dispatch watchdog is armed while a task could be dispatched (R378). -/
def armDispatch (s : Blk) : Blk :=
  match nextDispatch s, s.saf.armedAt with
  | some _, none => { s with saf := { s.saf with armedAt := some (now s) } }
  | none, some _ => { s with saf := { s.saf with armedAt := none } }
  | _, _ => s

/-- Order 3 of R414, once the blot is out of the way: board entries get RUN 0, and CFG_SRST_DRAIN runs. -/
def srstStep (s : Blk) : Blk :=
  if s.cfg.srst && !s.cfg.srstBoard && s.cfg.srstAt.isNone && s.dbg.phase = .idle then
    let s := { s with cfg := { s.cfg with srstBoard := true, srstAt := some (now s) } }
    forEach ((Store.keys s.ctx.slots).filter (fun c => ctxSt s c ≠ .free)) s (fun s c => boardWrite s c false)
  else s

/-- The end of a step: the cascade, what the ports take up next, and what the Blotter sees of it (R360). -/
def settle (s : Blk) : Blk :=
  blotTrack (armFronts (armPulse (armDispatch (pumpFabric (pumpMem (srstStep (cascade 8 s)))))))

end Sys2Proof.Machine
end

