-- ==== Sys2Proof/Machine/Audit.lean ====
section
/-! DEFINITION. The audit of the books (R386 to R389): each book's identity, the tags that are too old, and AUDIT. An AUDIT
command is one update of the model; an automatic audit may last, for as long as is open (DESIGN CHOICE, assumption 11). -/
namespace Sys2Proof.Machine

/-- An entry of a book that disagrees: its number, the value expected, and the value found. -/
structure BookErr where
  entry : Nat
  want : Nat
  got : Nat
deriving DecidableEq, Repr

/-- The first of a list of findings. -/
def firstErr (xs : List (Option BookErr)) : Option BookErr := xs.findSome? id

/-- A value that must equal another. -/
def mustBe (entry want got : Nat) : Option BookErr := if want = got then none else some { entry, want, got }

/-- A condition that must hold; it is found 0 where it does not. -/
def must (entry : Nat) (ok : Bool) : Option BookErr := if ok then none else some { entry, want := 1, got := 0 }

/-- The sum of a list. -/
def sum (xs : List Nat) : Nat := xs.foldl (· + ·) 0

/-- Book 0, engine credits: entry 4 × engine + class. -/
def book0 (s : Blk) : Option BookErr :=
  firstErr ((List.range 16384).map (fun i =>
    let e := i / 4
    let c := i % 4
    if engMasked s e then none
    else
      let issued := ((Store.vals s.tsk.tasks).filter (fun t => t.state == .issued && t.issuedEng == e && t.cls == c)).length
      let held := ((Store.vals s.tsk.held).filter (fun h => h.engine == e && h.cls == c)).length
      mustBe i (issued + held) (occ s e c)))

/-- Slots of launches, refills and held words, of the contexts given. -/
def slotsHeld (s : Blk) (p : Nat → Bool) : Nat :=
  sum (((Store.vals s.tsk.launches).filter (fun l => p l.ctx)).map (fun l => l.slots.length + l.refillSlots.length)) +
    (s.tsk.held.filter (fun h => p h.2.ctx && (taskOf s h.1).isNone)).length

/-- Book 1, task slots: of the block, and of each context. -/
def book1 (s : Blk) : Option BookErr :=
  firstErr (mustBe 0 131072 (runTotal s.tsk.freeSlots + slotsHeld s (fun _ => true)) ::
    (List.range 256).map (fun c => mustBe c (slotsHeld s (· == c)) (ctxUsed s c)))

/-- The joints that launches and queues hold. -/
def jointsHeld (s : Blk) : Nat :=
  sum ((Store.vals s.tsk.launches).map (fun l => l.joints.length)) +
    sum ((Store.vals s.csq.queues).map (fun v => v.joints.length + v.endFree.length))

/-- The waiter of a joint may stay WAITING although the joint has fired (R114, R129, R290). -/
def mayWait (s : Blk) (t : Task) : Bool :=
  t.dlyWait || isRuled s t.ctx || ((launchOf s t.launch).map launchAway).getD false

/-- An expert task's joint is closed once its scope has every final TALLY. -/
def expertClosed (s : Blk) (j : Nat) (w : JWord) : Bool :=
  match (Store.vals s.sve.scopes).find? (fun x => x.tasks.any (fun k => k.slot.isSome && k.joint == j && k.header)) with
  | some _ => !w.isOpen
  | none => true

/-- A joint in use is in order: its copies, its link and its word. -/
def jointOk (s : Blk) (j : Nat) (x : Joint) : Bool :=
  let w := x.a.w
  decide (x.a.w = x.b.w) && (w.isOpen || w.fired || decide (w.count ≥ 1)) && expertClosed s j w &&
    (match x.waiter with
     | .queue q => (queueOf s q).joints.contains j || (queueOf s q).endFree.contains j
     | .task slot =>
       match taskOf s slot with
       | some t =>
         if t.gjoint = some j then !(w.fired && t.state == .waiting) || mayWait s t
         else (launchAtJoint s j).isSome
       | none => (launchAtJoint s j).isSome)

/-- Book 2, joints. -/
def book2 (s : Blk) : Option BookErr :=
  firstErr (mustBe 262144 262144 (runTotal s.tsk.freeJoints + jointsHeld s) ::
    s.tsk.joints.map (fun p => must p.1 (jointOk s p.1 p.2)))

/-- An OPEN ring's bytes are in order: RESV less WPTR is what its unpublished placements take, SKIP records included. -/
def ringOk (v : Ring) : Bool :=
  decide ((v.resv + 2 ^ 32 - v.rptr) % 2 ^ 32 ≤ 2 ^ v.log2) &&
    (v.resv + 2 ^ 32 - v.wptr) % 2 ^ 32 == sum (v.places.map (·.len)) % 2 ^ 32

/-- Book 3, ring bytes. -/
def book3 (s : Blk) : Option BookErr :=
  firstErr (s.xch.rings.map (fun p => if p.2.state = .opened then must p.1 (ringOk p.2) else none))

/-- Book 4, pool handles. -/
def book4 (s : Blk) : Option BookErr := mustBe 0 s.xch.handles (sum ((Store.vals s.ctx.slots).map (·.handles)))

/-- Book 5, fabric requests: the entries in use, those on reserved places, and their age. -/
def book5 (s : Blk) : Option BookErr :=
  firstErr (mustBe 0 (Store.keys s.xch.out).length (outAll s) :: must 0 (decide (outReserved s ≤ 512)) ::
    s.xch.out.map (fun p => must p.1 (p.2.phase ≠ .waiting || !s.time.usable || decide (now s ≤ p.2.deadline + 1000))))

/-- SAF_TAG_AGE in ns. -/
def tagAge (s : Blk) : Nat := rgf s rTagAge 15 0 * 1000

/-- A tag is older than SAF_TAG_AGE (R389). -/
def tagOld (s : Blk) (r : MemReq) : Bool := s.time.usable && decide (now s > r.age + tagAge s)

/-- A request whose outcome nobody waits for any more (R316). -/
def orphanReq (r : MemReq) : Bool := r.owner == .orphaned || r.owner == .ignored

/-- Book 6, memory tags: the tags out of use by their owners, and their age. -/
def book6 (s : Blk) : Option BookErr :=
  let waits := (s.mem.out.filter (fun p => !orphanReq p.2)).length
  let orphans := (s.mem.out.filter (fun p => orphanReq p.2)).length
  firstErr (mustBe 0 (waits + orphans + s.mem.retired.length) ((Store.keys s.mem.out).length + s.mem.retired.length) ::
    s.mem.out.map (fun p => must p.1 (!tagOld s p.2)))

/-- A book, by its bit. -/
def book (s : Blk) (b : Nat) : Option BookErr :=
  match b with
  | 0 => book0 s | 1 => book1 s | 2 => book2 s | 3 => book3 s | 4 => book4 s | 5 => book5 s | 6 => book6 s
  | _ => none

/-- A tag that is too old is settled: the request is abandoned, and the tag retired (R389). -/
def retireTag (s : Blk) (p : Nat × MemReq) : Blk :=
  let s := freeTag s p.1
  memOutcome { s with mem := { s.mem with retired := s.mem.retired ++ [p.1] } } p.2 none p.1 p.2.last

/-- Fault 0x22 for a book (R387, R392). -/
def bookFault (s : Blk) (p : Nat × Nat × Nat × Nat) : Blk :=
  safFault s uSaf 0x22 (mkDetail (put p.1 63 56 + put p.2.1 31 0) p.2.2.1 p.2.2.2) true

/-- The cut of an audit (R387): the books of its mask that fail there. -/
def auditCut (s : Blk) (mask : Nat) : AuditRun :=
  let bits := (List.range 7).filter (fun b => mask.testBit b)
  { mask, bad := bits.filterMap (fun b => (book s b).map (fun e => (b, e.entry, e.want, e.got))) }

/-- An audit ends (R387, R388): the mask of the failed books, and queues that wait for it try again. -/
def auditEnd (s : Blk) (r : AuditRun) : Nat × Blk :=
  let failed := sum (r.bad.map (fun p => 2 ^ p.1))
  let old := if r.mask.testBit 6 then s.mem.out.filter (fun p => tagOld s p.2) else []
  let s := forEach r.bad s bookFault
  let s := wr s rAuditResult (2 ^ 31 + put r.mask 15 8 + put failed 7 0)
  let s := forEach old s retireTag
  if failed = 0 then (0, s)
  else (failed, raiseAlarm (orBits (bump s rAuditFails) rSafIrq 4) aAudit 0x22 0)

/-- An audit of the books of a mask that begins and ends in one update: the mask of the failed books. -/
def audit (s : Blk) (mask : Nat) : Nat × Blk := auditEnd s (auditCut s mask)

/-- AUDIT (R232, R387). While an automatic audit runs it waits (R388). -/
def runAudit (s : Blk) (q : Nat) (w : Word256) : Blk :=
  let mask := immF w 7 0
  if mask = 0 then retireVal s q w (some 0)
  else if s.saf.auditRun.isSome then waitUnit s q .unit
  else
    let (failed, s) := audit s mask
    retireVal s q w (some (BitVec.ofNat 64 failed))

/-- The automatic audit is due (R388). -/
def auditDue (s : Blk) : Bool :=
  let period := rgf s rAuditCfg 31 16
  fnReady s 3 && period ≠ 0 && s.time.usable && decide (now s ≥ s.saf.auditAt + period * 1000000)

/-- AUTO_AUDIT (R388): an audit in progress ends, or one that is due begins; whether it ends in the same update is open (assumption 11). -/
def autoAudit (s : Blk) : Blk :=
  match s.saf.auditRun with
  | some r => (auditEnd (wakeUnits { s with saf := { s.saf with auditRun := none } }) r).2
  | none =>
    if auditDue s then
      let s := { s with saf := { s.saf with auditAt := now s } }
      if rgf s rAuditCfg 7 0 = 0 then s
      else
        let r := auditCut s (rgf s rAuditCfg 7 0)
        let (k, s) := choose s 2
        if k = 0 then (auditEnd s r).2 else { s with saf := { s.saf with auditRun := some r } }
    else s

end Sys2Proof.Machine
end

