-- ==== Sys2Proof/Machine/Upset.lean ====
section
/-! DEFINITION. A stored word that fails its parity, or its other copy (R371 to R373): what is corrected, and the outcome of
each store where a word is unrecoverable. -/
namespace Sys2Proof.Machine

/-- The stores of R372. The two-copy stores and those of IDs 0x05 and 0x0F are told apart. -/
inductive Sto where
  | graph | task | joint | stamp | credit | ready | delay | link | launch | run | scope | row | lane | xt | seq | ring | chan
  | slot | queue | count | trace | early | purge | hold | pairOut | pairIn | out | tag | reg | log
deriving DecidableEq, Repr

/-- The ID of a store in log entries (R372). -/
def Sto.id : Sto → Nat
  | .graph => 1 | .task => 2 | .joint | .stamp | .credit | .ready | .delay => 3 | .link => 4
  | .launch | .run | .scope | .row => 5 | .lane => 6 | .xt => 7 | .seq => 8 | .ring => 9 | .chan => 0xa | .slot => 0xb
  | .queue => 0xc | .count => 0xd | .trace => 0xe
  | .early | .purge | .hold | .pairOut | .pairIn | .out | .tag => 0xf
  | .reg => 0x10 | .log => 0x11

/-- The unit that owns a store, in whose log a word lies that belongs to no context. -/
def Sto.unit : Sto → Nat
  | .graph => uGst | .task | .launch | .early => uTsk | .joint | .link => uJnt | .ready => uRdy | .delay => uDly
  | .stamp | .credit | .purge => uIss | .run | .scope | .row | .lane | .xt => uSve | .seq => uSqt
  | .ring | .chan | .hold | .pairOut | .pairIn | .out => uXch | .slot => uCtx | .queue => uCsq | .count | .trace => uObs
  | .tag | .reg => uBlk | .log => uSaf

/-- The words of a descriptor that hold only what R98 copies from a node or a launch. -/
def taskCopied (w : Nat) : Bool := decide (1 ≤ w ∧ w ≤ 7) || w == 9

/-- Word w of an entry has a replay source (R372). -/
def Sto.replays (k : Sto) (w : Nat) : Bool :=
  match k with
  | .graph | .joint | .stamp | .credit | .ready | .delay | .link => true
  | .task => taskCopied w
  | .ring => w == 6
  | _ => false

/-- DETAIL of fault 0x20 for a word of a store. -/
def stoDetail (k : Sto) (e w agent : Nat) : Nat := wordDetail k.id w e (k.replays w) agent

/-- Fault 0x20 against the context that owns an entry, or in its unit's log where none does (assumption 13). -/
def stoFault (s : Blk) (k : Sto) (e w : Nat) (c : Option Nat) : Blk :=
  match c with
  | some c => ctxFault s c k.unit 0x20 (stoDetail k e w 0)
  | none => unitFault s k.unit 0x20 none (stoDetail k e w 0)

/-- Fault 0x20 in the SAF error log, with the alarm. -/
def stoSaf (s : Blk) (k : Sto) (e w : Nat) : Blk :=
  raiseAlarm (safFault s k.unit 0x20 (stoDetail k e w 0) true) aParity 0x20 0

/-! ## Outcomes -/

/-- FIRED and DEAD_SEEN of a joint are set (R105). -/
def deadJoint (s : Blk) (j : Nat) : Blk :=
  match jointOf s j with
  | some x => putJoint s j { x.a.w with fired := true, deadSeen := true }
  | none => s

/-- A task becomes FENCED, as for a fault on its gate joint; the slot of an ISSUED one is held (R105, R134, R372). -/
def loseTask (s : Blk) (slot : Nat) : Blk :=
  match taskOf s slot with
  | none => s
  | some t =>
    match t.state with
    | .waiting | .ready | .delayed =>
      let s := match t.gjoint with | some j => deadJoint s j | none => s
      finishTask s slot .fenced true
    | .issued => finishTask (unowe (holdSlot s (heldOf s slot t)) slot) slot .fenced true
    | _ => s

/-- A joint is read with its copies as found (R107, R373, R376). -/
def jointFound (s : Blk) (j : Nat) (x : Joint) (f : Finding) : Blk :=
  let bad := fun (k : JCopy) => { k with parityOk := false }
  match f with
  | .good => s
  | .corrected => (jointRead s j { x with a := bad x.a }).2
  | .unrecoverable => (jointRead s j { x with a := bad x.a, b := bad x.b }).2
  | .mismatch => jointFault (putJoint (wordLost s) j x.a.w) j x x.a.w 0x21

/-- The context of a launch record is fenced on this instance (R315, R372). -/
def loseCtx (s : Blk) (k : Sto) (e w : Nat) (c : Option Nat) : Blk :=
  let s := stoFault s k e w c
  match c with
  | some c => fenceSlot s c
  | none => s

/-- The waiter's context of a joint. -/
def jointCtx (s : Blk) (j : Nat) : Option Nat := (jointOf s j).map (·.ctx)

/-- A candidate's lane entry is dropped, and its run is degraded (R173). -/
def loseLane (s : Blk) (e w : Nat) : Blk :=
  match lanePlace s (e / 16384) (e % 16384) with
  | none => stoFault s .lane e w none
  | some p =>
    match Store.get? s.sve.runs p.run with
    | none => s
    | some r =>
      let t := Store.getD r.toks p.tok {}
      let r := { r with toks := Store.set r.toks p.tok { t with kept := t.kept.erase p.cand }, laneLost := true }
      stoFault (setRun s p.run r) .lane e w (some r.ctx)

/-- The owner of the set that an Expert Table entry belongs to: of a live span, else of the set whose base is the nearest at
or below it (assumption 13). -/
def xtOwner (s : Blk) (e : Nat) : Option Nat :=
  let inSpan := fun (p : Nat × Nat) => decide (p.1 ≤ e ∧ e < p.1 + p.2)
  match (Store.vals s.sve.runs).find? (fun r => inSpan (xtSpan s r.set r.layer)) with
  | some r => some (setOwner s r.set)
  | none =>
    let sets := (List.range 16).filter (fun n => decide (setXt s n ≤ e ∧ setNexp s n ≠ 0))
    match sets with
    | [] => none
    | n :: r => some (setOwner s (r.foldl (fun b x => if setXt s b < setXt s x then x else b) n))

/-- A Sequence Table entry is freed; its AGENT goes into the log where that word passed. -/
def loseSeq (s : Blk) (e w : Nat) : Blk :=
  match seqAt s e with
  | none => stoFault s .seq e w none
  | some v =>
    let s := ctxFault s v.ctx uSqt 0x20 (stoDetail .seq e w (if w = 10 then 0 else v.agent % 2 ^ 32))
    push (freeSeq s e) [.notices v.ctx]

/-- A receive ring becomes CLOSED (R280). -/
def loseRing (s : Blk) (g w : Nat) : Blk :=
  let s := stoFault s .ring g w (ringCtx s g)
  if (ringOf s g).state = .opened then ringFault s g false else s

/-- A send channel stops, with FAULT set. -/
def loseChan (s : Blk) (ch w : Nat) : Blk :=
  let s := stoFault s .chan ch w (chanCtx s ch)
  if (chanOf s ch).en then stopChan s ch else s

/-- A context slot becomes FAULTED with CODE 0x20. -/
def loseSlot (s : Blk) (c w : Nat) : Blk :=
  let s := ctxFaultA s c uCtx 0x20 (stoDetail .slot c w 0) true
  let s := if ctxSt s c = .faulted then s else toFaulted s c 0x20
  raiseAlarm s aParity 0x20 c

/-- A submission queue halts with 0x20 (R242); one that is DISABLED or HALTED has nothing to halt. -/
def loseQueue (s : Blk) (q w : Nat) : Blk :=
  let v := queueOf s q
  let d := stoDetail .queue q w 0
  if v.state = .disabled || v.state = .halted then ctxFault s (sqCtx s q) uCsq 0x20 d
  else
    let word := (v.cur <|> pcWord v).getD 0
    let s := modQ (abandonCmd s q) q (fun v => { v with life := v.life + 1 })
    retire s q { word, pc := v.pc, code := 0x20, act := .halt, log := some d }

/-- A counter: LIVE and SNAP 0, OVF 1. -/
def loseCount (s : Blk) (n w : Nat) : Blk :=
  stoFault { s with obs := { s.obs with cnt := Store.put {} s.obs.cnt n { live := 0, snap := 0, ovf := true } } } .count n w none

/-- A trace record is lost (R352). -/
def loseTrace (s : Blk) (b i : Nat) : Blk :=
  let t := bufOf s b
  match t.recs[i]? with
  | some r => loseRecs (setBuf s b { t with recs := t.recs.eraseIdx i }) b [r]
  | none => s

/-- An early arrival is discarded and counted (R111). -/
def loseEarly (s : Blk) (i w : Nat) : Blk :=
  match s.tsk.early[i]? with
  | some e =>
    let s := { s with tsk := { s.tsk with early := s.tsk.early.eraseIdx i } }
    unitFault (ev (bump s rEarlyDrop) 0x76 e.ctx) uTsk 0x20 (some e.ctx) (stoDetail .early i w 0)
  | none => stoFault s .early i w none

/-- A held message is answered NK_PARITY. -/
def loseHold (s : Blk) (i w : Nat) : Blk :=
  let s := stoFault s .hold i w none
  match s.xch.hold[i]? with
  | some h =>
    giveAnswer { s with xch := { s.xch with hold := s.xch.hold.eraseIdx i } } h.m.h.src h.m.h.rqid h.m.body.ty kParity h.m.h.dstCtx
  | none => s

/-- A tag is retired, and its request abandoned (R389). -/
def loseTag (s : Blk) (t w : Nat) : Blk :=
  let s := stoFault s .tag t w none
  match Store.get? s.mem.out t with
  | some r => retireTag s (t, r)
  | none => s

/-- The value a register takes: its Pattern Book value where it has one, else its reset value. -/
def regBack (s : Blk) (k : Nat) : Nat :=
  if isPb k then
    match Store.get? s.cfg.applied k with
    | some v => v.toNat
    | none => regUnlisted s k
  else regUnlisted s k

/-- A log entry is kept, with BADPAR set. -/
def loseLog (s : Blk) (n k : Nat) : Blk :=
  let l := logOf s n
  let bad := fun (e : LogEnt) => { e with badPar := true }
  setLog s n (if k = 0 then { l with first := l.first.map bad } else { l with ring := l.ring.modify (k - 1) bad })

/-- An unrecoverable word of a store (R372). -/
def lose (s : Blk) (k : Sto) (e w : Nat) : Blk :=
  let s := wordLost s
  match k with
  | .graph => s
  | .task => loseTask (stoFault s .task e w ((taskOf s e).map (·.ctx))) e
  | .joint | .credit | .ready => stoSaf s k e w
  | .stamp =>
    let s := stoSaf s k e w
    if ((taskOf s e).map (·.state)) = some .issued then loseTask s e else s
  | .delay =>
    let s := stoSaf s k e w
    match s.iss.dly.find? (fun d => d.idx == e) with
    | some d => loseTask s d.slot
    | none => s
  | .link => loseCtx s k e w (jointCtx s e)
  | .launch => loseCtx s k e w ((launchOf s e).map (·.ctx))
  | .run => loseCtx s k e w ((Store.get? s.sve.runs e).map (·.ctx))
  | .scope => loseCtx s k e w ((Store.get? s.sve.scopes e).map (·.ctx))
  | .row => loseCtx s k e w ((rowTask s e).map (fun p => p.1.ctx))
  | .lane => loseLane s e w
  | .xt => stoFault { s with sve := { s.sve with xt := Store.erase s.sve.xt e } } k e w (xtOwner s e)
  | .seq => loseSeq s e w
  | .ring => loseRing s e w
  | .chan => loseChan s e w
  | .slot => loseSlot s e w
  | .queue => loseQueue s e w
  | .count => loseCount s e w
  | .trace => loseTrace s (e / 2048) (e % 2048)
  | .early => loseEarly s e w
  | .purge => stoFault { s with iss := { s.iss with purge := s.iss.purge.eraseIdx e } } k e w none
  | .hold => loseHold s e w
  | .pairOut => stoFault { s with xch := { s.xch with pairsOut := s.xch.pairsOut.eraseIdx e } } k e w none
  | .pairIn => stoFault { s with xch := { s.xch with pairsIn := s.xch.pairsIn.eraseIdx e } } k e w none
  | .out => timeoutOut (stoFault s k e w none) e
  | .tag => loseTag s e w
  | .reg => wr (stoSaf s k (e % 0x1000000) w) e (regBack s e)
  | .log => loseLog s (e / 16) (e % 16)

/-- A word is corrected from its replay source (R371, R372); the RPTR copy by a read (R262). -/
def fix (s : Blk) (k : Sto) (e : Nat) : Blk :=
  let s := wordFixed s
  if k = .ring && (ringOf s e).state = .opened then startRefresh s e else s

/-- What the check of one word finds, and what follows (R371 to R373): whether the word stands, corrected or as it was. A
Graph Store word is read again from memory by `graphReread`. -/
def wordFound (s : Blk) (k : Sto) (e w : Nat) (f : Finding) : Bool × Blk :=
  if f = .good then (true, s)
  else
    let ok := f == .corrected && k.replays w
    match k, jointOf s e with
    | .graph, _ => (false, graphReread s e w)
    | .joint, some x => (ok, jointFound s e x f)
    | _, _ => (ok, if ok then fix s k e else lose s k e w)

end Sys2Proof.Machine
end

