-- ==== Sys2Proof/Machine/Window.lean ====
section
/-! DEFINITION. Reads of the diagnostic window (R425), and the sweep (R376): which word each reads, and what its check finds. -/
namespace Sys2Proof.Machine

/-! ## The window -/

/-- The store of R372 that a store of the window is. -/
def diagSto (st : Nat) : Sto :=
  match st with
  | 0x01 => .graph | 0x02 => .task | 0x03 => .joint | 0x04 => .link | 0x05 => .seq | 0x06 => .delay | 0x07 => .xt
  | 0x08 => .lane | 0x09 => .row | 0x0a => .ring | 0x0b => .chan | 0x0c => .early | 0x0d => .trace | 0x0e => .log
  | 0x0f => .out | _ => .tag

/-- A window read is held until a store is initialised, or until a Graph Store line has been read again (R425). -/
def holdDiag (s : Blk) (off : Nat) (f : Finding) : Blk := { s with ports := { s.ports with diag := some (off, f) } }

/-- A read at a window offset, whose store's parity checks as `f` says (R371, R425). -/
def diagDo (s : Blk) (off : Nat) (f : Finding) : Blk :=
  let s := { s with ports := { s.ports with diag := none } }
  match diagPlace s off with
  | none => rgpEnd s rgpNotMapped 0
  | some (e, w) =>
    if s.cfg.inits.contains (diagInit (diagStore s)) then holdDiag s off f
    else if f = .good then rgpEnd s rgpOk (w32 (diagWord s e w))
    else if diagStore s = 1 then
      let s := graphReread (holdDiag s off f) e w
      if (genOfRec s e).isSome then s else diagGraphEnd s e w false
    else
      let v := diagWord s e w
      let (ok, s) := wordFound s (diagSto (diagStore s)) e w f
      if ok then rgpEnd s rgpOk (w32 v) else rgpEnd s rgpStoreError 0

/-- A read of the diagnostic window at a register offset (R63 to R65, R420, R425). -/
def diagRead (s : Blk) (off : Nat) (a : Access) (f : Finding) : Blk :=
  if !fnReady s 0 || s.ports.diag.isSome || off < 0x400000 then s
  else if !a.parityOk then rgpEnd s rgpParity 0
  else if !a.priv then rgpEnd s rgpPriv 0
  else if off ≥ 0x1000000 then rgpEnd s rgpNotMapped 0
  else diagDo s (off - 0x400000) f

/-- A store has been initialised: a window read of it that was held goes on (R425). -/
def diagResume (s : Blk) (i : InitStore) : Blk :=
  match s.ports.diag with
  | some (off, f) => if diagInit (diagStore s) = i then diagDo s off f else s
  | none => s

/-! ## The sweep -/

/-- The registers kept per slot or per die-list entry: the first offset, how many registers, and how many banks. -/
def sweepBanks : List (Nat × Nat × Nat) :=
  [(rTskQuota, 1, 256), (rDieId, 2, 1024), (rSqtCfg, 2, 256), (rSqtLimits, 10, 256), (rXchRings, 2, 256), (rLeaseLo, 2, 256),
   (rFpol, 2, 256), (rPeerEnt, 1, 256), (rOrdMode, 2, 256), (rRuleWait, 1, 256), (rReplayStep, 1, 256), (rObsLevel, 4, 256)]

/-- The words of the register store. -/
def sweepRegs : Nat := (sweepBanks.map (fun b => b.2.1 * b.2.2)).foldl (· + ·) 0

/-- The register key of word i of the register store. -/
def sweepKey : List (Nat × Nat × Nat) → Nat → Nat
  | [], _ => 0
  | (off, n, banks) :: r, i => if i < n * banks then bank (off + 4 * (i % n)) (i / n) else sweepKey r (i - n * banks)

/-- The order of a pass: the stores, the entries of each, and the words of an entry, both copies of a two-copy store included. An entry that
R424 shows has the words of R424; a queue has 32 words of scratch registers, 8 of its call stack and 8 more; a counter has LIVE and SNAP; a
place of the hold store is a flit. The manual leaves the order and the other widths to the block (DESIGN CHOICE, assumption 12). -/
def sweepMap : List (Sto × Nat × Nat) :=
  [(.graph, 393216, 8), (.task, 131072, 16), (.joint, 262144, 2), (.stamp, 131072, 2), (.credit, 16384, 2),
   (.ready, 131072, 2), (.delay, 16384, 8), (.link, 262144, 1), (.launch, 4096, 16), (.run, 1024, 16), (.scope, 1024, 16),
   (.row, 8192, 8), (.lane, 262144, 4), (.xt, 262144, 2), (.seq, 65536, 13), (.ring, 16384, 8), (.chan, 1024, 8),
   (.slot, 256, 4), (.queue, 64, 48), (.count, 64, 4), (.trace, 8192, 8), (.early, 4096, 8), (.purge, 1024, 2),
   (.hold, 1024, 8), (.pairOut, 4096, 1), (.pairIn, 4096, 1), (.out, 4096, 2), (.tag, 1024, 1), (.reg, sweepRegs, 1),
   (.log, 4352, 8)]

/-- The words of a pass. -/
def sweepTotal : Nat := (sweepMap.map (fun p => p.2.1 * p.2.2)).foldl (· + ·) 0

/-- The store, entry and word at a position of the pass. -/
def sweepPlace : List (Sto × Nat × Nat) → Nat → Option (Sto × Nat × Nat)
  | [], _ => none
  | (k, n, m) :: r, i =>
    if i < n * m then some (k, if k = .reg then sweepKey sweepBanks (i / m) else i / m, i % m) else sweepPlace r (i - n * m)

/-- The initialiser of a store (R397). -/
def Sto.init : Sto → InitStore
  | .graph => .graph | .task | .launch => .taskTable | .joint | .link => .joints
  | .stamp | .credit | .ready | .delay => .readyDelay | .row => .homeMap | .lane => .lanes | .xt => .expertTable
  | .seq => .seqTable | .ring => .rings | .trace => .trace | .tag => .tags | .log => .safLogs | _ => .other

/-- The sweep moves on; at the end of a pass it counts it and begins the next (R376). -/
def sweepOn (s : Blk) : Blk :=
  let n := s.saf.sweepPos + 1
  if n < sweepTotal then { s with saf := { s.saf with sweepPos := n } }
  else
    ev0 (bump { s with saf := { s.saf with sweepPos := 0, sweepAt := now s, sweepLate := false, sweepKept := false } } rSweepPasses) 0x13f

/-- A read of the word at a position of the pass, whose check finds `f`; a store not yet initialised is not read (R397). -/
def placeRead (s : Blk) (i : Nat) (f : Finding) : Blk :=
  match sweepPlace sweepMap i with
  | some (k, e, w) => if s.cfg.inits.contains k.init then s else (wordFound s k e w f).2
  | none => s

/-- A read by a unit, the Blotter or an audit that finds a failing word, before the word is used (R371). A Graph Store record that
cannot be replayed then fails the operation that reads it (R372, ID 0x01). -/
def unitRead (s : Blk) (i : Nat) (f : Finding) : Blk :=
  match sweepPlace sweepMap i with
  | some (.graph, e, _) =>
    if f = .good || s.cfg.inits.contains .graph then s
    else placeRead { s with tsk := { s.tsk with wanted := if s.tsk.wanted.contains e then s.tsk.wanted else s.tsk.wanted ++ [e] } } i f
  | _ => placeRead s i f

/-- SWEEP_READ: the word at the sweep's position is read (R376); or a unit has read a word ahead of the sweep, at the position `unit`
(R371). -/
def sweepRead (s : Blk) (f : Finding) (unit : Option Nat) : Blk :=
  if s.cfg.low then s
  else match unit with
    | some i => unitRead s (i % sweepTotal) f
    | none => sweepOn (placeRead s s.saf.sweepPos f)

/-- SWEEP_OVERRUN: the pass has not finished within SAF_SWEEP.US (R376); it is counted and logged once. -/
def sweepOverrun (s : Blk) : Blk :=
  if s.saf.monitor && s.time.usable && !s.saf.sweepLate && decide (now s > s.saf.sweepAt + rgf s rSweep 10 0 * 1000) then
    let s := bump { s with saf := { s.saf with sweepLate := true } } rSweepLate
    safFault s uSaf 0x23 (mkDetail (now s) (now s % 2 ^ 32) 0) false
  else s

end Sys2Proof.Machine
end

