-- ==== Sys2Proof/Machine/Startup.lean ====
section
/-! DEFINITION. Start-up: the two resets (R396, R397, R414, R415), reading the flash (R66, R67, R398, R399), the image and its
checks (R400 to R404), readiness (R407), and HELLO (R410, R411). What JESD216 lays out is PRESUMED (assumption 16). -/
namespace Sys2Proof.Machine

/-- Change the configuration function's part of the state. -/
def modCfg (s : Blk) (f : Cfg → Cfg) : Blk := { s with cfg := f s.cfg }

/-! ## Readiness -/

/-- The configuration function has ended, with either outcome. -/
def cfgEnded (s : Blk) : Bool := s.cfg.phase == .done || s.cfg.phase == .failed

/-- A store has been initialised (R397). -/
def inited (s : Blk) (i : InitStore) : Bool := !s.cfg.inits.contains i

/-- The functions whose condition of R407 holds, HIF apart, as BLK_READY bits. -/
def readyMask (s : Blk) : Nat :=
  let cfg := s.cfg.phase == .done
  let tsk := inited s .taskTable && inited s .joints && inited s .readyDelay
  let both := cfg && tsk
  put 3 1 0 + put (b2n (inited s .tags)) 2 2 + put (b2n (inited s .safLogs)) 3 3 + put (b2n cfg) 4 4 +
    put (b2n (cfgEnded s)) 5 5 + put (b2n (cfgEnded s)) 6 6 + put (b2n (inited s .graph)) 7 7 + put (b2n tsk) 8 8 +
    put (b2n both) 9 9 + put (b2n both) 10 10 + put (b2n cfg) 11 11 + put (b2n both) 12 12 + put (b2n both) 13 13 +
    put (b2n both) 14 14

/-- BLK_READY as the conditions of R407 make it. No bit of a function but REG, TIME, MEM and SAF rises while a soft reset
drains (R414). -/
def readyNow (s : Blk) : Nat :=
  if s.cfg.low then 0
  else if srstDrains s then s.cfg.ready
  else s.cfg.ready ||| readyMask s

/-- BLK_READY follows its conditions; a bit that rises sets CFG_IRQ_STAT.READY, and monitoring begins with SAF (R72, R407). -/
def refreshReady (s : Blk) : Blk :=
  let n := readyNow s
  if n = s.cfg.ready then s
  else
    let s := modCfg s (fun g => { g with ready := n })
    let s := { s with saf := { s.saf with monitor := s.saf.monitor || n.testBit 3 } }
    orBits s rCfgIrq 1

/-- STORE_INIT_DONE: a store's initialiser has finished (R397). -/
def storeInitDone (s : Blk) (i : InitStore) : Blk :=
  if s.cfg.low || !s.cfg.inits.contains i then s
  else diagResume (refreshReady (modCfg s (fun g => { g with inits := g.inits.filter (fun x => x ≠ i) }))) i

/-! ## The NVM port -/

/-- The read instructions of R66 with four address bytes. -/
def nvmWide (op : Nat) : Bool := [0x13, 0x0c, 0x3c, 0xbc, 0x6c, 0xec].contains op

/-- Offer a read operation (R66). -/
def nvmRead (s : Blk) (op addr dummy len : Nat) : Blk :=
  modCfg s (fun g => { g with op := some { op, addr, aw := nvmWide op, dummy := dummy % 32, len } })

/-- The configuration function starts: it reads the SFDP header (R398). -/
def cfgStart (s : Blk) : Blk :=
  if s.cfg.op.isSome then s else nvmRead (modCfg s (fun g => { g with phase := .sfdp })) 0x5a 0 8 8

/-- The bytes that an operation returns, where it meets R67. -/
def nvmBytes (o : NvmOp) (beats : List (Word × Bool)) (derr : Bool) : Option (List Byte) :=
  if derr || beats.length ≠ (o.len + 3) / 4 || beats.any (fun b => !b.2) then none
  else some ((beats.flatMap (fun b => leBytes 4 b.1.toNat)).take o.len)

/-! ## Choosing the read mode -/

/-- A DWORD of the Basic Flash Parameter Table, numbered from 1. -/
def dword (t : List Byte) (i : Nat) : Word := w32 (leAt t (4 * (i - 1)) 4)

/-- A mode's instruction and its wait states and mode clocks together, from a half of DWORD 3 or 4. -/
def modeOf (w : Word) (at_ : Nat) : Nat × Nat :=
  (fld w (at_ + 15) (at_ + 8), fld w (at_ + 4) at_ + fld w (at_ + 7) (at_ + 5))

/-- A mode to try: its three-byte and four-byte instructions of R66, whether DWORD 1 supports it, and what the table says. Wait states
and mode clocks may add up to more than NVM_DUMMY holds; the spec is silent, and the model drives the low five bits of the sum (DESIGN
CHOICE, assumption 34). -/
def tryMode (four : Bool) (three wide : Nat) (ok : Bool) (m : Nat × Nat) : List (Nat × Nat) :=
  if ok && m.1 = three then [(if four then wide else three, m.2 % 32)] else []

/-- The modes to try, in order (R399). -/
def modesOf (t : List Byte) : List (Nat × Nat) :=
  let d := dword t 1
  let four := fld d 18 17 == 2
  tryMode four 0xeb 0xec (bitAt d 21) (modeOf (dword t 3) 0) ++ tryMode four 0x6b 0x6c (bitAt d 22) (modeOf (dword t 3) 16) ++
    tryMode four 0xbb 0xbc (bitAt d 20) (modeOf (dword t 4) 16) ++ tryMode four 0x3b 0x3c (bitAt d 16) (modeOf (dword t 4) 0) ++
    [(if four then 0x0c else 0x0b, 8)]

/-! ## The image -/

/-- A failing check: fault code, kind, DETAIL[31:0] and DETAIL[95:64] (R404). -/
abbrev CfgFault := Nat × Nat × Nat × Nat

/-- The first check that fails. -/
def firstFault (xs : List (Option CfgFault)) : Option CfgFault := xs.findSome? id

/-- A check of an image: the fault where it does not hold. -/
def check (ok : Bool) (code kind value want : Nat) : Option CfgFault := if ok then none else some (code, kind, value, want)

/-- Every byte of a list is zero. -/
def zeros (bs : List Byte) : Bool := bs.all (fun b => b == 0)

/-- A version is compatible with one of this release (R5). -/
def compatible (v own : Nat) : Bool := v / 2 ^ 16 == own / 2 ^ 16 && decide (v % 2 ^ 16 ≤ own % 2 ^ 16)

/-- BLK_VERSION, which is also BLK_HIF_VERSION, and BLK_PB_FORMAT (R4, R418). -/
abbrev blkVersion := 0x00030001
/-- BLK_PB_FORMAT. -/
abbrev pbFormat := 0x00020001

/-- LENGTH of the header. -/
def imgLen (h : List Byte) : Nat := leAt h 0xc 4

/-- NSECT of the header. -/
def imgSects (h : List Byte) : Nat := leAt h 0x10 2

/-- SIGNED of the header. -/
def imgSigned (h : List Byte) : Bool := leAt h 0x12 2 % 2 == 1

/-- Checks 2 to 5 of R404, on the header. -/
def headerFault (h : List Byte) : Option CfgFault :=
  firstFault
    [check (leAt h 0 4 == 0x4b425450) 0x61 1 (leAt h 0 4) 0x4b425450,
     check (compatible (leAt h 4 4) pbFormat) 0x61 2 (leAt h 4 4) pbFormat,
     check (compatible (leAt h 8 4) blkVersion) 0x61 3 (leAt h 8 4) blkVersion,
     check (imgLen h % 64 == 0 && decide (512 ≤ imgLen h ∧ imgLen h ≤ 0x400000)) 0x61 4 0xc 0,
     check (decide (2 ≤ imgSects h ∧ imgSects h ≤ 32)) 0x61 4 0x10 0,
     check (decide (leAt h 0x12 2 < 2)) 0x61 4 0x12 0,
     check (zeros (bytesAt h 0x18 40)) 0x61 4 0x18 0]

/-- A directory entry (R400). -/
structure Sect where
  ty : Nat
  off : Nat
  len : Nat
  at_ : Nat

/-- Where the trailer begins (R403). -/
def trailerAt (img : List Byte) : Nat := imgLen img - (if imgSigned img then 256 else 64)

/-- The directory (R400). -/
def sectsOf (img : List Byte) : List Sect :=
  (List.range (imgSects img)).map (fun i =>
    let b := 0x40 + 16 * i
    { ty := leAt img b 2, off := leAt img (b + 4) 4, len := leAt img (b + 8) 4, at_ := b })

/-- Two sections overlap. -/
def overlap (a b : Sect) : Bool := decide (a.off < b.off + b.len ∧ b.off < a.off + a.len)

/-- The length that R401 gives a type. -/
def lenOk (x : Sect) : Bool :=
  match x.ty with
  | 1 => x.len == 16
  | 2 => x.len == 512
  | 3 => x.len == 16
  | 4 => x.len % 8 == 0 && decide (x.len ≤ 0x3ff000)
  | _ => true

/-- Check 10 for one entry, against those before it. -/
def sectOk (img : List Byte) (x : Sect) (before : List Sect) : Bool :=
  zeros (bytesAt img (x.at_ + 2) 2) && zeros (bytesAt img (x.at_ + 12) 4) && x.off % 16 == 0 &&
    decide (0x40 + 16 * imgSects img ≤ x.off ∧ x.off + x.len ≤ trailerAt img) && lenOk x && !before.any (overlap x)

/-- Check 10 over the directory, entry by entry. -/
def dirFault (img : List Byte) : List Sect → List Sect → Option CfgFault
  | _, [] => none
  | before, x :: r => if sectOk img x before then dirFault img (x :: before) r else some (0x61, 5, x.at_, 0)

/-- How many entries have a type. -/
def countTy (xs : List Sect) (ty : Nat) : Nat := (xs.filter (fun x => x.ty == ty)).length

/-- Check 12 for one section. -/
def sectValues (img : List Byte) (x : Sect) : Option CfgFault :=
  match x.ty with
  | 1 => firstFault [check (decide (leAt img x.off 4 < 2 ^ 21)) 0x61 7 x.off 0,
      check (zeros (bytesAt img (x.off + 4) 12)) 0x61 7 (x.off + 4) 0]
  | 3 => firstFault [check (decide (2 ≤ leAt img x.off 1 ∧ leAt img x.off 1 ≤ 32)) 0x61 7 x.off 0,
      check (decide (1 ≤ leAt img (x.off + 1) 1 ∧ leAt img (x.off + 1) 1 ≤ 0xfe)) 0x61 7 (x.off + 1) 0,
      check (decide (1 ≤ leAt img (x.off + 2) 2 ∧ leAt img (x.off + 2) 2 ≤ 256)) 0x61 7 (x.off + 2) 0,
      check (zeros (bytesAt img (x.off + 4) 12)) 0x61 7 (x.off + 4) 0]
  | _ => none

/-- Checks 7 to 9 of R404, where a key is enrolled. -/
def signFault (keyhash : Nat) (img : List Byte) (digest : Nat) : Option CfgFault :=
  let t := trailerAt img
  let num := fun i => ofBe (bytesAt img (t + i) 48)
  if keyhash = 0 then none
  else if !imgSigned img then some (0x62, 2, 0x12, 0)
  else if sha384 (bytesAt img (t + 0x30) 96) ≠ keyhash then some (0x62, 3, t + 0x30, 0)
  else if !ecdsaOk digest (num 0x30) (num 0x60) (num 0x90) (num 0xc0) then some (0x62, 4, t + 0x90, 0)
  else none

/-- Checks 6 to 12 of R404, on the image whose covered bytes have the digest given. -/
def bodyFault (keyhash : Nat) (img : List Byte) (digest : Nat) : Option CfgFault :=
  let xs := sectsOf img
  firstFault
    [check (digest == ofBe (bytesAt img (trailerAt img) 48)) 0x62 1 (trailerAt img) 0,
     signFault keyhash img digest,
     dirFault img [] xs,
     check (countTy xs 1 == 1 && countTy xs 2 == 1 && decide (countTy xs 3 ≤ 1 ∧ countTy xs 4 ≤ 29)) 0x61 5 0x40 0,
     (xs.find? (fun x => x.ty = 0 || x.ty > 4)).map (fun x => (0x61, 6, x.at_, 0)),
     firstFault (xs.map (sectValues img))]

/-! ## The end of the configuration function -/

/-- Every field whose Reset is PB takes its release default (R405, R406). -/
def releaseDefaults (s : Blk) : Blk :=
  modCfg { s with regs := s.regs.filter (fun p => !isPb p.1) } (fun g => { g with pb := true })

/-- The load has failed (R404, R405): the fault, the release defaults, and the functions that do not need the image. -/
def cfgFail (s : Blk) (f : CfgFault) (addr : Nat) : Blk :=
  let s := unitFault s uCfg f.1 none (mkDetail (put f.2.1 63 56 + put f.2.2.1 31 0) f.2.2.2 addr)
  let s := releaseDefaults (orBits s rCfgIrq 2)
  refreshReady (modCfg s (fun g => { g with phase := .failed, code := f.1, op := none, srst := false, die := 0 }))

/-- Read the next piece of the image (R399). -/
def readImage (s : Blk) (at_ : Nat) : Blk :=
  let s := modCfg s (fun g => { g with phase := .image at_ })
  nvmRead s s.cfg.mode.1 at_ s.cfg.mode.2.1 (min 256 (rg s rCfgLen - at_))

/-- The mode is chosen: the header is checked, and the image is read from its first byte (R399, R404). -/
def modeChosen (s : Blk) (op dummy : Nat) : Blk :=
  let h := s.cfg.ref
  let s := modCfg s (fun g => { g with mode := (op, dummy, nvmWide op), image := [] })
  match headerFault h with
  | some f => cfgFail s f 0
  | none =>
    let s := wr (wr (wr s rCfgFormat (leAt h 4 4)) rCfgImageId (leAt h 0x14 4)) rCfgLen (imgLen h)
    readImage s 0

/-- Try the first mode of a list; with none left, 0x03 is used (R399). -/
def probe (s : Blk) (ms : List (Nat × Nat)) : Blk :=
  match ms with
  | [] => modeChosen s 0x03 0
  | (op, dummy) :: _ => nvmRead (modCfg s (fun g => { g with phase := .probe ms })) op 0 dummy 64

/-- The reference header is read with 0x03 (R399). -/
def readRef (s : Blk) : Blk := nvmRead (modCfg s (fun g => { g with phase := .ref })) 0x03 0 0 64

/-- The little-endian number of the digest bytes, as CFG_DIGEST0 to 11 show them (R419). -/
def digestWords (d : Nat) : Nat := ofLe (leBytes 48 d).reverse

/-- The whole image has been read: it is verified (R404). -/
def verify (s : Blk) : Blk :=
  let img := s.cfg.image
  let d := sha384 (img.take (trailerAt img))
  let s := modCfg s (fun g => { g with digest := digestWords d })
  match firstFault [headerFault img, bodyFault s.cfg.keyhash.toNat img d] with
  | some f => cfgFail s f 0
  | none => modCfg s (fun g => { g with phase := .verified, signed := decide (g.keyhash ≠ 0) })

/-- The bytes of an operation have arrived: the configuration function goes on (R398, R399). -/
def nvmTake (s : Blk) (bs : List Byte) : Blk :=
  match s.cfg.phase with
  | .off => if s.cfg.low || srstDrains s then s else cfgStart s
  | .sfdp =>
    if leAt bs 0 4 = 0x50444653 then
      nvmRead (modCfg s (fun g => { g with phase := .params 0 (leAt bs 6 1 + 1) })) 0x5a 8 8 8
    else readRef s
  | .params i n =>
    if leAt bs 0 1 = 0 && leAt bs 7 1 = 0xff then
      nvmRead (modCfg s (fun g => { g with phase := .bfpt, sfdp := true })) 0x5a (leAt bs 4 3) 8 64
    else if i + 1 < n then
      nvmRead (modCfg s (fun g => { g with phase := .params (i + 1) n })) 0x5a (8 + 8 * (i + 1)) 8 8
    else readRef s
  | .bfpt => readRef (modCfg s (fun g => { g with bfpt := bs }))
  | .ref =>
    let s := modCfg s (fun g => { g with ref := bs })
    if s.cfg.sfdp then probe s (modesOf s.cfg.bfpt) else modeChosen s 0x03 0
  | .probe ms =>
    match ms with
    | [] => s
    | (op, dummy) :: r => if bs = s.cfg.ref then modeChosen s op dummy else probe s r
  | .image at_ =>
    let s := modCfg s (fun g => { g with image := g.image ++ bs })
    if at_ + bs.length < rg s rCfgLen then readImage s (at_ + bs.length) else verify s
  | _ => s

/-- NVM_OPERATION_DONE: an operation that does not meet R67 sets the port's fault bit and is offered again; the third failed
repeat ends the load. -/
def nvmDone (s : Blk) (beats : List (Word × Bool)) (derr : Bool) : Blk :=
  match s.cfg.op with
  | none => s
  | some o =>
    match nvmBytes o beats derr with
    | some bs => nvmTake (modCfg s (fun g => { g with op := none })) bs
    | none =>
      let s := orBits s rPortFault 0x10
      if s.cfg.phase = .off then nvmTake (modCfg s (fun g => { g with op := none })) []
      else if o.fails < 3 then modCfg s (fun g => { g with op := some { o with fails := o.fails + 1 } })
      else cfgFail s (0x64, 1, o.addr, 0) o.addr

/-! ## Cold reset -/

/-- COLD_RESET: NRST_BLOCK falls (R74, R396). The levels that the routers drive are no state of the block's own. -/
def coldReset (s : Blk) : Blk :=
  { free := s.free, ports := { fqoXoff := s.ports.fqoXoff, fpoXoff := s.ports.fpoXoff } }

/-- Every store with an initialiser (R397). -/
def allInits : List InitStore :=
  [.tags, .safLogs, .graph, .taskTable, .joints, .readyDelay, .seqTable, .expertTable, .lanes, .rings, .homeMap, .trace,
   .other]

/-- COLD_RESET_RELEASE: NRST_BLOCK rises and KEYHASH is sampled (R70, R397, R398). -/
def coldRelease (s : Blk) (keyhash : BitVec 384) : Blk :=
  if s.cfg.low then
    cfgStart (refreshReady (modCfg s (fun g => { g with low := false, keyhash, inits := allInits })))
  else s

/-! ## Soft reset -/

/-- Order 1 of R414: the functions leave service, IRQ_OUT is low until it is enabled again (R76), and what has not been offered yet
never is. -/
def srstBegin (s : Blk) : Blk :=
  let s := wr s rIrqEn 0
  let s := modCfg s (fun g => { g with ready := g.ready % 16, srst := true, srstBoard := false, srstAt := none, phase := .off,
                                       hifRefused := false })
  { s with mem := { s.mem with waitq := s.mem.waitq.filter (fun p => p.2.owner.inReset) } }

/-- Order 2 of R414: the blot, where one is asked for; a blot under way for another cause is given up. -/
def srstBlot (s : Blk) : Blk :=
  if rgb s rDbgAuto 3 then blotAuto s 3 6 0 0 else { s with dbg := { bseq := s.dbg.bseq } }

/-- A soft reset starts (R414); none while one is in progress. -/
def softStart (s : Blk) : Option Blk := if s.cfg.srst then none else some (srstBlot (srstBegin s))

/-- Tags that are too old are retired during a soft reset (R389, R414): the fault is recorded, and nothing else happens. -/
def srstRetire (s : Blk) : Blk :=
  forEach (s.mem.out.filter (fun p => tagOld s p.2)) s (fun s p =>
    let s := freeTag s p.1
    abandonFault { s with mem := { s.mem with retired := s.mem.retired ++ [p.1] } } p.2 p.1 p.2.last)

/-- No request of the Memory Port is outstanding or on its way out. -/
def memIdle (s : Blk) : Bool :=
  s.mem.out.isEmpty && s.mem.mq.isNone && s.mem.waitq.all (fun p => p.1.isNone && !p.2.owner.inReset)

/-- The registers a soft reset keeps: those of SAF, and PEER_STATE (R415). -/
def softKeeps (k : Nat) : Bool :=
  let off := k % 0x1000000
  decide (0x160000 ≤ off ∧ off < 0x170000) || off == rPeerEnt

/-- A slot after a soft reset: FREE, its generation advanced unless it was FREE (R414, Order 6). -/
def softSlot (v : CtxSlot) : CtxSlot := { gen := if v.state = .free then v.gen else genAfter v.gen }

/-- The safety monitor across a soft reset: the running sweep goes on (R415), and its other times start again. `seen`: wall time had
begun. -/
def softSaf (v : Saf) (seen : Bool) : Saf :=
  { v with sweepKept := v.sweepKept || seen, pulseAt := 0, pulseActive := false, pulseArmedAt := none, dispatchAt := 0, armedAt := none,
           auditAt := 0, auditRun := none }

/-- The ports across a soft reset: transfers in progress complete (R76). -/
def softPorts (p : Ports) : Ports :=
  { rip := p.rip.map (fun x => (x.1, { x.2 with writtenOff := true })), fqo := p.fqo, fpo := p.fpo, fpoWait := p.fpoWait,
    fqoXoff := p.fqoXoff, fpoXoff := p.fpoXoff, rgpStatus := p.rgpStatus, rgpData := p.rgpData, diag := p.diag }

/-- The block after Order 6 of R414, its kept registers apart. SEQ does not start again (R123), and the die goes on answering peers for
its number (R76). -/
def softBlock (s : Blk) : Blk :=
  { cfg := { low := false, op := s.cfg.op, keyhash := s.cfg.keyhash, ready := s.cfg.ready % 16, srst := true, srstBoard := true,
             die := s.cfg.die, inits := allInits.filter (fun i => (i ≠ .tags && i ≠ .safLogs) || s.cfg.inits.contains i) },
    tsk := { seqNext := s.tsk.seqNext },
    ports := softPorts s.ports,
    mem := { retired := s.mem.retired },
    ctx := { slots := s.ctx.slots.foldl (fun m p => Store.put {} m p.1 (softSlot (slotOf s p.1))) [] },
    dbg := { bseq := s.dbg.bseq },
    saf := softSaf s.saf s.time.seen,
    free := s.free }

/-- Order 6 of R414: everything but what R415 keeps returns to its reset value, and the image is read again. -/
def softReinit (s : Blk) : Blk :=
  let keys := ((Store.keys s.regs).filter softKeeps) ++ [rAuditCfg]
  cfgStart (forEach keys (softBlock s) (fun t k => wr t k (rg s k)))

/-- SOFT_RESET_DRAIN_EXPIRY: CFG_SRST_DRAIN has passed since Order 3; the stores are reinitialised once no tag is
outstanding (R414, Orders 4 to 6). -/
def srstExpiry (s : Blk) : Blk :=
  match s.cfg.srstAt with
  | none => s
  | some t =>
    if s.cfg.srst && s.time.usable && decide (now s ≥ t + rgf s rSrstDrain 15 0 * 1000) then
      let s := srstRetire s
      if memIdle s then softReinit s else s
    else s

/-! ## HELLO -/

/-- HELLO (R232, R411): it always retires; HIF becomes ready as it does. -/
def runHello (s : Blk) (q : Nat) (w : Word256) : Blk :=
  if compatible (cImm w) blkVersion then retireVal s q w (some (BitVec.ofNat 64 (blkVersion * 2 ^ 32)))
  else
    let s := unitFault s uCfg 0x60 none (mkDetail (cImm w) blkVersion q)
    let s := orBits s rCfgIrq 2
    let s := if fnReady s 15 then s else modCfg s (fun g => { g with hifRefused := true })
    retireVal s q w (some (BitVec.ofNat 64 (blkVersion * 2 ^ 32 + 1)))

end Sys2Proof.Machine
end

