-- ==== Sys2Proof/Machine/RegWrite.lean ====
section
/-! DEFINITION. Writing the registers (R11 to R14, R63 to R65, R420 to R422): which values R14 refuses, what a write stores, and
what it does besides. -/
namespace Sys2Proof.Machine

/-- Some effect where a condition holds; R14 refuses the write where it does not. -/
def allow (ok : Bool) (s : Blk) : Option Blk := if ok then some s else none

/-- A field lies in a range. -/
def inRange (lo hi n : Nat) : Bool := decide (lo ≤ n ∧ n ≤ hi)

/-- The RW bits of a word take the value written; the others stay (R11). -/
def storeAt (s : Blk) (k mask : Nat) (v : Word) : Blk :=
  wr s k ((rg s k &&& (0xffffffff ^^^ mask)) ||| (v.toNat &&& mask))

/-- Store into the word that an offset shows. -/
def storeReg (s : Blk) (off : Nat) (v : Word) : Blk := storeAt s (selKey s off) ((storedMask off).getD 0) v

/-! ## Write-one-to-clear registers -/

/-- The status registers of one word and their W1C bits (R11). -/
def w1cTable : List (Nat × Nat) :=
  [(rRegionFail, 0xffff), (rPortFault, 0x7f), (rCfgIrq, 3), (rCsqIrq, 3), (rTskIrq, 1), (rIssIrq, 1), (rSqtIrq, 3), (rXchIrq, 3),
   (rCtxIrq, 0xf), (rObsIrq, 7), (rSafIrq, 7), (rDbgIrq, 3), (rAlarmCause, 0x1ff)]

/-- The W1C bits of an offset. -/
def w1cMask (off : Nat) : Option Nat := (w1cTable.find? (fun p => p.1 == off)).map Prod.snd

/-- Clear bits of a status register; a cleared bit of BLK_REGION_FAIL returns its port pair to service (R80, R375), and
clearing SELF repeats the self-check: a check that fails again is a further SELF_CHECK_FAIL (R383). -/
def w1cAct (s : Blk) (off m : Nat) : Blk :=
  let gone := (List.range 16).filter (fun n => off == rRegionFail && m.testBit n && regionOut s n)
  let s := if off = rAlarmCause && m.testBit 7 then { s with saf := { s.saf with selfBad := false } } else s
  forEach gone (clrBits s off m) regionReturns

/-! ## BLK, CFG -/

/-- A write to BLK or CFG (R80, R419, R423). -/
def actBlk (s : Blk) (off : Nat) (v : Word) : Option Blk :=
  if off = rDiagSel then allow (decide (fld v 4 0 ≤ 0x10)) (storeReg s off v)
  else if off = 0x10020 then (if bitAt v 0 then softStart s else some s)
  else if off = rSrstDrain then allow (fld v 15 0 ≠ 0) (storeReg s off v)
  else some (storeReg s off v)

/-! ## CSQ -/

/-- A write of CSQ_SQq_CFG (R226, R255). -/
def sqCfgWrite (s : Blk) (q : Nat) (v : Word) : Option Blk :=
  let k := sqReg q 0
  let en := bitAt v 31
  let st := (queueOf s q).state
  let same := (v.toNat &&& 0x70ff1f1f) == (rg s k &&& 0x70ff1f1f)
  let s' := storeAt s k 0xf0ff1f1f v
  if !(inRange 4 16 (fld v 4 0) && inRange 4 16 (fld v 12 8)) then none
  else if rgb s k 31 then
    if !same then none
    else if en then some s'
    else allow (st == .idle || st == .brk || st == .halted) (disableQ s' q)
  else some (if en then enableQ s' q else s')

/-- A write of half a scratch register (R233). -/
def scratchWrite (s : Blk) (q o : Nat) (v : Word) : Option Blk :=
  let x := queueOf s q
  let i := (o - 0x80) / 8
  let old := scratch x i
  let new : Word64 := if o % 8 = 0 then setFld old 31 0 v.toNat else setFld old 63 32 v.toNat
  allow (x.state == .disabled || x.state == .idle || x.state == .brk || x.state == .halted) (setQ s q (wrScratch x i new))

/-- A write to a register of queue q (R243, R255). -/
def actSq (s : Blk) (q off : Nat) (v : Word) : Option Blk :=
  let o := off % 0x100
  if o = 0 then sqCfgWrite s q v
  else if o = 0x24 then allow (inRange 1 3 (fld v 2 0)) (ctlWrite s q (fld v 2 0))
  else if 0x80 ≤ o then scratchWrite s q o v
  else some (storeReg s off v)

/-- A write to CSQ (R254, R255). -/
def actCsq (s : Blk) (off : Nat) (v : Word) : Option Blk :=
  if rSq ≤ off && off < 0x25000 then actSq s ((off - rSq) / 0x100) off v
  else if off = rPulseNs then allow (inRange 64 1000 (fld v 9 0)) (storeReg s off v)
  else if off = rPcsCfg then allow (inRange 6 20 (fld v 4 0)) (storeReg s off v)
  else if off = 0x20144 then some (if bitAt v 0 || bitAt v 1 then endBreak s (bitAt v 1) else s)
  else some (storeReg s off v)

/-! ## GST, TSK, JNT -/

/-- GST_CMD (R89, R90, R93, R441). -/
def gstCmd (s : Blk) (v : Word) : Option Blk :=
  let tid := fld v 11 0
  let op := fld v 29 28
  if op = 0 || op = 3 then none
  else if gstBusy s then some (gstStatus s true 7 (rgf s rGstStatus 15 0))
  else if op = 1 then some (gstBegin s none tid (rg2 s rGstAddrLo rGstAddrHi) (rgf s rGstRecs 13 0) none).2
  else some (gstUninstall s tid)

/-- A write to GST, TSK or JNT (R119 to R121). -/
def actGraph (s : Blk) (off : Nat) (v : Word) : Option Blk :=
  if off = 0x4000c then gstCmd s v
  else if off = rTskQuota then allow (decide (fld v 17 0 ≤ 0x20000)) (storeReg s off v)
  else if off = rEarlyTtl then allow (fld v 15 0 ≠ 0) (storeReg s off v)
  else some (storeReg s off v)

/-! ## RDY, DLY, ISS -/

/-- A new bucket size: with no ceiling the bucket stays full (R146). -/
def burstWrite (s : Blk) (v : Word) : Blk :=
  let s := storeReg s rThrBurst v
  { s with iss := { s.iss with tokens := if s.iss.ceil = 255 then thrBurst s else min s.iss.tokens (thrBurst s) } }

/-- A new floor is a new rate while the ceiling is 0x00 (R146): tokens are counted anew from now on. -/
def floorIss (s : Blk) : Iss := if s.iss.ceil = 0 then { s.iss with gainAt := now s, gained := 0 } else s.iss

/-- A write to RDY, DLY or ISS (R158, R159, R401). -/
def actIssue (s : Blk) (off : Nat) (v : Word) : Option Blk :=
  if off = rDlyTick then allow (inRange 3 20 (fld v 4 0)) (storeReg s off v)
  else if off = rDepth then allow (inRange 2 (min 32 (rgf s rCfgLimits 31 24)) (fld v 5 0)) (storeReg s off v)
  else if rCap ≤ off && off < rC0Resv then allow (inRange 1 32 (fld v 5 0)) (storeReg s off v)
  else if off = rC0Resv then allow (inRange 1 8 (fld v 3 0)) (storeReg s off v)
  else if off = rThrFloor then
    allow (inRange (max 1 (rgf s rCfgLimits 23 16)) 0xfe (fld v 7 0)) { storeReg s off v with iss := floorIss s }
  else if off = rThrBurst then allow (inRange 1 64 (fld v 6 0)) (burstWrite s v)
  else some (storeReg s off v)

/-! ## SVE -/

/-- A write to a register of a sieve set is in order (R160, R166, R197). -/
def setOk (o : Nat) (v : Word) : Bool :=
  match o with
  | 0 =>
    let keep := fld v 25 20
    let k := fld v 19 14
    decide (fld v 29 28 ≤ 1) && fld v 27 26 ≠ 3 && inRange 1 32 k && inRange k 32 keep && decide (fld v 9 7 ≤ 4) &&
      fld v 6 3 ≠ 15 && decide (keep * 2 ^ fld v 6 3 ≤ 16384)
  | 8 => inRange 1 65536 (fld v 16 0)
  | 0xc => inRange 1 256 (fld v 8 0) && decide (fld v 25 16 + fld v 8 0 ≤ 1024)
  | 0x10 => inRange 1 256 (fld v 8 0) && decide (fld v 25 16 + fld v 8 0 ≤ 1024)
  | 0x14 => inRange 1 256 (fld v 8 0) && decide (fld v 25 16 + fld v 8 0 ≤ 1024)
  | 0x18 => fld v 11 0 ≠ 0
  | _ => true

/-- A scope whose sieve has HOME_MODE 0 names a die-list entry by its HOME_IDX (R163, R164). -/
def namesEnt (s : Blk) (l scope i : Nat) : Bool :=
  match (launchOf s l).bind (fun lv => expertNode s lv scope) with
  | some (_, n) => xpHomeMode n == 0 && xpHomeIdx n == i
  | none => false

/-- A die-list entry lies in a range, or is named by a HOME_IDX, of a live run or expander scope (R163). -/
def entLive (s : Blk) (i : Nat) : Bool :=
  (List.range 16).any (fun n => setLive s n ≠ 0 && [0xc, 0x10, 0x14].any (fun o => spansMeet (setRange s n o) (i, 1))) ||
    (Store.vals s.sve.runs).any (fun r => namesEnt s r.launch r.scope i) ||
    (openScopes s).any (fun x => namesEnt s x.launch x.scope i)

/-- A write to SVE (R162, R163, R196, R197). -/
def actSve (s : Blk) (off : Nat) (v : Word) : Option Blk :=
  if rSet ≤ off && off < rSet + 0x400 then
    allow (setLive s ((off - rSet) / 0x40) == 0 && setOk ((off - rSet) % 0x40) v) (storeReg s off v)
  else if off = rDieId || off = rDieCtx then allow (!entLive s (rgf s rDieSel 9 0)) (storeReg s off v)
  else if off = 0xc0010 then some (if bitAt v 0 then xtLoad s else s)
  else if off = rXtCount then allow (inRange 1 262144 (fld v 18 0)) (storeReg s off v)
  else if off = rXlLines then allow (inRange 2 256 (fld v 8 0) && (openScopes s).isEmpty) (storeReg s off v)
  else if off = rRunTimeout then allow (fld v 19 0 ≠ 0) (storeReg s off v)
  else some (storeReg s off v)

/-! ## SQT -/

/-- A write to SQT_CTX_CFG: attaching a context discards a course built before (R204, R220). -/
def sqtCfgWrite (s : Blk) (c : Nat) (v : Word) : Option Blk :=
  let s' := storeReg s rSqtCfg v
  if attached s c && !bitAt v 31 then allow (seqsOf s c).isEmpty s'
  else some (if attached s c then s' else dropCourse s' c)

/-- A write to a per-context register of SQT (R220). -/
def actSqtCtx (s : Blk) (c off : Nat) (v : Word) : Option Blk :=
  if off = rSqtCfg then sqtCfgWrite s c v
  else if off = rSqtQuota then allow (decide (fld v 16 0 ≤ 0x10000)) (storeReg s off v)
  else if off = rSqtLimits then allow (decide (fld v 14 0 + rgf s (bank rSqtTokBase c) 14 0 ≤ 32767)) (storeReg s off v)
  else if off = rSqtTokBase then allow (decide (fld v 14 0 + rgf s (bank rSqtLimits c) 14 0 ≤ 32767)) (storeReg s off v)
  else if off = rSqtRings then
    allow (inRange 1 4096 (fld v 28 16) && inRange 4 16 (fld v 12 8) && inRange 4 16 (fld v 4 0)) (storeReg s off v)
  else some (storeReg s off v)

/-- A write to SQT_CTX_STATUS: clearing REQ_FAULT resumes requests (R213, R220). -/
def sqtStatusWrite (s : Blk) (c : Nat) (v : Word) : Blk :=
  let x := sqtOf s c
  let s := if bitAt v 1 then setSqt s c { x with ntcFull := false } else s
  if bitAt v 0 && x.reqFault then clearReqFault s c else s

/-- A write to SQT (R219, R220). -/
def actSqt (s : Blk) (off : Nat) (v : Word) : Option Blk :=
  let c := rgf s rSqtCtxSel 7 0
  if off = 0xe0138 then some (sqtStatusWrite s c v)
  else if rSqtCfg ≤ off && off ≤ 0xe0134 then
    if (courseLaunch s c).isSome then none else actSqtCtx s c off v
  else some (storeReg s off v)

/-! ## XCH -/

/-- A grant of another context overlaps a new one: BASE from bit 0, COUNT from bit 16 (R283). -/
def grantMeets (s : Blk) (off c base count : Nat) : Bool :=
  (List.range 256).any (fun d =>
    let w := rg s (bank off d)
    d ≠ c && count ≠ 0 && w / 2 ^ 16 ≠ 0 && spansMeet (base, count) (w % 2 ^ 16, w / 2 ^ 16))

/-- A write to XCH_CTX_RINGS: the rings of the old grant become FREE (R261, R283). -/
def ringGrant (s : Blk) (c : Nat) (v : Word) : Option Blk :=
  let base := fld v 13 0
  let count := fld v 30 16
  let old := rg s (bank rXchRings c)
  let oldSpan := (old % 2 ^ 16, old / 2 ^ 16)
  let isOpen := s.xch.rings.any (fun p => spansMeet oldSpan (p.1, 1) && p.2.state == .opened)
  if base + count > 16384 || grantMeets s rXchRings c base count then none
  else if (base, count) = oldSpan then some s
  else if isOpen then none
  else some (freeRings (storeReg s rXchRings v) oldSpan.1 oldSpan.2)

/-- A write to XCH_CTX_SCHS (R283). -/
def chanGrant (s : Blk) (c : Nat) (v : Word) : Option Blk :=
  let base := fld v 9 0
  let count := fld v 26 16
  allow (decide (base + count ≤ 1024) && !grantMeets s rXchSchs c base count) (storeReg s rXchSchs v)

/-- A write to XCH (R283). -/
def actXch (s : Blk) (off : Nat) (v : Word) : Option Blk :=
  let c := rgf s rXchCtxSel 7 0
  if off = rReplyTimer then allow (inRange 2 1000 (fld v 9 0)) (storeReg s off v)
  else if off = rOrderHold then allow (inRange 100 1200 (fld v 10 0)) (storeReg s off v)
  else if off = rOrderWin then allow (inRange 1 1000 (fld v 9 0)) (storeReg s off v)
  else if off = rXchRings then ringGrant s c v
  else if off = rXchSchs then chanGrant s c v
  else some (storeReg s off v)

/-! ## CTX -/

/-- CTX_CTL (R306, R334). -/
def ctlCtx (s : Blk) (c : Nat) (v : Word) : Option Blk :=
  match fld v 2 0 with
  | 1 => ctlOpen s c
  | 2 => ctlFence s c
  | 3 => ctlReset s c
  | 4 => ctlClose s c
  | 5 => ctlResume s c
  | _ => none

/-- A write of CTX_ORD_MODE is refused (R285). -/
def ordHeld (s : Blk) (c : Nat) : Bool :=
  (Store.vals s.tsk.launches).any (fun l => l.ctx == c) ||
    s.csq.queues.any (fun p => sqCtx s p.1 == c && (p.2.state == .run || p.2.state == .wait || p.2.state == .sleep))

/-- A write of CTX_ORD_MODE (R285, R302). Ruled: the tick counter and the rotor are 0, and what is owed still is due at tick 1.
Free: what is held for a tick takes effect. -/
def ordWrite (s : Blk) (c : Nat) (v : Word) : Option Blk :=
  if fld v 1 0 > 1 || ordHeld s c then none
  else if bitAt v 0 then
    let s := storeReg s rOrdMode v
    let s := setSlot s c { slotOf s c with tick := 0, rotor := 0, front := none, frontStalled := false, tickOpen := false }
    some { s with ctx := { s.ctx with owed := s.ctx.owed.map (fun o => if o.ctx = c then { o with due := 1 } else o) } }
  else
    let s := storeReg s rOrdMode v
    some (releaseOwed (setSlot s c { slotOf s c with tick := 0, front := none, frontStalled := false, tickOpen := false }) c)

/-- CTX_ORD_CTL (R302). -/
def ordCtl (s : Blk) (c : Nat) (v : Word) : Option Blk :=
  if bitAt v 1 && (courseLaunch s c).isSome then none
  else
    let s := if bitAt v 1 then setSqt s c { sqtOf s c with stepCnt := rg s (bank rReplayStep c) } else s
    some (if bitAt v 0 then setSlot s c { slotOf s c with tcc := 0 } else s)

/-- A slot is on its way out of use: CTX_BOARD is not writable (R318). -/
def boardHeld (s : Blk) : Bool :=
  (Store.vals s.ctx.slots).any (fun v => v.state == .draining || v.state == .closing || v.state == .pendingReuse)

/-- No byte of a word is 0. -/
def bytesSet (v : Word) : Bool := (List.range 4).all (fun i => fld v (8 * i + 7) (8 * i) ≠ 0)

/-- A write to CTX (R302, R304, R310, R318, R334 to R336). -/
def actCtx (s : Blk) (off : Nat) (v : Word) : Option Blk :=
  let c := rgf s rCtxSel 7 0
  let o := rgf s rOrdSel 7 0
  if off = 0x120008 then ctlCtx s c v
  else if off = 0x12000c then
    allow (ctxSt s c == .free && fld v 7 0 ≠ 0) (setSlot s c { slotOf s c with gen := fld v 7 0 })
  else if off = rQuiesce then allow (decide (fld v 15 0 ≥ 10)) (storeReg s off v)
  else if off = 0x120100 then renew s v
  else if off = rBoardLo || off = rBoardHi then allow (!boardHeld s) (storeReg s off v)
  else if off = rCtxStatus then some (clrBits s off (v.toNat &&& 2 ^ 31))
  else if off = rPeerEnt then some (peerWrite s (rgf s rPeerSel 7 0) v)
  else if off = rOrdMode then ordWrite s o v
  else if off = rRlat then allow (bytesSet v) (storeReg s off v)
  else if off = 0x120824 then ordCtl s o v
  else some (storeReg s off v)

/-! ## OBS, DBG -/

/-- A source whose events never concern a context (N, R340). -/
def srcNone (n : Nat) : Bool :=
  inRange 0x41 0x50 n || [0x6e, 0x74, 0x7a, 0x7c, 0x7d, 0x7f, 0xc5].contains n || inRange 0x10e 0x111 n ||
    inRange 0x116 0x11d n || inRange 0x130 0x134 n || inRange 0x13e 0x147 n || inRange 0x14a 0x14f n

/-- A write of OBS_CNTn_CFG: a change of SRC or CTX sets the counter to 0 (R338, R339, R366). -/
def cntWrite (s : Blk) (n : Nat) (v : Word) : Option Blk :=
  let k := cntReg n
  let src := fld v 24 16
  let x := Store.getD s.obs.cnt n {}
  let moved := src ≠ rgf s k 24 16 || fld v 7 0 ≠ rgf s k 7 0
  let y : Counter := if moved then {} else { x with ovf := x.ovf && !bitAt v 28 }
  let s' := storeAt s k (if n < 48 then 0xa1ff00ff else 0xe1ff00ff) v
  if src ≥ 0x150 || (n < 48 && srcNone src) then none
  else some { s' with obs := { s'.obs with cnt := Store.put {} s'.obs.cnt n y } }

/-- LIVE := 0 (R366). -/
def cntClear (s : Blk) (n : Nat) : Blk :=
  let x := Store.getD s.obs.cnt n {}
  { s with obs := { s.obs with cnt := Store.put {} s.obs.cnt n { x with live := 0 } } }

/-- A write of OBS_CTX_LCFG: setting EN makes head and tail 0 (R346, R367). -/
def lcfgWrite (s : Blk) (c : Nat) (v : Word) : Option Blk :=
  let k := lcfg c
  let fresh := bitAt v 31 && !rgb s k 31
  let s' := storeAt s k 0x8000000f v
  let s' := if bitAt v 30 then clrBits s' k (2 ^ 30) else s'
  let s' := if fresh then
      wr { s' with obs := { s'.obs with ltail := Store.erase s'.obs.ltail c } } (pageReg c 0x814) 0
    else s'
  allow (inRange 2 12 (fld v 3 0)) s'

/-- A write of OBS_Bb_CFG (R351, R368): setting EN makes the buffer ARMED and empty. -/
def bufWrite (s : Blk) (b : Nat) (v : Word) : Option Blk :=
  let k := bufReg b 0
  let was := rgb s k 31
  let en := bitAt v 31
  let s' := storeAt s k 0xe000001f v
  let t := bufOf s' b
  let s' := if en && !was then setBuf s' b { t with state := .armed, recs := [], postLeft := 0, lossRun := none }
    else if !en && was then setBuf s' b { t with state := .off, postLeft := 0 }
    else s'
  allow (inRange 12 30 (fld v 4 0) && !(bufDrain s b && fld v 4 0 ≠ rgf s k 4 0)) s'

/-- OBS_Bb_CTL.ARM (R354): accepted with DRAIN 0, or once the buffer has been drained empty. -/
def armBuf (s : Blk) (b : Nat) : Blk :=
  let t := bufOf s b
  let empty := t.recs.isEmpty && t.lossRun.isNone && t.lines.isEmpty
  if t.state = .off || (bufDrain s b && !empty) then s
  else setBuf s b { t with state := .armed, recs := [], postLeft := 0, lossRun := none }

/-- A write to a register of buffer b (R356, R368). -/
def actBuf (s : Blk) (b off : Nat) (v : Word) : Option Blk :=
  match off % 0x40 with
  | 0 => bufWrite s b v
  | 4 => some (if bitAt v 0 then armBuf s b else s)
  | 8 => some (if bitAt v 29 then setBuf s b { bufOf s b with fault := false } else s)
  | _ => some (storeReg s off v)

/-- OBS_TRIG_CFG is in order (R367). -/
def trigOk (v : Word) : Bool :=
  let ty := fld v 4 0
  decide (fld v 31 29 ≤ 5) && inRange 1 0xe ty && (!bitAt v 28 || ty == 8 || ty == 9)

/-- A write to OBS (R366 to R368). -/
def actObs (s : Blk) (off : Nat) (v : Word) : Option Blk :=
  if off < rCnt + 0x800 then
    let n := (off - rCnt) / 0x20
    if off % 0x20 = 0 then cntWrite s n v
    else some (if off % 0x20 = 0x14 && bitAt v 0 then cntClear s n else s)
  else if rBuf ≤ off && off < rBuf + 0x100 then actBuf s ((off - rBuf) / 0x40) off v
  else if off = rLcfg then lcfgWrite s (rgf s rObsCtxSel 7 0) v
  else if off = rTrcCfg then allow (decide (fld v 15 0 ≥ 34)) (storeReg s off v)
  else if off = rTrcFlush then allow (fld v 15 0 ≠ 0) (storeReg s off v)
  else if off = rTrigCfg then allow (trigOk v) (storeReg s off v)
  else if off = 0x140918 then some (if bitAt v 0 then trigger s 0 0 else s)
  else some (storeReg s off v)

/-- DBG_CTL (R359, R370): a write of both bits makes both requests. -/
def dbgCtl (s : Blk) (v : Word) : Blk :=
  let s := if bitAt v 1 then blotAsk s { cause := 2, snapshot := false, code := 0, ctx := 0 } else s
  if bitAt v 0 then blotAsk s { cause := 1, snapshot := true, code := 0, ctx := 0 } else s

/-- DBG_CFG is in order (R370): LOG2 and SLOTS do not change while a blot is being written. -/
def dbgCfgOk (s : Blk) (v : Word) : Bool :=
  inRange 16 23 (fld v 12 8) && inRange 1 64 (fld v 6 0) &&
    (s.dbg.phase == .idle || (fld v 12 8 == rgf s rDbgCfg 12 8 && fld v 6 0 == rgf s rDbgCfg 6 0))

/-- A write to DBG (R370). -/
def actDbg (s : Blk) (off : Nat) (v : Word) : Option Blk :=
  if off = 0x180000 then some (dbgCtl s v)
  else if off = rDbgCfg then allow (dbgCfgOk s v) (storeReg s off v)
  else some (storeReg s off v)

/-! ## SAF -/

/-- SAF_LOG_CLR (R390). -/
def clearLog (s : Blk) : Blk := setLog s (rgf s rLogSel 12 4) {}

/-- A write to SAF (R382, R388, R390, R395). -/
def actSaf (s : Blk) (off : Nat) (v : Word) : Option Blk :=
  if off = 0x160008 then some (if bitAt v 0 then raiseAlarm s aTest 0 0 else s)
  else if off = rWdog then allow (inRange 2 19 (fld v 4 0)) (storeReg s off v)
  else if off = rSweep then allow (inRange 250 2000 (fld v 10 0)) (storeReg s off v)
  else if off = rTagAge then allow (decide (fld v 15 0 ≥ 100)) (storeReg s off v)
  else if off = rAuditCfg then
    allow (!bitAt v 7) (storeReg { s with saf := { s.saf with auditAt := now s } } off v)
  else if off = rLogSel then allow (decide (fld v 12 4 ≤ 271)) (storeReg s off v)
  else if off = 0x160068 then some (if bitAt v 0 then clearLog s else s)
  else some (storeReg s off v)

/-! ## Context pages -/

/-- Store into a word of a context page. -/
def storePage (s : Blk) (c o : Nat) (v : Word) : Blk := storeAt s (pageReg c o) ((rowMask rowsPage o).getD 0) v

/-- A write to a CSQ register of a page (R256). -/
def pageCsq (s : Blk) (c o : Nat) (v : Word) : Option Blk :=
  let q := rgf s (pageReg c 4) 5 0
  if o = 0 then doorbell s c (fld v 21 16) (fld v 15 0)
  else if o = 4 then some (storePage s c o v)
  else if sqCtx s q ≠ c then none
  else if o = 0x10 then some (push (modQ s q (fun x => { x with cplHead := fld v 15 0 })) [.cplPump q])
  else some s

/-- A write to an SQT register of a page (R221): a new notice head may let notices and boundaries go on. -/
def pageSqt (s : Blk) (c o : Nat) (v : Word) : Option Blk :=
  if o = 0x20c then some (push (storePage s c o v) [.notices c, .boundaries]) else some (storePage s c o v)

/-- XCH_RCTL (R261, R284). -/
def ringCtl (s : Blk) (c g : Nat) (v : Word) : Option Blk :=
  match fld v 1 0 with
  | 1 => some (openRing s g none)
  | 2 => (liveLaunch s c (ringOf s g).rltag).map (fun p => openRing s g (some p.1))
  | 3 => some (closeRing s g)
  | _ => none

/-- A write to a register of the send channel a page shows (R284). -/
def pageChan (s : Blk) (c ch o : Nat) (v : Word) : Option Blk :=
  let x := chanOf s ch
  if chanCtx s ch ≠ some c then none
  else match o with
    | 0x408 => chanCfg s c ch v
    | 0x40c => some (setChan s ch { x with base := x.base / 2 ^ 32 * 2 ^ 32 + fld v 31 5 * 32 })
    | 0x410 => some (setChan s ch { x with base := x.base % 2 ^ 32 + fld v 19 0 * 2 ^ 32 })
    | _ => some s

/-- A write to a register of the receive ring a page shows (R261, R284). -/
def pageRing (s : Blk) (c g o : Nat) (v : Word) : Option Blk :=
  let x := ringOf s g
  if ringCtx s g ≠ some c then none
  else match o with
    | 0x41c => ringCfg s c g v
    | 0x420 => some (setRing s g { x with base := x.base / 2 ^ 32 * 2 ^ 32 + fld v 31 6 * 64 })
    | 0x424 => some (setRing s g { x with base := x.base % 2 ^ 32 + fld v 19 0 * 2 ^ 32 })
    | 0x428 => some (setRing s g { x with ptrAddr := x.ptrAddr / 2 ^ 32 * 2 ^ 32 + fld v 31 6 * 64 })
    | 0x42c => some (setRing s g { x with ptrAddr := x.ptrAddr % 2 ^ 32 + fld v 19 0 * 2 ^ 32 })
    | 0x430 => ringCtl s c g v
    | 0x434 => some (setRing s g { x with rltag := v.toNat })
    | _ => some s

/-- A write to an XCH register of a page (R284). -/
def pageXch (s : Blk) (c o : Nat) (v : Word) : Option Blk :=
  if o = 0x400 then sendDoorbell s c (fld v 25 16) (fld v 15 0)
  else if o = 0x404 || o = 0x418 then some (storePage s c o v)
  else if o < 0x418 then pageChan s c (rgf s (pageReg c 0x404) 9 0) o v
  else pageRing s c (rgf s (pageReg c 0x418) 13 0) o v

/-- A write to context page c (R422). -/
def actPage (s : Blk) (c o : Nat) (v : Word) : Option Blk :=
  if o < 0x200 then pageCsq s c o v
  else if o < 0x400 then pageSqt s c o v
  else if o < 0x600 then pageXch s c o v
  else if o = 0x800 then allow (decide (fld v 5 0 < 48)) (storePage s c o v)
  else some (storePage s c o v)

/-! ## The map -/

/-- What a write at a mapped offset below the diagnostic window does; none where R14 refuses it. -/
def regAct (s : Blk) (off : Nat) (v : Word) : Option Blk :=
  match w1cMask off with
  | some m => some (w1cAct s off (v.toNat &&& m))
  | none =>
    if rPage ≤ off then actPage s ((off - rPage) / 0x1000) (off % 0x1000) v
    else if off < 0x20000 then actBlk s off v
    else if off < 0x40000 then actCsq s off v
    else if off < 0x70000 then actGraph s off v
    else if off < 0xb0000 then actIssue s off v
    else if off < 0xd0000 then actSve s off v
    else if off < 0xf0000 then actSqt s off v
    else if off < 0x110000 then actXch s off v
    else if off < 0x130000 then actCtx s off v
    else if off < 0x150000 then actObs s off v
    else if off < 0x170000 then actSaf s off v
    else actDbg s off v

/-- A register has a RW field (R402). -/
def hasRw (off : Nat) : Bool :=
  match storedMask off with
  | some m => m ≠ 0
  | none => (rSq ≤ off && off < 0x25000 && 0x80 ≤ off % 0x100) || off == 0x12000c || (rCnt ≤ off && off < rCnt + 0x800 && off % 0x20 == 0)

/-- A doorbell of the Sequencer that R224 refuses is counted (R224). -/
def refusedDoorbell (s : Blk) (off : Nat) : Blk :=
  if rPage ≤ off && off < 0x300000 && off % 0x1000 = 0 then ev (bump s rDbBad) 0xc3 ((off - rPage) / 0x1000) else s

/-- A Register Port write (R63 to R65, R408). Nothing is acknowledged before REG is ready, nor while an earlier access is held. Every
write into the diagnostic window answers REFUSED (R425), an unprivileged one too, for which R63 also lists PRIV_REFUSED. DESIGN CHOICE:
assumption 36. -/
def busWrite (s : Blk) (a : Access) (off : Nat) (v : Word) : Blk :=
  if !fnReady s 0 || s.ports.diag.isSome then s
  else if !a.parityOk then rgpEnd s rgpParity 0
  else if 0x400000 ≤ off && off < 0x1000000 then rgpEnd s rgpRefused 0
  else if !a.priv && !unprivOk off true then rgpEnd s rgpPriv 0
  else if (regPlain s off).isNone then rgpEnd s rgpNotMapped 0
  else if !fnReady s (unitFn (unitOf off)) then refuseWrite s off v a
  else match regAct s off v with
    | some t => rgpEnd t rgpOk 0
    | none => refuseWrite (refusedDoorbell s off) off v a

/-- The context for which a register write asks a store that other parties ask too: that of CTX_CTL, and the page of XCH_RCTL. -/
def asksFor (s : Blk) (off : Nat) : Option Nat :=
  if off = 0x120008 then some (rgf s rCtxSel 7 0)
  else if 0x200000 ≤ off ∧ off < 0x400000 ∧ off % 4096 = 0x430 then some (off / 4096 % 256)
  else none

/-- A Register Port write that was performed, with no access held before it, counts a contested grant of the store that it asked (R278,
R297, R393). -/
def grantedWrite (s : Blk) (a : Access) (off : Nat) (t : Blk) : Blk :=
  match asksFor s off with
  | some c => if s.ports.diag = none ∧ t.ports.rgpStatus = rgpOk then contested t c a.waiting else t
  | none => t

end Sys2Proof.Machine
end

