-- ==== Sys2Proof/Machine/Book.lean ====
section
/-! DEFINITION. Applying the Pattern Book (R401, R402, R405): release defaults, identity, engine mask, limits and settings. -/
namespace Sys2Proof.Machine

/-- The image's sections of a type, in directory order. -/
def sectsTy (img : List Byte) (ty : Nat) : List Sect := (sectsOf img).filter (fun x => x.ty == ty)

/-- IDENTITY: CFG_DIE and BLK_DIE (R26). -/
def applyIdentity (img : List Byte) (s : Blk) : Blk :=
  match sectsTy img 1 with
  | x :: _ => modCfg s (fun g => { g with die := leAt img x.off 4, dieValid := true })
  | [] => s

/-- ENGINE_MASK: bit (e mod 32) of word (e div 32) masks engine e (R25). -/
def applyMask (img : List Byte) (s : Blk) : Blk :=
  match sectsTy img 2 with
  | x :: _ => modCfg s (fun g => { g with mask := (List.range 128).map (fun i => leAt img (x.off + 4 * i) 4) })
  | [] => s

/-- LIMITS: ISS_DEPTH is clamped to QDEPTH, and ISS_THR_FLOOR to FLOOR_MIN (R401, R405). -/
def applyLimits (img : List Byte) (s : Blk) : Blk :=
  match sectsTy img 3 with
  | x :: _ =>
    let qdepth := leAt img x.off 1
    let floor := leAt img (x.off + 1) 1
    let s := wr s rCfgLimits (put qdepth 31 24 + put floor 23 16 + put (leAt img (x.off + 2) 2) 8 0)
    wr (wr s rDepth (min (rg s rDepth) qdepth)) rThrFloor (max (rg s rThrFloor) floor)
  | [] => s

/-- A settings entry (R402), and its byte offset's index in the image. -/
structure Setting where
  off : Nat
  all : Bool
  bad : Bool
  value : Word
  idx : Nat

/-- The settings entries of the image, in the order they are applied; an index counts entries through all sections. -/
def settingsOf (img : List Byte) : List Setting :=
  ((sectsTy img 4).flatMap (fun x => (List.range (x.len / 8)).map (fun i => x.off + 8 * i))).zipIdx.map (fun p =>
    let w := leAt img p.1 4
    { off := w % 2 ^ 24, all := (w >>> 24) % 2 == 1, bad := w / 2 ^ 25 ≠ 0, value := w32 (leAt img (p.1 + 4) 4), idx := p.2 })

/-- A setting is skipped: fault 0x63 and CFG_SKIPPED (R402, R404, R419). -/
def skipSetting (s : Blk) (e : Setting) (slot : Nat) : Blk :=
  let s := unitFault s uCfg 0x63 none (mkDetail (put e.off 23 0 + put slot 31 24) e.value.toNat e.idx)
  let n := rgf s rCfgSkipped 15 0
  let first := if n = 0 then e.idx else rgf s rCfgSkipped 31 16
  wr s rCfgSkipped (put first 31 16 + put (min (n + 1) 0xffff) 15 0)

/-- The selector that chooses the context slot of an offset, where one does (R402). -/
def slotSel (off : Nat) : Option Nat :=
  match selOf off with
  | some (r, _) => if r = rDieSel || r = rPeerSel then none else some r
  | none => none

/-- Write one setting, or skip it. -/
def writeSetting (s : Blk) (e : Setting) (slot : Nat) : Blk :=
  match regAct s e.off e.value with
  | some t => t
  | none => skipSetting s e slot

/-- A setting names a register that a setting may write (R402). -/
def settingOk (s : Blk) (e : Setting) : Bool :=
  !e.bad && e.off % 4 == 0 && decide (e.off < 0x200000) && (regPlain s e.off).isSome && hasRw e.off &&
    (!e.all || (slotSel e.off).isSome)

/-- Apply one settings entry (R402): with ALLCTX once for each context slot, restoring the selector after each. -/
def applySetting (s : Blk) (e : Setting) : Blk :=
  if !settingOk s e then skipSetting s e 0
  else match e.all, slotSel e.off with
    | true, some sel =>
      let was := rg s sel
      forEach (List.range 256) s (fun s c => wr (writeSetting (wr s sel c) e c) sel was)
    | _, _ => writeSetting s e 0

/-- The image is applied (R405). The register words it leaves are kept: an upset of a register brings them back (R373). -/
def applyImage (s : Blk) : Blk :=
  let img := s.cfg.image
  let s := applyLimits img (applyMask img (applyIdentity img (releaseDefaults s)))
  let s := forEach (settingsOf img) s applySetting
  refreshReady (modCfg s (fun g => { g with phase := .done, srst := false, applied := s.regs }))

/-- PB_APPLY: the image is verified, and every store has been initialised (R405). -/
def pbApply (s : Blk) : Blk := if s.cfg.phase = .verified && s.cfg.inits.isEmpty then applyImage s else s

end Sys2Proof.Machine
end

