-- ==== Sys2Proof/Machine/Ruled.lean ====
section
/-! DEFINITION. The ruled order of a context (R288, R290, R292): its ticks, what is taken in each, and the release of its
front. -/
namespace Sys2Proof.Machine

/-! ## Commands by opcode -/

/-- NOP (R231). -/
def runNop (s : Blk) (q : Nat) (w : Word256) : Blk := retireVal s q w none

/-- What a command of an opcode that R229 lists does. -/
def runOp (q : Nat) (s : Blk) (w : Word256) (passed : Bool) : Blk :=
  match cOp w with
  | 0x01 => runLaunch s q w
  | 0x02 => runWait s q w
  | 0x03 => runSignal s q w
  | 0x04 => runClose s q w
  | 0x05 => runJalloc s q w
  | 0x06 => runJfree s q w
  | 0x07 => runCancel s q w
  | 0x10 => runSet s q w
  | 0x11 => runAdd s q w
  | 0x12 => runGet s q w
  | 0x13 => runLoad s q w
  | 0x14 => runStore s q w
  | 0x18 => runBr s q w
  | 0x19 => runLoop s q w
  | 0x1a => runCall s q w
  | 0x1b => runRet s q w
  | 0x1c => runSleep s q w
  | 0x1d => runBrk s q w passed
  | 0x20 => runPatch s q w
  | 0x21 => runSpill s q w
  | 0x22 => runRefill s q w
  | 0x23 => runLatch s q w
  | 0x28 => runFence s q w
  | 0x29 => runAudit s q w
  | 0x2a => runHello s q w
  | 0x2b => runAdopt s q w
  | _ => runNop s q w

/-! ## What a tick takes -/

/-- An entry of the queue of R292: an owed event, the binding of a READY task, a command, or Sequence Table work. -/
inductive TickItem where
  | owed (o : Owed)
  | bind (slot : Nat)
  | cmd (q : Nat)
  | boundary
deriving DecidableEq, Repr

/-- The key of R288: class, level, logical sequence, party. -/
structure TickKey where
  cls : Nat := 0
  level : Nat := 0
  seq : Nat := 0
  party : Nat := 0
deriving DecidableEq, Repr

/-- The order of keys. -/
def TickKey.lt (a b : TickKey) : Bool :=
  decide (a.cls < b.cls) || (a.cls == b.cls && (decide (a.level < b.level) || (a.level == b.level &&
    (decide (a.seq < b.seq) || (a.seq == b.seq && decide (a.party < b.party))))))

/-- Everything that can be taken at tick t (R288, R289). Owed events of one key come in the order they were caused. -/
def tickItems (s : Blk) (c t : Nat) : List (TickKey × TickItem) :=
  ((owedOf s c).filter (fun o => decide (o.due ≤ t) && o.arrived)).map (fun o =>
      ({ cls := o.cls, level := o.level, seq := o.seq, party := o.party }, .owed o)) ++
    (unboundTasks s c).map (fun p => ({ cls := p.2.cls, level := p.2.level, seq := p.2.seq }, .bind p.1)) ++
    (readyCmds s c).map (fun q => ({ party := queueParty s q }, .cmd q)) ++
    (if boundaryWork s c || boundWaits s c then [({ party := 0x1100 }, .boundary)] else [])

/-- The item with the least key; the first of equals. -/
def leastItem : List (TickKey × TickItem) → Option TickItem
  | [] => none
  | x :: r => some (r.foldl (fun b y => if y.1.lt b.1 then y else b) x).2

/-- The Sequence Table work of a context that comes next: an advance, the start of its boundary, a build, the end of the boundary. -/
def boundaryNext (s : Blk) (c : Nat) : Blk :=
  if (Store.vals s.tsk.launches).any (fun l => l.ctx == c && advDue l) then seqAdvance s c
  else match s.sqt.bounds with
    | b :: _ => if b.ctx ≠ c then s else if b.phase == .queued then boundaries s else if buildDue s b then courseBuild s else boundaryEnd s
    | [] => s

/-- Take one item. A command that runs into a breakpoint has not been taken (R248). -/
def takeItem (s : Blk) (c : Nat) (x : TickItem) : Blk :=
  match x with
  | .owed o => forEach o.evs { s with ctx := { s.ctx with owed := s.ctx.owed.erase o } } owedEv
  | .bind slot => bindRuled (oneDecided s c) slot
  | .cmd q =>
    match issueWord s q with
    | some w =>
      let t := beginCmd (serve s q []) q w (runOp q)
      if brkHolds t c then t else oneDecided t c
    | none => s
  | .boundary => boundaryNext (oneDecided s c) c

/-- The open tick of a context takes what it has, one at a time, and closes when nothing is left. It stays open while a breakpoint
holds the context (R248), and while the least item is a boundary that waits for those of other contexts (R216). -/
def runTick (c : Nat) : Nat → Blk → Blk
  | 0, s => s
  | n + 1, s =>
    if !ruledLive s c then closeTick s c
    else if brkHolds s c then s
    else match leastItem (tickItems s c (slotOf s c).tick) with
      | none => closeTick s c
      | some x => if x = .boundary ∧ boundaryWork s c = false then s else runTick c n (cascade 8 (takeItem s c x))

/-- Run the open tick with the context's own updates acting at once (R118). -/
def inTick (s : Blk) (c : Nat) (first : Blk → Blk) : Blk :=
  let s := cascade 8 (first { s with ctx := { s.ctx with inTick := some c } })
  let s := runTick c workBound s
  { s with ctx := { s.ctx with inTick := none } }

/-- Open tick t. -/
def openTick (s : Blk) (c t : Nat) : Blk := setSlot s c { slotOf s c with tick := t, tickOpen := true, decided := 0 }

/-! ## The front -/

/-- The release of a task that waits (R290). -/
def releaseTask (s : Blk) (slot : Nat) : Blk :=
  match taskOf s slot with
  | none => s
  | some t =>
    match t.state with
    | .waiting => gateFires s slot
    | .delayed => enterReady s slot
    | _ => bindRuled (setTask s slot { t with starved := false }) slot

/-- The release of a queue (R290). -/
def releaseQueue (s : Blk) (q : Nat) : Blk :=
  let v := queueOf s q
  match v.state with
  | .wait =>
    match v.jw with
    | some j => if jointFired s j then fireQueue s q j else waitTimeout s q
    | none => waitTimeout s q
  | .sleep => sleepWake s q
  | .idle => setQ s q { v.takeTail v.tailNow with state := .run, pc := ringPc s q v.head }
  | _ => s

/-- Take the release of a waiter (R290, R292). -/
def releaseWaiter (s : Blk) (w : RWait) : Blk :=
  match w.kind with
  | 1 => releaseTask s w.idx
  | 2 => finishRun s w.idx
  | 3 => releaseScope s (w.idx / 4096) (w.idx % 4096)
  | 4 => launchEnd s w.idx
  | _ => releaseQueue s w.idx

/-- An idle context picks its front (R290). -/
def pickFront (s : Blk) (c : Nat) : Blk :=
  if !ctxIdle s c then s
  else match frontOf s c with
    | none => s
    | some w =>
      let v := slotOf s c
      if v.front = some (w.kind, w.idx) then s
      else setSlot s c { v with front := some (w.kind, w.idx), frontAt := none, frontStalled := false }

/-- The front of an idle context is released, and its release is taken at the next tick. -/
def takeFront (s : Blk) (c : Nat) : Blk :=
  match frontOf s c with
  | none => s
  | some w =>
    if w.released s then
      let s := openTick (setSlot s c { slotOf s c with front := none }) c ((slotOf s c).tick + 1)
      pickFront (inTick s c (fun s => releaseWaiter (oneDecided s c) w)) c
    else pickFront s c

/-- The next tick that has something to take: the next one, or the least due tick of what is owed (R292). -/
def nextTick (s : Blk) (c : Nat) : Nat :=
  let t := (slotOf s c).tick + 1
  if hasWork s c then t
  else match owedOf s c with
    | [] => t
    | o :: r => max t ((r.map (·.due)).foldl min o.due)

/-- RULED_TICK: the open tick of a context goes on, or its next tick opens once everything owed at it has arrived, or the
release of its front is taken (R287, R292). No tick changes while a breakpoint holds the context (R248). -/
def ruledTick (s : Blk) (c : Nat) : Blk :=
  if !ruledLive s c || brkHolds s c then s
  else if (slotOf s c).tickOpen then pickFront (inTick s c id) c
  else if ctxIdle s c then takeFront s c
  else
    let t := nextTick s c
    let s := setSlot s c { slotOf s c with tick := t - 1, front := none }
    if ((owedOf s c).filter (fun o => decide (o.due ≤ t))).all (·.arrived) then pickFront (inTick (openTick s c t) c id) c
    else s

end Sys2Proof.Machine
end

