-- ==== Sys2Proof/Machine/Saf.lean ====
section
/-! DEFINITION. The safety monitor's own events: the watchdogs (R377, R378), handshake violations (R40, R379), the self-check
(R383), and the samples of the Time Port with their loss and stall (R69, R379). -/
namespace Sys2Proof.Machine

/-- DETAIL of a fault of a time or a watchdog: the time of detection, and that of the last Pulse, sample or dispatch
(R392). -/
def timeDetail (s : Blk) (last : Nat) : Nat := mkDetail (now s) (last % 2 ^ 32) 0

/-- SAF_WDOG.US in ns. -/
def wdogNs (s : Blk) : Nat := rgf s rWdog 4 0 * 1000

/-- PULSE_WATCHDOG_EXPIRY (R377): no Pulse has come for SAF_WDOG.US while the watchdog was armed. The loss may request a blot
(R359). Until a Pulse comes the cause is set again without a further entry. -/
def pulseWatchdog (s : Blk) : Blk :=
  if !s.saf.monitor then s
  else if s.saf.pulseLost then (if rgb s rAlarmCause aPulse then s else raiseAlarm s aPulse 0x41 0)
  else match s.saf.pulseArmedAt with
    | some t =>
      if s.time.usable && decide (now s ≥ max t s.saf.pulseAt + wdogNs s) then
        let s := { s with saf := { s.saf with pulseLost := true } }
        let s := blotAuto (safFault s uSaf 0x41 (timeDetail s s.saf.pulseAt) true) 0 3 0x41 0
        raiseAlarm s aPulse 0x41 0
      else s
    | none => s

/-- DISPATCH_WATCHDOG_EXPIRY (R378): no dispatch word has been offered for SAF_WDOG.US while the watchdog stayed armed. It
then begins anew. -/
def dispatchWatchdog (s : Blk) : Blk :=
  match s.saf.armedAt with
  | some t =>
    if s.saf.monitor && s.time.usable && decide (now s ≥ max t s.saf.dispatchAt + wdogNs s) then
      let d := timeDetail s s.saf.dispatchAt
      let s := { s with saf := { s.saf with armedAt := some (now s) } }
      raiseAlarm (safFault s uSaf 0x46 d true) aDispatch 0x46 0
    else s
  | none => s

/-! ## Ports -/

/-- The bit of BLK_PORT_FAULT of a port, and its channel (R80, R392). DESIGN CHOICE (assumption 33): R40 checks every inbound
channel, R80 and R379 name no place for a violation on THR; it sets THR's own bit and is logged only, as on RGP. -/
def portPlace : PortName → Nat × Nat
  | .rip n | .rcp n => (0, n)
  | .mq => (1, 0) | .mp => (1, 1)
  | .fqo => (2, 0) | .fqi => (2, 1) | .fpo => (2, 2) | .fpi => (2, 3) | .fep => (2, 4)
  | .rgp => (3, 0) | .nvm => (4, 0) | .thr => (6, 0)

/-- HANDSHAKE_VIOLATION (R40, R379): the transfer is not taken, the port's bit is set, and fault 0x45 is logged. -/
def handshake (s : Blk) (p : PortName) : Blk :=
  if s.cfg.low then s
  else
    let (bit, ch) := portPlace p
    let s := ev0 (orBits s rPortFault (2 ^ bit)) 0x132
    let s := safFault s uSaf 0x45 (mkDetail (put bit 4 0) (put ch 15 0) 0) (decide (bit < 3))
    match p with
    | .rip n | .rcp n => regionGoesOut (raiseAlarm s aPort 0x45 0) (n % 16) 2
    | .rgp | .nvm | .thr => s
    | _ => raiseAlarm s aPort 0x45 0

/-! ## The self-check -/

/-- SELF_CHECK_FAIL (R383): SELF is set, the pair shows the output fault, and fault 0x24 is logged. -/
def selfCheck (s : Blk) : Blk :=
  if !s.saf.monitor then s
  else
    let s := { s with saf := { s.saf with selfBad := true } }
    raiseAlarm (safFault s uSaf 0x24 (put 31 4 0) true) aSelf 0x24 0

/-! ## The Time Port -/

/-- A sample cannot be used (R69). -/
def sampleBad (t : TimeS) (val : Nat) (valid parityOk : Bool) : Bool := !parityOk || !valid || (t.seen && decide (val < t.last))

/-- An unusable sample (R69, R379): the last usable value stays, and every mechanism of R33 stands still. -/
def badSample (s : Blk) : Blk :=
  let n := s.time.bad
  let s := { s with time := { s.time with usable := false, bad := min (n + 1) 64, same := 0 } }
  let s := ev0 (orBits s rPortFault 0x20) 0x133
  if n = 63 then raiseAlarm (safFault s uSaf 0x43 (timeDetail s (now s)) true) aTime 0x43 0 else s

/-- A start time taken before the first usable sample counts from that sample (R69). -/
def lateTask (v : Nat) (t : Task) : Task := { t with issuedAt := t.issuedAt + v }

/-- The delay entry of a wait that starts at the first usable sample (R127). -/
def lateDelay (v : Nat) (d : DlyEntry) : DlyEntry := { d with release := releaseAt v d.shift d.delay }

/-- A context slot's lease, fence and front start at the first usable sample. -/
def lateSlot (v : Nat) (x : CtxSlot) : CtxSlot :=
  { x with leaseEnd := x.leaseEnd.map (· + v), fenceAt := x.fenceAt + v, frontAt := x.frontAt.map (· + v) }

/-- A map of a store whose values are compared with a default. -/
def mapD {α : Type} [DecidableEq α] (d : α) (f : α → α) (m : Store α) : Store α := m.foldl (fun t p => Store.put d t p.1 (f p.2)) []

/-- At the first usable sample after a reset, whatever has started takes its start time from it (R69). -/
def startClocks (s : Blk) (v : Nat) : Blk :=
  { s with
    tsk := { s.tsk with tasks := s.tsk.tasks.map (fun p => (p.1, lateTask v p.2))
                        early := s.tsk.early.map (fun e => { e with born := e.born + v }) }
    iss := { s.iss with dly := s.iss.dly.map (lateDelay v), gainAt := s.iss.gainAt + v }
    sve := { s.sve with runs := s.sve.runs.map (fun p => (p.1, { p.2 with started := p.2.started.map (· + v) })) }
    csq := { s.csq with queues := s.csq.queues.map (fun p => (p.1, { p.2 with deadline := p.2.deadline.map (· + v) }))
                        pulseAt := s.csq.pulseAt + v, pcsAt := s.csq.pcsAt + v }
    xch := { s.xch with out := s.xch.out.map (fun p => (p.1, { p.2 with since := p.2.since + v, deadline := p.2.deadline + v }))
                        hold := s.xch.hold.map (fun h => { h with deadline := h.deadline + v })
                        winEnd := s.xch.winEnd.map (· + v)
                        retries := s.xch.retries.map (fun r => { r with due := r.due + v }) }
    ctx := { s.ctx with slots := mapD {} (lateSlot v) s.ctx.slots }
    mem := { s.mem with out := s.mem.out.map (fun p => (p.1, { p.2 with age := p.2.age + v })) }
    obs := { s.obs with spaceAt := s.obs.spaceAt + v }
    dbg := { s.dbg with lastLine := s.dbg.lastLine + v }
    saf := { s.saf with sweepAt := if s.saf.sweepKept then s.saf.sweepAt else s.saf.sweepAt + v, sweepKept := false
                        pulseAt := s.saf.pulseAt + v, dispatchAt := s.saf.dispatchAt + v
                        pulseArmedAt := s.saf.pulseArmedAt.map (· + v), armedAt := s.saf.armedAt.map (· + v)
                        auditAt := s.saf.auditAt + v }
    cfg := { s.cfg with srstAt := s.cfg.srstAt.map (· + v) } }

/-- The samples in a row that carry one value while the Nib is active, this one included (R69). -/
def sameCount (s : Blk) (val : Nat) : Nat :=
  if !csqActive s then 0 else if s.time.seen && s.time.same > 0 && val = s.time.last then min (s.time.same + 1) 1024 else 1

/-- A usable sample (R69): it is the last usable value from now on. No token has accrued while samples were unusable (R146). -/
def goodSample (s : Blk) (val : Nat) : Blk :=
  let n := sameCount s val
  let stalled := n = 1024 && s.time.same ≠ 1024
  let s := if !s.time.seen then startClocks s val
    else if s.time.usable then s
    else { s with iss := { s.iss with gainAt := s.iss.gainAt + (val - s.time.last) } }
  let s := { s with time := { last := val, seen := true, usable := true, bad := 0, same := n } }
  if stalled then safFault s uSaf 0x44 (timeDetail s val) false else s

/-- TIME_SAMPLE (R69); TIME is ready with REG (R407). -/
def timeSample (s : Blk) (val : Nat) (valid parityOk : Bool) : Blk :=
  if !fnReady s 1 then s
  else
    let v := val % 2 ^ 64
    if sampleBad s.time v valid parityOk then badSample s else goodSample s v

end Sys2Proof.Machine
end

