-- ==== Sys2Proof/Machine/Act.lean ====
section
/-! DEFINITION. What every command shares: the update it makes and the settling that ends it, the gate of the function it is
addressed to (R76, R77, R407), and the Register Port accesses that several rows of the table are. -/
namespace Sys2Proof.Machine

/-- The block after an update `b` and all that follows from it (`settle`). The outcome of a Register Port access is the one
that the update gave: what follows never answers at that port. -/
def settled (b : Blk) : Blk :=
  let t := settle b
  { t with ports := { t.ports with rgpStatus := b.ports.rgpStatus, rgpData := b.ports.rgpData } }

/-- The machine after an update `b` of the block: what follows from it is done. Only samples of the Time Port and resets touch
wall time, so that here it stands. -/
def State.finish (s : State) (b : Blk) : State := { s with blk := { settled b with time := s.blk.time } }

/-- The machine after an update that may have moved wall time. -/
def State.finishTime (s : State) (b : Blk) : State := { s with blk := { settled b with time := b.time } }

/-- A command that a function of the block takes: while the function does not serve, the command waits at its sender, and
nothing changes (R77, R408). -/
def act (serves : Bool) (f : Blk → Blk) (s : State) : Host.Outcome State Fault Refusal :=
  .next (if serves then s.finish (f s.blk) else s)

/-- A function is ready (R407). -/
def ready (s : State) (f : Nat) : Bool := fnReady s.blk f

/-- A function is ready, or a soft reset is in progress, in which its port keeps answering (R76). -/
def answers (s : State) (f : Nat) : Bool := fnReady s.blk f || s.blk.cfg.srst

/-- The block is out of cold reset. -/
def awake (s : State) : Bool := !s.blk.cfg.low

/-- A Register Port write (R11 to R14, R63 to R65). The port answers from the moment REG is ready. -/
def busCmd (off : Nat) (v : Word) (a : Access) (s : State) : Host.Outcome State Fault Refusal :=
  act (ready s 0) (fun b => grantedWrite b a off (busWrite b a off v)) s

/-- A Register Port read (R63 to R65, R80). A word of the diagnostic window that it reads is good: a word that is not is
DIAG_WINDOW_READ. -/
def readCmd (off : Nat) (a : Access) (s : State) : Host.Outcome State Fault Refusal :=
  act (ready s 0) (fun b => if 0x400000 ≤ off then diagRead b off a .good else readReg b off a) s

/-- A command of the Nib at a queue, which runs where the queue's next command has the row's opcode (R228, R240). `waiting`: the
contexts whose requests wait at the store that it updates (R297). -/
def nibCmd (q op : Nat) (waiting : List Nat) (run : Blk → Nat → Word256 → Blk) (s : State) : Host.Outcome State Fault Refusal :=
  act (ready s 13) (fun b => execCmd b q op waiting (fun b w _ => run b q w)) s

/-- A context takes no ruled decisions, so that its events act on receipt (R291, R292). -/
def freeCtx (b : Blk) (c : Nat) : Bool := !ruledLive b c

/-- An inbound request message (R266). The port answers from the moment XCH is ready, and during a soft reset. -/
def reqCmd (h : FHdr) (ty : Nat) (body : Option FBody) (s : State) : Host.Outcome State Fault Refusal :=
  act (answers s 11) (fun b => inbound b h ty body) s

end Sys2Proof.Machine
end

