-- ==== Sys2Proof/Machine/CmdControl.lean ====
section
/-! DEFINITION. The commands that are a write or a read of a register of the context unit, of observation and of the safety monitor, and the
events inside those units: each puts its row's offset and value on the Register Port (R11 to R14, R63). -/
namespace Sys2Proof.Machine

/-- CTX_OPEN (R306): CTX_CTL. -/
def execCtxOpen (a : Access) (s : State) : Host.Outcome State Fault Refusal :=
  busCmd 0x120008 1 a s

/-- CTX_FENCE (R315): CTX_CTL. -/
def execCtxFence (a : Access) (s : State) : Host.Outcome State Fault Refusal :=
  busCmd 0x120008 2 a s

/-- CTX_RESET (R319): CTX_CTL. -/
def execCtxReset (a : Access) (s : State) : Host.Outcome State Fault Refusal :=
  busCmd 0x120008 3 a s

/-- CTX_CLOSE (R320): CTX_CTL. -/
def execCtxClose (a : Access) (s : State) : Host.Outcome State Fault Refusal :=
  busCmd 0x120008 4 a s

/-- CTX_RESUME (R325): CTX_CTL. -/
def execCtxResume (a : Access) (s : State) : Host.Outcome State Fault Refusal :=
  busCmd 0x120008 5 a s

/-- OPENING_DONE (R307). -/
def execOpeningDone (ctx : Nat) (s : State) : Host.Outcome State Fault Refusal := act (ready s 12) (fun b => openingDone b (ctx % 256)) s

/-- DRAIN_COMPLETE (R316). -/
def execDrainComplete (ctx : Nat) (s : State) : Host.Outcome State Fault Refusal :=
  act (ready s 12) (fun b => drainComplete b (ctx % 256)) s

/-- QUIESCE_EXPIRY (R316). -/
def execQuiesceExpiry (ctx : Nat) (s : State) : Host.Outcome State Fault Refusal :=
  act (ready s 12) (fun b => quiesceExpiry b (ctx % 256)) s

/-- CLOSE_RELEASE_DONE (R320). -/
def execCloseReleaseDone (ctx : Nat) (s : State) : Host.Outcome State Fault Refusal :=
  act (ready s 12) (fun b => closeReleaseDone b (ctx % 256)) s

/-- LEASE_EXPIRY (R309). -/
def execLeaseExpiry (ctx : Nat) (s : State) : Host.Outcome State Fault Refusal := act (ready s 12) (fun b => leaseExpiry b (ctx % 256)) s

/-- RULED_TICK (R292). -/
def execRuledTick (ctx : Nat) (s : State) : Host.Outcome State Fault Refusal := act (ready s 12) (fun b => ruledTick b (ctx % 256)) s

/-- FRONT_STALL_EXPIRY (R293). -/
def execFrontStallExpiry (ctx : Nat) (s : State) : Host.Outcome State Fault Refusal :=
  act (ready s 12) (fun b => frontStall b (ctx % 256)) s

/-- CTX_RENEW (R310). -/
def execCtxRenew (v : Word) (a : Access) (s : State) : Host.Outcome State Fault Refusal :=
  busCmd 0x120100 v a s

/-- PEER_FENCE (R327): CTX_PEER_ENT with VALID 1. -/
def execPeerFence (v : Word) (a : Access) (s : State) : Host.Outcome State Fault Refusal :=
  busCmd rPeerEnt (v ||| 0x80000000#32) a s

/-- PEER_UNFENCE (R328): CTX_PEER_ENT with VALID 0. -/
def execPeerUnfence (v : Word) (a : Access) (s : State) : Host.Outcome State Fault Refusal :=
  busCmd rPeerEnt (v &&& 0x7fffffff#32) a s

/-- BOARD_FAULT_CLEAR (R318): CTX_STATUS.BOARD_FAULT. -/
def execBoardFaultClear (a : Access) (s : State) : Host.Outcome State Fault Refusal :=
  busCmd rCtxStatus 0x80000000#32 a s

/-- ORD_MODE_WRITE (R285): CTX_ORD_MODE. -/
def execOrdModeWrite (v : Word) (a : Access) (s : State) : Host.Outcome State Fault Refusal :=
  busCmd rOrdMode v a s

/-- STEP_LOAD (R302): CTX_ORD_CTL. -/
def execStepLoad (a : Access) (s : State) : Host.Outcome State Fault Refusal :=
  busCmd 0x120824 2 a s

/-- TCC_CLEAR (R302): CTX_ORD_CTL. -/
def execTccClear (a : Access) (s : State) : Host.Outcome State Fault Refusal :=
  busCmd 0x120824 1 a s

/-- COUNTER_CONFIG (R338): OBS_CNTn_CFG. -/
def execCounterConfig (n : Nat) (v : Word) (a : Access) (s : State) : Host.Outcome State Fault Refusal :=
  busCmd (cntReg (n % 64)) v a s

/-- COUNTER_CLEAR (R366): OBS_CNTn_CLR. -/
def execCounterClear (n : Nat) (a : Access) (s : State) : Host.Outcome State Fault Refusal :=
  busCmd (cntReg (n % 64) + 0x14) 1 a s

/-- COUNTER_READ_CLEAR (R11): a read of an RC register. -/
def execCounterReadClear (off : Nat) (a : Access) (s : State) : Host.Outcome State Fault Refusal := readCmd off a s

/-- TRIGGER (R353): OBS_TRIG_CTL.FIRE. The other conditions act within the updates that meet them. -/
def execTrigger (a : Access) (s : State) : Host.Outcome State Fault Refusal :=
  busCmd 0x140918 1 a s

/-- ARM (R354): OBS_Bb_CTL.ARM. -/
def execArm (b : Nat) (a : Access) (s : State) : Host.Outcome State Fault Refusal :=
  busCmd (bufReg (b % 4) 4) 1 a s

/-- BUFFER_ENABLE (R351): OBS_Bb_CFG with EN 1. -/
def execBufferEnable (b : Nat) (v : Word) (a : Access) (s : State) : Host.Outcome State Fault Refusal :=
  busCmd (bufReg (b % 4) 0) (v ||| 0x80000000#32) a s

/-- BUFFER_FAULT_CLEAR (R356): OBS_Bb_STAT.FAULT. -/
def execBufferFaultClear (b : Nat) (a : Access) (s : State) : Host.Outcome State Fault Refusal :=
  busCmd (bufReg (b % 4) 8) 0x20000000#32 a s

/-- LATCH_RING_ENABLE (R346): OBS_CTX_LCFG with EN 1. -/
def execLatchRingEnable (v : Word) (a : Access) (s : State) : Host.Outcome State Fault Refusal :=
  busCmd rLcfg (v ||| 0x80000000#32) a s

/-- OBS_CTX_LCFG of the context shown, with FAULT written as 1. -/
def lcfgClear (b : Blk) : Word := w32 ((rg b (lcfg (rgf b rObsCtxSel 7 0)) &&& 0x8000000f) ||| 0x40000000)

/-- LATCH_FAULT_CLEAR (R346): OBS_CTX_LCFG.FAULT is cleared, its other fields as they are. -/
def execLatchFaultClear (a : Access) (s : State) : Host.Outcome State Fault Refusal :=
  busCmd rLcfg (lcfgClear s.blk) a s

/-- TRACE_DRAIN_LINE (R355). -/
def execTraceDrainLine (s : State) : Host.Outcome State Fault Refusal := act (ready s 6) drainLine s

/-- TRACE_FLUSH_EXPIRY (R355). -/
def execTraceFlushExpiry (b : Nat) (s : State) : Host.Outcome State Fault Refusal := act (ready s 6) (fun x => flushLone x (b % 4)) s

/-- BLOT (R359): DBG_CTL.BLOT. -/
def execBlot (a : Access) (s : State) : Host.Outcome State Fault Refusal :=
  busCmd 0x180000 2 a s

/-- SNAP (R359): DBG_CTL.SNAP. -/
def execSnap (a : Access) (s : State) : Host.Outcome State Fault Refusal :=
  busCmd 0x180000 1 a s

/-- BLOT_WRITE (R358, R361). A soft reset waits for the blot it asks for (R414). -/
def execBlotWrite (s : State) : Host.Outcome State Fault Refusal := act (answers s 5) blotWrite s

/-- RAISE (R382): SAF_ALARM_TEST. -/
def execRaiseTest (a : Access) (s : State) : Host.Outcome State Fault Refusal :=
  busCmd 0x160008 1 a s

/-- ALARM_CAUSE_CLEAR (R382, R383): SAF_ALARM_CAUSE. -/
def execAlarmCauseClear (v : Word) (a : Access) (s : State) : Host.Outcome State Fault Refusal :=
  busCmd rAlarmCause v a s

/-- LOG_CLEAR (R390): SAF_LOG_CLR. -/
def execLogClear (a : Access) (s : State) : Host.Outcome State Fault Refusal :=
  busCmd 0x160068 1 a s

/-- SELF_CHECK_FAIL (R383). -/
def execSelfCheckFail (s : State) : Host.Outcome State Fault Refusal := act (awake s) selfCheck s

/-- SWEEP_READ (R371, R376). -/
def execSweepRead (f : Finding) (s : State) (unit : Option Nat := none) : Host.Outcome State Fault Refusal :=
  act (awake s) (fun b => sweepRead b f unit) s

/-- SWEEP_OVERRUN (R376). -/
def execSweepOverrun (s : State) : Host.Outcome State Fault Refusal := act (awake s) sweepOverrun s

/-- PULSE_WATCHDOG_EXPIRY (R377). -/
def execPulseWatchdogExpiry (s : State) : Host.Outcome State Fault Refusal := act (awake s) pulseWatchdog s

/-- DISPATCH_WATCHDOG_EXPIRY (R378). -/
def execDispatchWatchdogExpiry (s : State) : Host.Outcome State Fault Refusal := act (awake s) dispatchWatchdog s

/-- AUTO_AUDIT (R388). -/
def execAutoAudit (s : State) : Host.Outcome State Fault Refusal := act (awake s) autoAudit s

/-- DIAG_WINDOW_READ (R425): `off` is the register offset, in the window of R420. -/
def execDiagWindowRead (off : Nat) (a : Access) (f : Finding) (s : State) : Host.Outcome State Fault Refusal :=
  act (ready s 0) (fun b => diagRead b off a f) s

/-- REGISTER_WRITE (R11). -/
def execRegisterWrite (off : Nat) (v : Word) (a : Access) (s : State) : Host.Outcome State Fault Refusal :=
  busCmd off v a s

/-- LO_HALF_READ (R80): a read of a register; a _LO of a split pair fixes what the next read of its _HI returns. -/
def execLoHalfRead (off : Nat) (a : Access) (s : State) : Host.Outcome State Fault Refusal := readCmd off a s

end Sys2Proof.Machine
end

