-- ==== Sys2Proof/Machine/CmdFabric.lean ====
section
/-! DEFINITION. The commands of the Fabric Port: request messages, answers, epoch notices, XOFF levels, the flits taken, and
the timers of the Exchange. -/
namespace Sys2Proof.Machine

/-- ARRIVE (R109, R270). -/
def execArrive (h : FHdr) (scope node : Nat) (dead : Bool) (s : State) : Host.Outcome State Fault Refusal :=
  reqCmd h 0x01 (some (.arrive scope node dead)) s

/-- CLOSE_REQUEST (R109, R270). -/
def execCloseRequest (h : FHdr) (t scope node : Nat) (s : State) : Host.Outcome State Fault Refusal :=
  reqCmd h 0x02 (some (.close t scope node)) s

/-- CAND (R170, R270). -/
def execCand (h : FHdr) (scope : Nat) (dead fin : Bool) (recs : List Word64) (s : State) :
    Host.Outcome State Fault Refusal :=
  reqCmd h 0x04 (some (.cand scope dead fin recs)) s

/-- TALLY (R181, R270). -/
def execTally (h : FHdr) (final : Bool) (home scope expNode : Nat) (entries : List (Nat × Nat)) (s : State) :
    Host.Outcome State Fault Refusal :=
  reqCmd h 0x05 (some (.tally final home scope expNode entries)) s

/-- ASSIGN (R182, R270). -/
def execAssign (h : FHdr) (expert home scope : Nat) (recs : List Word64) (s : State) :
    Host.Outcome State Fault Refusal :=
  reqCmd h 0x06 (some (.assign expert home scope recs)) s

/-- STAGE (R189, R270). -/
def execStage (h : FHdr) (expert scope expNode : Nat) (s : State) : Host.Outcome State Fault Refusal :=
  reqCmd h 0x07 (some (.stage expert scope expNode)) s

/-- CANCEL_REQUEST (R190, R270). -/
def execCancelRequest (h : FHdr) (expert scope expNode : Nat) (s : State) : Host.Outcome State Fault Refusal :=
  reqCmd h 0x08 (some (.cancel expert scope expNode)) s

/-- AM_REQ (R264, R270). -/
def execAmReq (h : FHdr) (m : AmHdr) (payload : List Byte) (s : State) : Host.Outcome State Fault Refusal :=
  reqCmd h 0x10 (some (.am false m payload)) s

/-- AM_RPL (R264, R270). -/
def execAmRpl (h : FHdr) (m : AmHdr) (payload : List Byte) (s : State) : Host.Outcome State Fault Refusal :=
  reqCmd h 0x11 (some (.am true m payload)) s

/-- FABRIC_RESERVED_TYPE (R266). -/
def execFabricReservedType (h : FHdr) (ty : Nat) (s : State) : Host.Outcome State Fault Refusal :=
  reqCmd h (ty % 64) none s

/-- ORDER_HOLD_EXPIRY (R276). -/
def execOrderHoldExpiry (src pseq : Nat) (s : State) : Host.Outcome State Fault Refusal :=
  act (ready s 11) (fun b => holdExpiry b src pseq) s

/-- ORDER_WINDOW_CLOSE (R276). -/
def execOrderWindowClose (s : State) : Host.Outcome State Fault Refusal := act (ready s 11) windowClose s

/-- ANSWER (R271, R273). The source die is checked by the surroundings alone: an answer finds its request by RQID. -/
def execAnswer (_src rqid code : Nat) (parityOk : Bool) (flits : Nat) (s : State) (waiting : List Nat := []) :
    Host.Outcome State Fault Refusal :=
  act (answers s 11) (fun b => inAnswer b (rqid % 65536) (code % 16) parityOk flits waiting) s

/-- REPLY_TIMER_EXPIRY (R272). -/
def execReplyTimerExpiry (idx : Nat) (s : State) (waiting : List Nat := []) : Host.Outcome State Fault Refusal :=
  act (ready s 11) (fun b => replyExpiry b idx waiting) s

/-- EPOCH_NOTICE (R62, R276). -/
def execEpochNotice (epoch : Nat) (s : State) : Host.Outcome State Fault Refusal :=
  act (answers s 11) (fun b => takeEpoch b epoch) s

/-- The level of an XOFF pin (R59). -/
def setXoff (b : Blk) (ch : FabChan) (on : Bool) : Blk :=
  match ch with
  | .fqo => { b with ports := { b.ports with fqoXoff := on } }
  | .fpo => { b with ports := { b.ports with fpoXoff := on } }

/-- FABRIC_XOFF (R59): a level, which holds in every state of the block. -/
def execFabricXoff (ch : FabChan) (on : Bool) (s : State) : Host.Outcome State Fault Refusal :=
  act true (fun b => setXoff b ch on) s

/-- FABRIC_FLIT_TAKEN (R272): a transfer in progress completes in a soft reset too (R76). -/
def execFabricFlitTaken (ch : FabChan) (s : State) : Host.Outcome State Fault Refusal :=
  act (awake s) (fun b => match ch with | .fqo => fqoTaken b | .fpo => fpoTaken b) s

/-- RETRY_OFFER (R112). -/
def execRetryOffer (i : Nat) (s : State) : Host.Outcome State Fault Refusal :=
  act (ready s 11) (fun b => retryOffer b i) s

end Sys2Proof.Machine
end

