-- ==== Sys2Proof/Machine/CmdNib.lean ====
section
/-! DEFINITION. The commands of the Command Sequencer by opcode (R229 to R232), the waits that end by time, Pulses and
program-counter samples. -/
namespace Sys2Proof.Machine

/-- NOP (R231). -/
def execCmdNop (q : Nat) (s : State) : Host.Outcome State Fault Refusal := nibCmd q oNop [] runNop s

/-- LAUNCH (R95, R230). -/
def execCmdLaunch (q : Nat) (s : State) (waiting : List Nat := []) : Host.Outcome State Fault Refusal :=
  nibCmd q oLaunch waiting runLaunch s

/-- WAIT (R236). -/
def execCmdWait (q : Nat) (s : State) (waiting : List Nat := []) : Host.Outcome State Fault Refusal :=
  nibCmd q oWait waiting runWait s

/-- SIGNAL (R230). -/
def execCmdSignal (q : Nat) (s : State) (waiting : List Nat := []) : Host.Outcome State Fault Refusal :=
  nibCmd q oSignal waiting runSignal s

/-- CLOSE (R230). -/
def execCmdClose (q : Nat) (s : State) (waiting : List Nat := []) : Host.Outcome State Fault Refusal :=
  nibCmd q oClose waiting runClose s

/-- JALLOC (R236). -/
def execCmdJalloc (q : Nat) (s : State) (waiting : List Nat := []) : Host.Outcome State Fault Refusal :=
  nibCmd q oJalloc waiting runJalloc s

/-- JFREE (R236). -/
def execCmdJfree (q : Nat) (s : State) (waiting : List Nat := []) : Host.Outcome State Fault Refusal :=
  nibCmd q oJfree waiting runJfree s

/-- CANCEL (R230). -/
def execCmdCancel (q : Nat) (s : State) (waiting : List Nat := []) : Host.Outcome State Fault Refusal :=
  nibCmd q oCancel waiting runCancel s

/-- SET (R231). -/
def execCmdSet (q : Nat) (s : State) : Host.Outcome State Fault Refusal := nibCmd q oSet [] runSet s

/-- ADD (R231). -/
def execCmdAdd (q : Nat) (s : State) : Host.Outcome State Fault Refusal := nibCmd q oAdd [] runAdd s

/-- GET (R231). -/
def execCmdGet (q : Nat) (s : State) : Host.Outcome State Fault Refusal := nibCmd q oGet [] runGet s

/-- LOAD (R231). -/
def execCmdLoad (q : Nat) (s : State) : Host.Outcome State Fault Refusal := nibCmd q oLoad [] runLoad s

/-- STORE (R231). -/
def execCmdStore (q : Nat) (s : State) : Host.Outcome State Fault Refusal := nibCmd q oStore [] runStore s

/-- BR (R231, R234). -/
def execCmdBr (q : Nat) (s : State) : Host.Outcome State Fault Refusal := nibCmd q oBr [] runBr s

/-- LOOP (R231, R234). -/
def execCmdLoop (q : Nat) (s : State) : Host.Outcome State Fault Refusal := nibCmd q oLoop [] runLoop s

/-- CALL (R231). -/
def execCmdCall (q : Nat) (s : State) : Host.Outcome State Fault Refusal := nibCmd q oCall [] runCall s

/-- RET (R231). -/
def execCmdRet (q : Nat) (s : State) : Host.Outcome State Fault Refusal := nibCmd q oRet [] runRet s

/-- SLEEP (R231). -/
def execCmdSleep (q : Nat) (s : State) : Host.Outcome State Fault Refusal := nibCmd q oSleep [] runSleep s

/-- BRK (R247): a command that has passed its own break is a NOP. -/
def execCmdBrk (q : Nat) (s : State) : Host.Outcome State Fault Refusal :=
  act (ready s 13) (fun b => execCmd b q oBrk [] (fun b w passed => runBrk b q w passed)) s

/-- PATCH (R92). -/
def execCmdPatch (q : Nat) (s : State) (waiting : List Nat := []) : Host.Outcome State Fault Refusal :=
  nibCmd q oPatch waiting runPatch s

/-- SPILL (R114). -/
def execCmdSpill (q : Nat) (s : State) (waiting : List Nat := []) : Host.Outcome State Fault Refusal :=
  nibCmd q oSpill waiting runSpill s

/-- REFILL (R116). -/
def execCmdRefill (q : Nat) (s : State) (waiting : List Nat := []) : Host.Outcome State Fault Refusal :=
  nibCmd q oRefill waiting runRefill s

/-- LATCH (R344). -/
def execCmdLatch (q : Nat) (s : State) : Host.Outcome State Fault Refusal := nibCmd q oLatch [] runLatch s

/-- FENCE (R314). -/
def execCmdFence (q : Nat) (s : State) (waiting : List Nat := []) : Host.Outcome State Fault Refusal :=
  nibCmd q oFence waiting runFence s

/-- AUDIT (R387). -/
def execCmdAudit (q : Nat) (s : State) : Host.Outcome State Fault Refusal := nibCmd q oAudit [] runAudit s

/-- HELLO (R411). -/
def execCmdHello (q : Nat) (s : State) : Host.Outcome State Fault Refusal := nibCmd q oHello [] runHello s

/-- ADOPT (R313). -/
def execCmdAdopt (q : Nat) (s : State) : Host.Outcome State Fault Refusal := nibCmd q oAdopt [] runAdopt s

/-- ILLEGAL_OPCODE (R228). -/
def execIllegalOpcode (q : Nat) (s : State) : Host.Outcome State Fault Refusal :=
  act (ready s 13) (fun b => illegalOpcode b q) s

/-- WAIT_TIMEOUT (R236); a queue of a ruled context ends its wait as the front (R290). -/
def execWaitTimeout (q : Nat) (s : State) : Host.Outcome State Fault Refusal :=
  act (ready s 13) (fun b => if freeCtx b (sqCtx b q) then waitTimeout b q else b) s

/-- SLEEP_WAKE (R231); a queue of a ruled context wakes as the front (R290). -/
def execSleepWake (q : Nat) (s : State) : Host.Outcome State Fault Refusal :=
  act (ready s 13) (fun b => if freeCtx b (sqCtx b q) then sleepWake b q else b) s

/-- PULSE (R246). -/
def execPulse (s : State) : Host.Outcome State Fault Refusal := act (ready s 13) pulseCmd s

/-- PC_SAMPLE (R251). -/
def execPcSample (s : State) : Host.Outcome State Fault Refusal := act (ready s 13) pcSample s

end Sys2Proof.Machine
end

