-- ==== Sys2Proof/Machine/CmdPorts.lean ====
section
/-! DEFINITION. The commands of the resets, the flash, the Time Port, the throttle, the region ports and the Memory Port. -/
namespace Sys2Proof.Machine

/-! ## Resets and start-up -/

/-- COLD_RESET (R74, R76, R438): NRST_BLOCK falls, or is low still. It undoes what a test has overwritten, unless a self-test still runs. -/
def execColdReset (s : State) : Host.Outcome State Fault Refusal :=
  .next { s with blk := coldReset s.blk, tap := { s.tap with dirty := s.tap.dirty && s.tap.running } }

/-- COLD_RESET_RELEASE (R397): NRST_BLOCK rises. -/
def execColdResetRelease (keyhash : BitVec 384) (s : State) : Host.Outcome State Fault Refusal :=
  .next (s.finishTime (coldRelease s.blk keyhash))

/-- STORE_INIT_DONE (R397). -/
def execStoreInitDone (st : InitStore) (s : State) : Host.Outcome State Fault Refusal :=
  act (awake s) (fun b => storeInitDone b st) s

/-- NVM_OPERATION_DONE (R67). -/
def execNvmOperationDone (beats : List (Word × Bool)) (derr : Bool) (s : State) : Host.Outcome State Fault Refusal :=
  act (awake s) (fun b => nvmDone b beats derr) s

/-- PB_APPLY (R405). -/
def execPbApply (s : State) : Host.Outcome State Fault Refusal := act (awake s) pbApply s

/-- SOFTRST (R414): a write of CFG_CTL.SOFTRST. -/
def execSoftrst (a : Access) (s : State) : Host.Outcome State Fault Refusal := busCmd 0x10020 1 a s

/-- SOFT_RESET_DRAIN_EXPIRY (R414): wall time starts anew where the stores are reinitialised. -/
def execSoftResetDrainExpiry (s : State) : Host.Outcome State Fault Refusal :=
  .next (if awake s then s.finishTime (srstExpiry s.blk) else s)

/-- HANDSHAKE_VIOLATION (R40, R379). -/
def execHandshakeViolation (p : PortName) (s : State) : Host.Outcome State Fault Refusal :=
  act (awake s) (fun b => handshake b p) s

/-- TIME_SAMPLE (R69). -/
def execTimeSample (val : Nat) (valid parityOk : Bool) (s : State) : Host.Outcome State Fault Refusal :=
  .next (if ready s 1 then s.finishTime (timeSample s.blk val valid parityOk) else s)

/-! ## The throttle -/

/-- A transfer on the throttle port (R73). -/
def takeCeiling (b : Blk) (v : Nat) (parityOk : Bool) : Blk :=
  if parityOk then newCeiling b (v % 256) else ev0 (orBits b rPortFault 0x40) 0x134

/-- THROTTLE_CEILING (R73). -/
def execThrottleCeiling (v : Nat) (parityOk : Bool) (s : State) : Host.Outcome State Fault Refusal :=
  act (answers s 9) (fun b => takeCeiling b v parityOk) s

/-- TOKEN_GAIN (R146). -/
def execTokenGain (s : State) : Host.Outcome State Fault Refusal :=
  act (ready s 9) (fun b => if gainDue b then gainToken b else b) s

/-! ## Region ports -/

/-- The next dispatch decision, and the grants that were contested with it (R137 to R140, R297). -/
def decideNext (b : Blk) (waiting : List Nat) : Blk :=
  match nextDispatch b with
  | some (slot, t, e) => contested (dispatch b slot t e) t.ctx waiting
  | none => b

/-- DISPATCH_DECISION (R139). -/
def execDispatchDecision (waiting : List Nat) (s : State) : Host.Outcome State Fault Refusal :=
  act (ready s 9) (fun b => decideNext b waiting) s

/-- DISPATCH_ACK (R47): RIPn_ACK rises. A transfer in progress completes in a soft reset too (R76). -/
def execDispatchAck (n : Nat) (err : Bool) (s : State) : Host.Outcome State Fault Refusal :=
  act (awake s) (fun b => ripAck b n err) s

/-- COMPLETION_WORD (R48, R142). -/
def execCompletionWord (n src : Nat) (w : Word64) (parityOk : Bool) (waiting : List Nat) (s : State) :
    Host.Outcome State Fault Refusal :=
  act (answers s 9) (fun b => takeCompletion b (n % 16) (src % 256) w parityOk waiting) s

/-- A candidate record on RCPn (R48, R167). -/
def takeRecord (b : Blk) (n src : Nat) (w : Word64) (parityOk : Bool) (waiting : List Nat) : Blk :=
  match rcpCheck b n src parityOk with
  | (.take, b) =>
    let c := (taskOf b (crSlot w)).map (·.ctx)
    candRecord (contestedOpt (evN b (0x21 + n) c 1) c waiting) (n * 256 + src) w
  | (_, b) => b

/-- CANDIDATE_RECORD (R167). -/
def execCandidateRecord (n src : Nat) (w : Word64) (parityOk : Bool) (s : State) (waiting : List Nat := []) :
    Host.Outcome State Fault Refusal :=
  act (answers s 9) (fun b => takeRecord b (n % 16) (src % 256) w parityOk waiting) s

/-- ENQUEUE_REQUEST (R152). -/
def execEnqueueRequest (n src : Nat) (w : Word64) (parityOk : Bool) (s : State) (waiting : List Nat := []) :
    Host.Outcome State Fault Refusal :=
  act (answers s 9) (fun b => takeEnqueue b (n % 16) (src % 256) w parityOk waiting) s

/-- RCP_RESERVED_KIND (R48). -/
def execRcpReservedKind (n src kind : Nat) (_w : Word64) (parityOk : Bool) (s : State) :
    Host.Outcome State Fault Refusal :=
  act (answers s 9) (fun b => takeReserved b (n % 16) (src % 256) kind parityOk) s

/-! ## The Memory Port -/

/-- MEMORY_RESPONSE (R52). -/
def execMemoryResponse (tag status : Nat) (data : Line) (dataOk ctlOk : Bool) (s : State) (waiting : List Nat := []) :
    Host.Outcome State Fault Refusal :=
  act (ready s 2) (fun b => memResponse b (tag % 1024) (status % 8) data dataOk ctlOk waiting) s

/-- MEMORY_REQUEST_TAKEN (R50): MQ_ACK rises. -/
def execMemoryRequestTaken (s : State) : Host.Outcome State Fault Refusal := act (awake s) memTake s

end Sys2Proof.Machine
end

