-- ==== Sys2Proof/Machine/Wire.lean ====
section
/-! DEFINITION. What stands at the block's pins: parity (R37), the routing header (R57), the flits of a message (R269 to R271), and the
values and levels that the block drives on each of its ports (R45, R50, R58 to R60, R63, R66, R71, R72, R76), in the order of
the boundary register (R437). -/
namespace Sys2Proof.Machine

/-! ## Parity -/

/-- The number of ones among the low `w` bits is odd. -/
def oddOnes (w n : Nat) : Bool := (List.range w).foldl (fun b i => b ^^ n.testBit i) false

/-- The even-parity bit of the low `w` bits (R37). -/
def parityBit (w n : Nat) : Nat := b2n (oddOnes w n)

/-- The parity bits of `k` words of 32 bits: bit i covers bits 32i + 31 to 32i (R37). -/
def parityBits (k n : Nat) : Nat := sum ((List.range k).map (fun i => parityBit 32 (n / 2 ^ (32 * i)) * 2 ^ i))

/-- Data with its parity bits pass the check of R37. -/
def parityHolds (k n par : Nat) : Bool := parityBits k n == par

/-! ## The routing header -/

/-- A routing header as the block drives it (R57): EPOCH, VC and the reserved bits are 0. -/
def hdrWord (src dst ty : Nat) (last : Bool) : Nat := put (b2n last) 48 48 + put ty 47 42 + put dst 41 21 + put src 20 0

/-- What an inbound routing header says (R57). -/
def hdrRead (w : Word64) (h : FHdr) : FHdr :=
  { h with src := fld w 20 0, dst := fld w 41 21, vc := bitAt w 49, epoch := fld w 50 50, rsv := fld w 63 51 }

/-- TYPE and LAST of an inbound routing header (R57). -/
def hdrType (w : Word64) : Nat × Bool := (fld w 47 42, bitAt w 48)

/-! ## Flits -/

/-- Entries of 64 bits, four to a flit (R270). -/
def packed : List Nat → List Nat
  | [] => []
  | a :: b :: c :: d :: r => (a + b * 2 ^ 64 + c * 2 ^ 128 + d * 2 ^ 192) :: packed r
  | xs => [ofLe (xs.flatMap (leBytes 8))]

/-- A TALLY entry (R270). -/
def tallyWord (e : Nat × Nat) : Nat := put e.1 63 48 + put e.2 23 0

/-- The flits after flit 0 (R270). -/
def FBody.rest (sctx sgen die : Nat) : FBody → List Nat
  | .cand _ _ _ rs => packed (rs.map BitVec.toNat)
  | .tally _ _ _ _ es => packed (es.map tallyWord)
  | .assign _ _ _ rs => packed (rs.map BitVec.toNat)
  | .am reply m payload =>
    let bs := leBytes 4 0 ++ (msgBytes die sctx sgen reply m payload).drop 4
    (List.range (bs.length / 32)).map (fun i => ofLe (bytesAt bs (32 * i) 32))
  | _ => []

/-- The flits of an outstanding request (R269, R270). -/
def flitsOf (s : Blk) (i : Nat) (e : OutEntry) : List Nat :=
  let r := e.req
  (flit0Of r.ltag r.dstCtx r.dstGen r.srcCtx r.srcGen (rqidOf i e) e.pseq e.sync r.body).toNat ::
    r.body.rest r.srcCtx r.srcGen (ownDie s)

/-- The flit of an answer (R271). -/
def answerFlit (a : Answer) : Nat := put a.rqid 111 96 + put a.code 95 92

/-- RQID and CODE of an ANSWER flit (R271). -/
def answerRead (w : Word256) : Nat × Nat := (fld w 111 96, fld w 95 92)

/-! ## The pins -/

/-- The ports of the block (R36); NRST_BLOCK counts as one. -/
inductive PinPort where
  | rip (n : Nat) | rcp (n : Nat) | mq | mp | fqo | fqi | fpo | fpi | fep | rgp | nvm | time | irq | alarm | thr | nrst
deriving DecidableEq, Repr

/-- The signals of a channel of the Fabric Port, requests going out or coming in: width, and whether the block drives it. -/
def fabSigs (out : Bool) : List (Nat × Bool) :=
  [(1, out), (1, !out), (64, out), (256, out), (8, out), (2, out), (1, !out)]

/-- The signals of a port in the order of its table: width, and whether the block drives it. -/
def PinPort.sigs : PinPort → List (Nat × Bool)
  | .rip _ => [(1, true), (1, false), (8, true), (256, true), (8, true), (1, true), (1, false)]
  | .rcp _ => [(1, false), (1, true), (8, false), (2, false), (64, false), (2, false), (1, false), (2, true)]
  | .mq => [(1, true), (1, false), (2, true), (46, true), (10, true), (2, true), (64, true), (512, true), (16, true), (1, true)]
  | .mp => [(1, false), (1, true), (10, false), (3, false), (512, false), (16, false), (1, false)]
  | .fqo | .fpo => fabSigs true
  | .fqi | .fpi => fabSigs false
  | .fep => [(1, false), (1, true), (1, false)]
  | .rgp => [(1, false), (1, true), (1, false), (1, false), (22, false), (32, false), (1, false), (1, false), (32, true), (1, true),
      (3, true)]
  | .nvm => [(1, true), (1, false), (8, true), (32, true), (1, true), (5, true), (8, true), (1, true), (1, false), (1, true),
      (32, false), (1, false), (1, false), (1, false)]
  | .time => [(1, true), (1, false), (64, false), (1, false), (2, false)]
  | .irq => [(8, true)]
  | .alarm => [(1, true), (1, true)]
  | .thr => [(1, false), (1, true), (8, false), (1, false)]
  | .nrst => [(1, false)]

/-- Every port with functional pins, KEYHASH apart, in the order of the manual. The order of the boundary register is not given
(DESIGN CHOICE, assumption 37). -/
def pinPorts : List PinPort :=
  (List.range 16).map .rip ++ (List.range 16).map .rcp ++
    [.mq, .mp, .fqo, .fqi, .fpo, .fpi, .fep, .rgp, .nvm, .time, .irq, .alarm, .thr, .nrst]

/-- The pins of a port. -/
def PinPort.width (p : PinPort) : Nat := sum (p.sigs.map Prod.fst)

/-- A flit on an outbound channel of the Fabric Port: REQ, header, data, PAR and HPAR. -/
def flitPins (hdr data : Nat) : List Nat :=
  [1, hdr, data, parityBits 8 data, parityBits 2 hdr]

/-- What the block drives on RIPn (R45, R76). -/
def ripPins (s : Blk) (n : Nat) : List Nat :=
  match Store.get? s.ports.rip n with
  | some o => [1, o.engine % 256, o.word.toNat, parityBits 8 o.word.toNat, parityBit 8 (o.engine % 256)]
  | none => [0, 0, 0, 0, 0]

/-- What the block drives on MQ (R50). -/
def mqPins (s : Blk) : List Nat :=
  match s.mem.mq with
  | some (t, r) =>
    let be := if r.write then r.be.toNat else 0
    let data := if r.write then r.data.toNat else 0
    let side := b2n r.write + r.addr / 64 % 2 ^ 46 * 2 ^ 2 + t * 2 ^ 48 + r.qos * 2 ^ 58 + be * 2 ^ 60
    [1, b2n r.write, r.addr / 64 % 2 ^ 46, t, r.qos, be, data, parityBits 16 data, parityBit 124 side]
  | none => [0, 0, 0, 0, 0, 0, 0, 0, 0]

/-- What the block drives on FQO: the flit of the message under way (R58). -/
def fqoPins (s : Blk) : List Nat :=
  match s.ports.fqo with
  | some (i, left) =>
    match Store.get? s.xch.out i with
    | some e =>
      let fs := flitsOf s i e
      flitPins (hdrWord (ownDie s) e.req.dst e.req.body.ty (left == 1)) (fs.getD (fs.length - left) 0)
    | none => [0, 0, 0, 0, 0]
  | none => [0, 0, 0, 0, 0]

/-- What the block drives on FPO: one-flit messages (R58, R271). -/
def fpoPins (s : Blk) : List Nat :=
  match s.ports.fpo with
  | some a => flitPins (hdrWord (ownDie s) a.dst 0x3f true) (answerFlit a)
  | none => [0, 0, 0, 0, 0]

/-- FQI_XOFF: high in cold reset (R76). Each message is taken out of the intake as it comes, and no message fills more than 130 of its 1,024
flits, so that XOFF does not rise (R59; assumption 6). -/
def fqiXoff (s : Blk) : Bool := s.cfg.low

/-- What the block drives on the NVM Port (R66). -/
def nvmPins (s : Blk) : List Nat :=
  match s.cfg.op with
  | some o =>
    let side := o.op + o.addr * 2 ^ 8 + b2n o.aw * 2 ^ 40 + o.dummy * 2 ^ 41 + (o.len - 1) * 2 ^ 46
    [1, o.op, o.addr, b2n o.aw, o.dummy, o.len - 1, parityBit 54 side, 0]
  | none => [0, 0, 0, 0, 0, 0, 0, 0]

/-- The values of the signals that the block drives on a port, in the order of its table, between transfers (R76). -/
def drives (s : Blk) : PinPort → List Nat
  | .rip n => ripPins s n
  | .rcp n => [0, Store.getD s.ports.rcpErr n 0]
  | .mq => mqPins s
  | .mp | .fep | .thr => [0]
  | .fqo => fqoPins s
  | .fpo => fpoPins s
  | .fqi => [0, b2n (fqiXoff s)]
  | .fpi => [0, 0]
  | .rgp => [0, s.ports.rgpData.toNat, parityBit 32 s.ports.rgpData.toNat, s.ports.rgpStatus]
  | .nvm => nvmPins s
  | .time => [0]
  | .irq => [irqOut s]
  | .alarm => [b2n (alarmPair s).1, b2n (alarmPair s).2]
  | .nrst => []

/-- Where a port's pins begin in the boundary register. -/
def PinPort.at_ (p : PinPort) : Nat := sum ((pinPorts.takeWhile (· ≠ p)).map PinPort.width)

/-- The signals of a port that the block drives, as a word of bits laid out by its table holds them. -/
def outFields : Nat → List (Nat × Bool) → Nat → List Nat
  | _, [], _ => []
  | w, (n, true) :: r, i => w / 2 ^ i % 2 ^ n :: outFields w r (i + n)
  | w, (n, false) :: r, i => outFields w r (i + n)

/-- What stands at the outputs of a port: WS_EXTEST drives them from the boundary register (R437, R438). -/
def State.pins (s : State) (p : PinPort) : List Nat :=
  if s.tap.wir = .extest then outFields (s.tap.boundary.toNat / 2 ^ p.at_) p.sigs 0 else drives s.blk p

end Sys2Proof.Machine
end

