-- ==== Sys2Proof/Machine/CmdTap.lean ====
section
/-! DEFINITION. The IEEE 1500 wrapper and the tests behind it (R78, R437, R438). The wrapper serves in every state of the
block. -/
namespace Sys2Proof.Machine

/-- A change of the wrapper. -/
def tapCmd (f : Wrapper → Wrapper) (s : State) : Host.Outcome State Fault Refusal := .next { s with tap := f s.tap }

/-- The wrapper with WS_BYPASS selected: the bypass bit is captured as 0. -/
def Wrapper.toBypass (t : Wrapper) : Wrapper := { t with wir := .bypass, bypass := false }

/-- The instruction that a 5-bit code of the WIR selects; every reserved code acts as WS_BYPASS (R437). -/
def wirOf (code : Nat) : Wir :=
  match code with
  | 0x01 => .extest | 0x02 => .preload | 0x10 => .scan | 0x11 => .mbist | 0x12 => .mbistRes | 0x13 => .dlymon | 0x14 => .id
  | _ => .bypass

/-- Bits shifted through a wrapper register, the first of them its bit 0. -/
def shifted : List Bool → Nat
  | [] => 0
  | b :: r => b2n b + 2 * shifted r

/-- WS_BYPASS, by its code or a reserved one (R437); a code of another instruction is that row's command. -/
def execWsBypass (s : State) (code : Nat := 0) : Host.Outcome State Fault Refusal :=
  tapCmd (fun t => if wirOf code = .bypass then t.toBypass else t) s

/-- WS_EXTEST (R437): the pins are driven from the boundary register (`State.pins`), and captured. -/
def execWsExtest (pins : List Bool) (s : State) : Host.Outcome State Fault Refusal :=
  tapCmd (fun t => { t with wir := .extest, captured := BitVec.ofNat 8527 (shifted pins) }) s

/-- WS_PRELOAD (R437). -/
def execWsPreload (bits : List Bool) (s : State) : Host.Outcome State Fault Refusal :=
  tapCmd (fun t => { t with wir := .preload, boundary := BitVec.ofNat 8527 (shifted bits) }) s

/-- The next free value, and the machine that has drawn it. -/
def State.tick (s : State) : Nat × State :=
  (s.blk.free.drawn, { s with blk := { s.blk with free := { s.blk.free with drawn := s.blk.free.drawn + 1 } } })

/-- The block after a test that overwrites its stores and its internal state (R438): a FREE VALUE; NRST_BLOCK is still low, and the wrapper
knows that a full cold reset must follow (assumptions 3, 37). -/
def overwritten (n : Nat) (s : State) (f : Wrapper → Wrapper) : State :=
  let b := (Config.leftBehind n).getD {}
  { s with blk := { b with cfg := { b.cfg with low := true }, free := s.blk.free }, tap := { f s.tap with dirty := true } }

/-- QM_SCAN (R437, R438): accepted only while NRST_BLOCK is low. What the chains shift out is a free value. -/
def execQmScan (s : State) : Host.Outcome State Fault Refusal :=
  if awake s then tapCmd Wrapper.toBypass s
  else
    let (n, s) := s.tick
    .next (overwritten n s (fun t => { t with wir := .scan, out := Config.scanOut n }))

/-- QM_MBIST (R437, R438): accepted only while NRST_BLOCK is low. `start`: the one bit of its control register. -/
def execQmMbist (s : State) (start : Bool := true) : Host.Outcome State Fault Refusal :=
  if awake s then tapCmd Wrapper.toBypass s
  else if start then
    let (n, s) := s.tick
    .next (overwritten n s (fun t => { t with wir := .mbist, running := true, doneBit := false, failStore := 0, failRow := 0 }))
  else tapCmd (fun t => { t with wir := .mbist }) s

/-- QM_MBIST_DONE (R438): the first failing store and row, or 0. -/
def execQmMbistDone (st row : Nat) (s : State) : Host.Outcome State Fault Refusal :=
  tapCmd (fun t =>
    if t.running then { t with running := false, doneBit := true, failStore := st % 2 ^ 16, failRow := row % 2 ^ 32 } else t) s

/-- The 64 bits of QM_MBIST_RES (R437). -/
def Wrapper.result (t : Wrapper) : Word64 :=
  BitVec.ofNat 64 (put (b2n t.doneBit) 63 63 + put t.failStore 47 32 + put t.failRow 31 0)

/-- QM_MBIST_RES (R437). -/
def execQmMbistRes (s : State) : Host.Outcome State Fault Refusal :=
  tapCmd (fun t => { t with wir := .mbistRes, out := t.result }) s

/-- QM_DLYMON (R437): each of the 16 delay monitors oscillates, and its count, a free value, is captured. -/
def execQmDlymon (s : State) : Host.Outcome State Fault Refusal :=
  let (n, s) := s.tick
  tapCmd (fun t => { t with wir := .dlymon, counts := (List.range 16).map (Config.delayCount n) }) s

/-- QM_ID (R437): BLK_ID above BLK_VERSION. -/
def execQmId (s : State) : Host.Outcome State Fault Refusal :=
  tapCmd (fun t => { t with wir := .id, out := 0x514d4e5300030001#64 }) s

/-- WRAPPER_RESET (R76, R78): WRSTN. What a test has done to the stores stands. -/
def execWrapperReset (s : State) : Host.Outcome State Fault Refusal := tapCmd (fun t => { dirty := t.dirty }) s

end Sys2Proof.Machine
end

