-- ==== Sys2Proof/Machine/CmdTasks.lean ====
section
/-! DEFINITION. The events inside the task, sieve and sequence units: expiries, releases, the end of a launch, and the phases
of a step boundary. -/
namespace Sys2Proof.Machine

/-- The early arrivals whose TSK_EARLY_TTL has passed, oldest first (R111). -/
def expireEarly (b : Blk) : Blk :=
  match b.tsk.early.find? (fun e => b.time.usable && decide (now b ≥ e.born + earlyTtl b)) with
  | some e => dropEarly b e
  | none => b

/-- EARLY_ARRIVAL_EXPIRY (R111). -/
def execEarlyArrivalExpiry (s : State) : Host.Outcome State Fault Refusal := act (ready s 8) expireEarly s

/-- DELAY_RELEASE (R127, R128). -/
def execDelayRelease (s : State) (waiting : List Nat := []) : Host.Outcome State Fault Refusal :=
  act (ready s 8) (fun b => match dlyDue b with
    | some d => dlyRelease (contestedOpt b ((taskOf b d.slot).map (·.ctx)) waiting) d
    | none => b) s

/-- The overrun of the task in a slot (R143). -/
def overrunAt (b : Blk) (slot : Nat) : Blk :=
  match taskOf b slot with
  | some t => if overrunDue b t then recordOverrun b slot t else b
  | none => b

/-- TASK_OVERRUN (R143). -/
def execTaskOverrun (slot : Nat) (s : State) : Host.Outcome State Fault Refusal :=
  act (ready s 9) (fun b => overrunAt b slot) s

/-- The intake of a run ends on its timeout (R173). -/
def timeoutRun (b : Blk) (run : Nat) : Blk :=
  match Store.get? b.sve.runs run with
  | some r => if runTimeoutDue b r then endIntake (setRun b run { r with timedOut := true }) run else b
  | none => b

/-- SIEVE_RUN_TIMEOUT (R173). -/
def execSieveRunTimeout (run : Nat) (s : State) : Host.Outcome State Fault Refusal :=
  act (ready s 10) (fun b => timeoutRun b run) s

/-- LAUNCH_END (R97); a ruled context ends a launch as its front (R290). -/
def execLaunchEnd (l : Nat) (s : State) (waiting : List Nat := []) : Host.Outcome State Fault Refusal :=
  act (ready s 8) (fun b => match launchOf b l with
    | some v => if freeCtx b v.ctx && launchDue b l v then launchEnd (contested b v.ctx waiting) l else b
    | none => b) s

/-- The context of the step boundary in progress. -/
def boundCtx (b : Blk) : Option Nat := b.sqt.bounds.head?.map (·.ctx)

/-- A phase of the step boundary in progress; a ruled context takes it in its ticks (R292). -/
def boundPhase (f : Blk → Blk) (b : Blk) : Blk :=
  match boundCtx b with
  | some c => if freeCtx b c then f b else b
  | none => b

/-- COURSE_BUILD (R206). -/
def execCourseBuild (s : State) : Host.Outcome State Fault Refusal := act (ready s 14) (boundPhase courseBuild) s

/-- BOUNDARY_END (R205). -/
def execBoundaryEnd (s : State) : Host.Outcome State Fault Refusal := act (ready s 14) (boundPhase boundaryEnd) s

/-- SEQ_ADVANCE (R208). -/
def execSeqAdvance (ctx : Nat) (s : State) : Host.Outcome State Fault Refusal :=
  act (ready s 14) (fun b => if freeCtx b ctx then seqAdvance b ctx else b) s

end Sys2Proof.Machine
end

