-- ==== Sys2Proof/Machine/CmdUnits.lean ====
section
/-! DEFINITION. The commands that are a write or a read of a register of the Sequencer, the graph, issue, sieve, sequence and Exchange
units: each puts its row's offset and value on the Register Port (R11 to R14, R63). -/
namespace Sys2Proof.Machine

/-- CSQ_DB (R224, R256). -/
def execCsqDb (page q tail : Nat) (a : Access) (s : State) : Host.Outcome State Fault Refusal :=
  busCmd (pageReg (page % 256) 0) (w32 (put q 21 16 + put tail 15 0)) a s

/-- QUEUE_ENABLE (R226, R255): CSQ_SQq_CFG with EN 1. -/
def execQueueEnable (q : Nat) (v : Word) (a : Access) (s : State) : Host.Outcome State Fault Refusal :=
  busCmd (sqReg (q % 64) 0) (v ||| 0x80000000#32) a s

/-- QUEUE_DISABLE (R226, R255): CSQ_SQq_CFG with EN 0. -/
def execQueueDisable (q : Nat) (v : Word) (a : Access) (s : State) : Host.Outcome State Fault Refusal :=
  busCmd (sqReg (q % 64) 0) (v &&& 0x7fffffff#32) a s

/-- RETRY (R243): CSQ_SQq_CTL. -/
def execRetry (q : Nat) (a : Access) (s : State) : Host.Outcome State Fault Refusal :=
  busCmd (sqReg (q % 64) 0x24) 1 a s

/-- SKIP (R243): CSQ_SQq_CTL. -/
def execSkip (q : Nat) (a : Access) (s : State) : Host.Outcome State Fault Refusal :=
  busCmd (sqReg (q % 64) 0x24) 2 a s

/-- FLUSH (R243): CSQ_SQq_CTL. -/
def execFlush (q : Nat) (a : Access) (s : State) : Host.Outcome State Fault Refusal :=
  busCmd (sqReg (q % 64) 0x24) 3 a s

/-- RESUME (R249): CSQ_BRK_CTL. -/
def execResume (a : Access) (s : State) : Host.Outcome State Fault Refusal :=
  busCmd 0x20144 1 a s

/-- STEP (R249): CSQ_BRK_CTL. -/
def execStepBrk (a : Access) (s : State) : Host.Outcome State Fault Refusal :=
  busCmd 0x20144 2 a s

/-- COMPLETION_HEAD_WRITE (R245, R256). -/
def execCompletionHeadWrite (page : Nat) (v : Word) (a : Access) (s : State) : Host.Outcome State Fault Refusal :=
  busCmd (pageReg (page % 256) 0x10) v a s

/-- INSTALL (R89, R119): GST_CMD. -/
def execInstall (tid : Nat) (a : Access) (s : State) : Host.Outcome State Fault Refusal :=
  busCmd 0x4000c (w32 (put 1 29 28 + put tid 11 0)) a s

/-- UNINSTALL (R93, R119): GST_CMD. -/
def execUninstall (tid : Nat) (a : Access) (s : State) : Host.Outcome State Fault Refusal :=
  busCmd 0x4000c (w32 (put 2 29 28 + put tid 11 0)) a s

/-- XT_LOAD (R162): SVE_XT_CMD.LOAD. -/
def execXtLoad (a : Access) (s : State) : Host.Outcome State Fault Refusal :=
  busCmd 0xc0010 1 a s

/-- C0_RESV_WRITE (R132): the reserve engines follow from ISS_C0_RESV. -/
def execC0ResvWrite (v : Word) (a : Access) (s : State) : Host.Outcome State Fault Refusal :=
  busCmd rC0Resv v a s

/-- REGION_RETURN (R375): bits of BLK_REGION_FAIL are cleared. -/
def execRegionReturn (mask : Word) (a : Access) (s : State) : Host.Outcome State Fault Refusal :=
  busCmd rRegionFail mask a s

/-- REQ_FAULT_CLEAR (R213): SQT_CTX_STATUS.REQ_FAULT. -/
def execReqFaultClear (a : Access) (s : State) : Host.Outcome State Fault Refusal :=
  busCmd 0xe0138 1 a s

/-- NOTICE_HEAD_WRITE (R212): SQT_NTC_HEAD. -/
def execNoticeHeadWrite (page : Nat) (v : Word) (a : Access) (s : State) : Host.Outcome State Fault Refusal :=
  busCmd (pageReg (page % 256) 0x20c) v a s

/-- XCH_SDB (R257, R284). -/
def execXchSdb (page ch tail : Nat) (a : Access) (s : State) : Host.Outcome State Fault Refusal :=
  busCmd (pageReg (page % 256) 0x400) (w32 (put ch 25 16 + put tail 15 0)) a s

/-- SEND (R259). -/
def execSend (ch : Nat) (s : State) : Host.Outcome State Fault Refusal := act (ready s 11) (fun b => sendCmd b ch) s

/-- ALLOC (R260). -/
def execAlloc (ch : Nat) (s : State) : Host.Outcome State Fault Refusal := act (ready s 11) (fun b => allocCmd b ch) s

/-- FREE (R260). -/
def execFreeHandle (ch : Nat) (s : State) : Host.Outcome State Fault Refusal := act (ready s 11) (fun b => freeCmd b ch) s

/-- CHANNEL_ENABLE (R284): XCH_SCFG with EN 1. -/
def execChannelEnable (page : Nat) (v : Word) (a : Access) (s : State) : Host.Outcome State Fault Refusal :=
  busCmd (pageReg (page % 256) 0x408) (v ||| 0x80000000#32) a s

/-- XCH_SCFG of the channel a page shows, with FAULT written as 1. -/
def scfgClear (b : Blk) (page : Nat) : Word := w32 (scfgWord { chanOf b (rgf b (pageReg page 0x404) 9 0) with fault := true })

/-- CHANNEL_FAULT_CLEAR (R280): XCH_SCFG.FAULT is cleared, its other fields as they are. -/
def execChannelFaultClear (page : Nat) (a : Access) (s : State) : Host.Outcome State Fault Refusal :=
  busCmd (pageReg (page % 256) 0x408) (scfgClear s.blk (page % 256)) a s

/-- OPEN (R261, R284): XCH_RCTL. -/
def execOpenRing (page : Nat) (a : Access) (s : State) : Host.Outcome State Fault Refusal :=
  busCmd (pageReg (page % 256) 0x430) 1 a s

/-- OPEN_BOUND (R261, R284): XCH_RCTL. -/
def execOpenBound (page : Nat) (a : Access) (s : State) : Host.Outcome State Fault Refusal :=
  busCmd (pageReg (page % 256) 0x430) 2 a s

/-- RING_CLOSE (R261, R284): XCH_RCTL. -/
def execRingClose (page : Nat) (a : Access) (s : State) : Host.Outcome State Fault Refusal :=
  busCmd (pageReg (page % 256) 0x430) 3 a s

end Sys2Proof.Machine
end

