-- ==== Sys2Proof/Machine/Dispatch.lean ====
section
/-! DEFINITION. One arm per command: the meaning it calls. -/
namespace Sys2Proof.Machine

/-- What a command does to the block (everything but the queue). -/
def exec (i : Instr) (s : State) : Host.Outcome State Fault Refusal :=
  match i with
  | .coldReset => Sys2Proof.Machine.execColdReset s
  | .coldResetRelease keyhash => Sys2Proof.Machine.execColdResetRelease keyhash s
  | .storeInitDone st => Sys2Proof.Machine.execStoreInitDone st s
  | .nvmOperationDone beats derr => Sys2Proof.Machine.execNvmOperationDone beats derr s
  | .pbApply => Sys2Proof.Machine.execPbApply s
  | .softrst a => Sys2Proof.Machine.execSoftrst a s
  | .softResetDrainExpiry => Sys2Proof.Machine.execSoftResetDrainExpiry s
  | .handshakeViolation p => Sys2Proof.Machine.execHandshakeViolation p s
  | .timeSample val valid parityOk => Sys2Proof.Machine.execTimeSample val valid parityOk s
  | .throttleCeiling v parityOk => Sys2Proof.Machine.execThrottleCeiling v parityOk s
  | .tokenGain => Sys2Proof.Machine.execTokenGain s
  | .dispatchDecision waiting => Sys2Proof.Machine.execDispatchDecision waiting s
  | .dispatchAck n err => Sys2Proof.Machine.execDispatchAck n err s
  | .completionWord n src w parityOk waiting => Sys2Proof.Machine.execCompletionWord n src w parityOk waiting s
  | .candidateRecord n src w parityOk waiting => Sys2Proof.Machine.execCandidateRecord n src w parityOk s waiting
  | .enqueueRequest n src w parityOk waiting => Sys2Proof.Machine.execEnqueueRequest n src w parityOk s waiting
  | .rcpReservedKind n src kind w parityOk => Sys2Proof.Machine.execRcpReservedKind n src kind w parityOk s
  | .memoryResponse tag status data dataOk ctlOk waiting => Sys2Proof.Machine.execMemoryResponse tag status data dataOk ctlOk s waiting
  | .arrive h scope node dead => Sys2Proof.Machine.execArrive h scope node dead s
  | .closeRequest h t scope node => Sys2Proof.Machine.execCloseRequest h t scope node s
  | .cand h scope dead fin recs => Sys2Proof.Machine.execCand h scope dead fin recs s
  | .tally h final home scope expNode entries => Sys2Proof.Machine.execTally h final home scope expNode entries s
  | .assign h expert home scope recs => Sys2Proof.Machine.execAssign h expert home scope recs s
  | .stage h expert scope expNode => Sys2Proof.Machine.execStage h expert scope expNode s
  | .cancelRequest h expert scope expNode => Sys2Proof.Machine.execCancelRequest h expert scope expNode s
  | .amReq h m payload => Sys2Proof.Machine.execAmReq h m payload s
  | .amRpl h m payload => Sys2Proof.Machine.execAmRpl h m payload s
  | .fabricReservedType h ty => Sys2Proof.Machine.execFabricReservedType h ty s
  | .orderHoldExpiry src pseq => Sys2Proof.Machine.execOrderHoldExpiry src pseq s
  | .orderWindowClose => Sys2Proof.Machine.execOrderWindowClose s
  | .answer src rqid code parityOk flits waiting => Sys2Proof.Machine.execAnswer src rqid code parityOk flits s waiting
  | .replyTimerExpiry idx waiting => Sys2Proof.Machine.execReplyTimerExpiry idx s waiting
  | .epochNotice epoch => Sys2Proof.Machine.execEpochNotice epoch s
  | .fabricXoff ch on => Sys2Proof.Machine.execFabricXoff ch on s
  | .retryOffer ix => Sys2Proof.Machine.execRetryOffer ix s
  | .earlyArrivalExpiry => Sys2Proof.Machine.execEarlyArrivalExpiry s
  | .delayRelease waiting => Sys2Proof.Machine.execDelayRelease s waiting
  | .taskOverrun slot => Sys2Proof.Machine.execTaskOverrun slot s
  | .sieveRunTimeout run => Sys2Proof.Machine.execSieveRunTimeout run s
  | .launchEnd l waiting => Sys2Proof.Machine.execLaunchEnd l s waiting
  | .courseBuild => Sys2Proof.Machine.execCourseBuild s
  | .boundaryEnd => Sys2Proof.Machine.execBoundaryEnd s
  | .seqAdvance ctx => Sys2Proof.Machine.execSeqAdvance ctx s
  | .cmdNop q => Sys2Proof.Machine.execCmdNop q s
  | .cmdLaunch q waiting => Sys2Proof.Machine.execCmdLaunch q s waiting
  | .cmdWait q waiting => Sys2Proof.Machine.execCmdWait q s waiting
  | .cmdSignal q waiting => Sys2Proof.Machine.execCmdSignal q s waiting
  | .cmdClose q waiting => Sys2Proof.Machine.execCmdClose q s waiting
  | .cmdJalloc q waiting => Sys2Proof.Machine.execCmdJalloc q s waiting
  | .cmdJfree q waiting => Sys2Proof.Machine.execCmdJfree q s waiting
  | .cmdCancel q waiting => Sys2Proof.Machine.execCmdCancel q s waiting
  | .cmdSet q => Sys2Proof.Machine.execCmdSet q s
  | .cmdAdd q => Sys2Proof.Machine.execCmdAdd q s
  | .cmdGet q => Sys2Proof.Machine.execCmdGet q s
  | .cmdLoad q => Sys2Proof.Machine.execCmdLoad q s
  | .cmdStore q => Sys2Proof.Machine.execCmdStore q s
  | .cmdBr q => Sys2Proof.Machine.execCmdBr q s
  | .cmdLoop q => Sys2Proof.Machine.execCmdLoop q s
  | .cmdCall q => Sys2Proof.Machine.execCmdCall q s
  | .cmdRet q => Sys2Proof.Machine.execCmdRet q s
  | .cmdSleep q => Sys2Proof.Machine.execCmdSleep q s
  | .cmdBrk q => Sys2Proof.Machine.execCmdBrk q s
  | .cmdPatch q waiting => Sys2Proof.Machine.execCmdPatch q s waiting
  | .cmdSpill q waiting => Sys2Proof.Machine.execCmdSpill q s waiting
  | .cmdRefill q waiting => Sys2Proof.Machine.execCmdRefill q s waiting
  | .cmdLatch q => Sys2Proof.Machine.execCmdLatch q s
  | .cmdFence q waiting => Sys2Proof.Machine.execCmdFence q s waiting
  | .cmdAudit q => Sys2Proof.Machine.execCmdAudit q s
  | .cmdHello q => Sys2Proof.Machine.execCmdHello q s
  | .cmdAdopt q => Sys2Proof.Machine.execCmdAdopt q s
  | .illegalOpcode q => Sys2Proof.Machine.execIllegalOpcode q s
  | .waitTimeout q => Sys2Proof.Machine.execWaitTimeout q s
  | .sleepWake q => Sys2Proof.Machine.execSleepWake q s
  | .pulse => Sys2Proof.Machine.execPulse s
  | .pcSample => Sys2Proof.Machine.execPcSample s
  | .csqDb page q tail a => Sys2Proof.Machine.execCsqDb page q tail a s
  | .queueEnable q v a => Sys2Proof.Machine.execQueueEnable q v a s
  | .queueDisable q v a => Sys2Proof.Machine.execQueueDisable q v a s
  | .retry q a => Sys2Proof.Machine.execRetry q a s
  | .skip q a => Sys2Proof.Machine.execSkip q a s
  | .flush q a => Sys2Proof.Machine.execFlush q a s
  | .resume a => Sys2Proof.Machine.execResume a s
  | .stepBrk a => Sys2Proof.Machine.execStepBrk a s
  | .completionHeadWrite page v a => Sys2Proof.Machine.execCompletionHeadWrite page v a s
  | .install tid a => Sys2Proof.Machine.execInstall tid a s
  | .uninstall tid a => Sys2Proof.Machine.execUninstall tid a s
  | .xtLoad a => Sys2Proof.Machine.execXtLoad a s
  | .c0ResvWrite v a => Sys2Proof.Machine.execC0ResvWrite v a s
  | .regionReturn mask a => Sys2Proof.Machine.execRegionReturn mask a s
  | .reqFaultClear a => Sys2Proof.Machine.execReqFaultClear a s
  | .noticeHeadWrite page v a => Sys2Proof.Machine.execNoticeHeadWrite page v a s
  | .xchSdb page ch tail a => Sys2Proof.Machine.execXchSdb page ch tail a s
  | .send ch => Sys2Proof.Machine.execSend ch s
  | .alloc ch => Sys2Proof.Machine.execAlloc ch s
  | .freeHandle ch => Sys2Proof.Machine.execFreeHandle ch s
  | .channelEnable page v a => Sys2Proof.Machine.execChannelEnable page v a s
  | .channelFaultClear page a => Sys2Proof.Machine.execChannelFaultClear page a s
  | .openRing page a => Sys2Proof.Machine.execOpenRing page a s
  | .openBound page a => Sys2Proof.Machine.execOpenBound page a s
  | .ringClose page a => Sys2Proof.Machine.execRingClose page a s
  | .ctxOpen a => Sys2Proof.Machine.execCtxOpen a s
  | .ctxFence a => Sys2Proof.Machine.execCtxFence a s
  | .ctxReset a => Sys2Proof.Machine.execCtxReset a s
  | .ctxClose a => Sys2Proof.Machine.execCtxClose a s
  | .ctxResume a => Sys2Proof.Machine.execCtxResume a s
  | .openingDone ctx => Sys2Proof.Machine.execOpeningDone ctx s
  | .drainComplete ctx => Sys2Proof.Machine.execDrainComplete ctx s
  | .quiesceExpiry ctx => Sys2Proof.Machine.execQuiesceExpiry ctx s
  | .closeReleaseDone ctx => Sys2Proof.Machine.execCloseReleaseDone ctx s
  | .ctxRenew v a => Sys2Proof.Machine.execCtxRenew v a s
  | .leaseExpiry ctx => Sys2Proof.Machine.execLeaseExpiry ctx s
  | .peerFence v a => Sys2Proof.Machine.execPeerFence v a s
  | .peerUnfence v a => Sys2Proof.Machine.execPeerUnfence v a s
  | .boardFaultClear a => Sys2Proof.Machine.execBoardFaultClear a s
  | .ordModeWrite v a => Sys2Proof.Machine.execOrdModeWrite v a s
  | .stepLoad a => Sys2Proof.Machine.execStepLoad a s
  | .tccClear a => Sys2Proof.Machine.execTccClear a s
  | .ruledTick ctx => Sys2Proof.Machine.execRuledTick ctx s
  | .frontStallExpiry ctx => Sys2Proof.Machine.execFrontStallExpiry ctx s
  | .counterConfig n v a => Sys2Proof.Machine.execCounterConfig n v a s
  | .counterClear n a => Sys2Proof.Machine.execCounterClear n a s
  | .counterReadClear off a => Sys2Proof.Machine.execCounterReadClear off a s
  | .trigger a => Sys2Proof.Machine.execTrigger a s
  | .arm b a => Sys2Proof.Machine.execArm b a s
  | .bufferEnable b v a => Sys2Proof.Machine.execBufferEnable b v a s
  | .bufferFaultClear b a => Sys2Proof.Machine.execBufferFaultClear b a s
  | .latchRingEnable v a => Sys2Proof.Machine.execLatchRingEnable v a s
  | .latchFaultClear a => Sys2Proof.Machine.execLatchFaultClear a s
  | .traceDrainLine => Sys2Proof.Machine.execTraceDrainLine s
  | .traceFlushExpiry b => Sys2Proof.Machine.execTraceFlushExpiry b s
  | .blot a => Sys2Proof.Machine.execBlot a s
  | .snap a => Sys2Proof.Machine.execSnap a s
  | .blotWrite => Sys2Proof.Machine.execBlotWrite s
  | .raiseTest a => Sys2Proof.Machine.execRaiseTest a s
  | .alarmCauseClear v a => Sys2Proof.Machine.execAlarmCauseClear v a s
  | .logClear a => Sys2Proof.Machine.execLogClear a s
  | .selfCheckFail => Sys2Proof.Machine.execSelfCheckFail s
  | .sweepRead f unit => Sys2Proof.Machine.execSweepRead f s unit
  | .sweepOverrun => Sys2Proof.Machine.execSweepOverrun s
  | .pulseWatchdogExpiry => Sys2Proof.Machine.execPulseWatchdogExpiry s
  | .dispatchWatchdogExpiry => Sys2Proof.Machine.execDispatchWatchdogExpiry s
  | .autoAudit => Sys2Proof.Machine.execAutoAudit s
  | .diagWindowRead off a f => Sys2Proof.Machine.execDiagWindowRead off a f s
  | .registerWrite off v a => Sys2Proof.Machine.execRegisterWrite off v a s
  | .wsBypass code => Sys2Proof.Machine.execWsBypass s code
  | .wsExtest pins => Sys2Proof.Machine.execWsExtest pins s
  | .wsPreload bits => Sys2Proof.Machine.execWsPreload bits s
  | .qmScan => Sys2Proof.Machine.execQmScan s
  | .qmMbist start => Sys2Proof.Machine.execQmMbist s start
  | .qmMbistDone st row => Sys2Proof.Machine.execQmMbistDone st row s
  | .qmMbistRes => Sys2Proof.Machine.execQmMbistRes s
  | .qmDlymon => Sys2Proof.Machine.execQmDlymon s
  | .qmId => Sys2Proof.Machine.execQmId s
  | .wrapperReset => Sys2Proof.Machine.execWrapperReset s
  | .memoryRequestTaken => Sys2Proof.Machine.execMemoryRequestTaken s
  | .fabricFlitTaken ch => Sys2Proof.Machine.execFabricFlitTaken ch s
  | .loHalfRead off a => Sys2Proof.Machine.execLoHalfRead off a s

end Sys2Proof.Machine
end

