-- ==== Sys2Proof/WellFormed.lean ====
section
/-! DEFINITION. Which commands can be offered: every operand fits the field that carries it (R36 to R73, R141, R165, R264, R269 to
R271, R420), or names an index that the block has. -/
namespace Sys2Proof

/-- A number fits a field of `bits` bits. -/
def fits (bits n : Nat) : Bool := decide (n < 2 ^ bits)

/-- The contexts that wait beside a Register Port access are numbered as contexts are (R297). -/
def Access.wf (a : Access) : Bool := a.waiting.all (fits 8)

/-- The prefix and the routing header of a request message are in their fields (R57, R269). -/
def FHdr.wf (h : FHdr) : Bool :=
  fits 21 h.src && fits 21 h.dst && fits 1 h.epoch && fits 16 h.pseq && fits 16 h.rqid && fits 8 h.srcGen && fits 8 h.srcCtx &&
    fits 8 h.dstGen && fits 8 h.dstCtx && fits 32 h.ltag && fits 13 h.rsv && h.waiting.all (fits 8)

/-- The header of an active message is in its fields (R263, R270). -/
def AmHdr.wf (m : AmHdr) : Bool :=
  fits 8 m.rgen && fits 14 m.ring && fits 16 m.handler && fits 16 m.len && fits 16 m.sch && fits 32 m.mseq && fits 64 m.user

/-- The TYPE codes of R270 that name a message. -/
def msgTypes : List Nat := [0x01, 0x02, 0x04, 0x05, 0x06, 0x07, 0x08, 0x10, 0x11, 0x3f]

/-- A register offset of the 16 MiB window (R63). -/
def offOk (off : Nat) : Bool := fits 24 off && off % 4 == 0

/-- A port index is one of the 16 regions (R45, R48). -/
def PortName.wf : PortName → Bool
  | .rip n => fits 4 n
  | .rcp n => fits 4 n
  | .mq => true
  | .mp => true
  | .fqo => true
  | .fqi => true
  | .fpo => true
  | .fpi => true
  | .fep => true
  | .rgp => true
  | .nvm => true
  | .thr => true

/-- The operands of a command are in range. -/
def Instr.wf : Instr → Bool
  | .coldReset => true
  | .coldResetRelease _ => true
  | .storeInitDone _ => true
  | .nvmOperationDone _ _ => true
  | .pbApply => true
  | .softrst a => a.wf
  | .softResetDrainExpiry => true
  | .handshakeViolation p => p.wf
  | .timeSample val _ _ => fits 64 val
  | .throttleCeiling v _ => fits 8 v
  | .tokenGain => true
  | .dispatchDecision w => w.all (fits 8)
  | .dispatchAck n _ => fits 4 n
  | .completionWord n src _ _ w => fits 4 n && fits 8 src && w.all (fits 8)
  | .candidateRecord n src _ _ w => fits 4 n && fits 8 src && w.all (fits 8)
  | .enqueueRequest n src _ _ w => fits 4 n && fits 8 src && w.all (fits 8)
  | .rcpReservedKind n src kind _ _ => fits 4 n && fits 8 src && kind == 3
  | .memoryResponse tag status _ _ _ w => fits 10 tag && fits 3 status && w.all (fits 8)
  | .arrive h scope node _ => h.wf && fits 12 scope && fits 12 node
  | .closeRequest h t scope node => h.wf && fits 24 t && fits 12 scope && fits 12 node
  | .cand h scope _ _ recs => h.wf && fits 12 scope && decide (recs.length ≤ 32)
  | .tally h _ home scope x es =>
    h.wf && fits 8 home && fits 12 scope && fits 12 x && decide (es.length ≤ 32) && es.all (fun e => fits 16 e.1 && fits 24 e.2)
  | .assign h expert home scope recs =>
    h.wf && fits 16 expert && fits 8 home && fits 12 scope && decide (1 ≤ recs.length) && decide (recs.length ≤ 32)
  | .stage h expert scope x => h.wf && fits 16 expert && fits 12 scope && fits 12 x
  | .cancelRequest h expert scope x => h.wf && fits 16 expert && fits 12 scope && fits 12 x
  | .amReq h m payload => h.wf && m.wf && payload.length == m.len
  | .amRpl h m payload => h.wf && m.wf && payload.length == m.len
  | .fabricReservedType h ty => h.wf && fits 6 ty && !msgTypes.contains ty
  | .orderHoldExpiry src pseq => fits 21 src && fits 16 pseq
  | .orderWindowClose => true
  | .answer src rqid code _ _ w => fits 21 src && fits 16 rqid && fits 4 code && w.all (fits 8)
  | .replyTimerExpiry idx w => fits 12 idx && w.all (fits 8)
  | .epochNotice epoch => fits 1 epoch
  | .fabricXoff _ _ => true
  | .retryOffer _ => true
  | .earlyArrivalExpiry => true
  | .delayRelease w => w.all (fits 8)
  | .taskOverrun slot => fits 17 slot
  | .sieveRunTimeout run => fits 10 run
  | .launchEnd _ w => w.all (fits 8)
  | .courseBuild => true
  | .boundaryEnd => true
  | .seqAdvance ctx => fits 8 ctx
  | .cmdNop q => fits 6 q
  | .cmdLaunch q w => fits 6 q && w.all (fits 8)
  | .cmdWait q w => fits 6 q && w.all (fits 8)
  | .cmdSignal q w => fits 6 q && w.all (fits 8)
  | .cmdClose q w => fits 6 q && w.all (fits 8)
  | .cmdJalloc q w => fits 6 q && w.all (fits 8)
  | .cmdJfree q w => fits 6 q && w.all (fits 8)
  | .cmdCancel q w => fits 6 q && w.all (fits 8)
  | .cmdSet q => fits 6 q
  | .cmdAdd q => fits 6 q
  | .cmdGet q => fits 6 q
  | .cmdLoad q => fits 6 q
  | .cmdStore q => fits 6 q
  | .cmdBr q => fits 6 q
  | .cmdLoop q => fits 6 q
  | .cmdCall q => fits 6 q
  | .cmdRet q => fits 6 q
  | .cmdSleep q => fits 6 q
  | .cmdBrk q => fits 6 q
  | .cmdPatch q w => fits 6 q && w.all (fits 8)
  | .cmdSpill q w => fits 6 q && w.all (fits 8)
  | .cmdRefill q w => fits 6 q && w.all (fits 8)
  | .cmdLatch q => fits 6 q
  | .cmdFence q w => fits 6 q && w.all (fits 8)
  | .cmdAudit q => fits 6 q
  | .cmdHello q => fits 6 q
  | .cmdAdopt q => fits 6 q
  | .illegalOpcode q => fits 6 q
  | .waitTimeout q => fits 6 q
  | .sleepWake q => fits 6 q
  | .pulse => true
  | .pcSample => true
  | .csqDb page q tail a => fits 8 page && fits 6 q && fits 16 tail && a.wf
  | .queueEnable q _ a => fits 6 q && a.wf
  | .queueDisable q _ a => fits 6 q && a.wf
  | .retry q a => fits 6 q && a.wf
  | .skip q a => fits 6 q && a.wf
  | .flush q a => fits 6 q && a.wf
  | .resume a => a.wf
  | .stepBrk a => a.wf
  | .completionHeadWrite page _ a => fits 8 page && a.wf
  | .install tid a => fits 12 tid && a.wf
  | .uninstall tid a => fits 12 tid && a.wf
  | .xtLoad a => a.wf
  | .c0ResvWrite _ a => a.wf
  | .regionReturn _ a => a.wf
  | .reqFaultClear a => a.wf
  | .noticeHeadWrite page _ a => fits 8 page && a.wf
  | .xchSdb page ch tail a => fits 8 page && fits 10 ch && fits 16 tail && a.wf
  | .send ch => fits 10 ch
  | .alloc ch => fits 10 ch
  | .freeHandle ch => fits 10 ch
  | .channelEnable page _ a => fits 8 page && a.wf
  | .channelFaultClear page a => fits 8 page && a.wf
  | .openRing page a => fits 8 page && a.wf
  | .openBound page a => fits 8 page && a.wf
  | .ringClose page a => fits 8 page && a.wf
  | .ctxOpen a => a.wf
  | .ctxFence a => a.wf
  | .ctxReset a => a.wf
  | .ctxClose a => a.wf
  | .ctxResume a => a.wf
  | .openingDone ctx => fits 8 ctx
  | .drainComplete ctx => fits 8 ctx
  | .quiesceExpiry ctx => fits 8 ctx
  | .closeReleaseDone ctx => fits 8 ctx
  | .ctxRenew _ a => a.wf
  | .leaseExpiry ctx => fits 8 ctx
  | .peerFence _ a => a.wf
  | .peerUnfence _ a => a.wf
  | .boardFaultClear a => a.wf
  | .ordModeWrite _ a => a.wf
  | .stepLoad a => a.wf
  | .tccClear a => a.wf
  | .ruledTick ctx => fits 8 ctx
  | .frontStallExpiry ctx => fits 8 ctx
  | .counterConfig n _ a => fits 6 n && a.wf
  | .counterClear n a => fits 6 n && a.wf
  | .counterReadClear off a => offOk off && a.wf
  | .trigger a => a.wf
  | .arm b a => fits 2 b && a.wf
  | .bufferEnable b _ a => fits 2 b && a.wf
  | .bufferFaultClear b a => fits 2 b && a.wf
  | .latchRingEnable _ a => a.wf
  | .latchFaultClear a => a.wf
  | .traceDrainLine => true
  | .traceFlushExpiry b => fits 2 b
  | .blot a => a.wf
  | .snap a => a.wf
  | .blotWrite => true
  | .raiseTest a => a.wf
  | .alarmCauseClear _ a => a.wf
  | .logClear a => a.wf
  | .selfCheckFail => true
  | .sweepRead _ _ => true
  | .sweepOverrun => true
  | .pulseWatchdogExpiry => true
  | .dispatchWatchdogExpiry => true
  | .autoAudit => true
  | .diagWindowRead off a _ => offOk off && decide (0x400000 ≤ off) && a.wf
  | .registerWrite off _ a => offOk off && a.wf
  | .wsBypass code => fits 5 code
  | .wsExtest _ => true
  | .wsPreload _ => true
  | .qmScan => true
  | .qmMbist _ => true
  | .qmMbistDone st row => fits 16 st && fits 32 row
  | .qmMbistRes => true
  | .qmDlymon => true
  | .qmId => true
  | .wrapperReset => true
  | .memoryRequestTaken => true
  | .fabricFlitTaken _ => true
  | .loHalfRead off a => offOk off && a.wf

end Sys2Proof
end

