-- ==== Sys2Proof/Safety.lean ====
section
/-! DEFINITION. What a safe run is, and the terms in which statements about commands are made. -/
namespace Sys2Proof.Machine

/-- A step stops the machine. -/
def Stops (s : State) : Prop := ∀ t, step s ≠ .next t

/-- The states that a number of steps leads to. -/
def run : Nat → State → Option State
  | 0, s => some s
  | k + 1, s =>
    match step s with
    | .next t => run k t
    | _ => none

/-- A run is safe where every step of it answers a next state. -/
def SafeRun (k : Nat) (s : State) : Prop := (run k s).isSome

/-- The command answers the next state that an update `b` of the block leads to, and `b` is as `P` says. What follows from the
update in the same step (`settle`: the cascade, and what the ports and queues take up next) is no part of `b`. -/
def Updates (c : Instr) (s : State) (P : Blk → Prop) : Prop := ∃ b, exec c s = .next (s.finish b) ∧ P b

/-- The command answers a next state, and nothing at all has changed. -/
def Nothing (c : Instr) (s : State) : Prop := exec c s = .next s

/-- A Register Port access that passes the port's own checks at a mapped offset, whose unit is ready, and before which no other access is
held (R63 to R65, R408). -/
structure Served (b : Blk) (off : Nat) (a : Access) : Prop where
  reg : fnReady b 0 = true
  parity : a.parityOk = true
  priv : a.priv = true ∨ unprivOk off true = true
  low : off < 0x400000
  mapped : (regPlain b off).isSome = true
  unit : fnReady b (unitFn (unitOf off)) = true
  alone : b.ports.diag = none

/-- The command is a write that its unit performs: the port answers OK, and the block is `t` otherwise. -/
def Writes (c : Instr) (s : State) (P : Blk → Prop) : Prop := Updates c s (fun b => ∃ t, b = rgpEnd t rgpOk 0 ∧ P t)

/-- A request of context x has been granted while those of the contexts `ws` waited at the same store: the timing-choice counter of each
free context among them counts one more, up to its 48 bits (R297). -/
structure Contended (s t : Blk) (x : Nat) (ws : List Nat) : Prop where
  rest : t = { s with ctx := { s.ctx with slots := t.ctx.slots } }
  slots : ∀ c, slotOf t c =
    if ws ≠ [] ∧ c ∈ (x :: ws).map (· % 256) ∧ isRuled s c = false then
      { slotOf s c with tcc := min ((slotOf s c).tcc + 1) (2 ^ 48 - 1) }
    else slotOf s c

/-- The same of a request that may belong to no context. -/
def ContendedOpt (s t : Blk) : Option Nat → List Nat → Prop
  | some x, ws => Contended s t x ws
  | none, x :: r => Contended s t x (x :: r)
  | none, [] => t = s

/-- The same of a write at a store that other parties ask, granted while requests of the contexts `ws` wait there. -/
def WritesFor (c : Instr) (s : State) (x : Nat) (ws : List Nat) (P : Blk → Prop) : Prop :=
  Updates c s (fun b => ∃ t, Contended (rgpEnd t rgpOk 0) b x ws ∧ P t)

/-- Only one register word differs: the one at `k`, which now holds `v`. -/
structure OnlyReg (s t : Blk) (k v : Nat) : Prop where
  rest : t = { s with regs := t.regs }
  value : rg t k = v
  others : ∀ j, j ≠ k → rg t j = rg s j

/-- A register word that belongs neither to OBS nor to DBG (R420). -/
abbrev unitKey (k : Nat) : Prop :=
  k % 0x1000000 < 0x140000 ∨ (0x150000 ≤ k % 0x1000000 ∧ k % 0x1000000 < 0x180000) ∨ rPage ≤ k % 0x1000000

/-- The register words listed in the register store that belong neither to OBS nor to DBG. -/
def unitWords (s : Blk) : Store Word := s.regs.filter (fun p => decide (unitKey p.1))

/-- Nothing but observation differs: counters, trace buffers, requests to the Blotter, and registers of OBS and DBG. -/
structure Observed (s t : Blk) : Prop where
  rest : t = { s with regs := t.regs, obs := t.obs, dbg := t.dbg }
  regs : ∀ k, unitKey k → rg t k = rg s k
  words : unitWords t = unitWords s

/-- The entry of a fault that is recorded now (R391). -/
def faultEnt (s : Blk) (unit code : Nat) (c : Option Nat) (detail : Nat) (alarm : Bool) : LogEnt :=
  { time := now s, code, unit, ctx := c, ctxGen := (c.map (ctxGen s)).getD 0, strict := (c.map (isStrict s)).getD false, alarm,
    badPar := false, rep := 0, detail }

/-- A log has taken an entry as R390 says, and nothing else differs but observation and what the Exchange shows of its own
faults (R283). A log of a unit has room for 16 entries, one of a context for 8, FIRST included. -/
structure Logged (s t : Blk) (log : Nat) (e : LogEnt) : Prop where
  rest : t = { s with regs := t.regs, obs := t.obs, dbg := t.dbg, saf := { s.saf with logs := t.saf.logs } }
  entry : logOf t log = (logOf s log).add (if log < 16 then 15 else 7) e
  others : ∀ n, n ≠ log → logOf t n = logOf s n
  regs : ∀ k, unitKey k → k ≠ rXchIrq → k ≠ rSafIrq → rg t k = rg s k

/-- A cause of the alarm is set (R382). The strict contexts are to be fenced where the alarm rises by it (R385); what else the
rise brings, a blot and a trigger, is observation. -/
structure Raised (s t : Blk) (bit : Nat) : Prop where
  rest : t = { s with regs := t.regs, obs := t.obs, dbg := t.dbg, work := t.work }
  cause : rg t rAlarmCause = rg s rAlarmCause ||| 2 ^ bit
  fence : t.work = if rg s rAlarmCause = 0 then .fenceStrict :: s.work else s.work
  regs : ∀ k, unitKey k → k ≠ rAlarmCause → k ≠ rSafIrq → rg t k = rg s k

/-- The command is a write that R14 refuses: the port answers REFUSED, fault 0x31 with the offset, the value and the privilege
goes to the log of the unit written (R392), and the units keep what they held. -/
def Refuses (c : Instr) (s : State) (off : Nat) (v : Word) (a : Access) : Prop :=
  Updates c s (fun b => ∃ t, b = rgpEnd t rgpRefused 0 ∧ Logged s.blk t (unitOf off)
    (faultEnt s.blk (unitOf off) 0x31 none (2 ^ 63 + off + v.toNat * 2 ^ 64 + b2n a.priv * 2 ^ 96) false))

/-- A register word with some bits written (R11). -/
def written (old mask : Nat) (v : Word) : Nat := (old &&& (0xffffffff ^^^ mask)) ||| (v.toNat &&& mask)

/-- Registers that take any value, with their RW bits (R80, R119, R158, R196, R219, R254, R283, R302, R334, R366, R370, R395,
R421). -/
def plainRegs : List (Nat × Nat) :=
  [(0x104, 0xff), (0x10028, 0x107), (0x2000c, 0xffffffff), (0x20024, 0x107), (0x20100, 0xf03f00ff), (0x20104, 0xffffffe0),
   (0x20108, 0xfffff), (0x20130, 0xf03f00ff), (0x40000, 0xffffffc0), (0x40004, 0xfffff), (0x40008, 0x3fff), (0x40020, 0xfff),
   (0x5000c, 0xff), (0x50028, 0x107), (0xa0024, 0xfff), (0xa0030, 0xfffff), (0xa003c, 0xfffff), (0xa0054, 0x107),
   (0xc0000, 0xffffffc0), (0xc0004, 0xfffff), (0xc0008, 0x3ffff), (0xc0018, 0x3ff), (0xc0024, 0xffffffc0), (0xc0028, 0xfffff),
   (0xe0004, 0xff), (0xe0018, 0x107), (0x100018, 0xff), (0x100028, 0x107), (0x100040, 0xffffffc0), (0x10013c, 0xfffff)] ++
  [(0x120000, 0xff), (0x120010, 0xffffffff), (0x120014, 0xff), (0x120024, 0x3e), (0x120128, 0x107), (0x120130, 0x3f),
   (0x120200, 0xff), (0x120800, 0xff), (0x120820, 0xfffff), (0x120828, 0xffffffff), (0x140800, 0xff), (0x140804, 3),
   (0x140808, 0xffffffc0), (0x14080c, 0xfffff), (0x140908, 0xfffffff), (0x140910, 0xffffffff), (0x140914, 0xffff),
   (0x140924, 0x107), (0x140a0c, 0xffffffc0), (0x140a10, 0xfffff), (0x140a14, 0xffffffff), (0x160040, 0xffffffff),
   (0x16005c, 0xffffffff), (0x160094, 0x107), (0x18000c, 0xffff0000), (0x180010, 0xfffff), (0x180014, 0x1f),
   (0x180018, 0xffff), (0x18002c, 0x107)]

/-- Registers of which R14 refuses a value: offset, RW bits, the field's highest and lowest bit, and its least and greatest
value. -/
def rangedRegs : List (Nat × Nat × Nat × Nat × Nat × Nat) :=
  [(0x130, 0x1f, 4, 0, 0, 0x10), (0x10024, 0xffff, 15, 0, 1, 0xffff), (0x20004, 0x3ff, 9, 0, 64, 1000),
   (0x20010, 0x8000001f, 4, 0, 6, 20), (0x50010, 0x3ffff, 17, 0, 0, 0x20000), (0x5001c, 0xffff, 15, 0, 1, 0xffff),
   (0x81000, 0x1f, 4, 0, 3, 20), (0xa0004, 0x3f, 5, 0, 1, 32), (0xa0010, 0x3f, 5, 0, 1, 32), (0xa0014, 0xf, 3, 0, 1, 8),
   (0xc000c, 0x7ffff, 18, 0, 1, 262144), (0xc0030, 0xfffff, 19, 0, 1, 0xfffff), (0x100000, 0x3ff, 9, 0, 2, 1000),
   (0x100004, 0x7ff, 10, 0, 100, 1200), (0x100008, 0x3ff, 9, 0, 1, 1000), (0x120028, 0xffff, 15, 0, 10, 0xffff),
   (0x140900, 0x3ffff, 15, 0, 34, 0xffff), (0x140904, 0xffff, 15, 0, 1, 0xffff), (0x16000c, 0x1f, 4, 0, 2, 19),
   (0x160010, 0x7ff, 10, 0, 250, 2000), (0x160014, 0xffff, 15, 0, 100, 0xffff), (0x160060, 0x1fff, 12, 4, 0, 271)]

/-- A block with nothing left to do: no piece of a cascade waits, no queue, task or message is in the block, no blot is being written, and
no watchdog is armed. -/
structure Quiet (b : Blk) : Prop where
  work : b.work = []
  queues : b.csq.queues = []
  tasks : b.tsk.tasks = []
  waitq : b.mem.waitq = []
  fabric : b.xch.waitq = [] ∧ b.xch.out = []
  rows : b.sve.rowWait = []
  blot : b.dbg.snap = []
  answers : b.ports.fpoWait = []
  ruled : ∀ c, ruledLive b c = false
  soft : b.cfg.srst = false
  pulse : b.saf.pulseActive = false ∧ b.saf.pulseArmedAt = none
  dispatch : b.saf.armedAt = none

/-- The commands that act on the IEEE 1500 wrapper. -/
def ofWrapper : Instr → Bool
  | .wsBypass _ | .wsExtest _ | .wsPreload _ | .qmScan | .qmMbist _ | .qmMbistDone _ _ | .qmMbistRes | .qmDlymon | .qmId
  | .wrapperReset => true
  | _ => false

/-- The commands that may move wall time: a sample of the Time Port, the resets, and a test that overwrites the block (R69, R76, R438). -/
def movesTime : Instr → Bool
  | .timeSample _ _ _ | .coldReset | .coldResetRelease _ | .softResetDrainExpiry | .qmScan | .qmMbist _ => true
  | _ => false

/-- Wall time is in order: the last value is one that the port can carry, the two counts stay within their limits, and only a
value that has been seen is usable (R69). -/
structure TimeOk (t : TimeS) : Prop where
  last : t.last < 2 ^ 64
  bad : t.bad ≤ 64
  same : t.same ≤ 1024
  seen : t.usable = true → t.seen = true
  fresh : t.usable = true → t.bad = 0

/-- The wrapper is in order: a self-test that runs is not done, its result fits its fields, and the delay monitors show 16
counts or none (R437, R438). -/
structure WrapperOk (w : Wrapper) : Prop where
  running : w.running = true → w.doneBit = false
  store : w.failStore < 2 ^ 16
  row : w.failRow < 2 ^ 32
  counts : w.counts.length = 0 ∨ w.counts.length = 16

/-- What every step keeps: wall time and the wrapper are in order, and every command that waits is one that can be offered. Wall time of a
block that a test has overwritten may be anything until a full cold reset has followed (R438). -/
structure Inv (s : State) : Prop where
  time : s.tap.dirty = true ∨ TimeOk s.blk.time
  wrapper : WrapperOk s.tap
  pending : ∀ c ∈ s.pending, c.wf = true

/-- The function without which a command waits at its sender (R77, R407, R408). Not listed are the resets, the wrapper, the safety
monitor and the transfers in progress, which the block serves whenever it is out of cold reset, and what a port answers in a soft
reset too (R76). -/
def needs : Instr → Option Nat
  | .timeSample _ _ _ => some 1
  | .memoryResponse _ _ _ _ _ _ => some 2
  | .traceDrainLine | .traceFlushExpiry _ => some 6
  | .earlyArrivalExpiry | .delayRelease _ | .launchEnd _ _ => some 8
  | .tokenGain | .dispatchDecision _ | .taskOverrun _ => some 9
  | .sieveRunTimeout _ => some 10
  | .orderHoldExpiry _ _ | .orderWindowClose | .replyTimerExpiry _ _ | .retryOffer _ | .send _ | .alloc _ | .freeHandle _ => some 11
  | .openingDone _ | .drainComplete _ | .quiesceExpiry _ | .closeReleaseDone _ | .leaseExpiry _ | .ruledTick _
  | .frontStallExpiry _ => some 12
  | .cmdNop _ | .cmdLaunch _ _ | .cmdWait _ _ | .cmdSignal _ _ | .cmdClose _ _ | .cmdJalloc _ _ | .cmdJfree _ _ | .cmdCancel _ _ | .cmdSet _
  | .cmdAdd _ | .cmdGet _ | .cmdLoad _ | .cmdStore _ | .cmdBr _ | .cmdLoop _ | .cmdCall _ | .cmdRet _ | .cmdSleep _ | .cmdBrk _
  | .cmdPatch _ _ | .cmdSpill _ _ | .cmdRefill _ _ | .cmdLatch _ | .cmdFence _ _ | .cmdAudit _ | .cmdHello _ | .cmdAdopt _
  | .illegalOpcode _ | .waitTimeout _ | .sleepWake _ | .pulse | .pcSample => some 13
  | .courseBuild | .boundaryEnd | .seqAdvance _ => some 14
  | .softrst _ | .csqDb _ _ _ _ | .queueEnable _ _ _ | .queueDisable _ _ _ | .retry _ _ | .skip _ _ | .flush _ _
  | .resume _ | .stepBrk _ | .completionHeadWrite _ _ _ | .install _ _ | .uninstall _ _ | .xtLoad _ | .c0ResvWrite _ _
  | .regionReturn _ _ | .reqFaultClear _ | .noticeHeadWrite _ _ _ | .xchSdb _ _ _ _ | .channelEnable _ _ _
  | .channelFaultClear _ _ | .openRing _ _ | .openBound _ _ | .ringClose _ _ | .ctxOpen _ | .ctxFence _ | .ctxReset _
  | .ctxClose _ | .ctxResume _ | .ctxRenew _ _ | .peerFence _ _ | .peerUnfence _ _ | .boardFaultClear _ | .ordModeWrite _ _
  | .stepLoad _ | .tccClear _ | .counterConfig _ _ _ | .counterClear _ _ | .counterReadClear _ _ | .trigger _ | .arm _ _
  | .bufferEnable _ _ _ | .bufferFaultClear _ _ | .latchRingEnable _ _ | .latchFaultClear _ | .blot _ | .snap _
  | .raiseTest _ | .alarmCauseClear _ _ | .logClear _ | .diagWindowRead _ _ _ | .registerWrite _ _ _ | .loHalfRead _ _ => some 0
  | _ => none

/-- A register word counts one more; 32-bit counters wrap (R11). -/
def Counted (s t : Blk) (k : Nat) : Prop := OnlyReg s t k ((rg s k + 1) % 2 ^ 32)

/-- An answer waits for the Fabric Port. Refusals are counted, and those for order as well (R271, R276). -/
structure Answers (s t : Blk) (a : Answer) : Prop where
  rest : t = { s with regs := t.regs, obs := t.obs, dbg := t.dbg, ports := { s.ports with fpoWait := s.ports.fpoWait ++ [a] } }
  refused : rg t rRefused = if a.code = 0 then rg s rRefused else (rg s rRefused + 1) % 2 ^ 32
  gap : rg t rOrderGap = if a.code = kGap then (rg s rOrderGap + 1) % 2 ^ 32 else rg s rOrderGap
  regs : ∀ k, unitKey k → k ≠ rRefused → k ≠ rOrderGap → rg t k = rg s k

/-- The request message that a command brings: its header, its TYPE and its body, none where the TYPE is reserved (R270). -/
def request : Instr → Option (FHdr × Nat × Option FBody)
  | .arrive h sc nd d => some (h, 1, some (.arrive sc nd d))
  | .closeRequest h t sc nd => some (h, 2, some (.close t sc nd))
  | .cand h sc d f rs => some (h, 4, some (.cand sc d f rs))
  | .tally h f hm sc nd es => some (h, 5, some (.tally f hm sc nd es))
  | .assign h x hm sc rs => some (h, 6, some (.assign x hm sc rs))
  | .stage h x sc nd => some (h, 7, some (.stage x sc nd))
  | .cancelRequest h x sc nd => some (h, 8, some (.cancel x sc nd))
  | .amReq h m p => some (h, 16, some (.am false m p))
  | .amRpl h m p => some (h, 17, some (.am true m p))
  | .fabricReservedType h ty => some (h, ty % 64, none)
  | _ => none

/-- The Exchange takes requests, and a request that is for this die has come whole and with good parity (R60, R266). -/
structure Sound (b : Blk) (h : FHdr) : Prop where
  xch : fnReady b 11 = true
  soft : b.cfg.srst = false
  chk : h.chk = .ok
  rsv : h.rsv = 0
  die : h.dst = ownDie b

/-- A request comes in its turn: it is the first of its die, or the one expected, or says SYNC, and none is held (R275, R276). -/
structure InTurn (b : Blk) (h : FHdr) : Prop where
  pseq : h.pseq < 2 ^ 16
  order : ∀ p, Store.get? b.xch.pairsIn h.src = some p → h.sync = true ∨ p.expected = h.pseq
  hold : b.xch.hold = []

/-- The context that a request names takes it (R266, checks 3 and 4). -/
structure Welcome (b : Blk) (h : FHdr) : Prop where
  peer : peerFenced b h.src = false
  gen : h.dstGen = ctxGen b h.dstCtx
  ctx : ctxSt b h.dstCtx = .opened ∨ ctxSt b h.dstCtx = .orphaned

/-- A request has been admitted: the next of its die is expected, the launch and scope it names are noted for its context, and
its grant is counted where requests of the contexts `ws` waited (R276, R290, R297). -/
structure Entered (s t : Blk) (h : FHdr) (sc : Option Nat) (ws : List Nat) : Prop where
  rest : t = { s with
    regs := t.regs, obs := t.obs, dbg := t.dbg
    xch := { s.xch with pairsIn := t.xch.pairsIn, lru := s.xch.lru + 1 }
    ctx := { s.ctx with seen := t.ctx.seen, slots := t.ctx.slots } }
  pair : (Store.get? t.xch.pairsIn h.src).map (·.expected) = some ((h.pseq + 1) % 65536)
  seen : ∀ e, e ∈ t.ctx.seen ↔ e ∈ s.ctx.seen ∨ ∃ x, sc = some x ∧ e = (h.dstCtx, h.src, h.ltag, x)
  slots : ∀ c, slotOf t c =
    if ws ≠ [] ∧ c ∈ (h.dstCtx :: ws).map (· % 256) ∧ isRuled s c = false then
      { slotOf s c with tcc := min ((slotOf s c).tcc + 1) (2 ^ 48 - 1) }
    else slotOf s c
  regs : ∀ k, unitKey k → rg t k = rg s k
  words : unitWords t = unitWords s

/-- A request that is sound, in turn and welcome is admitted, has its effect, and is answered with a code. -/
def Takes (c : Instr) (s : State) (h : FHdr) (sc : Option Nat) (code : Nat) (P : Blk → Blk → Prop) : Prop :=
  Updates c s (fun b => ∃ t u, Entered s.blk t h sc h.waiting ∧ P t u ∧ Answers u b { dst := h.src, rqid := h.rqid, code })

/-- The parity bits `p` of `k` words of 32 bits are even (R37): bit i and the word 32i + 31 to 32i have an even number of ones. -/
def EvenParity (k d p : Nat) : Prop :=
  ∀ i < k, ((List.range 32).countP (fun j => d.testBit (32 * i + j)) + (p.testBit i).toNat) % 2 = 0

/-- The refresh of a ring's copy of RPTR has begun: one read of its pointer block at QoS 00, unless one is in flight (R262). -/
structure Refreshes (s t : Blk) (g : Nat) : Prop where
  flying : (ringOf s g).refreshing = true → t = s
  starts : (ringOf s g).refreshing = false → ∃ u v,
    Counted (setRing s g { ringOf s g with refreshing := true }) u rRptrReads ∧ Observed u v ∧
    t = memRead v (ringOf s g).ptrAddr 0 (some (ringOf s g).ctx) uXch g (.ringRefresh g (ringOf s g).rgen)

/-- A message of the bytes `bs` has been placed in a ring with room for it (R264, R265): its bytes, and `skip` bytes of the tail before
them, are reserved; a SKIP, where there is one, and the record are written at QoS 01; and where less than a quarter of the ring is
left free the copy of RPTR is refreshed. -/
structure Delivers (s t : Blk) (g skip : Nat) (bs : List Byte) : Prop where
  steps : ∃ a b c d e,
    let v := ringOf s g
    let size := 2 ^ v.log2
    let start := (v.resv + skip) % size
    let done := (v.resv + skip + bs.length) % 2 ^ 32
    let room := size - ((v.resv + 2 ^ 32 - v.rptr) % 2 ^ 32 + skip + bs.length)
    let write := fun (b : Blk) off bytes =>
      memWrite b ((v.base + off) % 2 ^ 52) bytes 1 (some v.ctx) uXch g (.ringWrite g s.xch.placeNext)
    a = setRing { s with xch := { s.xch with placeNext := s.xch.placeNext + 1 } } g { v with
      resv := done
      places := v.places ++ [{ endc := done, id := s.xch.placeNext, gen := v.rgen, len := skip + bs.length
                               left := (linesOf ((v.base + start) % 2 ^ 52) bs).length + if 0 < skip then 1 else 0 }] } ∧
    (skip = 0 → c = a) ∧
    (0 < skip → ∃ u, Counted a u rSkips ∧ Observed u b ∧ c = write b (v.resv % size) (skipBytes skip)) ∧
    Counted (write c start bs) d rDelivered ∧ Observed d e ∧
    (size / 4 ≤ room → t = e) ∧ (room < size / 4 → Refreshes e t g)

/-- A task has entered a final state: its successors are applied next, with dead arrivals where `dead`, its delay entry is free
(R100, R129), and a completion that was owed for a READY task is owed no more. -/
structure TaskEnds (s t : Blk) (slot : Nat) (k : Task) (st : TaskState) (dead : Bool) : Prop where
  rest : t = { s with
    regs := t.regs, obs := t.obs, dbg := t.dbg, tsk := { s.tsk with tasks := t.tsk.tasks }, iss := { s.iss with dly := t.iss.dly }
    ctx := { s.ctx with owed := t.ctx.owed }, work := t.work }
  task : taskOf t slot = some { k with state := st, dlyWait := false }
  others : ∀ j, j ≠ slot → taskOf t j = taskOf s j
  delay : t.iss.dly = s.iss.dly.filter (fun d => d.slot ≠ slot)
  owed : t.ctx.owed = if k.state = .ready then s.ctx.owed.filter (fun o => o.what ≠ .completion slot) else s.ctx.owed
  work : t.work = .dlyFill :: .succs slot dead :: s.work
  regs : ∀ j, unitKey j → rg t j = rg s j
  words : unitWords t = unitWords s

/-- A task waits in a delay list: its entry is one that was free, with the release time of R127. -/
structure TaskDelayed (s t : Blk) (slot : Nat) (k : Task) : Prop where
  rest : t = { s with
    regs := t.regs, obs := t.obs, dbg := t.dbg, tsk := { s.tsk with tasks := t.tsk.tasks }, iss := { s.iss with dly := t.iss.dly }
    free := t.free }
  task : taskOf t slot = some { k with state := .delayed, dlyWait := false }
  others : ∀ j, j ≠ slot → taskOf t j = taskOf s j
  entry : ∃ i, i < 16384 ∧ (∀ d ∈ s.iss.dly, d.idx ≠ i) ∧ t.iss.dly = s.iss.dly ++
    [{ idx := i, slot, lst := 2 * k.cls + (if k.delay ≤ 255 then 0 else 1), delay := k.delay, shift := rgf s rDlyTick 4 0
       release := (now s / 2 ^ rgf s rDlyTick 4 0 + k.delay) * 2 ^ rgf s rDlyTick 4 0 }]
  regs : ∀ j, unitKey j → rg t j = rg s j

/-- The block with the answer of RCPn, and with a sender's count of words that failed their check (R48). -/
def rcpAnswered (s : Blk) (n code e fails : Nat) : Blk :=
  { s with ports := { s.ports with
      rcpErr := Store.put 0 s.ports.rcpErr n code, rcpFails := Store.put 0 s.ports.rcpFails e fails } }

/-- The word that a command brings on a region's completion port: the region, the engine in it, and whether its parity is good. -/
def regionWord : Instr → Option (Nat × Nat × Bool)
  | .completionWord n src _ ok _ | .candidateRecord n src _ ok _ | .enqueueRequest n src _ ok _ | .rcpReservedKind n src _ _ ok =>
    some (n, src, ok)
  | _ => none

/-- The credit of a task has returned with its completion word, whose reserved bits, if they are not 0, are counted (R142). -/
def credited (s : Blk) (e : Nat) (w : Word64) (k : Task) : Blk :=
  let t := creditBack s e k.cls
  if fld w 18 16 = 0 then t else { t with iss := { t.iss with rsvCount := t.iss.rsvCount + 1 } }

/-- The tasks ISSUED to engines of region n. -/
def issuedOn (s : Blk) (n : Nat) : Store Task := s.tsk.tasks.filter (fun p => p.2.state == .issued && p.2.issuedEng / 256 == n)

/-- Port pair n has left service (R375): its tasks end DONE with dead arrivals to their successors; their words are written off, as far
as the purge store has room (R317); fault 0x20 stands in the log of the unit and in that of each context concerned, the latter with
the number of its words (R392); and the alarm has risen. -/
structure PairGone (s b : Blk) (n cause : Nat) : Prop where
  fail : rg b rRegionFail = rg s rRegionFail ||| 2 ^ n
  alarm : (rg b rAlarmCause).testBit 6 = true
  tasks : ∀ p ∈ issuedOn s n, (∀ q ∈ s.tsk.tasks, q.1 = p.1 → q = p) →
    taskOf b p.1 = some { p.2 with state := .done, dead := true } ∧ .succs p.1 true ∈ b.work ∧
    ∀ o ∈ b.ctx.owed, o.what = .completion p.1 → o.evs ≠ [] ∧ o.arrived = true
  purge : b.iss.purge = s.iss.purge ++ ((issuedOn s n).take (1024 - s.iss.purge.length)).map (fun p => heldOf s p.1 p.2)
  credits : ∀ e c, occ b e c = occ s e c -
    ((issuedOn s n).take (1024 - s.iss.purge.length)).countP (fun p => 4 * p.2.issuedEng + p.2.cls = 4 * e + c)
  unitLog : logOf b uIss = (logOf s uIss).add 15 (faultEnt s uIss 0x20 none
    (pairDetail n cause (min (issuedOn s n).length (1024 - s.iss.purge.length))) true)
  ctxLogs : ∀ p ∈ issuedOn s n, p.2.ctx < 256 → (∀ q ∈ s.tsk.tasks, q.2.ctx = p.2.ctx → q.2.state ≠ .ready) →
    logOf b (ctxLog p.2.ctx) = (logOf s (ctxLog p.2.ctx)).add 7 (faultEnt s uIss 0x20 (some p.2.ctx)
      (pairDetail n cause (((issuedOn s n).take (1024 - s.iss.purge.length)).countP (fun q => q.2.ctx = p.2.ctx))) false)
  offer : Store.get? b.ports.rip n = (Store.get? s.ports.rip n).map (fun o => { o with writtenOff := true })

/-- Region n's port takes words, and the word's engine is not masked (R48, R136). -/
structure Listens (b : Blk) (n src : Nat) : Prop where
  iss : fnReady b 9 = true
  soft : b.cfg.srst = false
  port : n < 16
  eng : src < 256
  pair : regionOut b n = false
  mask : engMasked b (n * 256 + src) = false

/-- The issue point has granted a queue its command: which queue of its priority was served last, and what contexts that contended
count, may differ (R239, R297). -/
structure Granted (s t : Blk) (q : Nat) : Prop where
  rest : t = { s with csq := { s.csq with lastServed := t.csq.lastServed }, ctx := { s.ctx with slots := t.ctx.slots } }
  slots : ∀ c, slotOf t c = { slotOf s c with tcc := (slotOf t c).tcc }
  last : ruledLive s (sqCtx s q) = false → Store.getD t.csq.lastServed (sqPrio s q) 63 = q

/-- Queue q's command begins, and its word is w: the Sequencer is ready, the issue point takes the queue next (R222, R239), no
breakpoint stops the command or the command has been resumed (R247 to R249), and no check of R228 halts the queue. -/
structure Begins (s : Blk) (q : Nat) (w : Word256) : Prop where
  csq : fnReady s 13 = true
  word : issueWord s q = some w
  goes : (queueOf s q).passBrk = true ∨ ((brkHolds s (sqCtx s q) = true → q = s.csq.brkQueue) ∧ (queueOf s q).stepArm = false ∧
    brkHit s q (queueOf s q) w = none)
  sound : frontCheck s q w = none

/-- The command of queue q is granted, and `P` says what it does. -/
def Runs (c : Instr) (s : State) (q : Nat) (P : Blk → Blk → Prop) : Prop := Updates c s (fun b => ∃ t, Granted s.blk t q ∧ P t b)

/-- The command retires, with a value for S[RD] where it has one (R229). -/
def Retires (c : Instr) (s : State) (q : Nat) (w : Word256) (x : Option Word64) : Prop :=
  Runs c s q (fun t b => b = retireVal t q w x)

/-- The command halts its queue with a fault of its own (R242). -/
def Halts (c : Instr) (s : State) (q : Nat) (w : Word256) (code : Nat) : Prop := Runs c s q (fun t b => b = haltCmd t q w code)

/-- A queue has given a joint back: it holds it no more, and the joint is free (R236). -/
structure JointFreed (s t : Blk) (q j : Nat) : Prop where
  rest : t = { s with
    csq := { s.csq with queues := t.csq.queues }
    tsk := { s.tsk with joints := t.tsk.joints, freeJoints := freeOne s.tsk.freeJoints j } }
  queue : queueOf t q = { queueOf s q with joints := (queueOf s q).joints.filter (· ≠ j) }
  others : ∀ x, x ≠ q → queueOf t x = queueOf s x
  joint : ∀ i, jointOf t i = if i = j then none else jointOf s i

/-- A queue has a new joint, taken from the free ones: both copies hold the word given, and the joint gates the queue (R102, R236). -/
structure JointTaken (s t : Blk) (q j : Nat) (w : JWord) : Prop where
  rest : t = { s with
    regs := t.regs, obs := t.obs, dbg := t.dbg, free := t.free, csq := { s.csq with queues := t.csq.queues }
    tsk := { s.tsk with joints := t.tsk.joints, freeJoints := takeRun s.tsk.freeJoints j 1 } }
  free : ∃ r ∈ s.tsk.freeJoints, r.1 ≤ j ∧ j < r.1 + r.2
  queue : queueOf t q = { queueOf s q with joints := (queueOf s q).joints ++ [j] }
  others : ∀ x, x ≠ q → queueOf t x = queueOf s x
  joint : jointOf t j = some { a := { w }, b := { w }, waiter := .queue q, ctx := sqCtx s q }
  joints : ∀ i, i ≠ j → jointOf t i = jointOf s i
  regs : ∀ k, unitKey k → rg t k = rg s k

/-- A request waits at the Memory Port (R50). Its answer is owed to its context, and numbered, where that context is ruled
(R286). -/
structure MemAsked (s t : Blk) (r : MemReq) : Prop where
  rest : t = { s with
    mem := { s.mem with waitq := t.mem.waitq }, ctx := { s.ctx with owed := t.ctx.owed, serial := t.ctx.serial } }
  req : ∃ n, t.mem.waitq = s.mem.waitq ++ [(none, { r with serial := n })]
  free : (∀ c, r.ctx = some c → ruledLive s c = false) → t.ctx = s.ctx ∧ t.mem.waitq = s.mem.waitq ++ [(none, r)]

/-- The queue and the opcode of a command of the Nib (R229). -/
def nibRow : Instr → Option (Nat × Nat)
  | .cmdNop q => some (q, oNop) | .cmdLaunch q _ => some (q, oLaunch) | .cmdWait q _ => some (q, oWait)
  | .cmdSignal q _ => some (q, oSignal) | .cmdClose q _ => some (q, oClose) | .cmdJalloc q _ => some (q, oJalloc)
  | .cmdJfree q _ => some (q, oJfree) | .cmdCancel q _ => some (q, oCancel) | .cmdSet q => some (q, oSet)
  | .cmdAdd q => some (q, oAdd) | .cmdGet q => some (q, oGet) | .cmdLoad q => some (q, oLoad)
  | .cmdStore q => some (q, oStore) | .cmdBr q => some (q, oBr) | .cmdLoop q => some (q, oLoop)
  | .cmdCall q => some (q, oCall) | .cmdRet q => some (q, oRet) | .cmdSleep q => some (q, oSleep)
  | .cmdBrk q => some (q, oBrk) | .cmdPatch q _ => some (q, oPatch) | .cmdSpill q _ => some (q, oSpill)
  | .cmdRefill q _ => some (q, oRefill) | .cmdLatch q => some (q, oLatch) | .cmdFence q _ => some (q, oFence)
  | .cmdAudit q => some (q, oAudit) | .cmdHello q => some (q, oHello) | .cmdAdopt q => some (q, oAdopt)
  | _ => none

/-- Queue q's command, with word w, is the next to begin, and no breakpoint stops it; R228 has not yet checked it. -/
structure IsNext (s : Blk) (q : Nat) (w : Word256) : Prop where
  csq : fnReady s 13 = true
  word : issueWord s q = some w
  goes : (queueOf s q).passBrk = true ∨ ((brkHolds s (sqCtx s q) = true → q = s.csq.brkQueue) ∧ (queueOf s q).stepArm = false ∧
    brkHit s q (queueOf s q) w = none)

/-- A generation stays in the Graph Store: it is the current one, or a live launch pins it (R93). -/
def Stays (s : Blk) (g : Gen) : Prop := g.current = true ∨ ∃ l ∈ Store.vals s.tsk.launches, (g.tid, g.gen) ∈ l.pins

/-- The generations that do not stay have left the Graph Store, and their records with them (R93). -/
structure Released (s t : Blk) : Prop where
  rest : t = { s with tsk := { s.tsk with gens := t.tsk.gens, recs := t.tsk.recs } }
  gens : ∀ g, g ∈ t.tsk.gens ↔ g ∈ s.tsk.gens ∧ Stays s g
  recs : ∀ i, (∃ g ∈ s.tsk.gens, ¬ Stays s g ∧ g.base ≤ i ∧ i < g.base + g.nrec) → recAt t i = 0
  kept : ∀ i, (¬ ∃ g ∈ s.tsk.gens, ¬ Stays s g ∧ g.base ≤ i ∧ i < g.base + g.nrec) → recAt t i = recAt s i

/-- All that a launch held in the stores has left them but its record: its tasks, its joints, its reservations, what the expander unit
holds of it, and its pins (R97, R181). A slot whose dispatch word has not come back stays held (R134). -/
structure LaunchCleared (s t : Blk) (i : Nat) (l : Launch) : Prop where
  rest : t = { s with
    tsk := { s.tsk with
      freeSlots := (l.slots.filter (fun j => (Store.get? s.tsk.held j).isNone)).foldl freeOne s.tsk.freeSlots
      freeJoints := l.joints.foldl freeOne s.tsk.freeJoints
      tasks := t.tsk.tasks, joints := t.tsk.joints, launches := t.tsk.launches }
    sve := { s.sve with
      scopes := s.sve.scopes.filter (fun p => p.2.launch ≠ i), srcs := s.sve.srcs.filter (fun x => x.launch ≠ i)
      streams := s.sve.streams.filter (fun x => x.launch ≠ i) } }
  tasks : ∀ j, taskOf t j = if j ∈ l.slots then none else taskOf s j
  joints : ∀ j, jointOf t j = if j ∈ l.joints then none else jointOf s j
  record : launchOf t i = some { l with members := [], resv := [], slots := [], joints := [], pins := [], ended := true }
  others : ∀ j, j ≠ i → launchOf t j = launchOf s j

/-- A launch record is free: no launch has its number, what was noted of its scopes is gone, and what it pinned alone is released;
the arrival at its end joint and its bound rings come next (R97, R261, R290). -/
def LaunchFreed (s t : Blk) (i : Nat) (l : Launch) : Prop :=
  ∃ u, Released { s with
      tsk := { s.tsk with launches := Store.erase s.tsk.launches i }
      ctx := { s.ctx with seen := s.ctx.seen.filter (fun x => !(x.1 == l.ctx && x.2.2.1 == l.ltag)) } } u ∧
    t = push u ((match l.endJoint with | some j => [Work.arrive j false] | none => []) ++ [.ringsOf i])

/-- The tokens of the candidates before the i-th that a course has taken (R206). -/
def courseSum (cs : List (Nat × SeqEnt)) (took : Nat → Bool) (i : Nat) : Nat :=
  (((List.range i).filter took).map (fun j => min (cs.getD j (0, {})).2.chunk (cs.getD j (0, {})).2.remain)).sum

/-- The ASEQ counter of a context after n uses (R203). -/
def aseqFrom (s : Blk) (c n : Nat) : Nat := if n = 0 then (sqtOf s c).aseq else ((sqtOf s c).aseq + n) % 2 ^ 32

/-- A course built by R206 from the candidates `cs`: those that `took` picks stand in it, each because it fitted when its turn came, and
take the next ASEQ; the others are passed over, and their SKIPS counts it. -/
structure CourseBuilt (s : Blk) (c : Nat) (cs : List (Nat × SeqEnt)) (took : Nat → Bool) (x : Built) : Prop where
  fits : ∀ (i : Nat) (h : i < cs.length), took i = decide (
    ((List.range i).filter took).length < rgf s (bank rSqtLimits c) 30 16 + 1 ∧
    courseSum cs took i + min cs[i].2.chunk cs[i].2.remain ≤ rgf s (bank rSqtLimits c) 14 0 + 1)
  ents : x.ents = ((List.range cs.length).filter took).map (fun i => let v := (cs.getD i (0, {})).2; {
    idx := (cs.getD i (0, {})).1, tokens := min v.chunk v.remain, token := rgf s (bank rSqtTokBase c) 14 0 + courseSum cs took i
    prio := v.cls * 64 + v.level, pos := v.pos, user := v.user, memBase := v.memBase })
  tok : x.tok = courseSum cs took cs.length
  passed : x.passed = ((List.range cs.length).filter (fun i => !took i)).length
  rest : x.blk = { s with sqt := { s.sqt with ents := x.blk.sqt.ents, ctxs := x.blk.sqt.ctxs } }
  table : x.blk.sqt.ents = (List.range cs.length).foldl (fun m i => let p := cs.getD i (0, {}); Store.set m p.1
    (if took i then { p.2 with aseq := aseqFrom s c ((List.range i).filter took).length, skips := 0 }
     else { p.2 with skips := min (p.2.skips + 1) 0xffff })) s.sqt.ents
  aseq : sqtOf x.blk c = { sqtOf s c with aseq := aseqFrom s c ((List.range cs.length).filter took).length }
  others : ∀ d, d ≠ c → sqtOf x.blk d = sqtOf s d

/-- Only the descriptor of receive ring g differs: it is `w` (R261). -/
structure RingSet (s t : Blk) (g : Nat) (w : Ring) : Prop where
  rest : t = { s with xch := { s.xch with rings := t.xch.rings } }
  ring : ringOf t g = w
  others : ∀ j, j ≠ g → ringOf t j = ringOf s j

/-- Ring g has become `w`, and its pointer block is written at QoS 01 with its published counter, its generation and STATE; a write of it
that is in progress is followed by another (R262). -/
def RingBecomes (s t : Blk) (g : Nat) (w : Ring) : Prop :=
  (w.ptrBusy = true → RingSet s t g { w with ptrDirty := true }) ∧
  (w.ptrBusy = false → ∃ u, RingSet s u g { w with ptrBusy := true, ptrDirty := false } ∧ t = memWrite u w.ptrAddr
    (leBytes 4 w.wptr ++ leBytes 1 w.rgen ++ leBytes 1 (if w.state = .opened then 1 else 2) ++ leBytes 2 0) 1 (some w.ctx) uXch g
    (.ringPtr g w.rgen))

/-- The STATUS byte of a channel's record is asked to be written at QoS 01, and the record waits for the answer (R258, R259). -/
def StatusAsked (s t : Blk) (ch slot status : Nat) : Prop :=
  let v := chanOf s ch
  let a := ((v.base + 32 * slot) % 2 ^ 52 + 1) % 2 ^ 52
  ∃ u, u = { s with xch := { s.xch with chans := u.xch.chans } } ∧ (∀ j, j ≠ ch → chanOf u j = chanOf s j) ∧
    chanOf u ch = { v with recs := v.recs.map (fun r => if r.slot = slot then { r with phase := .status, status, left := 1 } else r) } ∧
    MemAsked u t { write := true, addr := a / 64 * 64, first := a, be := beOf (a % 64) 1
                   data := lineOf (a % 64) (leBytes 1 status), qos := 1, ctx := chanCtx s ch, unit := uXch, index := ch
                   owner := .status ch v.epoch slot }

/-- The record that a channel of context c takes next is refused on this side (R259): fault 0x31 against the context where `fault`, the
record's outcome counted, and STATUS with LOCAL and the code. -/
def RecordRefused (s b : Blk) (c ch : Nat) (r : SendRec) (code : Nat) (fault : Bool) : Prop :=
  ∃ t u x, Observed s t ∧ u = (if fault then xchFault t c 0x31 (mkDetail 0 0 code) else t) ∧
    (∃ y, Observed u y ∧ StatusAsked y x ch r.slot (0xc0 + code)) ∧ b = push x [.chanPump ch]

/-- A context slot has become `v`, and nothing else differs but observation (R306). -/
structure SlotMoves (s t : Blk) (c : Nat) (v : CtxSlot) : Prop where
  rest : t = { s with regs := t.regs, obs := t.obs, dbg := t.dbg, ctx := { s.ctx with slots := t.ctx.slots } }
  slot : slotOf t c = v
  others : ∀ d, d ≠ c → slotOf t d = slotOf s d
  regs : ∀ k, unitKey k → rg t k = rg s k

/-- The fence-board entry of a slot is asked to be written at QoS 01, with its generation and RUN. Nothing is written where there is no
board, or while BOARD_FAULT is set (R318). -/
def BoardAsked (s b : Blk) (c : Nat) (run : Bool) : Prop :=
  let base := rg2 s rBoardLo rBoardHi
  (base = 0 ∨ rgb s rCtxStatus 31 = true → b = s) ∧
  (base ≠ 0 → rgb s rCtxStatus 31 = false → ∃ u,
    u = { s with ctx := { s.ctx with slots := Store.put {} s.ctx.slots c { slotOf s c with boardBusy := (slotOf s c).boardBusy + 1 } } } ∧
    b = memWrite u ((base + 8 * c) % 2 ^ 52) (leBytes 1 (ctxGen s c) ++ leBytes 1 (b2n run)) 1 none uCtx c (.board c))

/-- The opening work of a slot: what R307 lists is cleared, and the fence board is told (R307, R318). -/
def Opens (s b : Blk) (c : Nat) : Prop :=
  ∃ u t, SlotMoves s u c { slotOf s c with
      state := .opening, gen := if ctxGen s c = 0 then 1 else ctxGen s c, code := 0, rpend := false, leaseEnd := none, tick := 0, rotor := 0
      tcc := 0, front := none, frontAt := none, frontStalled := false, lseq := 0, tickOpen := false, decided := 0, replay := false } ∧
    t = { u with sqt := { s.sqt with ctxs := Store.put {} s.sqt.ctxs c { sqtOf s c with
      stepCnt := 0, aseq := 0, course := none, nbuilt := 0 } } } ∧
    BoardAsked t b c true

/-- The lease of a slot that starts now: none where CTX_LEASE is 0 (R309). -/
def leaseFrom (s : Blk) (c : Nat) : Option Nat :=
  let ns := rg2 s (bank rLeaseLo c) (bank rLeaseHi c) % 2 ^ 40
  if ns = 0 then none else some (now s + ns)

/-- The slot can be fenced (R306). -/
def Fenceable (s : Blk) (c : Nat) : Prop := ctxSt s c = .opened ∨ ctxSt s c = .orphaned ∨ ctxSt s c = .faulted

/-- What wakes where a slot becomes OPEN: its queues act on what was held for them, and its send channels go on (R243, R312). -/
def openWakes (s : Blk) (c : Nat) : List Work :=
  ((Store.keys s.csq.queues).filter (fun q => sqCtx s q == c)).map Work.ctlHeld ++
    ((Store.keys s.xch.chans).filter (fun ch => chanCtx s ch == some c)).map Work.chanPump

/-- The drain of a slot is complete (R316). -/
structure Drained (s : Blk) (c : Nat) : Prop where
  tasks : ∀ p ∈ s.tsk.tasks, p.2.ctx ≠ c
  held : ∀ p ∈ s.tsk.held, p.2.ctx ≠ c
  mem : memBusy s c = 0
  fab : fabBusy s c = 0
  places : ∀ p ∈ s.xch.rings, p.2.ctx = c → p.2.places = []
  seqs : ctxSt s c = .closing ∨ ctxSt s c = .pendingReuse ∨ (slotOf s c).rpend = true → ∀ p ∈ s.sqt.ents, p.2.ctx ≠ c
  board : (slotOf s c).boardBusy = 0

end Sys2Proof.Machine
end

