-- ==== Sys2Proof/Certificates/Slice0/Obligations.lean ====
section
/-! DEFINITION. The statements for the provers. `Updates c s P` says that the command answers the next state that an update of the
block leads to, and that the update is as `P` says (Safety.lean). -/
open Sys2Proof Sys2Proof.Machine

/-! ## The machine -/

/-- A step takes the command at the front of the queue, and is `exec` of it on the state with the queue's rest. -/
def Obligations.StepTakesFront : Prop :=
  ∀ (c : Instr) (r : List Instr) (s : State), s.pending = c :: r → step s = exec c { s with pending := r }

/-- The model's choice (assumption 1): with no command waiting the block idles. -/
def Obligations.EmptyQueueIdles : Prop := ∀ s : State, s.pending = [] → step s = .next s

/-- Every command, in every state and with any operands, answers a next state: none stops the block. -/
def Obligations.NoCommandStops : Prop := ∀ (c : Instr) (s : State), ∃ t, exec c s = .next t

/-- No command touches the queue; only the wrapper's commands touch the wrapper, but for a cold reset, which only takes away the mark
of a test that is over; and a wrapper command that is no test leaves the block alone but for the count of free values (R437, R438). -/
def Obligations.QueueAndWrapperFrame : Prop :=
  ∀ (c : Instr) (s t : State), exec c s = .next t →
    t.pending = s.pending ∧
    (ofWrapper c = false → c ≠ .coldReset → t.tap = s.tap) ∧
    (c = .coldReset → t.tap = { s.tap with dirty := s.tap.dirty && s.tap.running }) ∧
    (ofWrapper c = true → c ≠ .qmScan → (∀ x, c ≠ .qmMbist x) →
      t.blk = { s.blk with free := { s.blk.free with drawn := t.blk.free.drawn } } ∧ s.blk.free.drawn ≤ t.blk.free.drawn)

/-- Only a sample of the Time Port, a reset, and a test that overwrites the block move wall time (R69, R438): what the block takes for the
time of day stands through every other command. -/
def Obligations.OnlySamplesMoveTime : Prop :=
  ∀ (c : Instr) (s t : State), movesTime c = false → exec c s = .next t → t.blk.time = s.blk.time

/-- Every step keeps the machine's invariant, from any state that has it. -/
def Obligations.EveryStepKeepsInv : Prop := ∀ s t : State, Inv s → step s = .next t → Inv t

/-- The machine right after reset has the invariant. -/
def Obligations.ResetHasInv : Prop := Inv State.reset

/-- On a block with nothing left to do, an update is all that a step does: the statements about an update then say the whole next
state. -/
def Obligations.QuietBlockStands : Prop := ∀ b : Blk, Quiet b → settled b = b

/-! ## The Register Port -/

/-- What the Register Port answers to a write it does not perform (R63, R64, R425): nothing but its answer changes. Accesses complete
one at a time in order: while an earlier one is held, a later one waits (R65). -/
def Obligations.PortTurnsWritesAway : Prop :=
  ∀ (off : Nat) (v : Word) (a : Access) (s : State), fnReady s.blk 0 = true →
    let held := s.blk.ports.diag
    (held ≠ none → Updates (.registerWrite off v a) s (fun b => b = s.blk) ∧ Updates (.loHalfRead off a) s (fun b => b = s.blk) ∧
      ∀ f, Updates (.diagWindowRead off a f) s (fun b => b = s.blk)) ∧
    (held = none → a.parityOk = false → Updates (.registerWrite off v a) s (fun b => b = rgpEnd s.blk rgpParity 0)) ∧
    (held = none → a.parityOk = true → a.priv = false → (off < 0x200000 ∨ 0x300000 ≤ off) → (off < 0x400000 ∨ 0x1000000 ≤ off) →
      Updates (.registerWrite off v a) s (fun b => b = rgpEnd s.blk rgpPriv 0)) ∧
    (held = none → a.parityOk = true → 0x400000 ≤ off → off < 0x1000000 →
      Updates (.registerWrite off v a) s (fun b => b = rgpEnd s.blk rgpRefused 0)) ∧
    (held = none → a.parityOk = true → a.priv = true → off < 0x400000 → regPlain s.blk off = none →
      Updates (.registerWrite off v a) s (fun b => b = rgpEnd s.blk rgpNotMapped 0))

/-- A write to a function that is not ready is refused as R14 refuses one (R408). -/
def Obligations.UnreadyUnitRefusesWrites : Prop :=
  ∀ (off : Nat) (v : Word) (a : Access) (s : State), fnReady s.blk 0 = true → s.blk.ports.diag = none → a.parityOk = true →
    a.priv = true → off < 0x400000 → (regPlain s.blk off).isSome = true → fnReady s.blk (unitFn (unitOf off)) = false →
    Refuses (.registerWrite off v a) s off v a

/-- A register that takes any value stores the bits it has, and nothing else changes (R11, R14). -/
def Obligations.PlainRegistersStore : Prop :=
  ∀ p ∈ plainRegs, ∀ (v : Word) (a : Access) (s : State), Served s.blk p.1 a →
    Writes (.registerWrite p.1 v a) s (fun t =>
      OnlyReg s.blk t (selKey s.blk p.1) (written (rg s.blk (selKey s.blk p.1)) p.2 v))

/-- A register of which a field has a range stores a value in it, and refuses any other (R14); ISS_C0_RESV among them (R132). -/
def Obligations.RangedRegistersStoreOrRefuse : Prop :=
  ∀ p ∈ rangedRegs, ∀ (v : Word) (a : Access) (s : State) (c : Instr), Served s.blk p.1 a →
    (c = .registerWrite p.1 v a ∨ (p.1 = rC0Resv ∧ c = .c0ResvWrite v a)) →
    let x := fld v p.2.2.1 p.2.2.2.1
    (p.2.2.2.2.1 ≤ x ∧ x ≤ p.2.2.2.2.2 → Writes c s (fun t =>
      OnlyReg s.blk t (selKey s.blk p.1) (written (rg s.blk (selKey s.blk p.1)) p.2.1 v))) ∧
    (x < p.2.2.2.2.1 ∨ p.2.2.2.2.2 < x → Refuses c s p.1 v a)

/-- A bit of a status register written as 1 is cleared, and no other changes (R11); clearing SELF of SAF_ALARM_CAUSE ends the
output fault (R383), and clearing a bit of BLK_REGION_FAIL returns its port pair to service, whose purge records go (R375). -/
def Obligations.WrittenOnesClear : Prop :=
  (∀ p ∈ [(0x114, 0x7f), (0x1002c, 3), (0x20028, 3), (0x5002c, 1), (0xa0058, 1), (0xe001c, 3), (0x10002c, 3), (0x12012c, 0xf),
      (0x140928, 7), (0x160098, 7), (0x180030, 3)], ∀ (v : Word) (a : Access) (s : State), Served s.blk p.1 a →
    Writes (.registerWrite p.1 v a) s (fun t => OnlyReg s.blk t p.1 (rg s.blk p.1 &&& (0xffffffff - (v.toNat &&& p.2))))) ∧
  (∀ (a : Access) (s : State), Served s.blk rCtxStatus a →
    Writes (.boardFaultClear a) s (fun t => OnlyReg s.blk t rCtxStatus (rg s.blk rCtxStatus &&& 0x7fffffff))) ∧
  (∀ (v : Word) (a : Access) (s : State), Served s.blk rAlarmCause a →
    Writes (.alarmCauseClear v a) s (fun t =>
      t = { s.blk with regs := t.regs, saf := { s.blk.saf with selfBad := s.blk.saf.selfBad && !bitAt v 7 } } ∧
      rg t rAlarmCause = (rg s.blk rAlarmCause &&& (0xffffffff - (v.toNat &&& 0x1ff))) ∧
      ∀ j, j ≠ rAlarmCause → rg t j = rg s.blk j)) ∧
  (∀ (v : Word) (a : Access) (s : State), Served s.blk rRegionFail a →
    Writes (.regionReturn v a) s (fun t =>
      t = { s.blk with regs := t.regs, iss := { s.blk.iss with purge := t.iss.purge } } ∧
      rg t rRegionFail = (rg s.blk rRegionFail &&& (0xffffffff - (v.toNat &&& 0xffff))) ∧
      (∀ j, j ≠ rRegionFail → rg t j = rg s.blk j) ∧
      ∀ h, h ∈ t.iss.purge ↔ h ∈ s.blk.iss.purge ∧ ¬ (h.engine / 256 < 16 ∧ v.toNat.testBit (h.engine / 256) = true ∧
        regionOut s.blk (h.engine / 256) = true)))

/-- A read answers what its register shows. It fixes what the next read of a _HI returns where the register is a _LO of a pair
(R80), and clears an RC register (R11); nothing else changes. -/
def Obligations.ReadsAnswerFixAndClear : Prop :=
  ∀ (c : Instr) (off v : Nat) (a : Access) (s : State), (c = .loHalfRead off a ∨ c = .counterReadClear off a) →
    fnReady s.blk 0 = true → s.blk.ports.diag = none → a.parityOk = true →
    (a.priv = true ∨ off < 0x100 ∨ (0x200000 ≤ off ∧ off < 0x300000)) → off < 0x400000 → regRead s.blk off = some v →
    Updates c s (fun b =>
      b = { s.blk with regs := b.regs, hi := b.hi, ports := { s.blk.ports with rgpStatus := rgpOk, rgpData := w32 v } } ∧
      (isRc off = true → rg b off = 0) ∧ (∀ k, isRc off = false ∨ k ≠ off → rg b k = rg s.blk k) ∧
      (loPair off = true → Store.get? b.hi (off + 4) = some (w32 ((regPlain s.blk (off + 4)).getD 0)) ∧
        ∀ k, k ≠ off + 4 → Store.get? b.hi k = Store.get? s.blk.hi k) ∧
      (loPair off = false → Store.get? b.hi off = none ∧ ∀ k, k ≠ off → Store.get? b.hi k = Store.get? s.blk.hi k))

/-- A read of the diagnostic window returns the good word that stands at its place in the store shown, past the last entry
NOT_MAPPED, and with RGP_PRIV = 0 PRIV_REFUSED (R63, R423 to R425); nothing but the port's answer changes. -/
def Obligations.WindowReadsShowWords : Prop :=
  ∀ (off : Nat) (a : Access) (s : State), fnReady s.blk 0 = true → a.parityOk = true → s.blk.ports.diag = none →
    0x400000 ≤ off → off < 0x1000000 →
    (a.priv = false → Updates (.diagWindowRead off a .good) s (fun b => b = rgpEnd s.blk rgpPriv 0)) ∧
    (a.priv = true → diagPlace s.blk (off - 0x400000) = none →
      Updates (.diagWindowRead off a .good) s (fun b => b = rgpEnd s.blk rgpNotMapped 0)) ∧
    (a.priv = true → ∀ e w, diagPlace s.blk (off - 0x400000) = some (e, w) →
      diagInit (diagStore s.blk) ∉ s.blk.cfg.inits →
      Updates (.diagWindowRead off a .good) s (fun b => b = rgpEnd s.blk rgpOk (w32 (diagWord s.blk e w))))

/-! ## Resets and start-up -/

/-- NRST_BLOCK low puts everything at its cold-reset value but the levels the routers drive and the count of free values (R74, R76), with
FQI_XOFF high and IRQ_OUT low at the pins; its rise begins the initialisers and the read of the flash: REG and TIME are ready, and the SFDP
header is asked for (R397, R398, R407). -/
def Obligations.ColdResetAndRelease : Prop :=
  ∀ (s : State) (k : BitVec 384),
    exec .coldReset s = .next { s with
      blk := { free := s.blk.free, ports := { fqoXoff := s.blk.ports.fqoXoff, fpoXoff := s.blk.ports.fpoXoff } }
      tap := { s.tap with dirty := s.tap.dirty && s.tap.running } } ∧
    (∀ t, exec .coldReset s = .next t → drives t.blk .fqi = [0, 1] ∧ drives t.blk .irq = [0] ∧
      drives t.blk .mq = [0, 0, 0, 0, 0, 0, 0, 0, 0]) ∧
    (s.blk.cfg = {} → ∃ b, exec (.coldResetRelease k) s = .next (s.finishTime b) ∧
      b = { s.blk with
        cfg := { low := false, phase := .sfdp, op := some { op := 0x5a, addr := 0, aw := false, dummy := 8, len := 8 },
                 keyhash := k, inits := allInits, ready := 3 }
        regs := b.regs } ∧
      OnlyReg s.blk { s.blk with regs := b.regs } rCfgIrq (rg s.blk rCfgIrq ||| 1))

/-- The start-up of the stores and of the image (R67, R397, R405, R407): the end of an initialiser takes its store off the list
of those that are not usable, and BLK_READY only rises; a flash operation that fails sets BLK_PORT_FAULT.NVM and is offered again,
and its third repeat that fails ends the load with fault 0x64; the image, once verified and every store initialised, is applied, and with
no settings every function but HIF is ready. -/
def Obligations.StartUpGoesOn : Prop :=
  (∀ (i : InitStore) (s : State), s.blk.cfg.low = false → i ∈ s.blk.cfg.inits → s.blk.ports.diag = none →
    Updates (.storeInitDone i) s (fun b =>
      b.cfg.inits = s.blk.cfg.inits.filter (fun x => x ≠ i) ∧ (∀ f, fnReady s.blk f = true → fnReady b f = true) ∧
      b = { s.blk with cfg := { s.blk.cfg with inits := b.cfg.inits, ready := b.cfg.ready }, regs := b.regs
                       saf := { s.blk.saf with monitor := b.saf.monitor } } ∧
      ∀ k, k ≠ rCfgIrq → rg b k = rg s.blk k)) ∧
  (∀ (beats : List (Word × Bool)) (derr : Bool) (o : NvmOp) (s : State), s.blk.cfg.low = false → s.blk.cfg.op = some o →
    s.blk.cfg.phase ≠ .off → nvmBytes o beats derr = none →
    (o.fails < 3 → Updates (.nvmOperationDone beats derr) s (fun b =>
      b = { s.blk with cfg := { s.blk.cfg with op := some { o with fails := o.fails + 1 } }, regs := b.regs } ∧
      OnlyReg s.blk { s.blk with regs := b.regs } rPortFault (rg s.blk rPortFault ||| 0x10))) ∧
    (3 ≤ o.fails → Updates (.nvmOperationDone beats derr) s (fun b =>
      b.cfg.phase = .failed ∧ b.cfg.code = 0x64 ∧ b.cfg.op = none ∧ b.cfg.pb = true ∧
      logOf b uCfg = (logOf s.blk uCfg).add 15
        (faultEnt s.blk uCfg 0x64 none (mkDetail (2 ^ 56 + o.addr % 2 ^ 32) 0 o.addr) false)))) ∧
  (∀ (s : State) (bs : List Byte) (beats : List (Word × Bool)) (o : NvmOp), s.blk.cfg.low = false → s.blk.cfg.op = some o →
    s.blk.cfg.phase = .sfdp → nvmBytes o beats false = some bs → leAt bs 0 4 ≠ 0x50444653 →
    Updates (.nvmOperationDone beats false) s (fun b => b = { s.blk with cfg := { s.blk.cfg with
      phase := .ref, op := some { op := 0x03, addr := 0, aw := false, dummy := 0, len := 64 } } })) ∧
  (∀ s : State, s.blk.cfg.low = false → s.blk.cfg.phase = .verified → s.blk.cfg.inits = [] →
    Updates .pbApply s (fun b => b.cfg.phase = .done ∧
      (settingsOf s.blk.cfg.image = [] → b.cfg.ready = s.blk.cfg.ready ||| 0x7fff ∧ b.cfg.pb = true)))

/-- A soft reset (R414, R415): it takes every function but REG, TIME, MEM and SAF out of service, and none starts while one is
in progress; once its drain has passed with the Memory Port at rest, everything returns to its reset value but the generations, the
logs, the SAF registers, PEER_STATE and the sweep, and the flash is read anew. What the model chooses (assumption 35): the sequence
number of tasks and the die number are kept too. -/
def Obligations.SoftResetBeginsAndEnds : Prop :=
  (∀ (a : Access) (s : State), Served s.blk 0x10020 a →
    (s.blk.cfg.srst = false → Writes (.softrst a) s (fun t =>
      t = { s.blk with
        cfg := { s.blk.cfg with ready := s.blk.cfg.ready % 16, srst := true, srstBoard := false, srstAt := none, phase := .off,
                                hifRefused := false }
        mem := { s.blk.mem with waitq := s.blk.mem.waitq.filter (fun p => p.2.owner.inReset) }
        regs := t.regs, obs := t.obs, dbg := t.dbg } ∧
      rg t rIrqEn = 0 ∧ ∀ k, unitKey k → k ≠ rIrqEn → rg t k = rg s.blk k)) ∧
    (s.blk.cfg.srst = true → Refuses (.softrst a) s 0x10020 1 a)) ∧
  (∀ (s : State) (t : Nat), s.blk.cfg.low = false → s.blk.cfg.srst = true → s.blk.cfg.srstAt = some t →
    s.blk.time.usable = true → now s.blk ≥ t + rgf s.blk rSrstDrain 15 0 * 1000 → s.blk.mem.out = [] → s.blk.mem.mq = none →
    s.blk.mem.waitq = [] → s.blk.cfg.op = none →
    ∃ b, exec .softResetDrainExpiry s = .next (s.finishTime b) ∧
      (b.tsk, b.iss, b.sve, b.sqt, b.csq, b.xch, b.obs, b.time) = 
        ({ seqNext := s.blk.tsk.seqNext }, {}, {}, {}, {}, {}, {}, {}) ∧
      (∀ c, slotOf b c = { gen := if ctxSt s.blk c = .free then ctxGen s.blk c else genAfter (ctxGen s.blk c) }) ∧
      (b.saf.logs, b.saf.sweepPos, b.saf.sweepAt, b.saf.sweepLate, b.saf.pulseLost, b.saf.monitor) =
        (s.blk.saf.logs, s.blk.saf.sweepPos, s.blk.saf.sweepAt, s.blk.saf.sweepLate, s.blk.saf.pulseLost, s.blk.saf.monitor) ∧
      (∀ k, softKeeps k = false → rg b k = regDefault k) ∧
      (∀ k, 0x160000 ≤ k → k < 0x170000 → rg b k = rg s.blk k) ∧
      (∀ c, rg b (bank rPeerEnt c) = rg s.blk (bank rPeerEnt c)) ∧
      b.cfg.phase = .sfdp ∧ b.cfg.keyhash = s.blk.cfg.keyhash ∧ b.cfg.die = s.blk.cfg.die ∧ b.cfg.ready = s.blk.cfg.ready % 16)

/-! ## Time, the throttle, and the alarm -/

/-- A sample of the Time Port (R69). One that fails parity, is not valid, or is lower than the last usable value is counted, sets
BLK_PORT_FAULT.TIME, and leaves the value that is in use; the 64th in a row raises the TIME alarm with fault 0x43. A usable one is
the value in use from then on. -/
def Obligations.SamplesAreJudged : Prop :=
  ∀ (v : Nat) (ok par : Bool) (s : State), fnReady s.blk 1 = true →
    let w := v % 2 ^ 64
    let t := s.blk.time
    ((par = false ∨ ok = false ∨ (t.seen = true ∧ w < t.last)) →
      ∃ b, exec (.timeSample v ok par) s = .next (s.finishTime b) ∧
        b.time = { t with usable := false, bad := min (t.bad + 1) 64, same := 0 } ∧
        rg b rPortFault = rg s.blk rPortFault ||| 0x20 ∧
        (t.bad ≠ 63 → rg b rAlarmCause = rg s.blk rAlarmCause ∧ b.saf = s.blk.saf) ∧
        (t.bad = 63 → rg b rAlarmCause = rg s.blk rAlarmCause ||| 2 ^ 3 ∧
          logOf b uSaf = (logOf s.blk uSaf).add 15 (faultEnt s.blk uSaf 0x43 none (mkDetail t.last (t.last % 2 ^ 32) 0) true))) ∧
    (par = true → ok = true → (t.seen = false ∨ t.last ≤ w) →
      ∃ b, exec (.timeSample v ok par) s = .next (s.finishTime b) ∧
        b.time = { last := w, seen := true, usable := true, bad := 0, same := sameCount s.blk w } ∧
        (t.seen = true → t.usable = true → ¬ (sameCount s.blk w = 1024 ∧ t.same ≠ 1024) → b = { s.blk with time := b.time }))

/-- A transfer on the throttle port sets the ceiling and keeps the tokens up to the bucket's size, with those that are due but have not been
gained yet (R149); without a ceiling the bucket is full; one that fails its parity is ignored and sets BLK_PORT_FAULT.THR (R73, R146, R147).
A bucket that is due a token gains it, up to ISS_THR_BURST (R146). -/
def Obligations.CeilingAndTokens : Prop :=
  (∀ (v : Nat) (s : State), v < 256 → (fnReady s.blk 9 = true ∨ s.blk.cfg.srst = true) →
    Updates (.throttleCeiling v true) s (fun b => b = { s.blk with iss := { s.blk.iss with
      ceil := v, gainAt := now s.blk, gained := 0, tokWait := b.iss.tokWait
      tokens := if v = 255 then rgf s.blk rThrBurst 6 0 else min (s.blk.iss.tokens +
        if s.blk.iss.ceil = 255 ∨ s.blk.time.usable = false then 0 else
          (now s.blk - s.blk.iss.gainAt) * (if s.blk.iss.ceil = 0 then rgf s.blk rThrFloor 7 0 else s.blk.iss.ceil) / 125 -
            s.blk.iss.gained) (rgf s.blk rThrBurst 6 0) } }) ∧
    Updates (.throttleCeiling v false) s (fun b => ∃ t, OnlyReg s.blk t rPortFault (rg s.blk rPortFault ||| 0x40) ∧ Observed t b)) ∧
  (∀ s : State, fnReady s.blk 9 = true → s.blk.iss.ceil ≠ 255 → s.blk.time.usable = true →
    (now s.blk - s.blk.iss.gainAt) * (if s.blk.iss.ceil = 0 then rgf s.blk rThrFloor 7 0 else s.blk.iss.ceil) ≥
      125 * (s.blk.iss.gained + 1) →
    Updates .tokenGain s (fun b => b = { s.blk with iss := { s.blk.iss with
      tokens := min (s.blk.iss.tokens + 1) (rgf s.blk rThrBurst 6 0), gained := s.blk.iss.gained + 1, tokWait := b.iss.tokWait } }))

/-- What raises the alarm besides faults of the stores and of the watchdogs: SAF_ALARM_TEST (R382), the self-check, with the
output fault and fault 0x24 (R383), and a handshake violation on a Memory or Fabric Port, with fault 0x45 (R40, R379); one on the
Register, NVM or Throttle Port is logged and raises none (for the last the model's choice, assumption 33). -/
def Obligations.AlarmsRise : Prop :=
  (∀ (a : Access) (s : State), Served s.blk 0x160008 a → Writes (.raiseTest a) s (fun t => Raised s.blk t 8)) ∧
  (∀ s : State, s.blk.cfg.low = false → s.blk.saf.monitor = true →
    Updates .selfCheckFail s (fun b => ∃ u,
      Logged { s.blk with saf := { s.blk.saf with selfBad := true } } u uSaf (faultEnt s.blk uSaf 0x24 none 31 true) ∧ Raised u b 7)) ∧
  (∀ s : State, s.blk.cfg.low = false →
    (∀ p ∈ [(PortName.mq, 1, 0), (.mp, 1, 1), (.fqo, 2, 0), (.fqi, 2, 1), (.fpo, 2, 2), (.fpi, 2, 3), (.fep, 2, 4)],
      Updates (.handshakeViolation p.1) s (fun b => ∃ t u w, OnlyReg s.blk t rPortFault (rg s.blk rPortFault ||| 2 ^ p.2.1) ∧
        Observed t u ∧ Logged u w uSaf (faultEnt u uSaf 0x45 none (p.2.1 + p.2.2 * 2 ^ 64) true) ∧ Raised w b 4)) ∧
    (∀ p ∈ [(PortName.rgp, 3), (.nvm, 4), (.thr, 6)],
      Updates (.handshakeViolation p.1) s (fun b => ∃ t u, OnlyReg s.blk t rPortFault (rg s.blk rPortFault ||| 2 ^ p.2) ∧
        Observed t u ∧ Logged u b uSaf (faultEnt u uSaf 0x45 none p.2 false))))

/-! ## Issue and the region ports -/

/-- A dispatch decision with a task to place offers its word on the region's port: the task is ISSUED, one credit of its class and
one token are taken, and the rotor moves past an engine that was chosen freely (R131, R137, R139, R140, R146); the free contexts of a
contested grant count it (R297). With nothing to place it changes nothing. -/
def Obligations.DispatchIssuesTheTask : Prop :=
  ∀ (w : List Nat) (s : State), fnReady s.blk 9 = true →
    (nextDispatch s.blk = none → Updates (.dispatchDecision w) s (fun b => b = s.blk)) ∧
    (∀ slot t e, nextDispatch s.blk = some (slot, t, e) → Updates (.dispatchDecision w) s (fun b => ∃ u,
      Observed { s.blk with
        tsk := { s.blk.tsk with
          tasks := Store.set s.blk.tsk.tasks slot
            { t with state := .issued, issuedEng := e, issuedAt := now s.blk, overrun := false } }
        iss := { s.blk.iss with
          occ := Store.put 0 s.blk.iss.occ (4 * e + t.cls) (occ s.blk e t.cls + 1)
          rotor := if t.bound = none then (e + 1) % 4096 else s.blk.iss.rotor
          tokens := if s.blk.iss.ceil = 255 then s.blk.iss.tokens else s.blk.iss.tokens - 1
          tokWait := false }
        ports := { s.blk.ports with
          rip := Store.set s.blk.ports.rip (e / 256) { slot, engine := e, word := dispatchWord s.blk slot t e } }
        saf := { s.blk.saf with dispatchAt := now s.blk, armedAt := none } } u ∧
      b = { u with ctx := b.ctx } ∧ b.ctx = { s.blk.ctx with slots := b.ctx.slots } ∧
      ∀ c, slotOf b c =
        if w ≠ [] ∧ c ∈ (t.ctx :: w).map (· % 256) ∧ isRuled s.blk c = false then
          { slotOf s.blk c with tcc := min ((slotOf s.blk c).tcc + 1) (2 ^ 48 - 1) }
        else slotOf s.blk c))

/-- What is dispatched next (R131, R136 to R139): a READY task of a context that dispatches, with a token for its class, on an
engine of its eligible set with a credit, whose region's port is free; and no task of a class before its own, nor one of its class
before it by level and SEQ, could be placed. -/
def Obligations.NextDispatchIsFirstThatCan : Prop :=
  ∀ (s : Blk) (slot e : Nat) (t : Task), nextDispatch s = some (slot, t, e) →
    (slot, t) ∈ s.tsk.tasks ∧ t.state = .ready ∧ t.cls < 4 ∧ (ctxSt s t.ctx = .opened ∨ ctxSt s t.ctx = .orphaned) ∧
    (s.iss.ceil = 255 ∨ (if t.cls = 0 then 1 else 2) ≤ s.iss.tokens) ∧
    (t.bound = some e ∨ (t.bound = none ∧ isRuled s t.ctx = false ∧ e ∈ eligible s t)) ∧
    hasCredit s e t.cls = true ∧ Store.get? s.ports.rip (e / 256) = none ∧
    ∀ slot' t', (slot', t') ∈ s.tsk.tasks → t'.state = .ready → tokensOk s t'.cls = true → ctxDispatches s t'.ctx = true →
      brkHolds s t'.ctx = false → placeTo s t' ≠ none →
      t.cls < t'.cls ∨ 4 ≤ t'.cls ∨
        (t.cls = t'.cls ∧ (t.level < t'.level ∨ (t.level = t'.level ∧ t.seq ≤ t'.seq)))

/-- A dispatch word that is acknowledged leaves the port; one answered with an error is offered again while its task is to be
dispatched still, and ends with its transfer where the pair is out or its task is gone (the model's choice where the context was
fenced, assumption 18); the fourth such answer, like a handshake violation on the pair, takes the pair out of service with its tasks,
the alarm and fault 0x20 (R47, R375, R379). -/
def Obligations.RegionPortsAnswer : Prop :=
  ∀ (n : Nat) (s : State), s.blk.cfg.low = false → n < 16 →
    let gone := { s.blk with ports := { s.blk.ports with rip := Store.erase s.blk.ports.rip n } }
    (∀ err, Store.get? s.blk.ports.rip n = none → exec (.dispatchAck n err) s = .next (s.finish s.blk)) ∧
    (∀ o, Store.get? s.blk.ports.rip n = some o → exec (.dispatchAck n false) s = .next (s.finish gone)) ∧
    (∀ o, Store.get? s.blk.ports.rip n = some o → o.writtenOff = true ∨ (o.errs < 3 ∧ taskOf s.blk o.slot = none) →
      exec (.dispatchAck n true) s = .next (s.finish gone)) ∧
    (∀ o t, Store.get? s.blk.ports.rip n = some o → taskOf s.blk o.slot = some t → t.state = .issued →
      (ctxSt s.blk t.ctx = .opened ∨ ctxSt s.blk t.ctx = .orphaned ∨ ctxSt s.blk t.ctx = .faulted) → o.writtenOff = false → o.errs < 3 →
      Updates (.dispatchAck n true) s (fun b => b = { s.blk with ports := { s.blk.ports with
        rip := Store.set s.blk.ports.rip n { o with errs := o.errs + 1, word := dispatchWord s.blk o.slot t o.engine } } })) ∧
    (∀ o, Store.get? s.blk.ports.rip n = some o → o.writtenOff = false → 3 ≤ o.errs → regionOut s.blk n = false →
      Updates (.dispatchAck n true) s (fun b => PairGone gone b n 0)) ∧
    (∀ p ∈ [PortName.rip n, .rcp n], regionOut s.blk n = false →
      Updates (.handshakeViolation p) s (fun b => ∃ t u v w, OnlyReg s.blk t rPortFault (rg s.blk rPortFault ||| 1) ∧ Observed t u ∧
        Logged u v uSaf (faultEnt u uSaf 0x45 none (n * 2 ^ 64) true) ∧ Raised v w 4 ∧ PairGone w b n 2))

/-! ## Readiness and the wrapper -/

/-- What a function does not take while it is not ready changes nothing: the command waits at its sender (R77, R408). -/
def Obligations.UnreadyFunctionsTakeNothing : Prop :=
  ∀ (c : Instr) (f : Nat) (s : State), needs c = some f → fnReady s.blk f = false → Nothing c s

/-- The wrapper's instructions (R437, R438). Every reserved code acts as WS_BYPASS; WS_EXTEST drives the pins from the boundary register
and captures them, and the pins are the block's own otherwise. A test is taken only while NRST_BLOCK is low, else the bypass is
selected; one that is started leaves the stores and the state with free values, and the wrapper knows that a full cold reset must
follow; what the chains shift out and what the monitors count are free values; the result of the self-test and the identity are what
is shifted out. -/
def Obligations.WrapperSelectsAndTests : Prop :=
  ∀ s : State,
    let bypass : Host.Outcome State Fault Refusal := .next { s with tap := { s.tap with wir := .bypass, bypass := false } }
    (∀ code ∉ [1, 2, 0x10, 0x11, 0x12, 0x13, 0x14], exec (.wsBypass code) s = bypass) ∧
    (∀ pins, ∃ x : BitVec 8527, (∀ i < 8527, x.getLsbD i = (pins[i]?).getD false) ∧
      exec (.wsExtest pins) s = .next { s with tap := { s.tap with wir := .extest, captured := x } }) ∧
    (∀ bits, ∃ x : BitVec 8527, (∀ i < 8527, x.getLsbD i = (bits[i]?).getD false) ∧
      exec (.wsPreload bits) s = .next { s with tap := { s.tap with wir := .preload, boundary := x } }) ∧
    (s.tap.wir ≠ .extest → ∀ p, s.pins p = drives s.blk p) ∧
    (s.tap.wir = .extest → (∃ v, s.pins .irq = [v] ∧ v < 2 ^ 8 ∧ ∀ i < 8, v.testBit i = s.tap.boundary.getLsbD (PinPort.at_ .irq + i)) ∧
      s.pins .alarm = [b2n (s.tap.boundary.getLsbD (PinPort.at_ .alarm)), b2n (s.tap.boundary.getLsbD (PinPort.at_ .alarm + 1))]) ∧
    (s.blk.cfg.low = false → exec .qmScan s = bypass ∧ ∀ x, exec (.qmMbist x) s = bypass) ∧
    (s.blk.cfg.low = true →
      (∃ t x, exec .qmScan s = .next t ∧ t.pending = s.pending ∧ t.tap = { s.tap with wir := .scan, out := x, dirty := true } ∧
        t.blk.cfg.low = true) ∧
      (∃ t, exec (.qmMbist true) s = .next t ∧ t.pending = s.pending ∧ t.tap = { s.tap with
        wir := .mbist, running := true, doneBit := false, failStore := 0, failRow := 0, dirty := true } ∧ t.blk.cfg.low = true) ∧
      exec (.qmMbist false) s = .next { s with tap := { s.tap with wir := .mbist } }) ∧
    (∀ st row, st < 2 ^ 16 → row < 2 ^ 32 → exec (.qmMbistDone st row) s = .next { s with tap :=
      if s.tap.running = true then { s.tap with running := false, doneBit := true, failStore := st, failRow := row } else s.tap }) ∧
    (WrapperOk s.tap → ∃ x : Word64, exec .qmMbistRes s = .next { s with tap := { s.tap with wir := .mbistRes, out := x } } ∧
      x.toNat = b2n s.tap.doneBit * 2 ^ 63 + s.tap.failStore * 2 ^ 32 + s.tap.failRow) ∧
    (∃ t cs, exec .qmDlymon s = .next t ∧ t.tap = { s.tap with wir := .dlymon, counts := cs } ∧ cs.length = 16) ∧
    (∃ x : Word64, exec .qmId s = .next { s with tap := { s.tap with wir := .id, out := x } } ∧
      regPlain s.blk 0 = some (x.toNat / 2 ^ 32) ∧ regPlain s.blk 4 = some (x.toNat % 2 ^ 32)) ∧
    exec .wrapperReset s = .next { s with tap := { dirty := s.tap.dirty } }

/-! ## Requests of the fabric -/

/-- What becomes of a request before its context sees it (R57, R60, R76, R266): one whose sender cannot be trusted sets BLK_PORT_FAULT.FAB
and has no answer; one that fails parity, has reserved bits set in its header, or is not laid out as its type is answered NK_PARITY, and its
pair waits for the repeat; one for another die is dropped; during a soft reset the answer is NK_CTX_FENCED; a reserved TYPE is counted and
answered NK_BAD_HANDLER. -/
def Obligations.RequestsAreChecked : Prop :=
  ∀ (c : Instr) (s : State) (h : FHdr) (ty : Nat) (body : Option FBody), request c = some (h, ty, body) →
    (fnReady s.blk 11 = true ∨ s.blk.cfg.srst = true) →
    (h.chk = .untrusted → Updates c s (fun b => ∃ t, Observed s.blk t ∧ OnlyReg t b rPortFault (rg s.blk rPortFault ||| 4))) ∧
    let laidOut := h.chk = .ok ∨ h.chk = .layout
    (∀ ok, h.chk = .parity ok ∨ (ok = true ∧ h.rsv ≠ 0 ∧ laidOut) ∨
        (ok = true ∧ h.rsv = 0 ∧ h.chk = .layout ∧ h.dst = ownDie s.blk ∧ s.blk.cfg.srst = false ∧ body ≠ none) →
      Updates c s (fun b => ∃ t u, Observed s.blk t ∧
      u = { t with xch := { t.xch with pairsIn := u.xch.pairsIn, lru := u.xch.lru } } ∧
      (∀ p, Store.get? t.xch.pairsIn h.src = some p →
        ∃ p', Store.get? u.xch.pairsIn h.src = some p' ∧ p'.expected = p.expected % 65536 ∧ p'.gap = true) ∧
      (Store.get? t.xch.pairsIn h.src = none → ok = false → u = t) ∧
      Answers u b { dst := h.src, rqid := h.rqid, code := kParity })) ∧
    (h.rsv = 0 → laidOut → h.dst ≠ ownDie s.blk → Updates c s (fun b => Observed s.blk b)) ∧
    (h.rsv = 0 → laidOut → h.dst = ownDie s.blk → s.blk.cfg.srst = true → Updates c s (fun b =>
      ∃ t, Observed s.blk t ∧ Answers t b { dst := h.src, rqid := h.rqid, code := kCtxFenced })) ∧
    (h.rsv = 0 → laidOut → h.dst = ownDie s.blk → s.blk.cfg.srst = false → body = none → Updates c s (fun b =>
      ∃ t u v, Observed s.blk t ∧ Counted t u rBadType ∧ Observed u v ∧
        Answers v b { dst := h.src, rqid := h.rqid, code := kBadHandler }))

/-- What the first four checks of R266 refuse: a request of a fenced die, for a generation that is not the slot's, or for a context
that is neither OPEN nor ORPHANED. What comes for an old generation or for one that is fenced, which a DRAINING or QUIESCED context's
is, is counted (R312, R335). -/
def Obligations.RequestsAreRefused : Prop :=
  ∀ (c : Instr) (s : State) (h : FHdr) (ty : Nat) (body : FBody), request c = some (h, ty, some body) →
    Sound s.blk h → InTurn s.blk h →
    (peerFenced s.blk h.src = true → Updates c s (fun b => ∃ t, Entered s.blk t h none [] ∧
      Answers t b { dst := h.src, rqid := h.rqid, code := kPeerFenced })) ∧
    (peerFenced s.blk h.src = false → h.dstGen ≠ ctxGen s.blk h.dstCtx → Updates c s (fun b => ∃ t u v, Entered s.blk t h none [] ∧
      Counted t u rLateFab ∧ Observed u v ∧ Answers v b { dst := h.src, rqid := h.rqid, code := kGone })) ∧
    (peerFenced s.blk h.src = false → h.dstGen = ctxGen s.blk h.dstCtx →
      ctxSt s.blk h.dstCtx = .draining ∨ ctxSt s.blk h.dstCtx = .quiesced →
      Updates c s (fun b => ∃ t u v, Entered s.blk t h none [] ∧
        Counted t u rLateFab ∧ Observed u v ∧ Answers v b { dst := h.src, rqid := h.rqid, code := kCtxFenced })) ∧
    (peerFenced s.blk h.src = false → h.dstGen = ctxGen s.blk h.dstCtx → ctxSt s.blk h.dstCtx ≠ .opened →
      ctxSt s.blk h.dstCtx ≠ .orphaned → ctxSt s.blk h.dstCtx ≠ .draining → ctxSt s.blk h.dstCtx ≠ .quiesced →
      Updates c s (fun b => ∃ t, Entered s.blk t h none [] ∧ Answers t b { dst := h.src, rqid := h.rqid, code := kCtxFenced }))

/-- ARRIVE and CLOSE at a named node (R109 to R111, R185): in a live launch they go to the joints of the node, unless they come from
a die whose branch was pruned; ahead of their LAUNCH they are held, and with the early list full they are answered NK_RING_FULL. -/
def Obligations.NamedRequestsReachTheirJoints : Prop :=
  ∀ (c : Instr) (s : State) (h : FHdr) (scope node : Nat) (cl : Option Nat) (dead : Bool),
    ((c = .arrive h scope node dead ∧ cl = none) ∨ (∃ t, c = .closeRequest h t scope node ∧ cl = some t ∧ dead = false)) →
    Sound s.blk h → InTurn s.blk h → Welcome s.blk h →
    (∀ i l n, liveLaunch s.blk h.dstCtx h.ltag = some (i, l) → scopeNode s.blk l scope node = some n → isGate n = true →
      (cl = none → prunedLate s.blk l h.src scope node = false) →
      Takes c s h (some scope) kAck (fun t u => u = push t
        [match cl with | none => .nodeArrive i scope node dead | some x => .nodeClose i scope node x])) ∧
    (liveLaunch s.blk h.dstCtx h.ltag = none → s.blk.tsk.early.length < 4096 →
      Takes c s h (some scope) kAck (fun t u => ∃ f, Observed { t with tsk := { t.tsk with early := t.tsk.early ++
        [{ ctx := h.dstCtx, ltag := h.ltag, scope, node, close := cl, dead, born := now s.blk, flit := f
           foreign := foreignTo s.blk h.dstCtx }] } } u)) ∧
    (liveLaunch s.blk h.dstCtx h.ltag = none → 4096 ≤ s.blk.tsk.early.length →
      Takes c s h (some scope) kRingFull (fun t u => u = t))

/-- CAND at its home (R170 to R173): a record that fits is put into its token's lane and counted, an END marker is noted and the
run looked at again; a run that is past its intake only counts what comes; before its launch it is answered NK_RING_FULL. -/
def Obligations.SieveTakesCandidates : Prop :=
  ∀ (h : FHdr) (s : State) (scope : Nat) (dead : Bool), Sound s.blk h → InTurn s.blk h → Welcome s.blk h →
    (∀ i r, runAt s.blk h.dstCtx h.ltag scope = some (i, r) → Store.get? s.blk.sve.runs i = some r → r.set < 16 →
      (r.phase = .intake → (rangeDies s.blk r.set 0x10).any (fun e => e.die == h.src) = true → r.marked.contains h.src = false →
        Takes (.cand h scope dead true []) s h (some scope) kAck (fun t u =>
          u = push (setRun t i { r with marked := r.marked ++ [h.src], ends := r.ends ++ [h.src], deadEnd := r.deadEnd || dead,
                                        started := r.started <|> some (now s.blk) }) [.runCheck i])) ∧
      (r.phase = .intake → (rangeDies s.blk r.set 0x10).any (fun e => e.die == h.src) = true → r.share ≠ 0 →
        setStage s.blk r.set = false → ∀ w v, recFits s.blk r w = true → setV s.blk r.set (crScore w) = some v →
        Takes (.cand h scope dead false [w]) s h (some scope) kAck (fun t u =>
          let p := laneAdd (setKeep s.blk r.set) (Store.getD r.toks (crTok w) {})
            { expert := crExpert w, v, key := candKey s.blk r (crTok w) (crExpert w) v }
          let k := { p.2 with
            n := p.2.n + 1, keys := keysAdd (setK s.blk r.set) p.2.keys (candKey s.blk r (crTok w) (crExpert w) v) }
          ∃ x y, Counted (setRun t i { r with toks := Store.set r.toks (crTok w) k, admitted := r.admitted + 1,
                                              started := r.started <|> some (now s.blk) }) x rSveCandIn ∧ Observed x y ∧
            (p.1 = false → u = y) ∧ (p.1 = true → ∃ z, Counted y z rSveCandDup ∧ Observed z u))) ∧
      (r.phase ≠ .intake → ∀ w, Takes (.cand h scope dead false [w]) s h (some scope) kAck (fun t u =>
        ∃ x, Counted t x rSveCandBad ∧ Observed x u))) ∧
    (runAt s.blk h.dstCtx h.ltag scope = none → liveLaunch s.blk h.dstCtx h.ltag = none → ∀ fin recs,
      Takes (.cand h scope dead fin recs) s h (some scope) kRingFull (fun t u => u = t))

/-- TALLY, ASSIGN, STAGE and CANCEL at the expander (R181, R182, R186, R189, R190); before the release of a ruled scope an ASSIGN is
answered NK_RING_FULL (R291). -/
def Obligations.ExpanderTakesRequests : Prop :=
  ∀ (h : FHdr) (s : State) (scope node expert home l i : Nat) (lv : Launch) (n : Word256) (x : XScope),
    Sound s.blk h → InTurn s.blk h → Welcome s.blk h →
    liveLaunch s.blk h.dstCtx h.ltag = some (l, lv) → xNode s.blk lv scope node = some n → lv.xdone.contains scope = false →
    scopeAt s.blk l scope = some (i, x) → Store.get? s.blk.sve.scopes i = some x → x.released = true →
    -- one more count for an expert that has its task; the scope is then looked at
    (∀ k sl cnt, x.opened = true → (homeList s.blk n).any (fun p => p.1 == home) = true →
      x.tasks.find? (fun k => k.expert == expert) = some k → k.slot = some sl → k.homes.any (fun p => p.1 == home) = true →
      (rowsUsed s.blk).length ≤ 8192 →
      ∀ fin, Takes (.tally h fin home scope node [(expert, cnt)]) s h (some scope) kAck (fun t u => ∃ v, Observed t v ∧
        u = push (modX (setScope v i { x with finals := if fin then (x.finals ++ [home]).eraseDups else x.finals }) i expert
          (fun q => { q with
            pend := q.pend + cnt, homes := k.homes.map (fun p => if p.1 = home then (home, p.2 + cnt) else p) }))
          [.scopeCheck i])) ∧
    -- a record goes to its place in the list; one for an expert that no TALLY of its home named is discarded
    (isRuled s.blk h.dstCtx = true → lv.xrel.contains scope = false → ∀ recs,
      Takes (.assign h expert home scope recs) s h (some scope) kRingFull (fun t u => u = t)) ∧
    (isRuled s.blk h.dstCtx = false → x.tasks.find? (fun k => k.expert == expert && k.homes.any (fun p => p.1 == home)) = none →
      ∀ recs, Takes (.assign h expert home scope recs) s h (some scope) kAck (fun t u => u = ctxFault t h.dstCtx uSve 0x31 0)) ∧
    (∀ k sl w, x.opened = true → x.tasks.find? (fun k => k.expert == expert && k.homes.any (fun p => p.1 == home)) = some k →
      x.tasks.find? (fun k => k.expert == expert) = some k → k.slot = some sl → isRuled s.blk h.dstCtx = false →
      isRuled s.blk x.ctx = false → k.placed < 8 * (xlLines s.blk - 1) →
      Takes (.assign h expert home scope [w]) s h (some scope) kAck (fun t u =>
        u = memWrite (modX t i expert (fun q => { q with
            got := k.got.filter (fun p => p.1 ≠ home) ++ [(home, ((k.got.find? (fun p => p.1 == home)).map Prod.snd).getD 0 + 1)]
            placed := q.placed + 1 }))
          (listAddr s.blk (sl * xlLines s.blk % 2 ^ 32) + 0x40 + 8 * k.placed) (leBytes 8 w.toNat) 1 (some x.ctx) uSve i
          (.listRecord x.uid expert))) ∧
    -- a weight-fetch task is made with a reservation, and starts; for an expert that has a task the request is counted as skipped
    (∀ sn node' r v, x.tasks.any (fun k => k.expert == expert) = false → x.staged.any (fun p => p.1 == expert) = false →
      x.launch = l → x.scope = scope → xpStage n = some node' → scopeNode s.blk lv scope node' = some sn →
      launchOf s.blk l = some lv → takeResv s.blk l scope = some (r, v) →
      Takes (.stage h expert scope node) s h (some scope) kAck (fun t u => ∃ t', takeResv t l scope = some (r, t') ∧
        u = startTask (setScope (makeX t' x r node' sn none expert 0) i { x with staged := x.staged ++ [(expert, r.slot)] })
          r.slot)) ∧
    ((x.tasks.any (fun k => k.expert == expert) = true ∨ x.staged.any (fun p => p.1 == expert) = true) →
      Takes (.stage h expert scope node) s h (some scope) kAck (fun t u => ∃ y, Counted t y rSveStageSkip ∧ Observed y u)) ∧
    -- a weight-fetch task that is not issued yet is cancelled
    (∀ slot k, x.staged.find? (fun p => p.1 == expert) = some (expert, slot) → taskOf s.blk slot = some k →
      (k.state = .waiting ∨ k.state = .ready ∨ k.state = .delayed) →
      Takes (.cancelRequest h expert scope node) s h (some scope) kAck (fun t u => ∃ v, Observed t v ∧
        u = finishTask v slot .cancelled true)) ∧
    (x.staged.find? (fun p => p.1 == expert) = none →
      Takes (.cancelRequest h expert scope node) s h (some scope) kAck (fun t u => u = t))

/-- AM_REQ and AM_RPL (R260, R263 to R266): a message for an open ring of the context, of the ring's class and generation, with a
handler it has, is placed and answered ACK where the ring is READY and has room for it, with the tail that it must skip; one that is
longer than the ring is answered NK_TOO_LONG, one without room NK_RING_FULL, with a refresh of RPTR. A handle that arrives is the
context's from then on; any other message is answered NK_READER_GONE or NK_BAD_HANDLER and changes nothing. -/
def Obligations.MessagesArePlaced : Prop :=
  ∀ (c : Instr) (s : State) (h : FHdr) (m : AmHdr) (payload : List Byte) (reply : Bool),
    (c = .amReq h m payload ∧ reply = false ∨ c = .amRpl h m payload ∧ reply = true) →
    Sound s.blk h → InTurn s.blk h → Welcome s.blk h →
    let v := ringOf s.blk m.ring
    (ringCtx s.blk m.ring ≠ some h.dstCtx ∨ v.state ≠ .opened ∨ v.rgen ≠ m.rgen → Takes c s h none kGone (fun t u => u = t)) ∧
    (ringCtx s.blk m.ring = some h.dstCtx → v.state = .opened → v.rgen = m.rgen →
      (reply ≠ v.reply ∨ v.hcount ≤ m.handler → Takes c s h none kBadHandler (fun t u => u = t)) ∧
      (reply = v.reply → m.handler < v.hcount →
        let size := 2 ^ v.log2
        let len := 32 + 32 * ((m.len + 31) / 32)
        let off := v.resv % size
        let skip := if len > size - off then size - off else 0
        let need := (v.resv + 2 ^ 32 - v.rptr) % 2 ^ 32 + skip + len
        (size < len → Takes c s h none kTooLong (fun t u => u = t)) ∧
        (len ≤ size → v.ready = false → Takes c s h none kRingFull (fun t u => u = t)) ∧
        (len ≤ size → v.ready = true → size < need → Takes c s h none kRingFull (fun t u => Refreshes t u m.ring)) ∧
        (len ≤ size → v.ready = true → need ≤ size → Takes c s h none kAck (fun t u =>
          ∃ p, Delivers t p m.ring skip (msgBytes h.src h.srcCtx h.srcGen reply m payload) ∧
          (m.handle = false → u = p) ∧
          (m.handle = true → u = { setHandles p h.dstCtx ((slotOf p h.dstCtx).handles + 1) with xch := { p.xch with
            handles := if h.src = ownDie s.blk then p.xch.handles else p.xch.handles + 1 } })))))

/-! ## Tasks -/

/-- The transitions of R100: a task that ends, a task that becomes READY (a NULL task is DONE at once; with no engine it may run on
it is counted and recorded, R136), a gate that fires, a task that is created without a gate joint, and a task that is delayed
(R127, R129). -/
def Obligations.TasksMoveAsR100Says : Prop :=
  ∀ (s : Blk) (slot : Nat) (k : Task), taskOf s slot = some k →
    (∀ st dead, TaskEnds s (finishTask s slot st dead) slot k st dead) ∧
    (k.kind = .null → TaskEnds s (enterReady s slot) slot k .done k.dead) ∧
    (k.kind ≠ .null → eligible s k ≠ [] →
      Observed (setTask s slot { k with state := .ready, mark := markNow s k.ctx }) (enterReady s slot)) ∧
    (k.kind ≠ .null → eligible s k = [] → k.noEngine = false → isRuled s k.ctx = false → ∃ u v w,
      Observed (setTask s slot { k with state := .ready, mark := markNow s k.ctx, noEngine := true }) u ∧
      Counted u v rNoEngine ∧ Observed v w ∧ enterReady s slot = ctxFault w k.ctx uRdy 0x31 (put slot 16 0)) ∧
    (k.state ≠ .waiting → gateFires s slot = s) ∧
    (∀ j, k.state = .waiting → k.gjoint = some j → jointDead s j = true → (taskNode s k).map nDeadp = some true →
      TaskEnds s (gateFires s slot) slot k .cancelled true) ∧
    (∀ j, k.state = .waiting → k.gjoint = some j → (jointDead s j = false ∨ (taskNode s k).map nDeadp = some false) →
      gateFires s slot = startTask (setTask s slot { k with dead := jointDead s j }) slot) ∧
    (k.delay = 0 → startTask s slot = enterReady s slot) ∧
    (0 < k.delay → s.iss.dly.length < 16384 → TaskDelayed s (startTask s slot) slot k) ∧
    (0 < k.delay → 16384 ≤ s.iss.dly.length → ∃ u,
      Counted (setTask s slot { k with state := .waiting, dlyWait := true }) u rDlyWaits ∧ Observed u (startTask s slot))

/-! ## Words of the regions -/

/-- What is checked of a word on RCPn before its kind (R48, R375): with the port pair out of service, or from a masked engine, it
is answered 10; with bad parity 01, and the fourth in a row from one engine takes the pair out of service; a word of the reserved
kind is answered 10 and recorded. Every completion word that comes on a pair out of service still settles its purge record (R47). -/
def Obligations.RegionWordsAreChecked : Prop :=
  ∀ (c : Instr) (s : State) (n src : Nat) (ok : Bool), regionWord c = some (n, src, ok) → n < 16 → src < 256 →
    fnReady s.blk 9 = true → s.blk.cfg.srst = false →
    let e := n * 256 + src
    let fails := Store.getD s.blk.ports.rcpFails e 0
    (regionOut s.blk n = true → Updates c s (fun b => ∃ t,
      Observed { s.blk with ports := { s.blk.ports with rcpErr := Store.put 0 s.blk.ports.rcpErr n 2 } } t ∧
      ((∀ w q, c ≠ .completionWord n src w ok q) → b = t) ∧
      ∀ w q, c = .completionWord n src w ok q →
        b = { t with iss := { t.iss with purge := match t.iss.purge.find? (purgeMatch e w) with
          | some h => t.iss.purge.erase h
          | none => t.iss.purge } })) ∧
    (regionOut s.blk n = false → ok = false → fails + 1 < 4 → Updates c s (fun b =>
      Observed (rcpAnswered s.blk n 1 e (fails + 1)) b)) ∧
    (regionOut s.blk n = false → ok = false → 4 ≤ fails + 1 → Updates c s (fun b => ∃ t,
      Observed (rcpAnswered s.blk n 1 e 0) t ∧ PairGone t b n 1)) ∧
    (regionOut s.blk n = false → ok = true → engMasked s.blk e = true → Updates c s (fun b =>
      Observed (rcpAnswered s.blk n 2 e 0) b)) ∧
    (∀ kind w, c = .rcpReservedKind n src kind w ok → regionOut s.blk n = false → ok = true → engMasked s.blk e = false →
      kind = 3 → Updates c s (fun b => ∃ t, Observed (rcpAnswered (rcpAnswered s.blk n 0 e 0) n 2 e 0) t ∧
        Logged t b uIss (faultEnt t uIss 0x31 none (e * 2 ^ 64) false)))

/-- A completion word (R142). One that fits an ISSUED task returns its credit and ends it DONE, with dead arrivals and fault 0x59 where its
STATUS says error, and reserved bits that are not 0 are counted; one that fits none settles a purge record, or is stale and returns a credit
of its class, or, where none is out, is counted as a credit error and recorded. -/
def Obligations.CompletionsEndTasks : Prop :=
  ∀ (n src : Nat) (w : Word64) (q : List Nat) (s : State), Listens s.blk n src →
    let e := n * 256 + src
    let slot := cwSlot w
    (∀ k, cwMatch s.blk e w = some k → (∀ o ∈ s.blk.ctx.owed, o.what ≠ .completion slot) → cwCls w = k.cls →
      (cwStatus w = 0 → Updates (.completionWord n src w true q) s (fun b => ∃ t v u,
        Observed (rcpAnswered s.blk n 0 e 0) t ∧ Contended t v k.ctx q ∧ Observed (credited v e w k) u ∧
        TaskEnds u b slot k .done k.dead)) ∧
      ((cwStatus w = 1 ∨ cwStatus w = 2) → Updates (.completionWord n src w true q) s (fun b => ∃ t v u,
        Observed (rcpAnswered s.blk n 0 e 0) t ∧ Contended t v k.ctx q ∧ Observed (credited v e w k) u ∧
        TaskEnds (setTask (ctxFault u k.ctx uIss 0x59
          (mkDetail (slot + cwStatus w * 2 ^ 24) e (cwDetail w))) slot { k with dead := true }) b slot { k with dead := true }
          .done true))) ∧
    (cwMatch s.blk e w = none → ∀ h, s.blk.iss.purge.find? (purgeMatch e w) = some h →
      Updates (.completionWord n src w true q) s (fun b => ∃ t u v, Observed (rcpAnswered s.blk n 0 e 0) t ∧
        Counted { t with iss := { t.iss with purge := t.iss.purge.erase h } } u rStaleCmpl ∧ Observed u v ∧
        Contended v b (cwCtx w) q)) ∧
    (cwMatch s.blk e w = none → s.blk.iss.purge.find? (purgeMatch e w) = none → occ s.blk e (cwCls w) ≠ 0 →
      (∀ h, Store.get? s.blk.tsk.held slot = some h → h.istamp ≠ cwStamp w) →
      Updates (.completionWord n src w true q) s (fun b => ∃ t u v, Observed (rcpAnswered s.blk n 0 e 0) t ∧
        Counted (creditBack t e (cwCls w)) u rStaleCmpl ∧ Observed u v ∧ Contended v b (cwCtx w) q)) ∧
    (cwMatch s.blk e w = none → s.blk.iss.purge.find? (purgeMatch e w) = none → occ s.blk e (cwCls w) = 0 →
      Updates (.completionWord n src w true q) s (fun b => ∃ t u v x y, Observed (rcpAnswered s.blk n 0 e 0) t ∧
        Counted t u rCreditErr ∧ Observed u v ∧ Logged v x uIss (faultEnt v uIss 0x31 none (slot + e * 2 ^ 64) false) ∧
        Observed x y ∧ Contended y b (cwCtx w) q))

/-- What a task's engine sends besides completions; a contested grant is counted (R297). A candidate record of a source task joins the
message for its home (R167, R168); one for a slot that holds no task is counted and recorded. An enqueue request of an ISSUED task whose
context allows it makes a task of the named node of its scope, which starts (R152); without leave it is answered 10, counted, and fault 0x54
is recorded. -/
def Obligations.EnginesSendRecordsAndEnqueue : Prop :=
  ∀ (n src : Nat) (w : Word64) (q : List Nat) (s : State), Listens s.blk n src →
    let e := n * 256 + src
    (∀ k l nd m x ent, taskOf s.blk (crSlot w) = some k → (launchOf s.blk k.launch).bind (fun l => expertNode s.blk l k.scope) =
        some (m, nd) → k.kind = .kernel → k.state = .issued → k.issuedEng = e → xpSrc nd = k.node →
      (srcOf s.blk k.launch k.scope).ended = false → (setV s.blk (xpSet nd) (crScore w)).isSome = true →
      crExpert w < setNexp s.blk (xpSet nd) → (scopeHomes s.blk nd)[crTok w >>> setHshift s.blk (xpSet nd)]? = some ent →
      s.blk.sve.streams.find? (fun y => y.launch == k.launch && y.scope == k.scope && y.ent == ent) = some x →
      x.stopped = false → x.recs.length < 31 → (dieEnt s.blk ent).die ≠ ownDie s.blk → l = x.recs ++ [w] →
      Updates (.candidateRecord n src w true q) s (fun b => ∃ t u, Observed (rcpAnswered s.blk n 0 e 0) t ∧ Contended t u k.ctx q ∧
        b = modStream u x.uid (fun _ => { x with recs := l }))) ∧
    (taskOf s.blk (crSlot w) = none → Updates (.candidateRecord n src w true q) s (fun b => ∃ t x u v,
      Observed (rcpAnswered s.blk n 0 e 0) t ∧ ContendedOpt t x none q ∧ Counted x u rSveCandBad ∧ Observed u v ∧
      Logged v b uSve (faultEnt v uSve 0x31 none (crSlot w + e * 2 ^ 64) false))) ∧
    (∀ k, taskOf s.blk (fld w 63 47) = some k → stampOf s.blk (fld w 63 47) = fld w 46 39 → k.state = .issued → k.issuedEng = e →
      (rgb s.blk (bank rOrdMode k.ctx) 2 = false → Updates (.enqueueRequest n src w true q) s (fun b => ∃ t u v,
        Observed (rcpAnswered (rcpAnswered s.blk n 0 e 0) n 2 e 0) t ∧ Counted t u rEnqRefused ∧ Observed u v ∧
        b = ctxFault v k.ctx uIss 0x54 (fld w 63 47 + e * 2 ^ 64))) ∧
      (∀ l nd top i, rgb s.blk (bank rOrdMode k.ctx) 2 = true → (∀ o ∈ s.blk.ctx.owed, o.what ≠ .completion (fld w 63 47)) →
        launchOf s.blk k.launch = some l → scopeNode s.blk l k.scope (fld w 38 27) = some nd → topImg s.blk l = some top →
        fld w 10 0 = 0 → nKind nd = 1 → argOf top l k.scope nd + fld w 26 11 * 0x40 < 2 ^ 52 →
        ctxUsed s.blk k.ctx < ctxQuota s.blk k.ctx → (takeSlots s.blk 1).1 = some [i] →
        Updates (.enqueueRequest n src w true q) s (fun b => ∃ t v u, Observed (rcpAnswered s.blk n 0 e 0) t ∧
          Contended t v k.ctx q ∧ takeSlots v 1 = (some [i], u) ∧
          b = startTask (modLaunch (placeTask (nextSeq u).2 i (mkTask k.launch l k.tid k.tgen k.scope (fld w 38 27) nd .enqueued
            none (argOf top l k.scope nd + fld w 26 11 * 0x40) s.blk.tsk.seqNext)) k.launch (fun l => { l with
              slots := l.slots ++ [i]
              members := l.members ++ [{ scope := k.scope, node := fld w 38 27, slot := i, joint := none }] })) i)))

/-! ## The Memory Port -/

/-- A request that MQ takes is outstanding under its tag (R50). A response frees its tag (R52 to R55): with OK its owner has the
data; with a slave or decode error its owner has a fault; a response that cannot be trusted, says RETRY, or brings bad data has the
request offered again under its tag, three times, after which it is abandoned; one that names no request sets BLK_PORT_FAULT.MEM; and
one for a request that a quiesce by force gave up is counted as late. -/
def Obligations.MemoryPortTransfers : Prop :=
  (∀ s : State, s.blk.cfg.low = false →
    (s.blk.mem.mq = none → Updates .memoryRequestTaken s (fun b => b = s.blk)) ∧
    (∀ t r, s.blk.mem.mq = some (t, r) → Updates .memoryRequestTaken s (fun b => b = { s.blk with mem := { s.blk.mem with
      mq := none, out := Store.set s.blk.mem.out t { r with age := now s.blk } } }))) ∧
  (∀ (tag st : Nat) (data : Line) (dataOk ctlOk : Bool) (q : List Nat) (s : State), tag < 1024 → st < 8 → fnReady s.blk 2 = true →
    s.blk.cfg.srst = false →
    let c := Instr.memoryResponse tag st data dataOk ctlOk q
    let freed := fun (b : Blk) => { b with mem := { b.mem with out := Store.erase b.mem.out tag } }
    (Store.get? s.blk.mem.out tag = none → Updates c s (fun b => ∃ t,
      Observed { s.blk with mem := { s.blk.mem with retired := s.blk.mem.retired.filter (· ≠ tag) } } t ∧
      OnlyReg t b rPortFault (rg t rPortFault ||| 2))) ∧
    (∀ r, Store.get? s.blk.mem.out tag = some r → r.owner = .orphaned → Updates c s (fun b => ∃ x t u, ContendedOpt s.blk x r.ctx q ∧
      Observed (freed x) t ∧ Counted t u rLateMem ∧ Observed u b)) ∧
    (∀ r, Store.get? s.blk.mem.out tag = some r → r.owner ≠ .orphaned → r.serial = none →
      (ctlOk = true → st = 0 → (r.write = true ∨ dataOk = true) → Updates c s (fun b => ∃ x t, ContendedOpt s.blk x r.ctx q ∧
        Observed (freed x) t ∧ b = ownerAnswer t r (some (if r.write = true then 0 else data)) tag 0)) ∧
      (ctlOk = true → (st = 1 ∨ st = 4) → Updates c s (fun b => ∃ x t, ContendedOpt s.blk x r.ctx q ∧
        Observed (freed x) t ∧ b = applyMem t r none tag st)) ∧
      ((ctlOk = false ∨ (r.write = false ∧ dataOk = false ∧ st = 0) ∨ (st ≠ 0 ∧ st ≠ 1 ∧ st ≠ 4)) →
        let last := if ctlOk = true ∧ (r.write = true ∨ dataOk = true) then st else 0
        (r.fails < 3 → Updates c s (fun b => ∃ x, ContendedOpt s.blk x r.ctx q ∧
          Observed { freed x with mem := { (freed x).mem with
            waitq := x.mem.waitq ++ [(some tag, { r with fails := r.fails + 1, last })] } } b)) ∧
        (3 ≤ r.fails → Updates c s (fun b => ∃ x t, ContendedOpt s.blk x r.ctx q ∧ Observed (freed x) t ∧
          b = applyMem t r none tag last)))))

/-! ## Transport on the fabric -/

/-- An ANSWER message (R58, R60, R267, R271 to R273, R279): one of several flits is dropped, one with bad parity sets
BLK_PORT_FAULT.FAB, one that fits no waiting request is late and counted, and so is one with a reserved code (the counter is the
model's choice, assumption 25); else its request ends and its owner has the code, or, after NK_PARITY, it is to be offered again, three
times. What an old generation or a quiesced context asked is only counted. A reply timer that passes ends its request with NK_TIMEOUT
(R272). -/
def Obligations.AnswersEndRequests : Prop :=
  ∀ (src rqid code fl : Nat) (q : List Nat) (s : State), rqid < 2 ^ 16 → code < 16 → fnReady s.blk 11 = true →
    let i := rqid % 4096
    let c := fun ok => Instr.answer src rqid code ok fl q
    (1 < fl → ∀ ok, Updates (c ok) s (fun b => Observed s.blk b)) ∧
    (fl ≤ 1 → Updates (c false) s (fun b => ∃ t, Observed s.blk t ∧ OnlyReg t b rPortFault (rg t rPortFault ||| 4))) ∧
    (fl ≤ 1 → (code > 10 ∨ ∀ e, Store.get? s.blk.xch.out i = some e → e.stamp ≠ rqid / 4096 ∨ e.phase ≠ .waiting) →
      Updates (c true) s (fun b => ∃ t u, Observed s.blk t ∧ Counted t u rLateAnswer ∧ Observed u b)) ∧
    (∀ e, fl ≤ 1 → code ≤ 10 → Store.get? s.blk.xch.out i = some e → e.stamp = rqid / 4096 → e.phase = .waiting →
      (e.req.orphan = true ∨ e.req.srcGen ≠ ctxGen s.blk e.req.srcCtx → Updates (c true) s (fun b => ∃ t x u v,
        Observed s.blk t ∧ Contended t x e.req.srcCtx q ∧
        (if e.req.srcGen = ctxGen s.blk e.req.srcCtx then u = x else ∃ y, Counted x y rLateAnswer ∧ Observed y u) ∧
        Counted u v rLateFab ∧ ∃ y, Observed v y ∧ b = endOut y i)) ∧
      (e.req.orphan = false → e.req.srcGen = ctxGen s.blk e.req.srcCtx →
        (code ≠ kParity → code ≠ kGap → Updates (c true) s (fun b => ∃ t x u, Observed s.blk t ∧ Contended t x e.req.srcCtx q ∧
          Observed (endOut x i) u ∧ b = push u [.answered e.req code false])) ∧
        (code = kParity → e.parityTries < 3 → Updates (c true) s (fun b => ∃ t x, Observed s.blk t ∧ Contended t x e.req.srcCtx q ∧
          Observed (setOut x i { e with phase := .again, parityTries := e.parityTries + 1 }) b)) ∧
        (code = kParity → 3 ≤ e.parityTries → Updates (c true) s (fun b => ∃ t x y u, Observed s.blk t ∧
          Contended t x e.req.srcCtx q ∧ y = ctxFault x e.req.srcCtx uXch 0x20
            (mkDetail (0x21 * 2 ^ 56 + e.req.dst % 2 ^ 21) (e.req.body.ty % 64 * 2 ^ 16 + rqid) 0) ∧
          Observed (endOut (pairLost y e.req.dst e.pseq) i) u ∧ b = push u [.answered e.req kTimeout false])))) ∧
    (∀ e, Store.get? s.blk.xch.out i = some e → e.phase = .waiting → s.blk.time.usable = true → e.deadline ≤ now s.blk →
      Updates (.replyTimerExpiry i q) s (fun b => ∃ x t u v, Contended s.blk x e.req.srcCtx q ∧ Counted x t rTimeouts ∧ Observed t u ∧
        Observed (endOut (pairLost u e.req.dst e.pseq) i) v ∧ b = push v [.answered e.req kTimeout true])) ∧
    (∀ e, Store.get? s.blk.xch.out i = some e → (e.phase ≠ .waiting ∨ s.blk.time.usable = false ∨ now s.blk < e.deadline) →
      Updates (.replyTimerExpiry i q) s (fun b => b = s.blk))

/-- Flow and order on the fabric (R37, R57 to R59, R62, R112, R271, R272, R276): what stands at FQO and FPO is a flit with its routing
header and even parity; a held request whose time has passed is answered NK_ORDER_GAP; the
reorder window opens with a new epoch and closes after CTX_ORD_WIN; XOFF levels are kept; the last flit of a request starts its reply timer,
and the flit of an answer leaves FPO; a request whose repeated offer is due is offered again. -/
def Obligations.FabricKeepsOrderAndFlow : Prop :=
  ∀ s : State, fnReady s.blk 11 = true → s.blk.cfg.low = false →
    (∀ src pseq h, heldAt s.blk src pseq = some h →
      (s.blk.time.usable = true → h.deadline ≤ now s.blk → Updates (.orderHoldExpiry src pseq) s (fun b =>
        Answers { s.blk with xch := { s.blk.xch with hold := s.blk.xch.hold.erase h } } b
          { dst := h.m.h.src, rqid := h.m.h.rqid, code := kGap })) ∧
      (s.blk.time.usable = false ∨ now s.blk < h.deadline → Updates (.orderHoldExpiry src pseq) s (fun b => b = s.blk))) ∧
    (∀ e, s.blk.xch.winEnd = some e →
      (s.blk.time.usable = true → e ≤ now s.blk → Updates .orderWindowClose s (fun b =>
        b = { s.blk with xch := { s.blk.xch with winEnd := none } })) ∧
      (s.blk.time.usable = false ∨ now s.blk < e → Updates .orderWindowClose s (fun b => b = s.blk))) ∧
    (∀ epoch, (epoch % 2 = s.blk.xch.epoch → Updates (.epochNotice epoch) s (fun b => Observed s.blk b)) ∧
      (epoch % 2 ≠ s.blk.xch.epoch → Updates (.epochNotice epoch) s (fun b => Observed { s.blk with xch := { s.blk.xch with
        epoch := epoch % 2, winEnd := some (now s.blk + rgf s.blk rOrderWin 9 0 * 1000) } } b))) ∧
    (∀ on, Updates (.fabricXoff .fqo on) s (fun b => b = { s.blk with ports := { s.blk.ports with fqoXoff := on } }) ∧
      Updates (.fabricXoff .fpo on) s (fun b => b = { s.blk with ports := { s.blk.ports with fpoXoff := on } })) ∧
    (∀ i n e, s.blk.ports.fqo = some (i, n) → Store.get? s.blk.xch.out i = some e →
      (1 < n → Updates (.fabricFlitTaken .fqo) s (fun b =>
        Observed { s.blk with ports := { s.blk.ports with fqo := some (i, n - 1) } } b)) ∧
      (n ≤ 1 → Updates (.fabricFlitTaken .fqo) s (fun b =>
        let e' := { e with phase := .waiting, since := now s.blk, deadline := now s.blk + rgf s.blk rReplyTimer 9 0 * 1000 }
        Observed { s.blk with ports := { s.blk.ports with fqo := none }
                              xch := { s.blk.xch with out := Store.set s.blk.xch.out i e' } } b))) ∧
    (∀ a, s.blk.ports.fpo = some a → Updates (.fabricFlitTaken .fpo) s (fun b =>
      Observed { s.blk with ports := { s.blk.ports with fpo := none } } b)) ∧
    (∀ i n e, s.blk.ports.fqo = some (i, n) → Store.get? s.blk.xch.out i = some e → ∃ p hp,
      let hdr := ownDie s.blk % 2 ^ 21 + e.req.dst % 2 ^ 21 * 2 ^ 21 + e.req.body.ty % 64 * 2 ^ 42 + if n = 1 then 2 ^ 48 else 0
      let flit := (flitsOf s.blk i e).getD ((flitsOf s.blk i e).length - n) 0
      drives s.blk .fqo = [1, hdr, flit, p, hp] ∧ EvenParity 8 flit p ∧ EvenParity 2 hdr hp) ∧
    (∀ a, s.blk.ports.fpo = some a → ∃ p hp,
      let hdr := ownDie s.blk % 2 ^ 21 + a.dst % 2 ^ 21 * 2 ^ 21 + 0x3f * 2 ^ 42 + 2 ^ 48
      let flit := a.code % 16 * 2 ^ 92 + a.rqid % 2 ^ 16 * 2 ^ 96
      drives s.blk .fpo = [1, hdr, flit, p, hp] ∧ EvenParity 8 flit p ∧ EvenParity 2 hdr hp) ∧
    (∀ i t, s.blk.xch.retries[i]? = some t →
      (s.blk.time.usable = false ∨ now s.blk < t.due → Updates (.retryOffer i) s (fun b => b = s.blk)) ∧
      (s.blk.time.usable = true → t.due ≤ now s.blk →
        (∀ r, t.what = .localMsg r → Updates (.retryOffer i) s (fun b => ∃ u v,
          Counted { s.blk with xch := { s.blk.xch with retries := s.blk.xch.retries.eraseIdx i } } u rSveRetry ∧ Observed u v ∧
          b = push v [.fabReq r])) ∧
        (∀ r, t.what = .fabric r → peerFenced s.blk r.dst = false → Updates (.retryOffer i) s (fun b => ∃ u v,
          Counted { s.blk with xch := { s.blk.xch with retries := s.blk.xch.retries.eraseIdx i } } u rSveRetry ∧ Observed u v ∧
          b = { v with xch := { v.xch with waitq := r :: v.xch.waitq } }))))

/-! ## What comes with time -/

/-- The release of delayed tasks, least release time first (R127, R128), task overruns (R143), the expiry of early arrivals
(R111), and the timeout of a sieve run (R173). Before its time nothing happens. -/
def Obligations.TimeReleasesAndExpires : Prop :=
  (∀ (ws : List Nat) (s : State), fnReady s.blk 8 = true →
    ((s.blk.time.usable = false ∨ ∀ d ∈ s.blk.iss.dly, now s.blk < d.release) → Updates (.delayRelease ws) s (fun b => b = s.blk)) ∧
    (s.blk.time.usable = true → (∃ d ∈ s.blk.iss.dly, d.release ≤ now s.blk) →
      (∀ d ∈ s.blk.iss.dly, ∃ k, taskOf s.blk d.slot = some k ∧ ruledLive s.blk k.ctx = false) →
      Updates (.delayRelease ws) s (fun b => ∃ d k y t, d ∈ s.blk.iss.dly ∧ d.release ≤ now s.blk ∧
        (∀ x ∈ s.blk.iss.dly, x.release ≤ now s.blk → d.release ≤ x.release) ∧ taskOf s.blk d.slot = some k ∧
        Contended s.blk y k.ctx ws ∧
        Observed { y with iss := { y.iss with dly := y.iss.dly.filter (fun x => x.idx ≠ d.idx) } } t ∧
        b = enterReady (push t [.dlyFill]) d.slot)) ∧
    ((s.blk.time.usable = false ∨ ∀ e ∈ s.blk.tsk.early, now s.blk < e.born + rgf s.blk rEarlyTtl 15 0 * 1000) →
      Updates .earlyArrivalExpiry s (fun b => b = s.blk)) ∧
    (∀ e r, s.blk.time.usable = true → s.blk.tsk.early = e :: r → e.born + rgf s.blk rEarlyTtl 15 0 * 1000 ≤ now s.blk →
      Updates .earlyArrivalExpiry s (fun b => ∃ t u,
        Counted { s.blk with tsk := { s.blk.tsk with early := r } } t rEarlyDrop ∧ Observed t u ∧
        b = ctxFault u e.ctx uTsk 0x51 0))) ∧
  (∀ (slot : Nat) (k : Task) (s : State), fnReady s.blk 9 = true → taskOf s.blk slot = some k →
    let limit := rgf s.blk (rOverrun + 4 * k.cls) 19 0 * 1000
    (k.state = .issued → k.overrun = false → limit ≠ 0 → s.blk.time.usable = true → k.issuedAt + limit < now s.blk →
      Updates (.taskOverrun slot) s (fun b => ∃ t u v,
        OnlyReg (setTask s.blk slot { k with overrun := true }) t rOverrunLast
          (2 ^ 31 + put k.cls 26 25 + put k.ctx 24 17 + put slot 16 0) ∧
        OnlyReg t u rIssIrq (rg t rIssIrq ||| 1) ∧ Observed u v ∧
        b = ctxFault v k.ctx uIss 0x42 (slotDetail slot k.issuedEng))) ∧
    ((k.state ≠ .issued ∨ k.overrun = true ∨ limit = 0 ∨ s.blk.time.usable = false ∨ now s.blk ≤ k.issuedAt + limit) →
      Updates (.taskOverrun slot) s (fun b => b = s.blk))) ∧
  (∀ (run : Nat) (r : Run) (s : State), fnReady s.blk 10 = true → Store.get? s.blk.sve.runs run = some r → r.phase = .intake →
    let limit := rgf s.blk rRunTimeout 19 0 * 1000
    (∀ t, r.started = some t → s.blk.time.usable = true → t + limit ≤ now s.blk → isRuled s.blk r.ctx = true →
      Updates (.sieveRunTimeout run) s (fun b => ∃ u v w,
        u = setRun (setRun s.blk run { r with timedOut := true }) run { r with timedOut := true, phase := .ready } ∧
        Counted u v rSveDegraded ∧ Observed v w ∧
        b = ctxFault w r.ctx uSve 0x5a (mkDetail (put r.ltag 31 0) (put run 9 0 + put (b2n r.deadEnd) 16 16 + 2 ^ 17 +
          put (b2n r.badDie) 18 18 + put (b2n r.laneLost) 19 19) r.admitted))) ∧
    (∀ t, r.started = some t → s.blk.time.usable = true → t + limit ≤ now s.blk →
      Updates (.sieveRunTimeout run) s (fun b => b = endIntake (setRun s.blk run { r with timedOut := true }) run)) ∧
    (r.started = none ∨ s.blk.time.usable = false ∨ (∃ t, r.started = some t ∧ now s.blk < t + limit) →
      Updates (.sieveRunTimeout run) s (fun b => b = s.blk)))

/-! ## Joints -/

/-- Arrivals and closes act on a joint, both of whose copies are good, as R103 gives it. `closeAdd` is CLOSE_ADD of the waiter's
node, and 0 for a queue. -/
def Obligations.JointsCountAsR103Says : Prop :=
  ∀ (s : Blk) (j : Nat) (x : Joint) (w : JWord), jointOf s j = some x → x.read = .good w false →
    (∀ dead : Bool,
      let w' := { w with deadSeen := w.deadSeen || dead }
      (w.fired = true → arrive s j dead = jointFault s j x w 0x51) ∧
      (w.fired = false → w.isOpen = true → w.count = 0xffffff → arrive s j dead = jointFault s j x w 0x52) ∧
      (w.fired = false → w.isOpen = true → w.count ≠ 0xffffff → ∃ t, Observed s t ∧
        arrive s j dead = putJoint t j { w' with count := w.count + 1 }) ∧
      (w.fired = false → w.isOpen = false → 1 < w.count → ∃ t, Observed s t ∧
        arrive s j dead = putJoint t j { w' with count := w.count - 1 }) ∧
      (w.fired = false → w.isOpen = false → w.count = 1 → ∃ t, Observed s t ∧
        arrive s j dead = fire (putJoint t j { w' with count := 0, fired := true }) j x { w' with count := 0, fired := true })) ∧
    (∀ target : Nat,
      let t' := target + closeAdd s j x
      (w.isOpen = false → closeJoint s j target = jointFault s j x w 0x31) ∧
      (w.isOpen = true → 0xffffff < t' → closeJoint s j target = jointFault s j x w 0x52) ∧
      (w.isOpen = true → t' ≤ 0xffffff → t' < w.count → closeJoint s j target = jointFault s j x w 0x51) ∧
      (w.isOpen = true → w.fired = false → t' ≤ 0xffffff → w.count < t' → ∃ t, Observed s t ∧
        closeJoint s j target = putJoint t j { w with count := t' - w.count, isOpen := false }) ∧
      (w.isOpen = true → t' ≤ 0xffffff → w.count = t' → ∃ t, Observed s t ∧
        closeJoint s j target = fire (putJoint t j { w with count := 0, isOpen := false, fired := true }) j x
          { w with count := 0, isOpen := false, fired := true })) ∧
    (∀ q, x.waiter = .queue q → closeAdd s j x = 0)

/-- Both copies of a joint are read and written (R107), and a fault leaves the update unapplied (R105): of two good copies that
differ comes fault 0x21; one that fails is replaced by the other and counted; a fault is kept in JNT_FAULT_LAST; a queue that waits keeps
its joint, and a task that waits, is READY or DELAYED becomes FENCED with its successors owed dead arrivals. -/
def Obligations.JointFaultsFenceTheWaiter : Prop :=
  ∀ (s : Blk) (j : Nat) (x : Joint) (w : JWord), jointOf s j = some x →
    (∀ w2, x.a = { w } → x.b = { w := w2 } → w ≠ w2 → x.read = .differ) ∧
    (x.b = { w } → x.a.parityOk = false → x.read = .good w true ∧ ∃ t u v, Counted s t rJntRepair ∧ Observed u v ∧
      jointRead s j x = (some w, v) ∧ jointOf u j = some { x with a := { w }, b := { w } } ∧ u.regs = (bump t rCorr).regs) ∧
    (∀ code, code < 256 → j < 2 ^ 18 →
      let b := jointFault s j x w code
      (∀ q, x.waiter = .queue q → jointOf b j = some x ∧ rg b rJntFaultLast = code * 2 ^ 24 + j ∧ b.work = s.work ∧
        ∀ slot, taskOf b slot = taskOf s slot) ∧
      (∀ slot k, x.waiter = .task slot → awayAt s j = none → gatedTask s j slot = some k →
        ((k.state = .waiting ∨ k.state = .ready ∨ k.state = .delayed) →
          jointOf b j = some { x with a := { w := { w with fired := true, deadSeen := true } }
                                      b := { w := { w with fired := true, deadSeen := true } } } ∧
          rg b rJntFaultLast = code * 2 ^ 24 + j ∧ taskOf b slot = some { k with state := .fenced, dlyWait := false } ∧
          b.work = .dlyFill :: .succs slot true :: s.work ∧ b.iss.dly = s.iss.dly.filter (fun d => d.slot ≠ slot)) ∧
        (k.state ≠ .waiting → k.state ≠ .ready → k.state ≠ .delayed →
          jointOf b j = some x ∧ rg b rJntFaultLast = code * 2 ^ 24 + j ∧ b.work = s.work ∧ taskOf b slot = some k)))

/-! ## The Nib -/

/-- NOP, SET, ADD and GET retire with the value of R231: GET reads the step counter, the Time Port's last sample, the generation, the
resident tasks or the free completion slots. The sum of ADD wraps. -/
def Obligations.ScratchCommandsRetire : Prop :=
  ∀ (q : Nat) (w : Word256) (s : State), Begins s.blk q w →
    (cOp w = oNop → Retires (.cmdNop q) s q w none) ∧
    (cOp w = oSet → Retires (.cmdSet q) s q w (some (BitVec.ofNat 64 (cOpa w)))) ∧
    (cOp w = oAdd → Retires (.cmdAdd q) s q w (some (scratch (queueOf s.blk q) (cRa w) + BitVec.ofNat 64 (cOpa w)))) ∧
    (cOp w = oGet → ∀ n, immF w 3 0 = n →
      (n = 0 → Retires (.cmdGet q) s q w (some (BitVec.ofNat 64 (sqtOf s.blk (sqCtx s.blk q)).stepCnt))) ∧
      (n = 1 → Retires (.cmdGet q) s q w (some (BitVec.ofNat 64 (now s.blk)))) ∧
      (n = 2 → Retires (.cmdGet q) s q w (some (BitVec.ofNat 64 (ctxGen s.blk (sqCtx s.blk q))))) ∧
      (n = 3 → Retires (.cmdGet q) s q w (some (BitVec.ofNat 64 (residents s.blk (sqCtx s.blk q))))) ∧
      (n = 4 → Retires (.cmdGet q) s q w (some (BitVec.ofNat 64 (cplFree s.blk q (queueOf s.blk q))))))

/-- BR, LOOP, CALL and RET (R223, R231, R234, R235). A branch is taken in a called block only; its target is the sum of the PC and
the offset; one that does not go forward counts in BACKJ, and halts the queue past CSQ_LOOP_MAX. A CALL goes no deeper than four, a
ring's CALL retires after the RET to depth 0, and a RET needs a depth. -/
def Obligations.FlowCommandsMoveThePc : Prop :=
  ∀ (q : Nat) (w : Word256) (s : State), Begins s.blk q w →
    let v := queueOf s.blk q
    let S := fun i => (scratch v i).toNat
    let max := rg s.blk rLoopMax
    let target := ((v.pc : Int) + offOf w) % 2 ^ 52
    let Taken := fun (c : Instr) (upd : Queue → Queue) =>
      (v.stack = [] → Halts c s q w 0x31) ∧
      (v.stack ≠ [] → 0 < offOf w → Runs c s q (fun t b => b =
        retire (setQ t q (upd v)) q { word := w, pc := v.pc, act := .jump target.toNat })) ∧
      (v.stack ≠ [] → offOf w ≤ 0 → max ≠ 0 → max < v.backj + 1 → Halts c s q w 0x32) ∧
      (v.stack ≠ [] → offOf w ≤ 0 → (max = 0 ∨ v.backj + 1 ≤ max) → Runs c s q (fun t b => ∃ u,
        Observed (setQ t q { upd v with backj := v.backj + 1 }) u ∧
        b = retire u q { word := w, pc := v.pc, act := .jump target.toNat }))
    (cOp w = oBr → let b := if immF w 4 4 = 1 then cOpb w else S (cRb w)
      (brCond (immF w 3 0) (S (cRa w)) b = false → Retires (.cmdBr q) s q w none) ∧
      (brCond (immF w 3 0) (S (cRa w)) b = true → Taken (.cmdBr q) id)) ∧
    (cOp w = oLoop →
      (S (cRa w) = 0 → Retires (.cmdLoop q) s q w none) ∧
      (S (cRa w) = 1 → Runs (.cmdLoop q) s q (fun t b => b = retireVal (setQ t q (wrScratch v (cRa w) 0)) q w none)) ∧
      (1 < S (cRa w) → Taken (.cmdLoop q) (fun v => wrScratch v (cRa w) (scratch v (cRa w) - 1)))) ∧
    (cOp w = oCall →
      (4 ≤ v.stack.length → Halts (.cmdCall q) s q w 0x31) ∧
      (v.stack = [] → Runs (.cmdCall q) s q (fun t b => b = setQ t q
        { dropAhead v with stack := [(v.pc + 32) % 2 ^ 52], ringCall := some (w, v.pc), pc := cOpa w, passBrk := false })) ∧
      (v.stack ≠ [] → v.stack.length < 4 → Runs (.cmdCall q) s q (fun t b => b =
        retire t q { word := w, pc := v.pc, act := .call (cOpa w) }))) ∧
    (cOp w = oRet →
      (v.stack = [] → Halts (.cmdRet q) s q w 0x31) ∧
      (v.stack ≠ [] → Runs (.cmdRet q) s q (fun t b => b = retire t q { word := w, pc := v.pc, act := .ret })))

/-- WAIT, JFREE and JALLOC act on the queue's own joints (R230, R236). A WAIT on a joint that has fired passes and frees it; else the
queue enters WAIT, with its timeout. A queue holds 16 joints at most, and JALLOC makes a closed or an open one. -/
def Obligations.JointCommandsWaitAndAllocate : Prop :=
  ∀ (q : Nat) (ws : List Nat) (w : Word256) (s : State), Begins s.blk q w →
    let v := queueOf s.blk q
    let j := (scratch v (cRa w)).toNat % 2 ^ 18
    (cOp w = oWait →
      (j ∉ v.joints → Halts (.cmdWait q ws) s q w 0x31) ∧
      (j ∈ v.joints → jointFired s.blk j = true → Runs (.cmdWait q ws) s q (fun t b => ∃ u, JointFreed t u q j ∧
        b = retireVal u q w (some 0))) ∧
      (j ∈ v.joints → jointFired s.blk j = false → Runs (.cmdWait q ws) s q (fun t b => b = setQ t q
        { v with state := .wait, jw := some j, cur := some w, backj := 0, passBrk := false,
                 deadline := if opbF w 19 0 = 0 then none else some (now s.blk + opbF w 19 0 * 1000) }))) ∧
    (cOp w = oJfree →
      (j ∉ v.joints ∨ isEndJoint s.blk j = true → Halts (.cmdJfree q ws) s q w 0x31) ∧
      (j ∈ v.joints → isEndJoint s.blk j = false → Runs (.cmdJfree q ws) s q (fun t b => ∃ u, JointFreed t u q j ∧
        b = retireVal u q w none))) ∧
    (cOp w = oJalloc →
      (16 ≤ v.joints.length → Halts (.cmdJalloc q ws) s q w 0x31) ∧
      (v.joints.length < 16 → runTotal s.blk.tsk.freeJoints = 0 → Runs (.cmdJalloc q ws) s q (fun t b => ∃ d,
        b = haltWith t q w 0x53 (some d))) ∧
      (v.joints.length < 16 → runTotal s.blk.tsk.freeJoints ≠ 0 → Runs (.cmdJalloc q ws) s q (fun t b => ∃ i u,
        JointTaken t u q i (if opbB w 24 then { isOpen := true } else { count := opbF w 23 0 }) ∧
        b = retireVal u q w (some (BitVec.ofNat 64 i)))))

/-- SIGNAL and CLOSE (R103, R109, R230, R241): on a joint of the queue's own the arrival or close is done next; at a node of this die it
is applied or held early, or offered again each microsecond where the early list is full; at a node of another die it is a request
that the command waits for. SLEEP lets the queue sleep, and BRK is a break of its own (R231, R247). -/
def Obligations.SignalsSleepsAndBreaks : Prop :=
  ∀ (q : Nat) (ws : List Nat) (w : Word256) (s : State), Begins s.blk q w →
    let v := queueOf s.blk q
    let c := sqCtx s.blk q
    let T := if opbB w 19 then (scratch v (cRa w)).toNat % 2 ^ 24 else opbF w 47 24
    let Signals := fun (cmd : Instr) (close : Option Nat) =>
      let req : Nat → Nat → Nat → FReq := fun dst dctx dgen =>
        { dst, dstCtx := dctx, dstGen := dgen, srcCtx := c, srcGen := ctxGen s.blk c, ltag := cImm w
          body := match close with
            | none => .arrive (opaF w 61 50) (opaF w 49 38) (opaF w 0 0 == 1)
            | some t => .close t (opaF w 61 50) (opaF w 49 38)
          owner := .signal q v.life }
      (opbB w 18 = true → opbF w 17 0 ∉ v.joints → Halts cmd s q w 0x31) ∧
      (opbB w 18 = true → opbF w 17 0 ∈ v.joints → Runs cmd s q (fun t b => b =
        retireVal (push t [match close with | none => .arrive (opbF w 17 0) false | some n => .closeJ (opbF w 17 0) n]) q w (some 0))) ∧
      (opbB w 18 = false → opaF w 63 62 = 0 → Runs cmd s q (fun t b => ∃ code u flit,
        namedArrive t (ownDie t) c (cImm w) (opaF w 61 50) (opaF w 49 38) close (close.isNone && opaF w 0 0 == 1) flit = (code, u) ∧
        (code = 0 → b = retireVal u q w (some 0)) ∧
        (code ≠ 0 → b = { aside u q w .early with xch := { (aside u q w .early).xch with
          retries := u.xch.retries ++
            [{ what := .localMsg (req (ownDie s.blk) c (ctxGen s.blk c)), ctx := c, due := now u + 1000 }] } }))) ∧
      (opbB w 18 = false → opaF w 63 62 ≠ 0 → ruledLive s.blk c = false → Runs cmd s q (fun t b => b =
        push (setQ t q { v with wait := .remote, cur := some w }) [.fabReq (req (opaF w 37 17) (opaF w 16 9) (opaF w 8 1))])) ∧
      (opbB w 18 = false → opaF w 63 62 ≠ 0 → ruledLive s.blk c = true → Runs cmd s q (fun t b => b =
        push (setQ (owe t { ctx := c, due := (slotOf s.blk c).tick + 1, party := queueParty s.blk q, what := .answer q v.life }) q
          { v with wait := .remote, cur := some w })
          [.fabReq (req (opaF w 37 17) (opaF w 16 9) (opaF w 8 1))]))
    (cOp w = oSignal → Signals (.cmdSignal q ws) none) ∧
    (cOp w = oClose → Signals (.cmdClose q ws) (some T)) ∧
    (cOp w = oSleep → Runs (.cmdSleep q) s q (fun t b => ∃ u, Observed t u ∧ b = setQ u q
      { v with state := .sleep, deadline := some (now s.blk + cOpa w), cur := some w, backj := 0, passBrk := false })) ∧
    (cOp w = oBrk →
      (v.passBrk = true → Retires (.cmdBrk q) s q w none) ∧
      (v.passBrk = false → s.blk.csq.brkHit = true → Runs (.cmdBrk q) s q (fun t b => ∃ u, OnlyReg t u rDbBad
        ((rg s.blk rDbBad + 1) % 2 ^ 32) ∧ b = retireVal u q w none)) ∧
      (v.passBrk = false → s.blk.csq.brkHit = false → Runs (.cmdBrk q) s q (fun t b => ∃ u, OnlyReg t u rCsqIrq (rg s.blk rCsqIrq ||| 2) ∧
        Observed (setQ { u with csq := { u.csq with brkHit := true, brkComp := 0, brkQueue := q, brkCtx := c, brkMode := false } } q
          { dropAhead v with state := .brk, backj := 0 }) b)))

/-- LOAD and STORE ask for their line and wait for the answer (R231). PATCH waits while the Graph Store is busy, and begins a load in
the queue's name (R92, R230). LATCH takes a latch of the queue's context, and waits for a record that it writes (R344). -/
def Obligations.MemoryCommandsAskAndWait : Prop :=
  ∀ (q : Nat) (ws : List Nat) (w : Word256) (s : State), Begins s.blk q w →
    let v := queueOf s.blk q
    let c := sqCtx s.blk q
    (cOp w = oLoad → Runs (.cmdLoad q) s q (fun t b => MemAsked (setQ t q { v with wait := .memory, cur := some w }) b
      { write := false, addr := cOpa w / 64 * 64, first := cOpa w, be := 0, data := 0, qos := 0, ctx := some c, unit := uCsq
        index := q, owner := .csqLoad q v.life })) ∧
    (cOp w = oStore → Runs (.cmdStore q) s q (fun t b => MemAsked (setQ t q { v with wait := .memory, cur := some w }) b
      { write := true, addr := cOpa w / 64 * 64, first := cOpa w, be := beOf (cOpa w % 64) 8
        data := lineOf (cOpa w % 64) (leBytes 8 (scratch v (cRa w)).toNat), qos := 1, ctx := some c, unit := uCsq
        index := q, owner := .csqStore q v.life })) ∧
    (cOp w = oPatch →
      (gstBusy s.blk = true → Runs (.cmdPatch q ws) s q (fun t b => b = setQ t q { v with wait := .unit, passBrk := true })) ∧
      (gstBusy s.blk = false → Runs (.cmdPatch q ws) s q (fun t b =>
        let begun := gstBegin (setQ t q { v with wait := .image, cur := some w }) (some q) (opaF w 63 52) (opaF w 51 0) (immF w 13 0)
          (some c)
        (begun.1 = none → b = begun.2) ∧ (∀ code, begun.1 = some code → b = patchDone begun.2 q code 0)))) ∧
    (cOp w = oLatch → Runs (.cmdLatch q) s q (fun t b => ∃ u, u = cmdLatchTake t c q (sqPriv s.blk q) (immF w 0 0 == 1) (cOpa w) ∧
      (cOpa w = 0 → b = retireVal u q w none) ∧ (cOpa w ≠ 0 → b = aside u q w .memory)))

/-- SPILL and REFILL need a live launch of the queue's context, and one that may be spilled, or is spilled and fits (R114, R116); a LAUNCH
launches, is refused with its code, or waits for its boundary or for the expander unit (R95, R96, R204, R230); CANCEL ends what it
names, in SEQ order, and tells how many (R230). What is refused is treated as FTOL says (R241). -/
def Obligations.LaunchCommandsAct : Prop :=
  ∀ (q : Nat) (ws : List Nat) (w : Word256) (s : State), Begins s.blk q w →
    let v := queueOf s.blk q
    let c := sqCtx s.blk q
    let Refused := fun (cmd : Instr) (code : Nat) => Runs cmd s q (fun t b => ∃ d, b = refused t q w code code (some d))
    (cOp w = oSpill →
      (liveLaunch s.blk c (cImm w) = none → Refused (.cmdSpill q ws) 0x31) ∧
      (∀ i l, liveLaunch s.blk c (cImm w) = some (i, l) →
        (spillBad s.blk l = true → Refused (.cmdSpill q ws) 0x31) ∧
        (spillBad s.blk l = false → ∃ t, Granted s.blk t q ∧ exec (.cmdSpill q ws) s =
          .next (s.finish (spillBegin (setQ t q { v with wait := .spill, cur := some w }) i l q (cOpa w)))))) ∧
    (cOp w = oRefill →
      (liveLaunch s.blk c (cImm w) = none → Refused (.cmdRefill q ws) 0x31) ∧
      (∀ i l, liveLaunch s.blk c (cImm w) = some (i, l) →
        (l.spill ≠ .spilled → Refused (.cmdRefill q ws) 0x31) ∧
        (l.spill = .spilled → ctxUsed s.blk l.ctx + l.spillN ≤ ctxQuota s.blk l.ctx → fits8 s.blk.tsk.freeSlots l.spillN = true →
          (takeSlots s.blk l.spillN).1 ≠ none → ∃ t u, Granted s.blk t q ∧
          refillBegin (setQ t q { v with wait := .spill, cur := some w }) i l q l.spillAddr = some u ∧
          exec (.cmdRefill q ws) s = .next (s.finish u)) ∧
        (l.spill = .spilled → ctxQuota s.blk l.ctx < ctxUsed s.blk l.ctx + l.spillN ∨ fits8 s.blk.tsk.freeSlots l.spillN = false →
          Refused (.cmdRefill q ws) 0x53))) ∧
    (cOp w = oLaunch → let a := launchArgs s.blk q w
      (endJointOk s.blk q a = false → Halts (.cmdLaunch q ws) s q w 0x31) ∧
      (endJointOk s.blk q a = true → a.course = true → ctxChecks s.blk a = true → (sqtOf s.blk c).course = none →
        Runs (.cmdLaunch q ws) s q (fun t b => b = preBoundary (setQ t q { v with wait := .boundary, passBrk := true }) c q)) ∧
      (endJointOk s.blk q a = true → (a.course = false ∨ ctxChecks s.blk a = false ∨ (sqtOf s.blk c).course ≠ none) →
        (armWaits s.blk a = true → Runs (.cmdLaunch q ws) s q (fun t b => b = setQ t q { v with wait := .unit, passBrk := true })) ∧
        (armWaits s.blk a = false → launchRefusal s.blk a = none → ∃ t, Granted s.blk t q ∧
          exec (.cmdLaunch q ws) s = .next (s.finish (retireVal (doLaunch t a) q w (some 0)))) ∧
        (armWaits s.blk a = false → ∀ code, launchRefusal s.blk a = some code → Runs (.cmdLaunch q ws) s q (fun t b => b =
          refused (refuseLaunch t a code) q w code code none)))) ∧
    (cOp w = oCancel →
      (liveLaunch s.blk c (cImm w) = none → Retires (.cmdCancel q ws) s q w (some 0)) ∧
      (∀ i l, liveLaunch s.blk c (cImm w) = some (i, l) → l.spill = .live →
        ∃ t ts, Granted s.blk t q ∧ ts = cancelSet s.blk l w ∧
          ts.Pairwise (fun x y => ∀ a b, taskOf s.blk x = some a → taskOf s.blk y = some b → a.seq ≤ b.seq) ∧
          (∀ x, x ∈ ts ↔ x ∈ l.slots ∧ ∃ k, taskOf s.blk x = some k ∧ (k.state = .waiting ∨ k.state = .ready ∨ k.state = .delayed) ∧
            (opaF w 24 24 = 1 ∨ (k.scope = opaF w 23 12 ∧ k.node = opaF w 11 0))) ∧
          exec (.cmdCancel q ws) s = .next (s.finish (retireVal (forEach ts.reverse t (fun s i => finishTask s i .cancelled true)) q w
            (some (BitVec.ofNat 64 ts.length))))))

/-- FENCE, AUDIT, HELLO and ADOPT (R232, R313, R314, R387, R411): each retires with what it found, in S[RD]; a FENCE of the queue's own
context flushes the queue, and one with its wait bit waits for the drain. -/
def Obligations.MachineCommandsAct : Prop :=
  ∀ (q : Nat) (ws : List Nat) (w : Word256) (s : State), Begins s.blk q w →
    let v := queueOf s.blk q
    let c := immF w 7 0
    (cOp w = oFence →
      (ctxSt s.blk c = .free ∨ ctxSt s.blk c = .opening ∨ ctxSt s.blk c = .closing ∨ ctxSt s.blk c = .pendingReuse →
        Retires (.cmdFence q ws) s q w (some 2)) ∧
      ((ctxSt s.blk c = .opened ∨ ctxSt s.blk c = .orphaned ∨ ctxSt s.blk c = .faulted ∨ ctxSt s.blk c = .draining ∨
          ctxSt s.blk c = .quiesced) →
        (immF w 15 8 ≠ ctxGen s.blk c → Retires (.cmdFence q ws) s q w (some 1)) ∧
        (immF w 15 8 = ctxGen s.blk c →
          (c = sqCtx s.blk q → fenceable s.blk c = true → Runs (.cmdFence q ws) s q (fun t b => ∃ u,
            u = fenceUpdate t c .draining (some q) ∧
            b = retire u q { word := w, pc := (queueOf u q).pc, value := some 0, act := .flush })) ∧
          (c ≠ sqCtx s.blk q → fenceable s.blk c = true → Runs (.cmdFence q ws) s q (fun t b => ∃ u,
            u = fenceUpdate t c .draining none ∧
            (immF w 16 16 = 1 ∧ ctxSt u c = .draining → b = aside u q w (.fenceOf c)) ∧
            (immF w 16 16 = 0 ∨ ctxSt u c ≠ .draining → b = retireVal u q w (some 0)))) ∧
          (fenceable s.blk c = false →
            (c ≠ sqCtx s.blk q → immF w 16 16 = 1 → ctxSt s.blk c = .draining → Runs (.cmdFence q ws) s q (fun t b => b =
              setQ t q { v with wait := .fenceOf c, cur := some w })) ∧
            (immF w 16 16 = 0 ∨ ctxSt s.blk c ≠ .draining → Retires (.cmdFence q ws) s q w (some 0)))))) ∧
    (cOp w = oAudit →
      (c = 0 → Retires (.cmdAudit q) s q w (some 0)) ∧
      (c ≠ 0 → s.blk.saf.auditRun = none → Runs (.cmdAudit q) s q (fun t b => ∃ failed u, audit t c = (failed, u) ∧
        b = retireVal u q w (some (BitVec.ofNat 64 failed)))) ∧
      (c ≠ 0 → s.blk.saf.auditRun ≠ none → Runs (.cmdAudit q) s q (fun t b => b = setQ t q { v with wait := .unit, passBrk := true }))) ∧
    (cOp w = oHello →
      (compatible (cImm w) blkVersion = true → Retires (.cmdHello q) s q w (some (BitVec.ofNat 64 (blkVersion * 2 ^ 32)))) ∧
      (compatible (cImm w) blkVersion = false → Runs (.cmdHello q) s q (fun t b => ∃ u x,
        Logged t u uCfg (faultEnt t uCfg 0x60 none (mkDetail (cImm w) blkVersion q) false) ∧ OnlyReg u x rCfgIrq (rg u rCfgIrq ||| 2) ∧
        b = retireVal { x with cfg := { x.cfg with hifRefused := x.cfg.hifRefused || !fnReady x 15 } } q w
          (some (BitVec.ofNat 64 (blkVersion * 2 ^ 32 + 1)))))) ∧
    (cOp w = oAdopt →
      let k := slotOf s.blk c
      let Bad := fun (n : Nat) => Runs (.cmdAdopt q) s q (fun t b => ∃ u, OnlyReg t u rAdoptBad ((rg s.blk rAdoptBad + 1) % 2 ^ 32) ∧
        b = retireVal u q w (some (BitVec.ofNat 64 n)))
      (k.state ≠ .orphaned → Bad 1) ∧ (k.state = .orphaned → immF w 15 8 ≠ k.gen → Bad 2) ∧
      (k.state = .orphaned → immF w 15 8 = k.gen → opaF w 31 0 ≠ k.token → Bad 3) ∧
      (k.state = .orphaned → immF w 15 8 = k.gen → opaF w 31 0 = k.token → Runs (.cmdAdopt q) s q (fun t b => ∃ u,
        Observed (becomeOpen (newLease (dropCourse t c) c) c) u ∧
        b = retireVal u q w (some (BitVec.ofNat 64 ((slotOf u c).token * 2 ^ 32))))))

/-- The checks of R228 come in their order, and each halts the queue with its fault: an opcode that R229 does not list, no accepted
HELLO, a privileged command on a queue that is not, and bad operands. A command whose turn it is not does nothing. -/
def Obligations.ChecksHaltTheQueue : Prop :=
  ∀ (q : Nat) (s : State), fnReady s.blk 13 = true →
    (∀ w, IsNext s.blk q w → opKnown (cOp w) = false → Halts (.illegalOpcode q) s q w 0x30) ∧
    (∀ w, issueWord s.blk q = some w → opKnown (cOp w) = true → Updates (.illegalOpcode q) s (fun b => b = s.blk)) ∧
    (∀ c op, nibRow c = some (q, op) →
      (∀ w, IsNext s.blk q w → cOp w = op →
        let shut := fnReady s.blk 15 = false ∧ op ≠ oHello ∧ op ≠ oNop
        let barred := privOp w (sqCtx s.blk q) = true ∧ sqPriv s.blk q = false
        (shut → Halts c s q w 0x60) ∧ (¬ shut → barred → Halts c s q w 0x33) ∧
        (¬ shut → ¬ barred → operandsOk w = false → Halts c s q w 0x31)) ∧
      (∀ w, issueWord s.blk q = some w → cOp w ≠ op → Updates c s (fun b => b = s.blk)) ∧
      (issueWord s.blk q = none → Updates c s (fun b => b = s.blk)))

/-- What time does to a queue, and what the Sequencer sends by itself (R231, R236, R246, R251): a WAIT whose timeout has passed retires
with 1 and keeps its joint, a SLEEP wakes, a Pulse carries its sequence number, and a sample shows a queue's PC, depth and stall
code. Before its time nothing happens. -/
def Obligations.QueuesPassTheirTime : Prop :=
  ∀ s : State, fnReady s.blk 13 = true →
    (∀ q d w, let v := queueOf s.blk q
      v.deadline = some d → v.cur = some w → ruledLive s.blk (sqCtx s.blk q) = false →
      (v.state = .wait → s.blk.time.usable = true → d ≤ now s.blk → Updates (.waitTimeout q) s (fun b => ∃ t, Observed s.blk t ∧
        b = retireVal t q w (some 1))) ∧
      (v.state = .sleep → s.blk.time.usable = true → d ≤ now s.blk → Updates (.sleepWake q) s (fun b => b = retireVal s.blk q w none)) ∧
      (v.state ≠ .wait ∨ s.blk.time.usable = false ∨ now s.blk < d → Updates (.waitTimeout q) s (fun b => b = s.blk)) ∧
      (v.state ≠ .sleep ∨ s.blk.time.usable = false ∨ now s.blk < d → Updates (.sleepWake q) s (fun b => b = s.blk))) ∧
    (let active := (Store.vals s.blk.csq.queues).any (fun v => v.state == .run);
      ((active = true ∨ s.blk.csq.active = true) → Updates .pulse s (fun b => ∃ t, Counted s.blk t rPulseCount ∧
        Observed { t with
          csq := { t.csq with pulseSeq := (s.blk.csq.pulseSeq + 1) % 65536, retired := 0, active, pulseAt := now s.blk }
          saf := { t.saf with pulseAt := now s.blk, pulseActive := active, pulseLost := false } } b)) ∧
      (active = false → s.blk.csq.active = false → Updates .pulse s (fun b => b = s.blk))) ∧
    (let step := 2 ^ rgf s.blk rPcsCfg 4 0;
      (rgb s.blk rPcsCfg 31 = false ∨ s.blk.time.usable = false ∨ now s.blk < s.blk.csq.pcsAt + step →
        Updates .pcSample s (fun b => b = s.blk)) ∧
      (∀ k, k < 64 → let q := (s.blk.csq.pcsNext + k) % 64
        rgb s.blk rPcsCfg 31 = true → s.blk.time.usable = true → s.blk.csq.pcsAt + step ≤ now s.blk →
        (queueOf s.blk q).state ≠ .disabled → (∀ i < k, (queueOf s.blk ((s.blk.csq.pcsNext + i) % 64)).state = .disabled) →
        Updates .pcSample s (fun b => ∃ t u v, let x := queueOf s.blk q
          OnlyReg s.blk t rPcsLast (put (stallOf s.blk q) 31 28 + 2 ^ 27 + put x.stack.length 26 24 + put q 21 16) ∧
          OnlyReg t u rPcsPcLo (x.pc % 2 ^ 32) ∧ OnlyReg u v rPcsPcHi (x.pc / 2 ^ 32 % 2 ^ 20) ∧
          Observed { v with csq := { v.csq with pcsNext := (q + 1) % 64, pcsAt := now s.blk } } b)))

/-- Doorbells and the control of queues (R224, R226, R243, R245, R249, R255, R256). A doorbell sets TAIL, or is refused and counted; to
a queue of a ruled context that is at work it is a foreign event, and held (R290). EN written 1 makes a DISABLED queue IDLE and empty; EN
written 0 disables a queue that stands still, and is refused on one that moves. RETRY, SKIP and FLUSH act on a HALTED queue of an OPEN
context, and are held where the context is not. RESUME and STEP end a break. A completion head frees slots, and a retirement that
waits may go on. -/
def Obligations.QueuesAreControlled : Prop :=
  (∀ (page q tail : Nat) (a : Access) (s : State), page < 256 → q < 64 → tail < 65536 → Served s.blk (pageReg page 0) a →
    let v := queueOf s.blk q
    (sqCtx s.blk q = page → tail < sqSize s.blk q → ruledLive s.blk page = false ∨ v.state = .idle →
      Writes (.csqDb page q tail a) s (fun t =>
        Observed (setQ s.blk q { (if v.tail % 2 = 1 then dropAhead v else v) with tail, door := none }) t)) ∧
    (sqCtx s.blk q = page → tail < sqSize s.blk q → ruledLive s.blk page = true → v.state ≠ .idle →
      Writes (.csqDb page q tail a) s (fun t => Observed (setQ s.blk q { v with door := some tail }) t)) ∧
    (sqCtx s.blk q ≠ page ∨ sqSize s.blk q ≤ tail → Updates (.csqDb page q tail a) s (fun b => ∃ t u x,
      Counted s.blk t rDbBad ∧ Observed t u ∧ b = rgpEnd x rgpRefused 0 ∧ ∃ e, Logged u x uCsq e ∧ e.code = 0x31))) ∧
  (∀ (q : Nat) (v : Word) (a : Access) (s : State), q < 64 → Served s.blk (sqReg q 0) a →
    let x := queueOf s.blk q
    let on := v ||| 0x80000000#32
    let off := v &&& 0x7fffffff#32
    let fits := 4 ≤ fld v 4 0 ∧ fld v 4 0 ≤ 16 ∧ 4 ≤ fld v 12 8 ∧ fld v 12 8 ≤ 16
    let same := v.toNat &&& 0x70ff1f1f = rg s.blk (sqReg q 0) &&& 0x70ff1f1f
    let Stores := fun (w : Word) (u : Blk) => OnlyReg s.blk u (sqReg q 0) (written (rg s.blk (sqReg q 0)) 0xf0ff1f1f w)
    (fits → rgb s.blk (sqReg q 0) 31 = false → Writes (.queueEnable q v a) s (fun t => ∃ u, Stores on u ∧ t = setQ u q
        { x with state := .idle, head := 0, tail := 0, door := none, cplHead := 0, cplTail := 0, phase := true, stack := []
                 ringCall := none, backj := 0 }) ∧
      Writes (.queueDisable q v a) s (Stores off)) ∧
    (fits → rgb s.blk (sqReg q 0) 31 = true → same → Writes (.queueEnable q v a) s (Stores on) ∧
      (x.state = .idle ∨ x.state = .brk ∨ x.state = .halted → Writes (.queueDisable q v a) s (fun t => ∃ u, Stores off u ∧
        t = disableQ u q)) ∧
      (x.state = .run ∨ x.state = .wait ∨ x.state = .sleep → Refuses (.queueDisable q v a) s (sqReg q 0) off a)) ∧
    (¬ fits ∨ (rgb s.blk (sqReg q 0) 31 = true ∧ ¬ same) →
      Refuses (.queueEnable q v a) s (sqReg q 0) on a ∧ Refuses (.queueDisable q v a) s (sqReg q 0) off a)) ∧
  (∀ (q : Nat) (a : Access) (s : State), q < 64 → Served s.blk (sqReg q 0x24) a →
    let x := queueOf s.blk q
    (∀ p ∈ [(Instr.retry q a, 1), (.skip q a, 2), (.flush q a, 3)],
      (x.state ≠ .halted → Writes p.1 s (fun t => Counted s.blk t rDbBad)) ∧
      (x.state = .halted → ctxOpen s.blk q = false → Writes p.1 s (fun t => t = setQ s.blk q { x with heldCtl := some p.2 }))) ∧
    (x.state = .halted → ctxOpen s.blk q = true →
      Writes (.retry q a) s (fun t => t = setQ s.blk q { x with state := .run, heldCtl := none }) ∧
      Writes (.flush q a) s (fun t => t = flushTo s.blk q .idle) ∧
      Writes (.skip q a) s (fun t => ∃ w : Word256,
        (∀ k, k < 256 → w.getLsbD k = ((rg s.blk (sqReg q (0x40 + 4 * (k / 32)))).testBit (k % 32) && decide (k ≠ 8))) ∧
        t = retire (setQ s.blk q { x with state := .run, heldCtl := none }) q { word := w, pc := x.pc }))) ∧
  (∀ (a : Access) (s : State), Served s.blk 0x20144 a →
    ∀ p ∈ [(Instr.resume a, false), (.stepBrk a, true)],
      (s.blk.csq.brkHit = false → Writes p.1 s (fun t => t = s.blk)) ∧
      (s.blk.csq.brkHit = true → Writes p.1 s (fun t =>
        t = { s.blk with csq := { s.blk.csq with queues := t.csq.queues, brkHit := false } } ∧
        ∀ q, let v := queueOf s.blk q
          queueOf t q = if v.state = .brk then { v with
            state := .run, passBrk := decide (q = s.blk.csq.brkQueue), stepArm := p.2 && decide (q = s.blk.csq.brkQueue) } else v))) ∧
  (∀ (page : Nat) (v : Word) (a : Access) (s : State), page < 256 → Served s.blk (pageReg page 0x10) a →
    let q := rgf s.blk (pageReg page 4) 5 0
    (sqCtx s.blk q = page → Writes (.completionHeadWrite page v a) s (fun t =>
      t = push (setQ s.blk q { queueOf s.blk q with cplHead := fld v 15 0 }) [.cplPump q])) ∧
    (sqCtx s.blk q ≠ page → Refuses (.completionHeadWrite page v a) s (pageReg page 0x10) v a))

/-- FLUSH, and EN written 0 (R226, R237, R243): nothing of a command comes back, what was fetched ahead is dropped, and the queue gives its
joints back, but for end joints of live launches, which it leaves behind. After FLUSH HEAD is TAIL and the call stack is empty; a
DISABLED queue keeps both. -/
def Obligations.FlushEmptiesTheQueue : Prop :=
  ∀ (s : Blk) (q : Nat),
    let v := queueOf s q
    let Emptied := fun (t : Blk) =>
      let x := queueOf t q
      (x.wait, x.pend, x.cur, x.jw, x.deadline) = (QWait.none, none, none, none, none) ∧
      (x.joints, x.endFree, x.life, x.scratch, x.buf, x.heldCtl) =
        (([] : List Nat), v.endFree ++ v.joints.filter (isEndJoint s), v.life + 1, v.scratch, [], none) ∧
      (∀ r, r ≠ q → queueOf t r = queueOf s r) ∧
      (∀ j, jointOf t j = if j ∈ v.joints ∧ isEndJoint s j = false then none else jointOf s j)
    (∀ st, let t := flushTo s q st
      let x := queueOf t q
      Emptied t ∧ (x.state, x.head, x.tail, x.stack, x.backj) = (st, v.tailNow, v.tailNow, ([] : List Nat), 0)) ∧
    (let t := disableQ s q
      let x := queueOf t q
      Emptied t ∧ (x.state, x.head, x.tail, x.stack, x.backj) = (.disabled, v.head, v.tail, v.stack, v.backj))

/-- INSTALL, UNINSTALL and the load of the Expert Table (R30, R89, R93, R162, R441): their checks in order, each with its code in the
status register, and then a free run of the Graph Store taken and every line of the image asked for, or the generation
withdrawn and what no launch pins released, or every line of the entries asked for: addresses are bytes of 2^52, and a load of no entry
ends at once (DEDUCED: log entry 19). -/
def Obligations.StoresAreLoaded : Prop :=
  let Says := fun (k : Nat) (busy : Bool) (code gen : Nat) (u t : Blk) =>
    OnlyReg u t k (put (b2n busy) 31 31 + put code (if k = rXtStatus then 3 else 19) (if k = rXtStatus then 0 else 16) + put gen 15 0)
  let Reads := fun (u t : Blk) (n addr unit : Nat) (o : Nat → MemOwner) =>
    t = { u with mem := { u.mem with waitq := u.mem.waitq ++ (List.range n).map (fun k => (none, ({
      write := false, addr := (addr + 64 * k) % 2 ^ 52 / 64 * 64, first := (addr + 64 * k) % 2 ^ 52, be := 0, data := 0, qos := 0
      ctx := none, unit, index := 0, owner := o k } : MemReq))) } }
  (∀ (tid : Nat) (a : Access) (s : State), tid < 4096 → Served s.blk 0x4000c a →
    let g := s.blk.tsk
    let n := rgf s.blk rGstRecs 13 0
    let addr := rg2 s.blk rGstAddrLo rGstAddrHi
    (∀ c ∈ [Instr.install tid a, .uninstall tid a], g.job.isSome = true →
      Writes c s (Says rGstStatus true 7 (rgf s.blk rGstStatus 15 0) s.blk)) ∧
    (g.job = none → ∀ x, curGen s.blk tid = some x → Writes (.install tid a) s (Says rGstStatus false 4 0 s.blk) ∧
      Writes (.uninstall tid a) s (fun t => ∃ u, Says rGstStatus false 0 x.gen u t ∧ Released { s.blk with
        tsk := { g with gens := g.gens.map (fun y => if y.tid = tid then { y with current := false } else y) } } u)) ∧
    (g.job = none → curGen s.blk tid = none → Writes (.uninstall tid a) s (Says rGstStatus false 5 0 s.blk) ∧
      (8 ≤ (resident s.blk tid).length ∨ (findGen s.blk tid 1).isSome = true →
        Writes (.install tid a) s (Says rGstStatus false 2 0 s.blk)) ∧
      ((resident s.blk tid).length < 8 → findGen s.blk tid 1 = none →
        (n < 2 ∨ 8193 < n → Writes (.install tid a) s (fun t => ∃ u, OnlyReg s.blk u rGstBadRec 0 ∧ Says rGstStatus false 3 0 u t)) ∧
        (2 ≤ n → n ≤ 8193 → (∀ r ∈ gstFree s.blk, r.2 < n) → Writes (.install tid a) s (Says rGstStatus false 1 0 s.blk)) ∧
        (2 ≤ n → n ≤ 8193 → (∃ r ∈ gstFree s.blk, n ≤ r.2) → Writes (.install tid a) s (fun t => ∃ base u v,
          (∃ r ∈ gstFree s.blk, r.1 ≤ base ∧ base + n ≤ r.1 + r.2) ∧
          u = { s.blk with
            tsk := { g with job := some { patch := none, tid, base, nrec := n, addr, left := (n + 1) / 2, lines := [], ctx := none } }
            free := u.free } ∧
          Says rGstStatus true 0 (rgf s.blk rGstStatus 15 0) u v ∧ Reads v t ((n + 1) / 2) addr uGst .gstLine))))) ∧
  (∀ (a : Access) (s : State), Served s.blk 0xc0010 a →
    let first := rgf s.blk rXtFirst 17 0
    let n := rgf s.blk rXtCount 18 0
    let used := ∃ r ∈ xtLive s.blk, first < r.1 + r.2 ∧ r.1 < first + n
    (s.blk.sve.xtJob.isSome = true → Writes (.xtLoad a) s (Says rXtStatus true 5 0 s.blk)) ∧
    (s.blk.sve.xtJob = none →
      (262144 < first + n → Writes (.xtLoad a) s (Says rXtStatus false 1 0 s.blk)) ∧
      (first + n ≤ 262144 → used → Writes (.xtLoad a) s (Says rXtStatus false 2 0 s.blk)) ∧
      (first + n ≤ 262144 → ¬ used → n = 0 → Writes (.xtLoad a) s (Says rXtStatus false 0 0 s.blk)) ∧
      (first + n ≤ 262144 → ¬ used → n ≠ 0 → Writes (.xtLoad a) s (fun t => ∃ u,
        Says rXtStatus true 0 0 { s.blk with sve := { s.blk.sve with xtJob := some (first, n, (n + 7) / 8, []), xtFailed := false } } u ∧
        Reads u t ((n + 7) / 8) (rg2 s.blk rXtAddrLo rXtAddrHi) uSve .xtLine))))

/-- The end of a launch (R97), the step boundary of a course launch (R204 to R207, R213 to R215), the advance of its course, but in a
FAULTED context (R208, R215), and the driver's two writes that let a boundary go on (R212, R213). A row whose moment has not come changes
nothing; what a ruled context owns takes place in its ticks (R292). -/
def Obligations.LaunchesEndAndCoursesAreBuilt : Prop :=
  (∀ (i : Nat) (ws : List Nat) (s : State), fnReady s.blk 8 = true →
    (∀ l, launchOf s.blk i = some l → launchDue s.blk i l = true → ruledLive s.blk l.ctx = false →
      Updates (.launchEnd i ws) s (fun b => ∃ y u v w, Contended s.blk y l.ctx ws ∧
        Observed (launchLatch y l.ctx true l.ltag l.tid) u ∧ LaunchCleared u v i l ∧
        Released v w ∧
        (l.course = none → LaunchFreed w b i l) ∧
        (l.course ≠ none → b = push { w with sqt := { w.sqt with
          bounds := w.sqt.bounds ++ [{ ctx := l.ctx, launch := some i, pre := none, tail := l.reqTail }] } } [.boundaries]))) ∧
    ((∀ l, launchOf s.blk i = some l → launchDue s.blk i l = false ∨ ruledLive s.blk l.ctx = true) →
      Updates (.launchEnd i ws) s (fun b => b = s.blk))) ∧
  (∀ (s : State) (x : Boundary) (r : List Boundary), fnReady s.blk 14 = true → s.blk.sqt.bounds = x :: r →
    ruledLive s.blk x.ctx = false →
    let v := sqtOf s.blk x.ctx
    (buildDue s.blk x = false → Updates .courseBuild s (fun b => b = s.blk)) ∧
    (buildDue s.blk x = true → ctxSt s.blk x.ctx ≠ .opened → Updates .courseBuild s (fun b =>
      b = { s.blk with sqt := { s.blk.sqt with bounds := { x with phase := .writing, build := false } :: r } })) ∧
    (buildDue s.blk x = true → ctxSt s.blk x.ctx = .opened → Updates .courseBuild s (fun b => ∃ cs took y u,
      (∀ p, p ∈ cs ↔ p ∈ s.blk.sqt.ents ∧ p.2.ctx = x.ctx ∧ p.2.state = .active ∧ p.2.hold = false ∧ p.2.parkReq = false ∧
        p.2.ctxGen = ctxGen s.blk x.ctx) ∧
      cs.Pairwise (fun p q => let a := p.2.cls * 64 + p.2.level; let b := q.2.cls * 64 + q.2.level; a < b ∨ (a = b ∧
        (p.2.aseq + 2 ^ 32 - v.aseq) % 2 ^ 32 ≤ (q.2.aseq + 2 ^ 32 - v.aseq) % 2 ^ 32)) ∧
      CourseBuilt s.blk x.ctx cs took y ∧ Observed y.blk u ∧
      let step := (v.stepCnt + b2n x.launch.isSome) % 2 ^ 32
      let bytes := courseBytes step y.tok y.ents
      b = memWrite { u with sqt := { u.sqt with
          ctxs := Store.put {} u.sqt.ctxs x.ctx { sqtOf u x.ctx with nbuilt := y.ents.length, course := none }
          bounds := { x with
            phase := .writing, build := true, course := y.ents, passed := y.passed, writes := (bytes.length + 63) / 64 } :: r } }
        (courseAddr s.blk x.ctx) bytes 1 (some x.ctx) uSqt (x.launch.getD 0) (.courseLine x.ctx))) ∧
    ((x.phase ≠ .writing ∨ x.writes ≠ 0) → Updates .boundaryEnd s (fun b => b = s.blk)) ∧
    (x.phase = .writing → x.writes = 0 →
      let good := x.build && !x.failed && ctxSt s.blk x.ctx == .opened
      let q' := rgf s.blk (bank rSqtSq x.ctx) 5 0
      let Left := fun (w : SqtCtx) (u : Blk) =>
        u = { s.blk with sqt := { s.blk.sqt with ctxs := u.sqt.ctxs, bounds := r }, csq := { s.blk.csq with queues := u.csq.queues } } ∧
        sqtOf u x.ctx = { w with course := if good then some x.course else none } ∧
        ∀ d, d ≠ x.ctx → sqtOf u d = sqtOf s.blk d
      (∀ i l, x.launch = some i → launchOf s.blk i = some l → Updates .boundaryEnd s (fun b => ∃ u,
        Left { v with stepCnt := (v.stepCnt + 1) % 2 ^ 32 } u ∧ LaunchFreed { u with work := .boundaries :: u.work } b i l ∧
        (∀ d, d ≠ q' → queueOf u d = queueOf s.blk d) ∧
        queueOf u q' = { queueOf s.blk q' with scratch := (queueOf u q').scratch } ∧
        scratch (queueOf u q') 14 = BitVec.ofNat 64 (if good then x.course.length else 0) ∧
        scratch (queueOf u q') 15 = BitVec.ofNat 64 (residents s.blk x.ctx) ∧
        ∀ d, d ≠ 14 → d ≠ 15 → scratch (queueOf u q') d = scratch (queueOf s.blk q') d)) ∧
      (∀ q, x.launch = none → x.pre = some q → Updates .boundaryEnd s (fun b => ∃ u, Left v u ∧ b = push u [.boundaries] ∧
        let y := fun d => if good = false ∧ d = q' then wrScratch (queueOf s.blk d) 14 0 else queueOf s.blk d
        (∀ d, d ≠ q → queueOf u d = y d) ∧
        queueOf u q = if (y q).wait = .boundary then { y q with wait := .none, preTail := some x.tail } else y q)))) ∧
  (∀ (c : Nat) (s : State), fnReady s.blk 14 = true → ruledLive s.blk c = false →
    ((∀ p, courseLaunch s.blk c = some p → p.2.advWait = false ∨ p.2.resLeft ≠ 0) → Updates (.seqAdvance c) s (fun b => b = s.blk)) ∧
    (∀ i l, courseLaunch s.blk c = some (i, l) → l.advWait = true → l.resLeft = 0 →
      let u := setLaunch s.blk i { l with advWait := false, resLines := [] }
      (ctxSt s.blk l.ctx = .faulted → Updates (.seqAdvance c) s (fun b => b = u)) ∧
      (ctxSt s.blk l.ctx ≠ .faulted → l.resBad = true → Updates (.seqAdvance c) s (fun b =>
        b = ctxFault (orBits u rSqtIrq 2) l.ctx uSqt 0x57 (mkDetail (l.ltag % 2 ^ 32) (l.tid % 2 ^ 12) (l.course.getD []).length))) ∧
      (ctxSt s.blk l.ctx ≠ .faulted → l.resBad = false → Updates (.seqAdvance c) s (fun b => ∃ f : Blk → CourseEnt × Nat → Blk,
        b = forEach (l.course.getD []).zipIdx u f ∧
        ∀ (t : Blk) (e : CourseEnt) (k : Nat),
          ((∀ v, seqAt t e.idx = some v → v.ctx ≠ l.ctx ∨ v.state ≠ .active) → f t (e, k) = t) ∧
          (∀ v, seqAt t e.idx = some v → v.ctx = l.ctx → v.state = .active →
            let x := resultOf l.resLines k
            let good := x.testBit 63 = true ∧ x / 2 ^ 19 % 2 ^ 44 = 0
            ∃ adv, (good → adv = min (min (x % 65536) e.tokens) v.remain) ∧ (¬ good → adv = 0) ∧
              let why := if v.parkReq then v.prsn else if v.pos + adv > 0xffffffff then 5
                else if x.testBit 63 && x.testBit 16 then 1 else if v.remain = adv then 2
                else if x.testBit 63 && x.testBit 17 then 3 else v.prsn
              ∃ w, w = setSeq t e.idx { v with
                  pos := min (v.pos + adv) 0xffffffff, remain := v.remain - adv, hold := v.hold || (x.testBit 63 && x.testBit 18)
                  prsn := why
                  parkReq := v.parkReq || decide (v.pos + adv > 0xffffffff) || (x.testBit 63 && (x.testBit 16 || x.testBit 17)) ||
                    decide (v.remain = adv) } ∧
                (good → f t (e, k) = w) ∧ (¬ good → ∃ z, Counted w z rSqtResMissing ∧ Observed z (f t (e, k)))))))) ∧
  (∀ (a : Access) (s : State), Served s.blk 0xe0138 a →
    let c := rgf s.blk rSqtCtxSel 7 0
    ((sqtOf s.blk c).reqFault = true → Writes (.reqFaultClear a) s (fun t => t = push { s.blk with sqt := { s.blk.sqt with
      ctxs := Store.put {} s.blk.sqt.ctxs c { sqtOf s.blk c with reqFault := false } } } [.notices c, .boundaries])) ∧
    ((sqtOf s.blk c).reqFault = false → Writes (.reqFaultClear a) s (fun t => t = s.blk))) ∧
  (∀ (page : Nat) (v : Word) (a : Access) (s : State), page < 256 → Served s.blk (pageReg page 0x20c) a →
    Writes (.noticeHeadWrite page v a) s (fun t => ∃ u, t = push u [.notices page, .boundaries] ∧
      OnlyReg s.blk u (pageReg page 0x20c) (written (rg s.blk (pageReg page 0x20c)) 0xffff v)))

/-- Send channels and receive rings (R257, R259 to R262, R280, R284). A doorbell moves TAIL, or is refused; a record is checked and then
offered, read from its pool or written to it, or refused with its STATUS; a channel is enabled afresh, is not disabled while records
of it are under way, and goes on once its FAULT is
cleared; a ring opens with its next generation, at once or when the old deliveries are gone, and closes. -/
def Obligations.ChannelsAndRingsMove : Prop :=
  (∀ (page ch tail : Nat) (a : Access) (s : State), page < 256 → ch < 1024 → tail < 65536 → Served s.blk (pageReg page 0x400) a →
    let v := chanOf s.blk ch
    let word := w32 (put ch 25 16 + put tail 15 0)
    (chanCtx s.blk ch = some page → v.en = true → tail < 2 ^ v.log2 → Writes (.xchSdb page ch tail a) s (fun t =>
      t = push { s.blk with xch := { s.blk.xch with chans := Store.put {} s.blk.xch.chans ch { v with tail } } } [.chanPump ch])) ∧
    (chanCtx s.blk ch ≠ some page ∨ v.en = false ∨ 2 ^ v.log2 ≤ tail →
      Refuses (.xchSdb page ch tail a) s (pageReg page 0x400) word a)) ∧
  (∀ (ch c : Nat) (older : List SendRec) (r : SendRec) (s : State), fnReady s.blk 11 = true → chanCtx s.blk ch = some c →
    let v := chanOf s.blk ch
    v.recs = older ++ [r] → r.phase = .ready → v.fault = false →
    let Refused := fun (cmd : Instr) (code : Nat) (fault : Bool) => Updates cmd s (fun b => RecordRefused s.blk b c ch r code fault)
    let bare := (slotOf s.blk c).handles = 0
    let after := older = [] ∨ ∃ p, older.getLast? = some p ∧ p.phase = .done
    let Moved := fun (u : Blk) (p : SendPhase) (n : Nat) =>
      Store.put {} u.xch.chans ch { v with recs := v.recs.map (fun x => if x.slot = r.slot then { x with phase := p, left := n } else x) }
    let pool := rPools + 0x10 * r.pool
    (r.op = 1 → v.unanswered < 8 →
      (4096 < r.len → Refused (.send ch) kTooLong false) ∧
      (r.len ≤ 4096 → r.malformed = true ∨ (r.isHandle = true ∧ bare) → Refused (.send ch) kAck true) ∧
      (r.len ≤ 4096 → r.malformed = false → (r.isHandle = false ∨ ¬ bare) →
        (peerFenced s.blk r.dstDie = true → Refused (.send ch) kPeerFenced false) ∧
        (peerFenced s.blk r.dstDie = false → Updates (.send ch) s (fun b => b = push { s.blk with xch := { s.blk.xch with
          chans := Store.put {} s.blk.xch.chans ch { v with mseq := (v.mseq + 1) % 2 ^ 32, recs := v.recs.map (fun x =>
            if x.slot = r.slot then { x with phase := .offered, lines := [] } else x) } } }
          [.fabReq { dst := r.dstDie, dstCtx := r.dstCtx, dstGen := r.dstGen, srcCtx := c, srcGen := ctxGen s.blk c, ltag := 0
                     body := .am v.reply {
                       rgen := r.rgen, ring := r.ring, handle := r.isHandle, handler := r.handler
                       len := if r.isHandle then 8 else r.len, sch := ch, mseq := v.mseq, user := r.user } (payloadOf r)
                     owner := .am ch v.epoch r.slot }, .chanPump ch])))) ∧
    (r.op = 2 → after →
      (4096 < r.len → Refused (.alloc ch) kTooLong false) ∧
      (r.len ≤ 4096 → r.malformed = true → Refused (.alloc ch) kAck true) ∧
      (r.len ≤ 4096 → r.malformed = false → rg2 s.blk pool (pool + 4) = 0 → Refused (.alloc ch) kPoolEmpty false) ∧
      (r.len ≤ 4096 → r.malformed = false → rg2 s.blk pool (pool + 4) ≠ 0 → Updates (.alloc ch) s (fun b => ∃ u x, Observed s.blk u ∧
        MemAsked { u with xch := { u.xch with chans := Moved u .aw 1 } } x
          { write := false, addr := rg2 s.blk pool (pool + 4) / 64 * 64, first := rg2 s.blk pool (pool + 4), be := 0, data := 0, qos := 0
            ctx := some c, unit := uXch, index := ch, owner := .allocRead ch v.epoch r.slot } ∧ b = push x [.chanPump ch]))) ∧
    (r.op = 3 → after →
      (4096 < r.len → Refused (.freeHandle ch) kTooLong false) ∧
      (r.len ≤ 4096 → r.malformed = true ∨ bare → Refused (.freeHandle ch) kAck true) ∧
      (r.len ≤ 4096 → r.malformed = false → ¬ bare → Updates (.freeHandle ch) s (fun b => ∃ u, Observed s.blk u ∧
        b = push (memWrite { u with xch := { u.xch with chans := Moved u .aw 1 } } (rg2 s.blk (pool + 8) (pool + 12)) (leBytes 8 r.addr) 1
          (some c) uXch ch (.freeWrite ch v.epoch r.slot)) [.chanPump ch]))) ∧
    (r.op ≠ 1 ∨ 8 ≤ v.unanswered → Updates (.send ch) s (fun b => b = s.blk)) ∧
    (r.op ≠ 2 ∨ ¬ after → Updates (.alloc ch) s (fun b => b = s.blk)) ∧
    (r.op ≠ 3 ∨ ¬ after → Updates (.freeHandle ch) s (fun b => b = s.blk))) ∧
  (∀ (page : Nat) (v : Word) (a : Access) (s : State), page < 256 → Served s.blk (pageReg page 0x408) a →
    let ch := rgf s.blk (pageReg page 0x404) 9 0
    let x := chanOf s.blk ch
    let w := v ||| 0x80000000#32
    let bad := chanCtx s.blk ch ≠ some page ∨ fld v 4 0 < 4 ∨ 16 < fld v 4 0 ∨
      (x.en = true ∧ (bitAt v 30 ≠ x.reply ∨ fld v 4 0 ≠ x.log2))
    let Resumed := fun (y : Blk) => ∃ f : Blk → SendRec → Blk,
      y = push (forEach x.recs (setChan s.blk ch { x with fault := false }) f) [.chanPump ch] ∧
      ∀ t r, ((r.left = 0 → r.phase ≠ .status ∧ r.phase ≠ .aw) → f t r = t) ∧
        (r.left = 0 → r.phase = .status → f t r = writeStatus t ch r.slot r.status) ∧
        (r.left = 0 → r.phase = .aw → f t r = writeHandle t ch r.slot r.handle)
    (bad → Refuses (.channelEnable page v a) s (pageReg page 0x408) w a) ∧
    (x.en = true → bitAt v 31 = false → (∃ r ∈ x.recs, r.phase = .offered ∨ r.phase = .aw) →
      Refuses (.registerWrite (pageReg page 0x408) v a) s (pageReg page 0x408) v a) ∧
    (¬ bad → Writes (.channelEnable page v a) s (fun t => ∃ y,
      (bitAt v 29 = true ∧ x.fault = true → Resumed y) ∧ (bitAt v 29 = false ∨ x.fault = false → y = s.blk) ∧
      (x.en = true → t = setChan y ch { chanOf y ch with reply := bitAt v 30, log2 := fld v 4 0 }) ∧
      (x.en = false → t = setChan y ch { chanOf y ch with reply := bitAt v 30, log2 := fld v 4 0, en := true, head := 0, tail := 0
                                                          next := 0, mseq := 0, recs := [], epoch := (chanOf y ch).epoch + 1 }))) ∧
    (chanCtx s.blk ch = some page → 4 ≤ x.log2 → x.log2 ≤ 16 → Writes (.channelFaultClear page a) s (fun t => ∃ y,
      (x.fault = true → Resumed y) ∧ (x.fault = false → y = s.blk) ∧
      t = setChan y ch { chanOf y ch with reply := x.reply, log2 := x.log2 })) ∧
    (chanCtx s.blk ch ≠ some page ∨ x.log2 < 4 ∨ 16 < x.log2 % 32 →
      Refuses (.channelFaultClear page a) s (pageReg page 0x408) (w32 (scfgWord { x with fault := true })) a)) ∧
  (∀ (page : Nat) (a : Access) (s : State), page < 256 → Served s.blk (pageReg page 0x430) a →
    let g := rgf s.blk (pageReg page 0x418) 13 0
    let v := ringOf s.blk g
    let On := fun (cmd : Instr) (P : Blk → Prop) => WritesFor cmd s page a.waiting P
    let Opens := fun (cmd : Instr) (bound : Option Nat) =>
      (v.state = .opened → On cmd (fun t => t = s.blk)) ∧
      (v.state ≠ .opened → v.places ≠ [] → On cmd (fun t => RingSet s.blk t g
        { v with openHeld := some (match bound with | some l => l + 1 | none => 0) })) ∧
      (v.state ≠ .opened → v.places = [] → On cmd (fun t => RingBecomes s.blk t g { v with
        state := .opened, rgen := if (v.rgen + 1) % 256 = 0 then 1 else v.rgen + 1, resv := 0, wptr := 0, rptr := 0, badOnce := false
        bound, openHeld := none, ctx := page }))
    (ringCtx s.blk g ≠ some page → Refuses (.openRing page a) s (pageReg page 0x430) 1 a ∧
      Refuses (.openBound page a) s (pageReg page 0x430) 2 a ∧ Refuses (.ringClose page a) s (pageReg page 0x430) 3 a) ∧
    (ringCtx s.blk g = some page →
      Opens (.openRing page a) none ∧
      (liveLaunch s.blk page v.rltag = none → Refuses (.openBound page a) s (pageReg page 0x430) 2 a) ∧
      (∀ i l, liveLaunch s.blk page v.rltag = some (i, l) → Opens (.openBound page a) (some i)) ∧
      (v.state ≠ .opened → On (.ringClose page a) (fun t => t = s.blk)) ∧
      (v.state = .opened → On (.ringClose page a) (fun t => RingBecomes s.blk t g { v with state := .closed, bound := none }))))

/-- Context slots move by the transitions of R306: CTX_CTL, the end of the opening work, the end of a drain or its bound, the release of a
close, and the end of a lease. Any other CTX_CTL operation is refused. CTX_RENEW is R310. A row whose moment has not come changes
nothing. -/
def Obligations.ContextsOpenDrainAndClose : Prop :=
  (∀ (a : Access) (s : State), Served s.blk 0x120008 a →
    let c := rgf s.blk rCtxSel 7 0
    let v := slotOf s.blk c
    let st := ctxSt s.blk c
    let On := fun (cmd : Instr) (P : Blk → Prop) => WritesFor cmd s c a.waiting P
    let Moves := fun (cmd : Instr) (w : CtxSlot) => On cmd (fun t => SlotMoves s.blk t c w)
    let Pend := fun (u : Blk) => setSlot u c { slotOf u c with rpend := true }
    let Turned := fun (u : Blk) => let x := genChange u c; setSlot x c { slotOf x c with rpend := false }
    (rgf s.blk rCfgLimits 8 0 ≤ c ∨ (st ≠ .free ∧ st ≠ .closing) → Refuses (.ctxOpen a) s 0x120008 1 a) ∧
    (c < rgf s.blk rCfgLimits 8 0 → st = .free → On (.ctxOpen a) (fun t => Opens s.blk t c)) ∧
    (c < rgf s.blk rCfgLimits 8 0 → st = .closing → Moves (.ctxOpen a) { v with state := .pendingReuse }) ∧
    (Fenceable s.blk c → On (.ctxFence a) (fun t => t = fenceUpdate s.blk c .draining none)) ∧
    (st = .draining ∨ st = .quiesced → On (.ctxFence a) (fun t => t = s.blk)) ∧
    (¬ Fenceable s.blk c → st ≠ .draining → st ≠ .quiesced → Refuses (.ctxFence a) s 0x120008 2 a) ∧
    (Fenceable s.blk c → On (.ctxReset a) (fun t => ∃ u, Observed s.blk u ∧
      t = teardownSeqs (Pend (fenceUpdate u c .draining none)) c)) ∧
    (st = .draining → On (.ctxReset a) (fun t => ∃ u, Observed s.blk u ∧ t = teardownSeqs (Pend u) c)) ∧
    (st = .quiesced → On (.ctxReset a) (fun t => ∃ u,
      Observed (setSlot s.blk c { v with fenceAt := now s.blk, forced := false }) u ∧ Opens (genChange (teardownSeqs u c) c) t c)) ∧
    (¬ Fenceable s.blk c → st ≠ .draining → st ≠ .quiesced → Refuses (.ctxReset a) s 0x120008 3 a) ∧
    (Fenceable s.blk c → On (.ctxClose a) (fun t => ∃ u, Observed s.blk u ∧
      t = teardownSeqs (fenceUpdate (Turned u) c .closing none) c)) ∧
    (st = .draining → On (.ctxClose a) (fun t => ∃ u x y, Observed s.blk u ∧
      SlotMoves (Turned u) x c { slotOf (Turned u) c with state := .closing } ∧ BoardAsked (teardownSeqs x c) y c false ∧
      t = push y [.drainRelease c])) ∧
    (st = .quiesced → On (.ctxClose a) (fun t => ∃ u x, Observed s.blk u ∧
      SlotMoves (Turned u) x c { slotOf (Turned u) c with state := .closing } ∧
      BoardAsked (teardownSeqs (setSlot x c { slotOf x c with fenceAt := now x, forced := false }) c) t c false)) ∧
    (st = .pendingReuse → Moves (.ctxClose a) { v with state := .closing }) ∧
    (st = .free ∨ st = .opening ∨ st = .closing → Refuses (.ctxClose a) s 0x120008 4 a) ∧
    (st ≠ .faulted ∨ (isStrict s.blk c = true ∧ v.code ≠ 0x10) → Refuses (.ctxResume a) s 0x120008 5 a) ∧
    (st = .faulted → isStrict s.blk c = false ∨ v.code = 0x10 →
      (v.replay = true → On (.ctxResume a) (fun t => t = s.blk)) ∧
      (∀ r, v.replay = false → s.blk.ctx.ovf.find? (fun r => r.ctx == c && !r.replaying) = some r → On (.ctxResume a) (fun t =>
        t = memWrite (setSlot s.blk c { v with replay := true })
          ((rg2 s.blk (sqReg r.q 0xc) (sqReg r.q 0x10) + 32 * r.slot) % 2 ^ 52) r.bytes 1 (some c) uCsq r.q (.cplReplay r.idx))) ∧
      (v.replay = false → (∀ r ∈ s.blk.ctx.ovf, r.ctx ≠ c) → s.blk.ctx.ovfWait = [] → On (.ctxResume a) (fun t => ∃ u,
        SlotMoves (pushBack s.blk ((Store.keys s.blk.csq.queues).map Work.cplPump)) u c
          { v with state := .opened, replay := false, code := 0
                   leaseEnd := if v.leaseEnd.isNone then leaseFrom s.blk c else v.leaseEnd } ∧
        t = push u (openWakes s.blk c))))) ∧
  (∀ (c : Nat) (s : State), c < 256 → fnReady s.blk 12 = true →
    let v := slotOf s.blk c
    let st := ctxSt s.blk c
    let torn := st = .closing ∨ st = .pendingReuse
    let settled := ∀ p ∈ s.blk.sqt.ents, p.2.ctx ≠ c
    let Still := fun (cmd : Instr) => Updates cmd s (fun b => b = s.blk)
    (st = .opening → v.boardBusy = 0 → settled → Updates (.openingDone c) s (fun b => ∃ u,
      SlotMoves s.blk u c { v with state := .opened, token := newToken c v.gen (now s.blk) v.token, leaseEnd := leaseFrom s.blk c } ∧
      b = push u (openWakes s.blk c))) ∧
    (st ≠ .opening ∨ v.boardBusy ≠ 0 ∨ ¬ settled → Still (.openingDone c)) ∧
    (let q := orBits s.blk rCtxIrq 1
     st = .draining → Drained s.blk c → Updates (.drainComplete c) s (fun b => ∃ u, b = push u [.drainRelease c] ∧
      (v.rpend = false → SlotMoves q u c { v with state := .quiesced }) ∧ (v.rpend = true → Opens (genChange q c) u c))) ∧
    (st ≠ .draining ∨ ¬ Drained s.blk c → Still (.drainComplete c)) ∧
    (torn → Drained s.blk c → Updates (.closeReleaseDone c) s (fun b =>
      let q := orBits s.blk rCtxIrq 1
      let u := ovfDiscard (forEach (queuesOf q c) q (fun x i => wrf (disableQ x i) (sqReg i 0) 31 31 0)) c
      (ctxSt u c = .pendingReuse → Opens u b c) ∧ (ctxSt u c ≠ .pendingReuse → SlotMoves u b c { slotOf u c with state := .free }))) ∧
    (¬ torn ∨ ¬ Drained s.blk c → Still (.closeReleaseDone c)) ∧
    (let due := s.blk.time.usable = true ∧ v.fenceAt + rgf s.blk (bank rQuiesce c) 15 0 * 1000 ≤ now s.blk
     (st = .opening → due → ¬ settled → Updates (.quiesceExpiry c) s (fun b => b = seqForce (ignoreMem s.blk c MemOwner.ofSeq) c)) ∧
     ((st = .opening ∧ settled) ∨ (st ≠ .opening ∧ st ≠ .draining ∧ ¬ torn) ∨ ¬ due ∨ (st ≠ .opening ∧ Drained s.blk c) →
       Still (.quiesceExpiry c)) ∧
     (st = .draining ∨ torn → due → ¬ Drained s.blk c → Updates (.quiesceExpiry c) s (fun b => ∃ off kept u tags w x y z,
       forceWords s.blk c = (off, kept, u) ∧ forceMem u c = (tags, w) ∧
       (let old := fun (r : FReq) => if r.srcCtx = c then { r with orphan := true } else r
        let t := { w with xch := { w.xch with out := w.xch.out.map (fun e => (e.1, { e.2 with req := old e.2.req }))
                                              waitq := w.xch.waitq.map old } }
        let t := seqForce t c
        let t := forEach (Store.keys (t.xch.rings.filter (fun p => p.2.ctx == c && !p.2.places.isEmpty))) t dropPlaces
        Counted (setSlot t c { slotOf t c with forced := true, boardBusy := 0 }) x rForced) ∧ Observed x y ∧
       z = ctxFault y c uCtx 0x47 (mkDetail off tags kept) ∧
       b = if st = .draining then leaveDraining z c else closeRelease z c))) ∧
    (∀ e, v.leaseEnd = some e → st = .opened → s.blk.time.usable = true → e ≤ now s.blk → Updates (.leaseExpiry c) s (fun b =>
      ∃ u w x, SlotMoves s.blk u c { v with state := .orphaned, leaseEnd := none } ∧ OnlyReg u w rCtxIrq (rg u rCtxIrq ||| 2) ∧
        Observed w x ∧ Logged x b (16 + c) (faultEnt x uCtx 0x40 (some c) 0 false))) ∧
    (v.leaseEnd = none ∨ st ≠ .opened ∨ s.blk.time.usable = false ∨ (∃ e, v.leaseEnd = some e ∧ now s.blk < e) →
      Still (.leaseExpiry c))) ∧
  (∀ (v : Word) (a : Access) (s : State), Served s.blk 0x120100 a →
    let c := fld v 7 0
    let fresh := fun (d : Nat) => { slotOf s.blk d with leaseEnd := leaseFrom s.blk d }
    let Lease := fun (t : Blk) => t = { s.blk with ctx := { s.blk.ctx with slots := t.ctx.slots } }
    (bitAt v 16 = false → ctxSt s.blk c = .opened → fld v 15 8 = ctxGen s.blk c → Writes (.ctxRenew v a) s (fun t => Lease t ∧
      slotOf t c = fresh c ∧ ∀ d, d ≠ c → slotOf t d = slotOf s.blk d)) ∧
    (bitAt v 16 = true → c = 0 → fld v 15 8 = 0 → Writes (.ctxRenew v a) s (fun t => Lease t ∧
      ∀ d, slotOf t d = if ctxSt s.blk d = .opened then fresh d else slotOf s.blk d)) ∧
    (bitAt v 16 = false → ctxSt s.blk c ≠ .opened ∨ fld v 15 8 ≠ ctxGen s.blk c → Refuses (.ctxRenew v a) s 0x120100 v a) ∧
    (bitAt v 16 = true → c ≠ 0 ∨ fld v 15 8 ≠ 0 → Refuses (.ctxRenew v a) s 0x120100 v a)) ∧
  (∀ (v : Word) (a : Access) (s : State), Served s.blk rPeerEnt a →
    let k := bank rPeerEnt (rgf s.blk rPeerSel 7 0)
    let w : Word := (v &&& 0x401fffff#32) ||| 0x80000000#32
    Writes (.peerUnfence v a) s (fun t => OnlyReg s.blk t k (v &&& 0x401fffff#32).toNat) ∧
    (rgw s.blk k = w → Writes (.peerFence v a) s (fun t => OnlyReg s.blk t k w.toNat)) ∧
    (rgw s.blk k ≠ w → Writes (.peerFence v a) s (fun t => ∃ u x y z, OnlyReg s.blk u k w.toNat ∧
      let hit := entFences w
      (x = fenceOut u hit ∧
       let back := x.xch.retries.filter (fun r => match r.what with | .fabric q => hit q.dst | _ => false)
       y = forEach back.reverse { x with xch := { x.xch with
         retries := x.xch.retries.filter (fun r => !back.contains r), hold := x.xch.hold.filter (fun h => !hit h.m.h.src)
         pairsIn := x.xch.pairsIn.filter (fun p => !hit p.1) } } (fun b r => outcome b r.what.req kPeerFenced 0 true)) ∧
      (let f := { y with tsk := { y.tsk with launches := y.tsk.launches.map (fun p =>
         (p.1, { p.2 with peerFinals := (p.2.peerFinals ++ fencedHomes y p.2 hit).eraseDups })) } }
       Observed (orBits (wr f rPeerLast (2 ^ 31 + fld w 20 0)) rCtxIrq 8) z) ∧
      t = pushBack z ((Store.keys z.sve.runs).map Work.runCheck ++ (Store.keys z.sve.scopes).map Work.scopeCheck))))

/-- Ruled ordering (R285, R290, R292, R293, R302). A mode is written only while the context has no live launch and no running queue; ruled
starts at tick 0. A tick takes its entries one at a time, least key first, and closes when none is left; it opens once everything owed at
it has arrived, or when the front of an idle context is released. That what is still owed is due at tick 1 of a context made ruled, and
takes effect at once where it is made free, is the model's choice (log entry 29). -/
def Obligations.RuledContextsTakeTheirTicks : Prop :=
  (∀ (v : Word) (a : Access) (s : State), Served s.blk rOrdMode a →
    let c := rgf s.blk rOrdSel 7 0
    let held := (∃ l ∈ Store.vals s.blk.tsk.launches, l.ctx = c) ∨ (∃ p ∈ s.blk.csq.queues, sqCtx s.blk p.1 = c ∧
      (p.2.state = .run ∨ p.2.state = .wait ∨ p.2.state = .sleep))
    let Stored := fun (u : Blk) => OnlyReg s.blk u (bank rOrdMode c) (written (rg s.blk (bank rOrdMode c)) 7 v)
    (1 < fld v 1 0 ∨ held → Refuses (.ordModeWrite v a) s rOrdMode v a) ∧
    (fld v 1 0 = 1 → ¬ held → Writes (.ordModeWrite v a) s (fun t => ∃ u, Stored u ∧ t = { u with ctx := { s.blk.ctx with
      slots := Store.put {} s.blk.ctx.slots c
        { slotOf s.blk c with tick := 0, rotor := 0, front := none, frontStalled := false, tickOpen := false }
      owed := s.blk.ctx.owed.map (fun o => if o.ctx = c then { o with due := 1 } else o) } })) ∧
    (fld v 1 0 = 0 → ¬ held → Writes (.ordModeWrite v a) s (fun t => ∃ u, Stored u ∧ t = releaseOwed (setSlot u c
      { slotOf s.blk c with tick := 0, front := none, frontStalled := false, tickOpen := false }) c))) ∧
  (∀ (a : Access) (s : State), Served s.blk 0x120824 a →
    let c := rgf s.blk rOrdSel 7 0
    ((courseLaunch s.blk c).isSome = true → Refuses (.stepLoad a) s 0x120824 2 a) ∧
    (courseLaunch s.blk c = none → Writes (.stepLoad a) s (fun t => t = { s.blk with sqt := { s.blk.sqt with
      ctxs := Store.put {} s.blk.sqt.ctxs c { sqtOf s.blk c with stepCnt := rg s.blk (bank rReplayStep c) } } })) ∧
    Writes (.tccClear a) s (fun t => t = { s.blk with ctx := { s.blk.ctx with
      slots := Store.put {} s.blk.ctx.slots c { slotOf s.blk c with tcc := 0 } } })) ∧
  (∀ (c : Nat) (s : State), c < 256 → fnReady s.blk 12 = true →
    let v := slotOf s.blk c
    let Picked := fun (t b : Blk) => b = pickFront t c
    let opened := fun (u : Blk) (t : Nat) => setSlot u c { slotOf u c with tick := t, tickOpen := true, decided := 0 }
    let free := brkHolds s.blk c = false
    (ruledLive s.blk c = false ∨ ¬ free → Updates (.ruledTick c) s (fun b => b = s.blk)) ∧
    (ruledLive s.blk c = true → free → v.tickOpen = true → Updates (.ruledTick c) s (Picked (inTick s.blk c id))) ∧
    (ctxIdle s.blk c = true → free → v.tickOpen = false →
      (frontOf s.blk c = none → Updates (.ruledTick c) s (fun b => b = s.blk)) ∧
      (∀ w, frontOf s.blk c = some w → w.released s.blk = false → Updates (.ruledTick c) s (fun b =>
        b = if v.front = some (w.kind, w.idx) then s.blk
          else setSlot s.blk c { v with front := some (w.kind, w.idx), frontAt := none, frontStalled := false })) ∧
      (∀ w, frontOf s.blk c = some w → w.released s.blk = true → Updates (.ruledTick c) s (Picked (inTick
        (opened (setSlot s.blk c { v with front := none }) (v.tick + 1)) c (fun u => releaseWaiter (oneDecided u c) w))))) ∧
    (ruledLive s.blk c = true → free → ctxIdle s.blk c = false → v.tickOpen = false →
      ∃ t, (hasWork s.blk c = true → t = v.tick + 1) ∧ v.tick + 1 ≤ t ∧
        (hasWork s.blk c = false → v.tick + 1 < t → ∀ o ∈ s.blk.ctx.owed, o.ctx = c → t ≤ o.due) ∧
        (hasWork s.blk c = false → ∃ o ∈ s.blk.ctx.owed, o.ctx = c ∧ o.due ≤ t) ∧
        let u := setSlot s.blk c { v with tick := t - 1, front := none }
        ((∀ o ∈ s.blk.ctx.owed, o.ctx = c → o.due ≤ t → o.arrived = true) →
          Updates (.ruledTick c) s (Picked (inTick (opened u t) c id))) ∧
        ((∃ o ∈ s.blk.ctx.owed, o.ctx = c ∧ o.due ≤ t ∧ o.arrived = false) → Updates (.ruledTick c) s (fun b => b = u)))) ∧
  (∀ (b : Blk) (c n : Nat), ruledLive b c = true →
    let items := tickItems b c (slotOf b c).tick
    (brkHolds b c = true → runTick c (n + 1) b = b) ∧
    (brkHolds b c = false → items = [] → runTick c (n + 1) b = closeTick b c) ∧
    (brkHolds b c = false → items ≠ [] → ∃ p ∈ items, (∀ x ∈ items, x.1.lt p.1 = false) ∧
      (p.2 = .boundary → boundaryWork b c = false → runTick c (n + 1) b = b) ∧
      (p.2 ≠ .boundary ∨ boundaryWork b c = true → runTick c (n + 1) b = runTick c n (cascade 8 (takeItem b c p.2))))) ∧
  (∀ (c : Nat) (s : State), c < 256 → fnReady s.blk 12 = true →
    let v := slotOf s.blk c
    let due := frontBlocked s.blk c = true ∧ v.frontStalled = false ∧ rgf s.blk (bank rRuleWait c) 19 0 ≠ 0 ∧
      s.blk.time.usable = true ∧ ∃ at_, v.frontAt = some at_ ∧ at_ + rgf s.blk (bank rRuleWait c) 19 0 * 1000 ≤ now s.blk
    (¬ due → Updates (.frontStallExpiry c) s (fun b => b = s.blk)) ∧
    (∀ f, due → frontOf s.blk c = some f → Updates (.frontStallExpiry c) s (fun b => ∃ ltag,
      (f.kind = 5 → ltag = 0) ∧
      (f.kind ≠ 5 → ∀ p ∈ s.blk.tsk.launches, p.2.ctx = c → p.2.ended = false → p.2.rank = f.rank →
        (∀ q ∈ s.blk.tsk.launches, q.2.ctx = c → q.2.ended = false → q.2.rank = f.rank → q = p) → ltag = p.2.ltag) ∧
      b = ctxFault (setSlot s.blk c { v with frontStalled := true }) c uCtx 0x58
        (mkDetail (put ltag 31 0) (f.shown s.blk) (min (heldWaiters s.blk c f) 2047)))))

/-- Counters, triggers and trace buffers (R338, R339, R346, R351, R353 to R356, R366 to R368). A refused source or size changes nothing; a
trigger keeps the newest 1,535 records of each ARMED buffer with TRIGEN and writes its own record; the drain offers one paced line at a
time, latch records first. That an ARM that is not accepted has no effect is the model's choice (log entry 31). -/
def Obligations.CountersAndBuffersObserve : Prop :=
  (∀ (n : Nat) (v : Word) (a : Access) (s : State), n < 64 → Served s.blk (cntReg n) a →
    let k := cntReg n
    let src := fld v 24 16
    let x := Store.getD s.blk.obs.cnt n {}
    let bad := 0x150 ≤ src ∨ (n < 48 ∧ srcNone src = true)
    let moved := src ≠ rgf s.blk k 24 16 ∨ fld v 7 0 ≠ rgf s.blk k 7 0
    (bad → Refuses (.counterConfig n v a) s k v a) ∧
    (¬ bad → Writes (.counterConfig n v a) s (fun t => ∃ u y,
      OnlyReg s.blk u k (written (rg s.blk k) (if n < 48 then 0xa1ff00ff else 0xe1ff00ff) v) ∧
      (moved → y = {}) ∧ (¬ moved → y = { x with ovf := x.ovf && !bitAt v 28 }) ∧
      t = { u with obs := { s.blk.obs with cnt := Store.put {} s.blk.obs.cnt n y } }))) ∧
  (∀ (n : Nat) (a : Access) (s : State), n < 64 → Served s.blk (cntReg n + 0x14) a →
    Writes (.counterClear n a) s (fun t => t = { s.blk with obs := { s.blk.obs with
      cnt := Store.put {} s.blk.obs.cnt n { Store.getD s.blk.obs.cnt n {} with live := 0 } } })) ∧
  (∀ (a : Access) (s : State), Served s.blk 0x140918 a → rgf s.blk rTrigCfg 31 29 ≠ 3 →
    let acts := fun b => (bufOf s.blk b).state = .armed ∧ rgb s.blk (bufReg b 0) 29 = true
    Writes (.trigger a) s (fun t => Observed s.blk t ∧ rg t rTrigCount = (rg s.blk rTrigCount + 1) % 2 ^ 32 ∧
      ((∃ b, b < 4 ∧ acts b) → (rg t rObsIrq).testBit 0 = true) ∧
      ∀ b, b < 4 → (¬ acts b → bufOf t b = bufOf s.blk b) ∧ (acts b →
        let old := bufOf s.blk b
        let gone := old.recs.take (old.recs.length - 1535)
        bufOf t b = { old with
          recs := old.recs.drop (old.recs.length - 1535) ++
            [BitVec.ofNat 256 (put (now s.blk) 63 0 + put 0x10 71 64 + put (b2n (!s.blk.time.usable)) 82 82)]
          state := .post, postLeft := 512, lossRun := if bufDrain s.blk b then growLoss old.lossRun gone else old.lossRun }))) ∧
  (∀ (b : Nat) (a : Access) (s : State), b < 4 →
    let x := bufOf s.blk b
    let Put := fun (u : Blk) (y : TBuf) => { u with obs := { u.obs with bufs := Store.put {} u.obs.bufs b y } }
    (Served s.blk (bufReg b 4) a →
      let empty := x.recs = [] ∧ x.lossRun = none ∧ x.lines = []
      (x.state = .off ∨ (rgb s.blk (bufReg b 0) 30 = true ∧ ¬ empty) → Writes (.arm b a) s (fun t => t = s.blk)) ∧
      (x.state ≠ .off → (rgb s.blk (bufReg b 0) 30 = false ∨ empty) → Writes (.arm b a) s (fun t =>
        t = Put s.blk { x with state := .armed, recs := [], postLeft := 0, lossRun := none }))) ∧
    (∀ v, Served s.blk (bufReg b 0) a →
      let k := bufReg b 0
      let bad := fld v 4 0 < 12 ∨ 30 < fld v 4 0 ∨ (rgb s.blk k 30 = true ∧ fld v 4 0 ≠ rgf s.blk k 4 0)
      (bad → Refuses (.bufferEnable b v a) s k (v ||| 0x80000000#32) a) ∧
      (¬ bad → Writes (.bufferEnable b v a) s (fun t => ∃ u,
        OnlyReg s.blk u k (written (rg s.blk k) 0xe000001f (v ||| 0x80000000#32)) ∧ (rgb s.blk k 31 = true → t = u) ∧
        (rgb s.blk k 31 = false → t = Put u { x with state := .armed, recs := [], postLeft := 0, lossRun := none })))) ∧
    (Served s.blk (bufReg b 8) a → Writes (.bufferFaultClear b a) s (fun t => t = Put s.blk { x with fault := false }))) ∧
  (∀ (v : Word) (a : Access) (s : State), Served s.blk rLcfg a →
    let c := rgf s.blk rObsCtxSel 7 0
    let k := bank rLcfg c
    let w := v ||| 0x80000000#32
    let lg := fld v 3 0
    (lg < 2 ∨ 12 < lg → Refuses (.latchRingEnable v a) s rLcfg w a) ∧
    (2 ≤ lg → lg ≤ 12 → Writes (.latchRingEnable v a) s (fun t => ∃ u z, OnlyReg s.blk u k z ∧
      (bitAt v 30 = false → z = written (rg s.blk k) 0x8000000f w) ∧
      (bitAt v 30 = true → z = written (rg s.blk k) 0x8000000f w &&& (0xffffffff - 2 ^ 30)) ∧
      (rgb s.blk k 31 = true → t = u) ∧ (rgb s.blk k 31 = false → OnlyReg { u with obs := { u.obs with
        ltail := Store.erase u.obs.ltail c } } t (pageReg c 0x814) 0))) ∧
    (2 ≤ rgf s.blk k 3 0 → rgf s.blk k 3 0 ≤ 12 → Writes (.latchFaultClear a) s (fun t =>
      OnlyReg s.blk t k (rg s.blk k &&& (0xffffffff - 2 ^ 30)))) ∧
    (rgf s.blk k 3 0 < 2 ∨ 12 < rgf s.blk k 3 0 → Refuses (.latchFaultClear a) s rLcfg (lcfgClear s.blk) a)) ∧
  (∀ s : State, fnReady s.blk 6 = true →
    let b := s.blk
    let go := b.time.usable = true ∧ b.obs.spaceAt ≤ now b ∧ b.obs.tags < 16 ∧ b.cfg.srst = false
    let next := ((List.range 4).map (fun i => (b.obs.drainNext + i) % 4)).find? (drainReady b)
    let idle := ∀ j ∈ b.obs.latch, j.lines = []
    let Paced := fun (x t : Blk) => t = { x with obs := { x.obs with spaceAt := now b + rgf b rTrcCfg 15 0 } }
    (¬ go ∨ (idle ∧ next = none) → Updates .traceDrainLine s (fun t => t = b)) ∧
    (∀ j l r, go → b.obs.latch.find? (fun j => !j.lines.isEmpty) = some j → j.lines = l :: r →
      Updates .traceDrainLine s (fun t => ∃ x, MemAsked { b with obs := { b.obs with
        latch := b.obs.latch.map (fun k => if k.id = j.id then { k with lines := r } else k), tags := b.obs.tags + 1 } } x
        { write := true, addr := latchLineAddr j, first := latchLineAddr j, be := beOf 0 64, data := l, qos := 3, ctx := some j.ctx
          unit := uObs, index := j.queue.getD 0, owner := .latchRec j.id } ∧ Paced x t)) ∧
    (∀ i, go → idle → next = some i →
      let x := bufOf b i
      let Line := fun (u : Blk) (y : TBuf) (l : DLine) (t : Blk) => ∃ z,
        MemAsked { u with obs := { u.obs with
          bufs := Store.put {} u.obs.bufs i { y with lines := y.lines.map (fun m => if m.k = l.k then { m with phase := .offered } else m) }
          tags := u.obs.tags + 1, drainNext := (i + 1) % 4 } } z
          { write := true, addr := (rg2 b (bufReg i 0xc) (bufReg i 0x10) + 64 * (l.k % ringLines b i)) % 2 ^ 52
            first := (rg2 b (bufReg i 0xc) (bufReg i 0x10) + 64 * (l.k % ringLines b i)) % 2 ^ 52, be := beOf 0 64, data := l.data
            qos := 3, ctx := none, unit := uObs, index := i, owner := .drain i l.k } ∧ Paced z t
      (∀ l, x.lines.find? (fun l => l.phase == .waiting) = some l → Updates .traceDrainLine s (Line b x l)) ∧
      ((∀ l ∈ x.lines, l.phase ≠ .waiting) → ∀ p q r, drainStream x = p :: q :: r →
        let l : DLine := { k := (x.tail + x.lines.length) % 2 ^ 32, data := twoRecs p q, phase := .waiting }
        let y := { drainTake x 2 with lines := x.lines ++ [l] }
        Updates .traceDrainLine s (fun t => ∃ u, u = { b with obs := { b.obs with bufs := Store.put {} b.obs.bufs i y } } ∧
          Line u y l t)))) ∧
  (∀ (i : Nat) (s : State), i < 4 → fnReady s.blk 6 = true →
    let b := s.blk
    let x := bufOf b i
    let go := bufDrain b i = true ∧ x.fault = false ∧ drainFull b i = false ∧ b.time.usable = true
    (∀ p, drainStream x = [p] → go → recTime p + rgf b rTrcFlush 15 0 * 1000 ≤ now b → Updates (.traceFlushExpiry i) s (fun t =>
      t = { b with obs := { b.obs with bufs := Store.put {} b.obs.bufs i { drainTake x 1 with
        lines := x.lines ++ [{ k := (x.tail + x.lines.length) % 2 ^ 32, data := twoRecs p 0, phase := .waiting }] } } })) ∧
    ((∀ p, drainStream x = [p] → ¬ go ∨ now b < recTime p + rgf b rTrcFlush 15 0 * 1000) →
      Updates (.traceFlushExpiry i) s (fun t => t = b)))

/-- Blots, the sweep, the watchdogs, the automatic audit and the error logs (R358 to R363, R376 to R378, R386 to R390). A request is taken,
held or dropped; the Blotter looks for a free slot, cuts, and writes line by line, the header last. The sweep reads word after word, and a
pass that is late is logged once. A watchdog that fires logs its fault and raises its cause. An audit compares its books at one cut. The
order of the sweep is the model's choice (log entry 12), and that the dispatch watchdog begins anew after it has fired (log entry 32). -/
def Obligations.BlotsAndChecksAreMade : Prop :=
  (∀ (a : Access) (s : State), Served s.blk 0x180000 a →
    let d := s.blk.dbg
    let Dropped := fun (u t : Blk) => ∃ x y z, Counted u x rDbgDrop ∧ OnlyReg x y rDbgIrq (rg x rDbgIrq ||| 2) ∧
      z = { y with obs := z.obs } ∧ (t = z ∨ (cntReached u = false ∧ cntReached z = true ∧ Observed z t))
    let Asks := fun (cmd : Instr) (r : BlotReq) =>
      (rgb s.blk rDbgCfg 31 = false ∨ (d.phase ≠ .idle ∧ d.held ≠ none) → Writes cmd s (Dropped s.blk)) ∧
      (rgb s.blk rDbgCfg 31 = true → d.phase = .idle → Writes cmd s (fun t =>
        t = { s.blk with dbg := { d with phase := .asked, req := some r } })) ∧
      (rgb s.blk rDbgCfg 31 = true → d.phase ≠ .idle → d.held = none → Writes cmd s (fun t =>
        t = { s.blk with dbg := { d with held := some r } }))
    Asks (.blot a) { cause := 2, snapshot := false, code := 0, ctx := 0 } ∧
    Asks (.snap a) { cause := 1, snapshot := true, code := 0, ctx := 0 }) ∧
  (∀ s : State, fnReady s.blk 5 = true ∨ s.blk.cfg.srst = true →
    let b := s.blk
    let d := b.dbg
    let slot := fun i => (rg2 b rDbgBaseLo rDbgBaseHi + i * 2 ^ rgf b rDbgCfg 12 8) % 2 ^ 52
    let paced := rgf b rDbgSpace 15 0 = 0 ∨ (b.time.usable = true ∧ d.lastLine + rgf b rDbgSpace 15 0 ≤ now b)
    let Line := fun (u : Blk) (at_ : Nat) (x : Line) (o : MemOwner) (t : Blk) => MemAsked u t
      { write := true, addr := at_ % 2 ^ 52, first := at_ % 2 ^ 52, be := beOf 0 64, data := x, qos := 3, ctx := none, unit := uDbg
        index := 0, owner := o }
    let Still := Updates .blotWrite s (fun t => t = b)
    (d.phase = .idle → Still) ∧ (∀ i, d.phase = .scan i ∨ d.phase = .head i → Still) ∧
    (d.phase = .asked → rgb b rDbgCfg 31 = false → Updates .blotWrite s (fun t => t = blotDrop b)) ∧
    (d.phase = .asked → rgb b rDbgCfg 31 = true → Updates .blotWrite s (fun t =>
      t = memRead { b with dbg := { d with phase := .scan 0 } } (slot 0) 3 none uDbg 0 (.blotScan 0))) ∧
    (∀ i r, d.phase = .found i → d.req = some r → Updates .blotWrite s (fun t =>
      let u := if r.snapshot then ev0 b 0x14d else b
      let ps := layout (2 ^ rgf u rDbgCfg 12 8) 256 (sectionsOf u r.snapshot)
      let bytes := 256 + ((ps.map (fun p => p.size * p.keys.length)).foldl (· + ·) 0)
      t = { u with dbg := { u.dbg with
        phase := .body i, cause := r.cause, slot := i, head := headLine u r ps.length bytes
        snap := ps.flatMap (fun p => p.keys.map (fun k => { sec := p.id, key := k, val := entBytes u p.id k, seen := entBytes u p.id k }))
        buf := bytesAt (ps.flatMap sectBytes) 0 192, nextLine := 64, left := 0, moved := 0, done := 0, cutAt := now u } })) ∧
    (∀ i, d.phase = .body i → paced → ∃ (n : Nat) (x : Dbg),
      (let gone := d.snap.take n
       x = { d with snap := d.snap.drop n
                    buf := d.buf ++ gone.flatMap (fun (e : SnapEnt) =>
                      if e.mark = .moved then withMoved e.sec (entBytes b e.sec e.key) else e.val)
                    moved := d.moved + (gone.filter (fun (e : SnapEnt) => e.mark == .moved)).length }) ∧
      (n < d.snap.length → 64 ≤ x.buf.length) ∧
      (x.buf ≠ [] → Updates .blotWrite s (Line { b with dbg := { x with
        buf := x.buf.drop 64, nextLine := x.nextLine + 64, left := x.left + 1, lastLine := now b } }
        (slot i + d.nextLine) (lineOf 0 (x.buf.take 64)) .blotLine)) ∧
      (x.buf = [] → d.left = 0 → Updates .blotWrite s (Line { b with dbg := { x with phase := .head i, lastLine := now b } } (slot i)
        (lineOf 0 (d.head.take 0x20 ++ leBytes 4 x.moved ++ bytesAt d.head 0x24 4 ++ leBytes 8 d.done ++ d.head.drop 0x30)) .blotHead)) ∧
      (x.buf = [] → d.left ≠ 0 → Still)) ∧
    (∀ i, d.phase = .body i → ¬ paced → Still)) ∧
  (∀ (b : Blk) (i : Nat) (e : SnapEnt), b.dbg.snap[i]? = some e →
    let val := fun (x : SnapEnt) => entBytes { b with time := { b.time with last := b.dbg.cutAt } } x.sec x.key
    let used := (b.dbg.snap.filter (fun x => x.mark == .shadowed)).length +
      ((b.dbg.snap.take i).filter (fun x => decide (val x ≠ x.seen) && x.mark == .still)).length
    (val e = e.seen → (blotTrack b).dbg.snap[i]? = some e) ∧
    (val e ≠ e.seen → (blotTrack b).dbg.snap[i]? = some { e with
      seen := val e, mark := if e.mark = .still then (if used < 2048 then .shadowed else .moved) else e.mark })) ∧
  (∀ (a : Access) (s : State), Served s.blk 0x160068 a →
    let n := rgf s.blk rLogSel 12 4
    Writes (.logClear a) s (fun t => t = { s.blk with saf := { s.blk.saf with logs := t.saf.logs } } ∧ logOf t n = {} ∧
      ∀ m, m ≠ n → logOf t m = logOf s.blk m)) ∧
  (∀ (f : Finding) (s : State), s.blk.cfg.low = false →
    let v := s.blk.saf
    let Moves := fun (u t : Blk) =>
      (u.saf.sweepPos + 1 < sweepTotal → t = { u with saf := { u.saf with sweepPos := u.saf.sweepPos + 1 } }) ∧
      (sweepTotal ≤ u.saf.sweepPos + 1 → ∃ x,
        Counted { u with saf := { u.saf with sweepPos := 0, sweepAt := now u, sweepLate := false, sweepKept := false } } x
          rSweepPasses ∧ Observed x t)
    (∀ k e w, sweepPlace sweepMap v.sweepPos = some (k, e, w) → k.init ∉ s.blk.cfg.inits → Updates (.sweepRead f none) s (fun t => ∃ u,
      (f = .good → u = s.blk) ∧ u = (wordFound s.blk k e w f).2 ∧ Moves u t)) ∧
    (∀ i k e w, sweepPlace sweepMap (i % sweepTotal) = some (k, e, w) → k ≠ .graph ∨ f = .good → k.init ∉ s.blk.cfg.inits →
      Updates (.sweepRead f (some i)) s (fun t => (f = .good → t = s.blk) ∧ t = (wordFound s.blk k e w f).2)) ∧
    (∀ i e w, sweepPlace sweepMap (i % sweepTotal) = some (.graph, e, w) → f ≠ .good → Sto.graph.init ∉ s.blk.cfg.inits →
      Updates (.sweepRead f (some i)) s (fun t => ∃ u,
        u = { s.blk with tsk := { s.blk.tsk with wanted := u.tsk.wanted } } ∧ (∀ x, x ∈ u.tsk.wanted ↔ x = e ∨ x ∈ s.blk.tsk.wanted) ∧
        t = (wordFound u .graph e w f).2)) ∧
    (∀ i, (∀ k e w, sweepPlace sweepMap (i % sweepTotal) = some (k, e, w) → k.init ∈ s.blk.cfg.inits) →
      Updates (.sweepRead f (some i)) s (fun t => t = s.blk)) ∧
    (∀ k e w, sweepPlace sweepMap v.sweepPos = some (k, e, w) → k.init ∈ s.blk.cfg.inits → Updates (.sweepRead f none) s (Moves s.blk)) ∧
    (sweepPlace sweepMap v.sweepPos = none → Updates (.sweepRead f none) s (Moves s.blk)) ∧
    (let late := v.monitor = true ∧ s.blk.time.usable = true ∧ v.sweepLate = false ∧ v.sweepAt + rgf s.blk rSweep 10 0 * 1000 < now s.blk
     (¬ late → Updates .sweepOverrun s (fun t => t = s.blk)) ∧
     (late → Updates .sweepOverrun s (fun t => ∃ u, Counted { s.blk with saf := { v with sweepLate := true } } u rSweepLate ∧
       Logged u t uSaf (faultEnt u uSaf 0x23 none (mkDetail (now u) (now u % 2 ^ 32) 0) false))))) ∧
  (∀ s : State, s.blk.cfg.low = false →
    let v := s.blk.saf
    let lapse := rgf s.blk rWdog 4 0 * 1000
    let on := v.monitor = true ∧ s.blk.time.usable = true
    let Still := fun (cmd : Instr) => Updates cmd s (fun t => t = s.blk)
    (v.monitor = false → Still .pulseWatchdogExpiry) ∧
    (v.monitor = true → v.pulseLost = true → (rg s.blk rAlarmCause).testBit 1 = true → Still .pulseWatchdogExpiry) ∧
    (v.monitor = true → v.pulseLost = true → (rg s.blk rAlarmCause).testBit 1 = false →
      Updates .pulseWatchdogExpiry s (fun t => Raised s.blk t 1)) ∧
    (v.pulseLost = false → v.pulseArmedAt = none ∨ (∃ x, v.pulseArmedAt = some x ∧ now s.blk < max x v.pulseAt + lapse) →
      Still .pulseWatchdogExpiry) ∧
    (∀ x, v.pulseLost = false → v.pulseArmedAt = some x → on → max x v.pulseAt + lapse ≤ now s.blk →
      Updates .pulseWatchdogExpiry s (fun t => ∃ u w, Logged { s.blk with saf := { v with pulseLost := true } } u uSaf
        (faultEnt s.blk uSaf 0x41 none (mkDetail (now s.blk) (v.pulseAt % 2 ^ 32) 0) true) ∧ Observed u w ∧ Raised w t 1)) ∧
    (v.armedAt = none ∨ ¬ on ∨ (∃ x, v.armedAt = some x ∧ now s.blk < max x v.dispatchAt + lapse) → Still .dispatchWatchdogExpiry) ∧
    (∀ x, v.armedAt = some x → on → max x v.dispatchAt + lapse ≤ now s.blk →
      Updates .dispatchWatchdogExpiry s (fun t => ∃ u, Logged { s.blk with saf := { v with armedAt := some (now s.blk) } } u uSaf
        (faultEnt s.blk uSaf 0x46 none (mkDetail (now s.blk) (v.dispatchAt % 2 ^ 32) 0) true) ∧ Raised u t 2)) ∧
    (let period := rgf s.blk rAuditCfg 31 16
     let mask := rgf s.blk rAuditCfg 7 0
     let due := fnReady s.blk 3 = true ∧ period ≠ 0 ∧ s.blk.time.usable = true ∧ v.auditAt + period * 1000000 ≤ now s.blk
     let u := { s.blk with saf := { v with auditAt := now s.blk } }
     let Cut := fun (r : AuditRun) => r.mask = mask ∧
       ∀ p, p ∈ r.bad ↔ p.1 < 7 ∧ mask.testBit p.1 = true ∧ book u p.1 = some ⟨p.2.1, p.2.2.1, p.2.2.2⟩
     let Ends := fun (d : Blk) (r : AuditRun) (t : Blk) => ∃ w x y,
       let failed := (r.bad.map (fun p => 2 ^ p.1)).sum
       w = forEach r.bad d bookFault ∧ OnlyReg w x rAuditResult (2 ^ 31 + r.mask % 256 * 2 ^ 8 + failed % 256) ∧
       y = forEach (if r.mask.testBit 6 then d.mem.out.filter (fun p => tagOld d p.2) else []) x retireTag ∧
       (failed = 0 → t = y) ∧
       (failed ≠ 0 → ∃ z q, Counted y z rAuditFails ∧ OnlyReg z q rSafIrq (rg z rSafIrq ||| 4) ∧ Raised q t 5)
     (∀ r, v.auditRun = some r → Updates .autoAudit s (Ends (wakeUnits { s.blk with saf := { v with auditRun := none } }) r)) ∧
     (v.auditRun = none → ¬ due → Still .autoAudit) ∧
     (v.auditRun = none → due → mask = 0 → Updates .autoAudit s (fun t => t = u)) ∧
     (v.auditRun = none → due → mask ≠ 0 → ∃ r, Cut r ∧ Updates .autoAudit s (fun t => ∃ d, d = { u with free := d.free } ∧
       (Ends d r t ∨ t = { d with saf := { d.saf with auditRun := some r } })))))
end

