-- ==== Sys2Proof/Laws/State.lean ====
section
/-! SUPPORT. What each named update of the block leaves alone: one lemma per update and field of `Blk`, so that no proof opens a
record update. -/
namespace Sys2Proof.Machine

/-! `wr` writes `regs` alone. -/
@[simp] theorem wr_cfg (s : Blk) (k v : Nat) : (wr s k v).cfg = s.cfg := rfl
@[simp] theorem wr_time (s : Blk) (k v : Nat) : (wr s k v).time = s.time := rfl
@[simp] theorem wr_hi (s : Blk) (k v : Nat) : (wr s k v).hi = s.hi := rfl
@[simp] theorem wr_ports (s : Blk) (k v : Nat) : (wr s k v).ports = s.ports := rfl
@[simp] theorem wr_mem (s : Blk) (k v : Nat) : (wr s k v).mem = s.mem := rfl
@[simp] theorem wr_tsk (s : Blk) (k v : Nat) : (wr s k v).tsk = s.tsk := rfl
@[simp] theorem wr_iss (s : Blk) (k v : Nat) : (wr s k v).iss = s.iss := rfl
@[simp] theorem wr_sve (s : Blk) (k v : Nat) : (wr s k v).sve = s.sve := rfl
@[simp] theorem wr_sqt (s : Blk) (k v : Nat) : (wr s k v).sqt = s.sqt := rfl
@[simp] theorem wr_csq (s : Blk) (k v : Nat) : (wr s k v).csq = s.csq := rfl
@[simp] theorem wr_xch (s : Blk) (k v : Nat) : (wr s k v).xch = s.xch := rfl
@[simp] theorem wr_ctx (s : Blk) (k v : Nat) : (wr s k v).ctx = s.ctx := rfl
@[simp] theorem wr_obs (s : Blk) (k v : Nat) : (wr s k v).obs = s.obs := rfl
@[simp] theorem wr_dbg (s : Blk) (k v : Nat) : (wr s k v).dbg = s.dbg := rfl
@[simp] theorem wr_saf (s : Blk) (k v : Nat) : (wr s k v).saf = s.saf := rfl
@[simp] theorem wr_free (s : Blk) (k v : Nat) : (wr s k v).free = s.free := rfl
@[simp] theorem wr_work (s : Blk) (k v : Nat) : (wr s k v).work = s.work := rfl

/-! `orBits` writes `regs` alone. -/
@[simp] theorem orBits_cfg (s : Blk) (k m : Nat) : (orBits s k m).cfg = s.cfg := rfl
@[simp] theorem orBits_time (s : Blk) (k m : Nat) : (orBits s k m).time = s.time := rfl
@[simp] theorem orBits_hi (s : Blk) (k m : Nat) : (orBits s k m).hi = s.hi := rfl
@[simp] theorem orBits_ports (s : Blk) (k m : Nat) : (orBits s k m).ports = s.ports := rfl
@[simp] theorem orBits_mem (s : Blk) (k m : Nat) : (orBits s k m).mem = s.mem := rfl
@[simp] theorem orBits_tsk (s : Blk) (k m : Nat) : (orBits s k m).tsk = s.tsk := rfl
@[simp] theorem orBits_iss (s : Blk) (k m : Nat) : (orBits s k m).iss = s.iss := rfl
@[simp] theorem orBits_sve (s : Blk) (k m : Nat) : (orBits s k m).sve = s.sve := rfl
@[simp] theorem orBits_sqt (s : Blk) (k m : Nat) : (orBits s k m).sqt = s.sqt := rfl
@[simp] theorem orBits_csq (s : Blk) (k m : Nat) : (orBits s k m).csq = s.csq := rfl
@[simp] theorem orBits_xch (s : Blk) (k m : Nat) : (orBits s k m).xch = s.xch := rfl
@[simp] theorem orBits_ctx (s : Blk) (k m : Nat) : (orBits s k m).ctx = s.ctx := rfl
@[simp] theorem orBits_obs (s : Blk) (k m : Nat) : (orBits s k m).obs = s.obs := rfl
@[simp] theorem orBits_dbg (s : Blk) (k m : Nat) : (orBits s k m).dbg = s.dbg := rfl
@[simp] theorem orBits_saf (s : Blk) (k m : Nat) : (orBits s k m).saf = s.saf := rfl
@[simp] theorem orBits_free (s : Blk) (k m : Nat) : (orBits s k m).free = s.free := rfl
@[simp] theorem orBits_work (s : Blk) (k m : Nat) : (orBits s k m).work = s.work := rfl

/-! `clrBits` writes `regs` alone. -/
@[simp] theorem clrBits_cfg (s : Blk) (k m : Nat) : (clrBits s k m).cfg = s.cfg := rfl
@[simp] theorem clrBits_time (s : Blk) (k m : Nat) : (clrBits s k m).time = s.time := rfl
@[simp] theorem clrBits_hi (s : Blk) (k m : Nat) : (clrBits s k m).hi = s.hi := rfl
@[simp] theorem clrBits_ports (s : Blk) (k m : Nat) : (clrBits s k m).ports = s.ports := rfl
@[simp] theorem clrBits_mem (s : Blk) (k m : Nat) : (clrBits s k m).mem = s.mem := rfl
@[simp] theorem clrBits_tsk (s : Blk) (k m : Nat) : (clrBits s k m).tsk = s.tsk := rfl
@[simp] theorem clrBits_iss (s : Blk) (k m : Nat) : (clrBits s k m).iss = s.iss := rfl
@[simp] theorem clrBits_sve (s : Blk) (k m : Nat) : (clrBits s k m).sve = s.sve := rfl
@[simp] theorem clrBits_sqt (s : Blk) (k m : Nat) : (clrBits s k m).sqt = s.sqt := rfl
@[simp] theorem clrBits_csq (s : Blk) (k m : Nat) : (clrBits s k m).csq = s.csq := rfl
@[simp] theorem clrBits_xch (s : Blk) (k m : Nat) : (clrBits s k m).xch = s.xch := rfl
@[simp] theorem clrBits_ctx (s : Blk) (k m : Nat) : (clrBits s k m).ctx = s.ctx := rfl
@[simp] theorem clrBits_obs (s : Blk) (k m : Nat) : (clrBits s k m).obs = s.obs := rfl
@[simp] theorem clrBits_dbg (s : Blk) (k m : Nat) : (clrBits s k m).dbg = s.dbg := rfl
@[simp] theorem clrBits_saf (s : Blk) (k m : Nat) : (clrBits s k m).saf = s.saf := rfl
@[simp] theorem clrBits_free (s : Blk) (k m : Nat) : (clrBits s k m).free = s.free := rfl
@[simp] theorem clrBits_work (s : Blk) (k m : Nat) : (clrBits s k m).work = s.work := rfl

/-! `wrf` writes `regs` alone. -/
@[simp] theorem wrf_cfg (s : Blk) (k hi lo v : Nat) : (wrf s k hi lo v).cfg = s.cfg := rfl
@[simp] theorem wrf_time (s : Blk) (k hi lo v : Nat) : (wrf s k hi lo v).time = s.time := rfl
@[simp] theorem wrf_hi (s : Blk) (k hi lo v : Nat) : (wrf s k hi lo v).hi = s.hi := rfl
@[simp] theorem wrf_ports (s : Blk) (k hi lo v : Nat) : (wrf s k hi lo v).ports = s.ports := rfl
@[simp] theorem wrf_mem (s : Blk) (k hi lo v : Nat) : (wrf s k hi lo v).mem = s.mem := rfl
@[simp] theorem wrf_tsk (s : Blk) (k hi lo v : Nat) : (wrf s k hi lo v).tsk = s.tsk := rfl
@[simp] theorem wrf_iss (s : Blk) (k hi lo v : Nat) : (wrf s k hi lo v).iss = s.iss := rfl
@[simp] theorem wrf_sve (s : Blk) (k hi lo v : Nat) : (wrf s k hi lo v).sve = s.sve := rfl
@[simp] theorem wrf_sqt (s : Blk) (k hi lo v : Nat) : (wrf s k hi lo v).sqt = s.sqt := rfl
@[simp] theorem wrf_csq (s : Blk) (k hi lo v : Nat) : (wrf s k hi lo v).csq = s.csq := rfl
@[simp] theorem wrf_xch (s : Blk) (k hi lo v : Nat) : (wrf s k hi lo v).xch = s.xch := rfl
@[simp] theorem wrf_ctx (s : Blk) (k hi lo v : Nat) : (wrf s k hi lo v).ctx = s.ctx := rfl
@[simp] theorem wrf_obs (s : Blk) (k hi lo v : Nat) : (wrf s k hi lo v).obs = s.obs := rfl
@[simp] theorem wrf_dbg (s : Blk) (k hi lo v : Nat) : (wrf s k hi lo v).dbg = s.dbg := rfl
@[simp] theorem wrf_saf (s : Blk) (k hi lo v : Nat) : (wrf s k hi lo v).saf = s.saf := rfl
@[simp] theorem wrf_free (s : Blk) (k hi lo v : Nat) : (wrf s k hi lo v).free = s.free := rfl
@[simp] theorem wrf_work (s : Blk) (k hi lo v : Nat) : (wrf s k hi lo v).work = s.work := rfl

/-! `push` writes `work` alone. -/
@[simp] theorem push_cfg (s : Blk) (ws : List Work) : (push s ws).cfg = s.cfg := rfl
@[simp] theorem push_time (s : Blk) (ws : List Work) : (push s ws).time = s.time := rfl
@[simp] theorem push_regs (s : Blk) (ws : List Work) : (push s ws).regs = s.regs := rfl
@[simp] theorem push_hi (s : Blk) (ws : List Work) : (push s ws).hi = s.hi := rfl
@[simp] theorem push_ports (s : Blk) (ws : List Work) : (push s ws).ports = s.ports := rfl
@[simp] theorem push_mem (s : Blk) (ws : List Work) : (push s ws).mem = s.mem := rfl
@[simp] theorem push_tsk (s : Blk) (ws : List Work) : (push s ws).tsk = s.tsk := rfl
@[simp] theorem push_iss (s : Blk) (ws : List Work) : (push s ws).iss = s.iss := rfl
@[simp] theorem push_sve (s : Blk) (ws : List Work) : (push s ws).sve = s.sve := rfl
@[simp] theorem push_sqt (s : Blk) (ws : List Work) : (push s ws).sqt = s.sqt := rfl
@[simp] theorem push_csq (s : Blk) (ws : List Work) : (push s ws).csq = s.csq := rfl
@[simp] theorem push_xch (s : Blk) (ws : List Work) : (push s ws).xch = s.xch := rfl
@[simp] theorem push_ctx (s : Blk) (ws : List Work) : (push s ws).ctx = s.ctx := rfl
@[simp] theorem push_obs (s : Blk) (ws : List Work) : (push s ws).obs = s.obs := rfl
@[simp] theorem push_dbg (s : Blk) (ws : List Work) : (push s ws).dbg = s.dbg := rfl
@[simp] theorem push_saf (s : Blk) (ws : List Work) : (push s ws).saf = s.saf := rfl
@[simp] theorem push_free (s : Blk) (ws : List Work) : (push s ws).free = s.free := rfl

/-! `pushBack` writes `work` alone. -/
@[simp] theorem pushBack_cfg (s : Blk) (ws : List Work) : (pushBack s ws).cfg = s.cfg := rfl
@[simp] theorem pushBack_time (s : Blk) (ws : List Work) : (pushBack s ws).time = s.time := rfl
@[simp] theorem pushBack_regs (s : Blk) (ws : List Work) : (pushBack s ws).regs = s.regs := rfl
@[simp] theorem pushBack_hi (s : Blk) (ws : List Work) : (pushBack s ws).hi = s.hi := rfl
@[simp] theorem pushBack_ports (s : Blk) (ws : List Work) : (pushBack s ws).ports = s.ports := rfl
@[simp] theorem pushBack_mem (s : Blk) (ws : List Work) : (pushBack s ws).mem = s.mem := rfl
@[simp] theorem pushBack_tsk (s : Blk) (ws : List Work) : (pushBack s ws).tsk = s.tsk := rfl
@[simp] theorem pushBack_iss (s : Blk) (ws : List Work) : (pushBack s ws).iss = s.iss := rfl
@[simp] theorem pushBack_sve (s : Blk) (ws : List Work) : (pushBack s ws).sve = s.sve := rfl
@[simp] theorem pushBack_sqt (s : Blk) (ws : List Work) : (pushBack s ws).sqt = s.sqt := rfl
@[simp] theorem pushBack_csq (s : Blk) (ws : List Work) : (pushBack s ws).csq = s.csq := rfl
@[simp] theorem pushBack_xch (s : Blk) (ws : List Work) : (pushBack s ws).xch = s.xch := rfl
@[simp] theorem pushBack_ctx (s : Blk) (ws : List Work) : (pushBack s ws).ctx = s.ctx := rfl
@[simp] theorem pushBack_obs (s : Blk) (ws : List Work) : (pushBack s ws).obs = s.obs := rfl
@[simp] theorem pushBack_dbg (s : Blk) (ws : List Work) : (pushBack s ws).dbg = s.dbg := rfl
@[simp] theorem pushBack_saf (s : Blk) (ws : List Work) : (pushBack s ws).saf = s.saf := rfl
@[simp] theorem pushBack_free (s : Blk) (ws : List Work) : (pushBack s ws).free = s.free := rfl

/-! `setSlot` writes `ctx` alone. -/
@[simp] theorem setSlot_cfg (s : Blk) (c : Nat) (v : CtxSlot) : (setSlot s c v).cfg = s.cfg := rfl
@[simp] theorem setSlot_time (s : Blk) (c : Nat) (v : CtxSlot) : (setSlot s c v).time = s.time := rfl
@[simp] theorem setSlot_regs (s : Blk) (c : Nat) (v : CtxSlot) : (setSlot s c v).regs = s.regs := rfl
@[simp] theorem setSlot_hi (s : Blk) (c : Nat) (v : CtxSlot) : (setSlot s c v).hi = s.hi := rfl
@[simp] theorem setSlot_ports (s : Blk) (c : Nat) (v : CtxSlot) : (setSlot s c v).ports = s.ports := rfl
@[simp] theorem setSlot_mem (s : Blk) (c : Nat) (v : CtxSlot) : (setSlot s c v).mem = s.mem := rfl
@[simp] theorem setSlot_tsk (s : Blk) (c : Nat) (v : CtxSlot) : (setSlot s c v).tsk = s.tsk := rfl
@[simp] theorem setSlot_iss (s : Blk) (c : Nat) (v : CtxSlot) : (setSlot s c v).iss = s.iss := rfl
@[simp] theorem setSlot_sve (s : Blk) (c : Nat) (v : CtxSlot) : (setSlot s c v).sve = s.sve := rfl
@[simp] theorem setSlot_sqt (s : Blk) (c : Nat) (v : CtxSlot) : (setSlot s c v).sqt = s.sqt := rfl
@[simp] theorem setSlot_csq (s : Blk) (c : Nat) (v : CtxSlot) : (setSlot s c v).csq = s.csq := rfl
@[simp] theorem setSlot_xch (s : Blk) (c : Nat) (v : CtxSlot) : (setSlot s c v).xch = s.xch := rfl
@[simp] theorem setSlot_obs (s : Blk) (c : Nat) (v : CtxSlot) : (setSlot s c v).obs = s.obs := rfl
@[simp] theorem setSlot_dbg (s : Blk) (c : Nat) (v : CtxSlot) : (setSlot s c v).dbg = s.dbg := rfl
@[simp] theorem setSlot_saf (s : Blk) (c : Nat) (v : CtxSlot) : (setSlot s c v).saf = s.saf := rfl
@[simp] theorem setSlot_free (s : Blk) (c : Nat) (v : CtxSlot) : (setSlot s c v).free = s.free := rfl
@[simp] theorem setSlot_work (s : Blk) (c : Nat) (v : CtxSlot) : (setSlot s c v).work = s.work := rfl

/-! `owe` writes `ctx` alone. -/
@[simp] theorem owe_cfg (s : Blk) (o : Owed) : (owe s o).cfg = s.cfg := rfl
@[simp] theorem owe_time (s : Blk) (o : Owed) : (owe s o).time = s.time := rfl
@[simp] theorem owe_regs (s : Blk) (o : Owed) : (owe s o).regs = s.regs := rfl
@[simp] theorem owe_hi (s : Blk) (o : Owed) : (owe s o).hi = s.hi := rfl
@[simp] theorem owe_ports (s : Blk) (o : Owed) : (owe s o).ports = s.ports := rfl
@[simp] theorem owe_mem (s : Blk) (o : Owed) : (owe s o).mem = s.mem := rfl
@[simp] theorem owe_tsk (s : Blk) (o : Owed) : (owe s o).tsk = s.tsk := rfl
@[simp] theorem owe_iss (s : Blk) (o : Owed) : (owe s o).iss = s.iss := rfl
@[simp] theorem owe_sve (s : Blk) (o : Owed) : (owe s o).sve = s.sve := rfl
@[simp] theorem owe_sqt (s : Blk) (o : Owed) : (owe s o).sqt = s.sqt := rfl
@[simp] theorem owe_csq (s : Blk) (o : Owed) : (owe s o).csq = s.csq := rfl
@[simp] theorem owe_xch (s : Blk) (o : Owed) : (owe s o).xch = s.xch := rfl
@[simp] theorem owe_obs (s : Blk) (o : Owed) : (owe s o).obs = s.obs := rfl
@[simp] theorem owe_dbg (s : Blk) (o : Owed) : (owe s o).dbg = s.dbg := rfl
@[simp] theorem owe_saf (s : Blk) (o : Owed) : (owe s o).saf = s.saf := rfl
@[simp] theorem owe_free (s : Blk) (o : Owed) : (owe s o).free = s.free := rfl
@[simp] theorem owe_work (s : Blk) (o : Owed) : (owe s o).work = s.work := rfl

/-! `setQ` writes `csq` alone. -/
@[simp] theorem setQ_cfg (s : Blk) (q : Nat) (v : Queue) : (setQ s q v).cfg = s.cfg := rfl
@[simp] theorem setQ_time (s : Blk) (q : Nat) (v : Queue) : (setQ s q v).time = s.time := rfl
@[simp] theorem setQ_regs (s : Blk) (q : Nat) (v : Queue) : (setQ s q v).regs = s.regs := rfl
@[simp] theorem setQ_hi (s : Blk) (q : Nat) (v : Queue) : (setQ s q v).hi = s.hi := rfl
@[simp] theorem setQ_ports (s : Blk) (q : Nat) (v : Queue) : (setQ s q v).ports = s.ports := rfl
@[simp] theorem setQ_mem (s : Blk) (q : Nat) (v : Queue) : (setQ s q v).mem = s.mem := rfl
@[simp] theorem setQ_tsk (s : Blk) (q : Nat) (v : Queue) : (setQ s q v).tsk = s.tsk := rfl
@[simp] theorem setQ_iss (s : Blk) (q : Nat) (v : Queue) : (setQ s q v).iss = s.iss := rfl
@[simp] theorem setQ_sve (s : Blk) (q : Nat) (v : Queue) : (setQ s q v).sve = s.sve := rfl
@[simp] theorem setQ_sqt (s : Blk) (q : Nat) (v : Queue) : (setQ s q v).sqt = s.sqt := rfl
@[simp] theorem setQ_xch (s : Blk) (q : Nat) (v : Queue) : (setQ s q v).xch = s.xch := rfl
@[simp] theorem setQ_ctx (s : Blk) (q : Nat) (v : Queue) : (setQ s q v).ctx = s.ctx := rfl
@[simp] theorem setQ_obs (s : Blk) (q : Nat) (v : Queue) : (setQ s q v).obs = s.obs := rfl
@[simp] theorem setQ_dbg (s : Blk) (q : Nat) (v : Queue) : (setQ s q v).dbg = s.dbg := rfl
@[simp] theorem setQ_saf (s : Blk) (q : Nat) (v : Queue) : (setQ s q v).saf = s.saf := rfl
@[simp] theorem setQ_free (s : Blk) (q : Nat) (v : Queue) : (setQ s q v).free = s.free := rfl
@[simp] theorem setQ_work (s : Blk) (q : Nat) (v : Queue) : (setQ s q v).work = s.work := rfl

/-! `setTask` writes `tsk` alone. -/
@[simp] theorem setTask_cfg (s : Blk) (slot : Nat) (t : Task) : (setTask s slot t).cfg = s.cfg := rfl
@[simp] theorem setTask_time (s : Blk) (slot : Nat) (t : Task) : (setTask s slot t).time = s.time := rfl
@[simp] theorem setTask_regs (s : Blk) (slot : Nat) (t : Task) : (setTask s slot t).regs = s.regs := rfl
@[simp] theorem setTask_hi (s : Blk) (slot : Nat) (t : Task) : (setTask s slot t).hi = s.hi := rfl
@[simp] theorem setTask_ports (s : Blk) (slot : Nat) (t : Task) : (setTask s slot t).ports = s.ports := rfl
@[simp] theorem setTask_mem (s : Blk) (slot : Nat) (t : Task) : (setTask s slot t).mem = s.mem := rfl
@[simp] theorem setTask_iss (s : Blk) (slot : Nat) (t : Task) : (setTask s slot t).iss = s.iss := rfl
@[simp] theorem setTask_sve (s : Blk) (slot : Nat) (t : Task) : (setTask s slot t).sve = s.sve := rfl
@[simp] theorem setTask_sqt (s : Blk) (slot : Nat) (t : Task) : (setTask s slot t).sqt = s.sqt := rfl
@[simp] theorem setTask_csq (s : Blk) (slot : Nat) (t : Task) : (setTask s slot t).csq = s.csq := rfl
@[simp] theorem setTask_xch (s : Blk) (slot : Nat) (t : Task) : (setTask s slot t).xch = s.xch := rfl
@[simp] theorem setTask_ctx (s : Blk) (slot : Nat) (t : Task) : (setTask s slot t).ctx = s.ctx := rfl
@[simp] theorem setTask_obs (s : Blk) (slot : Nat) (t : Task) : (setTask s slot t).obs = s.obs := rfl
@[simp] theorem setTask_dbg (s : Blk) (slot : Nat) (t : Task) : (setTask s slot t).dbg = s.dbg := rfl
@[simp] theorem setTask_saf (s : Blk) (slot : Nat) (t : Task) : (setTask s slot t).saf = s.saf := rfl
@[simp] theorem setTask_free (s : Blk) (slot : Nat) (t : Task) : (setTask s slot t).free = s.free := rfl
@[simp] theorem setTask_work (s : Blk) (slot : Nat) (t : Task) : (setTask s slot t).work = s.work := rfl

/-! `setLaunch` writes `tsk` alone. -/
@[simp] theorem setLaunch_cfg (s : Blk) (l : Nat) (v : Launch) : (setLaunch s l v).cfg = s.cfg := rfl
@[simp] theorem setLaunch_time (s : Blk) (l : Nat) (v : Launch) : (setLaunch s l v).time = s.time := rfl
@[simp] theorem setLaunch_regs (s : Blk) (l : Nat) (v : Launch) : (setLaunch s l v).regs = s.regs := rfl
@[simp] theorem setLaunch_hi (s : Blk) (l : Nat) (v : Launch) : (setLaunch s l v).hi = s.hi := rfl
@[simp] theorem setLaunch_ports (s : Blk) (l : Nat) (v : Launch) : (setLaunch s l v).ports = s.ports := rfl
@[simp] theorem setLaunch_mem (s : Blk) (l : Nat) (v : Launch) : (setLaunch s l v).mem = s.mem := rfl
@[simp] theorem setLaunch_iss (s : Blk) (l : Nat) (v : Launch) : (setLaunch s l v).iss = s.iss := rfl
@[simp] theorem setLaunch_sve (s : Blk) (l : Nat) (v : Launch) : (setLaunch s l v).sve = s.sve := rfl
@[simp] theorem setLaunch_sqt (s : Blk) (l : Nat) (v : Launch) : (setLaunch s l v).sqt = s.sqt := rfl
@[simp] theorem setLaunch_csq (s : Blk) (l : Nat) (v : Launch) : (setLaunch s l v).csq = s.csq := rfl
@[simp] theorem setLaunch_xch (s : Blk) (l : Nat) (v : Launch) : (setLaunch s l v).xch = s.xch := rfl
@[simp] theorem setLaunch_ctx (s : Blk) (l : Nat) (v : Launch) : (setLaunch s l v).ctx = s.ctx := rfl
@[simp] theorem setLaunch_obs (s : Blk) (l : Nat) (v : Launch) : (setLaunch s l v).obs = s.obs := rfl
@[simp] theorem setLaunch_dbg (s : Blk) (l : Nat) (v : Launch) : (setLaunch s l v).dbg = s.dbg := rfl
@[simp] theorem setLaunch_saf (s : Blk) (l : Nat) (v : Launch) : (setLaunch s l v).saf = s.saf := rfl
@[simp] theorem setLaunch_free (s : Blk) (l : Nat) (v : Launch) : (setLaunch s l v).free = s.free := rfl
@[simp] theorem setLaunch_work (s : Blk) (l : Nat) (v : Launch) : (setLaunch s l v).work = s.work := rfl

/-! `holdSlot` writes `tsk` alone. -/
@[simp] theorem holdSlot_cfg (s : Blk) (h : HeldWord) : (holdSlot s h).cfg = s.cfg := rfl
@[simp] theorem holdSlot_time (s : Blk) (h : HeldWord) : (holdSlot s h).time = s.time := rfl
@[simp] theorem holdSlot_regs (s : Blk) (h : HeldWord) : (holdSlot s h).regs = s.regs := rfl
@[simp] theorem holdSlot_hi (s : Blk) (h : HeldWord) : (holdSlot s h).hi = s.hi := rfl
@[simp] theorem holdSlot_ports (s : Blk) (h : HeldWord) : (holdSlot s h).ports = s.ports := rfl
@[simp] theorem holdSlot_mem (s : Blk) (h : HeldWord) : (holdSlot s h).mem = s.mem := rfl
@[simp] theorem holdSlot_iss (s : Blk) (h : HeldWord) : (holdSlot s h).iss = s.iss := rfl
@[simp] theorem holdSlot_sve (s : Blk) (h : HeldWord) : (holdSlot s h).sve = s.sve := rfl
@[simp] theorem holdSlot_sqt (s : Blk) (h : HeldWord) : (holdSlot s h).sqt = s.sqt := rfl
@[simp] theorem holdSlot_csq (s : Blk) (h : HeldWord) : (holdSlot s h).csq = s.csq := rfl
@[simp] theorem holdSlot_xch (s : Blk) (h : HeldWord) : (holdSlot s h).xch = s.xch := rfl
@[simp] theorem holdSlot_ctx (s : Blk) (h : HeldWord) : (holdSlot s h).ctx = s.ctx := rfl
@[simp] theorem holdSlot_obs (s : Blk) (h : HeldWord) : (holdSlot s h).obs = s.obs := rfl
@[simp] theorem holdSlot_dbg (s : Blk) (h : HeldWord) : (holdSlot s h).dbg = s.dbg := rfl
@[simp] theorem holdSlot_saf (s : Blk) (h : HeldWord) : (holdSlot s h).saf = s.saf := rfl
@[simp] theorem holdSlot_free (s : Blk) (h : HeldWord) : (holdSlot s h).free = s.free := rfl
@[simp] theorem holdSlot_work (s : Blk) (h : HeldWord) : (holdSlot s h).work = s.work := rfl

/-! `putJoint` writes `tsk` alone. -/
@[simp] theorem putJoint_cfg (s : Blk) (j : Nat) (w : JWord) : (putJoint s j w).cfg = s.cfg := rfl
@[simp] theorem putJoint_time (s : Blk) (j : Nat) (w : JWord) : (putJoint s j w).time = s.time := rfl
@[simp] theorem putJoint_regs (s : Blk) (j : Nat) (w : JWord) : (putJoint s j w).regs = s.regs := rfl
@[simp] theorem putJoint_hi (s : Blk) (j : Nat) (w : JWord) : (putJoint s j w).hi = s.hi := rfl
@[simp] theorem putJoint_ports (s : Blk) (j : Nat) (w : JWord) : (putJoint s j w).ports = s.ports := rfl
@[simp] theorem putJoint_mem (s : Blk) (j : Nat) (w : JWord) : (putJoint s j w).mem = s.mem := rfl
@[simp] theorem putJoint_iss (s : Blk) (j : Nat) (w : JWord) : (putJoint s j w).iss = s.iss := rfl
@[simp] theorem putJoint_sve (s : Blk) (j : Nat) (w : JWord) : (putJoint s j w).sve = s.sve := rfl
@[simp] theorem putJoint_sqt (s : Blk) (j : Nat) (w : JWord) : (putJoint s j w).sqt = s.sqt := rfl
@[simp] theorem putJoint_csq (s : Blk) (j : Nat) (w : JWord) : (putJoint s j w).csq = s.csq := rfl
@[simp] theorem putJoint_xch (s : Blk) (j : Nat) (w : JWord) : (putJoint s j w).xch = s.xch := rfl
@[simp] theorem putJoint_ctx (s : Blk) (j : Nat) (w : JWord) : (putJoint s j w).ctx = s.ctx := rfl
@[simp] theorem putJoint_obs (s : Blk) (j : Nat) (w : JWord) : (putJoint s j w).obs = s.obs := rfl
@[simp] theorem putJoint_dbg (s : Blk) (j : Nat) (w : JWord) : (putJoint s j w).dbg = s.dbg := rfl
@[simp] theorem putJoint_saf (s : Blk) (j : Nat) (w : JWord) : (putJoint s j w).saf = s.saf := rfl
@[simp] theorem putJoint_free (s : Blk) (j : Nat) (w : JWord) : (putJoint s j w).free = s.free := rfl
@[simp] theorem putJoint_work (s : Blk) (j : Nat) (w : JWord) : (putJoint s j w).work = s.work := rfl

/-! `giveJoints` writes `tsk` alone. -/
@[simp] theorem giveJoints_cfg (s : Blk) (js : List Nat) : (giveJoints s js).cfg = s.cfg := rfl
@[simp] theorem giveJoints_time (s : Blk) (js : List Nat) : (giveJoints s js).time = s.time := rfl
@[simp] theorem giveJoints_regs (s : Blk) (js : List Nat) : (giveJoints s js).regs = s.regs := rfl
@[simp] theorem giveJoints_hi (s : Blk) (js : List Nat) : (giveJoints s js).hi = s.hi := rfl
@[simp] theorem giveJoints_ports (s : Blk) (js : List Nat) : (giveJoints s js).ports = s.ports := rfl
@[simp] theorem giveJoints_mem (s : Blk) (js : List Nat) : (giveJoints s js).mem = s.mem := rfl
@[simp] theorem giveJoints_iss (s : Blk) (js : List Nat) : (giveJoints s js).iss = s.iss := rfl
@[simp] theorem giveJoints_sve (s : Blk) (js : List Nat) : (giveJoints s js).sve = s.sve := rfl
@[simp] theorem giveJoints_sqt (s : Blk) (js : List Nat) : (giveJoints s js).sqt = s.sqt := rfl
@[simp] theorem giveJoints_csq (s : Blk) (js : List Nat) : (giveJoints s js).csq = s.csq := rfl
@[simp] theorem giveJoints_xch (s : Blk) (js : List Nat) : (giveJoints s js).xch = s.xch := rfl
@[simp] theorem giveJoints_ctx (s : Blk) (js : List Nat) : (giveJoints s js).ctx = s.ctx := rfl
@[simp] theorem giveJoints_obs (s : Blk) (js : List Nat) : (giveJoints s js).obs = s.obs := rfl
@[simp] theorem giveJoints_dbg (s : Blk) (js : List Nat) : (giveJoints s js).dbg = s.dbg := rfl
@[simp] theorem giveJoints_saf (s : Blk) (js : List Nat) : (giveJoints s js).saf = s.saf := rfl
@[simp] theorem giveJoints_free (s : Blk) (js : List Nat) : (giveJoints s js).free = s.free := rfl
@[simp] theorem giveJoints_work (s : Blk) (js : List Nat) : (giveJoints s js).work = s.work := rfl

/-! `setSqt` writes `sqt` alone. -/
@[simp] theorem setSqt_cfg (s : Blk) (c : Nat) (v : SqtCtx) : (setSqt s c v).cfg = s.cfg := rfl
@[simp] theorem setSqt_time (s : Blk) (c : Nat) (v : SqtCtx) : (setSqt s c v).time = s.time := rfl
@[simp] theorem setSqt_regs (s : Blk) (c : Nat) (v : SqtCtx) : (setSqt s c v).regs = s.regs := rfl
@[simp] theorem setSqt_hi (s : Blk) (c : Nat) (v : SqtCtx) : (setSqt s c v).hi = s.hi := rfl
@[simp] theorem setSqt_ports (s : Blk) (c : Nat) (v : SqtCtx) : (setSqt s c v).ports = s.ports := rfl
@[simp] theorem setSqt_mem (s : Blk) (c : Nat) (v : SqtCtx) : (setSqt s c v).mem = s.mem := rfl
@[simp] theorem setSqt_tsk (s : Blk) (c : Nat) (v : SqtCtx) : (setSqt s c v).tsk = s.tsk := rfl
@[simp] theorem setSqt_iss (s : Blk) (c : Nat) (v : SqtCtx) : (setSqt s c v).iss = s.iss := rfl
@[simp] theorem setSqt_sve (s : Blk) (c : Nat) (v : SqtCtx) : (setSqt s c v).sve = s.sve := rfl
@[simp] theorem setSqt_csq (s : Blk) (c : Nat) (v : SqtCtx) : (setSqt s c v).csq = s.csq := rfl
@[simp] theorem setSqt_xch (s : Blk) (c : Nat) (v : SqtCtx) : (setSqt s c v).xch = s.xch := rfl
@[simp] theorem setSqt_ctx (s : Blk) (c : Nat) (v : SqtCtx) : (setSqt s c v).ctx = s.ctx := rfl
@[simp] theorem setSqt_obs (s : Blk) (c : Nat) (v : SqtCtx) : (setSqt s c v).obs = s.obs := rfl
@[simp] theorem setSqt_dbg (s : Blk) (c : Nat) (v : SqtCtx) : (setSqt s c v).dbg = s.dbg := rfl
@[simp] theorem setSqt_saf (s : Blk) (c : Nat) (v : SqtCtx) : (setSqt s c v).saf = s.saf := rfl
@[simp] theorem setSqt_free (s : Blk) (c : Nat) (v : SqtCtx) : (setSqt s c v).free = s.free := rfl
@[simp] theorem setSqt_work (s : Blk) (c : Nat) (v : SqtCtx) : (setSqt s c v).work = s.work := rfl

/-! `setSeq` writes `sqt` alone. -/
@[simp] theorem setSeq_cfg (s : Blk) (e : Nat) (v : SeqEnt) : (setSeq s e v).cfg = s.cfg := rfl
@[simp] theorem setSeq_time (s : Blk) (e : Nat) (v : SeqEnt) : (setSeq s e v).time = s.time := rfl
@[simp] theorem setSeq_regs (s : Blk) (e : Nat) (v : SeqEnt) : (setSeq s e v).regs = s.regs := rfl
@[simp] theorem setSeq_hi (s : Blk) (e : Nat) (v : SeqEnt) : (setSeq s e v).hi = s.hi := rfl
@[simp] theorem setSeq_ports (s : Blk) (e : Nat) (v : SeqEnt) : (setSeq s e v).ports = s.ports := rfl
@[simp] theorem setSeq_mem (s : Blk) (e : Nat) (v : SeqEnt) : (setSeq s e v).mem = s.mem := rfl
@[simp] theorem setSeq_tsk (s : Blk) (e : Nat) (v : SeqEnt) : (setSeq s e v).tsk = s.tsk := rfl
@[simp] theorem setSeq_iss (s : Blk) (e : Nat) (v : SeqEnt) : (setSeq s e v).iss = s.iss := rfl
@[simp] theorem setSeq_sve (s : Blk) (e : Nat) (v : SeqEnt) : (setSeq s e v).sve = s.sve := rfl
@[simp] theorem setSeq_csq (s : Blk) (e : Nat) (v : SeqEnt) : (setSeq s e v).csq = s.csq := rfl
@[simp] theorem setSeq_xch (s : Blk) (e : Nat) (v : SeqEnt) : (setSeq s e v).xch = s.xch := rfl
@[simp] theorem setSeq_ctx (s : Blk) (e : Nat) (v : SeqEnt) : (setSeq s e v).ctx = s.ctx := rfl
@[simp] theorem setSeq_obs (s : Blk) (e : Nat) (v : SeqEnt) : (setSeq s e v).obs = s.obs := rfl
@[simp] theorem setSeq_dbg (s : Blk) (e : Nat) (v : SeqEnt) : (setSeq s e v).dbg = s.dbg := rfl
@[simp] theorem setSeq_saf (s : Blk) (e : Nat) (v : SeqEnt) : (setSeq s e v).saf = s.saf := rfl
@[simp] theorem setSeq_free (s : Blk) (e : Nat) (v : SeqEnt) : (setSeq s e v).free = s.free := rfl
@[simp] theorem setSeq_work (s : Blk) (e : Nat) (v : SeqEnt) : (setSeq s e v).work = s.work := rfl

/-! `freeSeq` writes `sqt` alone. -/
@[simp] theorem freeSeq_cfg (s : Blk) (e : Nat) : (freeSeq s e).cfg = s.cfg := rfl
@[simp] theorem freeSeq_time (s : Blk) (e : Nat) : (freeSeq s e).time = s.time := rfl
@[simp] theorem freeSeq_regs (s : Blk) (e : Nat) : (freeSeq s e).regs = s.regs := rfl
@[simp] theorem freeSeq_hi (s : Blk) (e : Nat) : (freeSeq s e).hi = s.hi := rfl
@[simp] theorem freeSeq_ports (s : Blk) (e : Nat) : (freeSeq s e).ports = s.ports := rfl
@[simp] theorem freeSeq_mem (s : Blk) (e : Nat) : (freeSeq s e).mem = s.mem := rfl
@[simp] theorem freeSeq_tsk (s : Blk) (e : Nat) : (freeSeq s e).tsk = s.tsk := rfl
@[simp] theorem freeSeq_iss (s : Blk) (e : Nat) : (freeSeq s e).iss = s.iss := rfl
@[simp] theorem freeSeq_sve (s : Blk) (e : Nat) : (freeSeq s e).sve = s.sve := rfl
@[simp] theorem freeSeq_csq (s : Blk) (e : Nat) : (freeSeq s e).csq = s.csq := rfl
@[simp] theorem freeSeq_xch (s : Blk) (e : Nat) : (freeSeq s e).xch = s.xch := rfl
@[simp] theorem freeSeq_ctx (s : Blk) (e : Nat) : (freeSeq s e).ctx = s.ctx := rfl
@[simp] theorem freeSeq_obs (s : Blk) (e : Nat) : (freeSeq s e).obs = s.obs := rfl
@[simp] theorem freeSeq_dbg (s : Blk) (e : Nat) : (freeSeq s e).dbg = s.dbg := rfl
@[simp] theorem freeSeq_saf (s : Blk) (e : Nat) : (freeSeq s e).saf = s.saf := rfl
@[simp] theorem freeSeq_free (s : Blk) (e : Nat) : (freeSeq s e).free = s.free := rfl
@[simp] theorem freeSeq_work (s : Blk) (e : Nat) : (freeSeq s e).work = s.work := rfl

/-! `setChan` writes `xch` alone. -/
@[simp] theorem setChan_cfg (s : Blk) (ch : Nat) (v : Chan) : (setChan s ch v).cfg = s.cfg := rfl
@[simp] theorem setChan_time (s : Blk) (ch : Nat) (v : Chan) : (setChan s ch v).time = s.time := rfl
@[simp] theorem setChan_regs (s : Blk) (ch : Nat) (v : Chan) : (setChan s ch v).regs = s.regs := rfl
@[simp] theorem setChan_hi (s : Blk) (ch : Nat) (v : Chan) : (setChan s ch v).hi = s.hi := rfl
@[simp] theorem setChan_ports (s : Blk) (ch : Nat) (v : Chan) : (setChan s ch v).ports = s.ports := rfl
@[simp] theorem setChan_mem (s : Blk) (ch : Nat) (v : Chan) : (setChan s ch v).mem = s.mem := rfl
@[simp] theorem setChan_tsk (s : Blk) (ch : Nat) (v : Chan) : (setChan s ch v).tsk = s.tsk := rfl
@[simp] theorem setChan_iss (s : Blk) (ch : Nat) (v : Chan) : (setChan s ch v).iss = s.iss := rfl
@[simp] theorem setChan_sve (s : Blk) (ch : Nat) (v : Chan) : (setChan s ch v).sve = s.sve := rfl
@[simp] theorem setChan_sqt (s : Blk) (ch : Nat) (v : Chan) : (setChan s ch v).sqt = s.sqt := rfl
@[simp] theorem setChan_csq (s : Blk) (ch : Nat) (v : Chan) : (setChan s ch v).csq = s.csq := rfl
@[simp] theorem setChan_ctx (s : Blk) (ch : Nat) (v : Chan) : (setChan s ch v).ctx = s.ctx := rfl
@[simp] theorem setChan_obs (s : Blk) (ch : Nat) (v : Chan) : (setChan s ch v).obs = s.obs := rfl
@[simp] theorem setChan_dbg (s : Blk) (ch : Nat) (v : Chan) : (setChan s ch v).dbg = s.dbg := rfl
@[simp] theorem setChan_saf (s : Blk) (ch : Nat) (v : Chan) : (setChan s ch v).saf = s.saf := rfl
@[simp] theorem setChan_free (s : Blk) (ch : Nat) (v : Chan) : (setChan s ch v).free = s.free := rfl
@[simp] theorem setChan_work (s : Blk) (ch : Nat) (v : Chan) : (setChan s ch v).work = s.work := rfl

/-! `setRing` writes `xch` alone. -/
@[simp] theorem setRing_cfg (s : Blk) (g : Nat) (v : Ring) : (setRing s g v).cfg = s.cfg := rfl
@[simp] theorem setRing_time (s : Blk) (g : Nat) (v : Ring) : (setRing s g v).time = s.time := rfl
@[simp] theorem setRing_regs (s : Blk) (g : Nat) (v : Ring) : (setRing s g v).regs = s.regs := rfl
@[simp] theorem setRing_hi (s : Blk) (g : Nat) (v : Ring) : (setRing s g v).hi = s.hi := rfl
@[simp] theorem setRing_ports (s : Blk) (g : Nat) (v : Ring) : (setRing s g v).ports = s.ports := rfl
@[simp] theorem setRing_mem (s : Blk) (g : Nat) (v : Ring) : (setRing s g v).mem = s.mem := rfl
@[simp] theorem setRing_tsk (s : Blk) (g : Nat) (v : Ring) : (setRing s g v).tsk = s.tsk := rfl
@[simp] theorem setRing_iss (s : Blk) (g : Nat) (v : Ring) : (setRing s g v).iss = s.iss := rfl
@[simp] theorem setRing_sve (s : Blk) (g : Nat) (v : Ring) : (setRing s g v).sve = s.sve := rfl
@[simp] theorem setRing_sqt (s : Blk) (g : Nat) (v : Ring) : (setRing s g v).sqt = s.sqt := rfl
@[simp] theorem setRing_csq (s : Blk) (g : Nat) (v : Ring) : (setRing s g v).csq = s.csq := rfl
@[simp] theorem setRing_ctx (s : Blk) (g : Nat) (v : Ring) : (setRing s g v).ctx = s.ctx := rfl
@[simp] theorem setRing_obs (s : Blk) (g : Nat) (v : Ring) : (setRing s g v).obs = s.obs := rfl
@[simp] theorem setRing_dbg (s : Blk) (g : Nat) (v : Ring) : (setRing s g v).dbg = s.dbg := rfl
@[simp] theorem setRing_saf (s : Blk) (g : Nat) (v : Ring) : (setRing s g v).saf = s.saf := rfl
@[simp] theorem setRing_free (s : Blk) (g : Nat) (v : Ring) : (setRing s g v).free = s.free := rfl
@[simp] theorem setRing_work (s : Blk) (g : Nat) (v : Ring) : (setRing s g v).work = s.work := rfl

/-! `setOut` writes `xch` alone. -/
@[simp] theorem setOut_cfg (s : Blk) (i : Nat) (e : OutEntry) : (setOut s i e).cfg = s.cfg := rfl
@[simp] theorem setOut_time (s : Blk) (i : Nat) (e : OutEntry) : (setOut s i e).time = s.time := rfl
@[simp] theorem setOut_regs (s : Blk) (i : Nat) (e : OutEntry) : (setOut s i e).regs = s.regs := rfl
@[simp] theorem setOut_hi (s : Blk) (i : Nat) (e : OutEntry) : (setOut s i e).hi = s.hi := rfl
@[simp] theorem setOut_ports (s : Blk) (i : Nat) (e : OutEntry) : (setOut s i e).ports = s.ports := rfl
@[simp] theorem setOut_mem (s : Blk) (i : Nat) (e : OutEntry) : (setOut s i e).mem = s.mem := rfl
@[simp] theorem setOut_tsk (s : Blk) (i : Nat) (e : OutEntry) : (setOut s i e).tsk = s.tsk := rfl
@[simp] theorem setOut_iss (s : Blk) (i : Nat) (e : OutEntry) : (setOut s i e).iss = s.iss := rfl
@[simp] theorem setOut_sve (s : Blk) (i : Nat) (e : OutEntry) : (setOut s i e).sve = s.sve := rfl
@[simp] theorem setOut_sqt (s : Blk) (i : Nat) (e : OutEntry) : (setOut s i e).sqt = s.sqt := rfl
@[simp] theorem setOut_csq (s : Blk) (i : Nat) (e : OutEntry) : (setOut s i e).csq = s.csq := rfl
@[simp] theorem setOut_ctx (s : Blk) (i : Nat) (e : OutEntry) : (setOut s i e).ctx = s.ctx := rfl
@[simp] theorem setOut_obs (s : Blk) (i : Nat) (e : OutEntry) : (setOut s i e).obs = s.obs := rfl
@[simp] theorem setOut_dbg (s : Blk) (i : Nat) (e : OutEntry) : (setOut s i e).dbg = s.dbg := rfl
@[simp] theorem setOut_saf (s : Blk) (i : Nat) (e : OutEntry) : (setOut s i e).saf = s.saf := rfl
@[simp] theorem setOut_free (s : Blk) (i : Nat) (e : OutEntry) : (setOut s i e).free = s.free := rfl
@[simp] theorem setOut_work (s : Blk) (i : Nat) (e : OutEntry) : (setOut s i e).work = s.work := rfl

/-! `setRun` writes `sve` alone. -/
@[simp] theorem setRun_cfg (s : Blk) (i : Nat) (r : Run) : (setRun s i r).cfg = s.cfg := rfl
@[simp] theorem setRun_time (s : Blk) (i : Nat) (r : Run) : (setRun s i r).time = s.time := rfl
@[simp] theorem setRun_regs (s : Blk) (i : Nat) (r : Run) : (setRun s i r).regs = s.regs := rfl
@[simp] theorem setRun_hi (s : Blk) (i : Nat) (r : Run) : (setRun s i r).hi = s.hi := rfl
@[simp] theorem setRun_ports (s : Blk) (i : Nat) (r : Run) : (setRun s i r).ports = s.ports := rfl
@[simp] theorem setRun_mem (s : Blk) (i : Nat) (r : Run) : (setRun s i r).mem = s.mem := rfl
@[simp] theorem setRun_tsk (s : Blk) (i : Nat) (r : Run) : (setRun s i r).tsk = s.tsk := rfl
@[simp] theorem setRun_iss (s : Blk) (i : Nat) (r : Run) : (setRun s i r).iss = s.iss := rfl
@[simp] theorem setRun_sqt (s : Blk) (i : Nat) (r : Run) : (setRun s i r).sqt = s.sqt := rfl
@[simp] theorem setRun_csq (s : Blk) (i : Nat) (r : Run) : (setRun s i r).csq = s.csq := rfl
@[simp] theorem setRun_xch (s : Blk) (i : Nat) (r : Run) : (setRun s i r).xch = s.xch := rfl
@[simp] theorem setRun_ctx (s : Blk) (i : Nat) (r : Run) : (setRun s i r).ctx = s.ctx := rfl
@[simp] theorem setRun_obs (s : Blk) (i : Nat) (r : Run) : (setRun s i r).obs = s.obs := rfl
@[simp] theorem setRun_dbg (s : Blk) (i : Nat) (r : Run) : (setRun s i r).dbg = s.dbg := rfl
@[simp] theorem setRun_saf (s : Blk) (i : Nat) (r : Run) : (setRun s i r).saf = s.saf := rfl
@[simp] theorem setRun_free (s : Blk) (i : Nat) (r : Run) : (setRun s i r).free = s.free := rfl
@[simp] theorem setRun_work (s : Blk) (i : Nat) (r : Run) : (setRun s i r).work = s.work := rfl

/-! `setScope` writes `sve` alone. -/
@[simp] theorem setScope_cfg (s : Blk) (i : Nat) (x : XScope) : (setScope s i x).cfg = s.cfg := rfl
@[simp] theorem setScope_time (s : Blk) (i : Nat) (x : XScope) : (setScope s i x).time = s.time := rfl
@[simp] theorem setScope_regs (s : Blk) (i : Nat) (x : XScope) : (setScope s i x).regs = s.regs := rfl
@[simp] theorem setScope_hi (s : Blk) (i : Nat) (x : XScope) : (setScope s i x).hi = s.hi := rfl
@[simp] theorem setScope_ports (s : Blk) (i : Nat) (x : XScope) : (setScope s i x).ports = s.ports := rfl
@[simp] theorem setScope_mem (s : Blk) (i : Nat) (x : XScope) : (setScope s i x).mem = s.mem := rfl
@[simp] theorem setScope_tsk (s : Blk) (i : Nat) (x : XScope) : (setScope s i x).tsk = s.tsk := rfl
@[simp] theorem setScope_iss (s : Blk) (i : Nat) (x : XScope) : (setScope s i x).iss = s.iss := rfl
@[simp] theorem setScope_sqt (s : Blk) (i : Nat) (x : XScope) : (setScope s i x).sqt = s.sqt := rfl
@[simp] theorem setScope_csq (s : Blk) (i : Nat) (x : XScope) : (setScope s i x).csq = s.csq := rfl
@[simp] theorem setScope_xch (s : Blk) (i : Nat) (x : XScope) : (setScope s i x).xch = s.xch := rfl
@[simp] theorem setScope_ctx (s : Blk) (i : Nat) (x : XScope) : (setScope s i x).ctx = s.ctx := rfl
@[simp] theorem setScope_obs (s : Blk) (i : Nat) (x : XScope) : (setScope s i x).obs = s.obs := rfl
@[simp] theorem setScope_dbg (s : Blk) (i : Nat) (x : XScope) : (setScope s i x).dbg = s.dbg := rfl
@[simp] theorem setScope_saf (s : Blk) (i : Nat) (x : XScope) : (setScope s i x).saf = s.saf := rfl
@[simp] theorem setScope_free (s : Blk) (i : Nat) (x : XScope) : (setScope s i x).free = s.free := rfl
@[simp] theorem setScope_work (s : Blk) (i : Nat) (x : XScope) : (setScope s i x).work = s.work := rfl

/-! `setBuf` writes `obs` alone. -/
@[simp] theorem setBuf_cfg (s : Blk) (b : Nat) (v : TBuf) : (setBuf s b v).cfg = s.cfg := rfl
@[simp] theorem setBuf_time (s : Blk) (b : Nat) (v : TBuf) : (setBuf s b v).time = s.time := rfl
@[simp] theorem setBuf_regs (s : Blk) (b : Nat) (v : TBuf) : (setBuf s b v).regs = s.regs := rfl
@[simp] theorem setBuf_hi (s : Blk) (b : Nat) (v : TBuf) : (setBuf s b v).hi = s.hi := rfl
@[simp] theorem setBuf_ports (s : Blk) (b : Nat) (v : TBuf) : (setBuf s b v).ports = s.ports := rfl
@[simp] theorem setBuf_mem (s : Blk) (b : Nat) (v : TBuf) : (setBuf s b v).mem = s.mem := rfl
@[simp] theorem setBuf_tsk (s : Blk) (b : Nat) (v : TBuf) : (setBuf s b v).tsk = s.tsk := rfl
@[simp] theorem setBuf_iss (s : Blk) (b : Nat) (v : TBuf) : (setBuf s b v).iss = s.iss := rfl
@[simp] theorem setBuf_sve (s : Blk) (b : Nat) (v : TBuf) : (setBuf s b v).sve = s.sve := rfl
@[simp] theorem setBuf_sqt (s : Blk) (b : Nat) (v : TBuf) : (setBuf s b v).sqt = s.sqt := rfl
@[simp] theorem setBuf_csq (s : Blk) (b : Nat) (v : TBuf) : (setBuf s b v).csq = s.csq := rfl
@[simp] theorem setBuf_xch (s : Blk) (b : Nat) (v : TBuf) : (setBuf s b v).xch = s.xch := rfl
@[simp] theorem setBuf_ctx (s : Blk) (b : Nat) (v : TBuf) : (setBuf s b v).ctx = s.ctx := rfl
@[simp] theorem setBuf_dbg (s : Blk) (b : Nat) (v : TBuf) : (setBuf s b v).dbg = s.dbg := rfl
@[simp] theorem setBuf_saf (s : Blk) (b : Nat) (v : TBuf) : (setBuf s b v).saf = s.saf := rfl
@[simp] theorem setBuf_free (s : Blk) (b : Nat) (v : TBuf) : (setBuf s b v).free = s.free := rfl
@[simp] theorem setBuf_work (s : Blk) (b : Nat) (v : TBuf) : (setBuf s b v).work = s.work := rfl

/-! `evRaw` writes `obs` alone. -/
@[simp] theorem evRaw_cfg (s : Blk) (src : Nat) (c : Option Nat) (k : Nat) : (evRaw s src c k).cfg = s.cfg := rfl
@[simp] theorem evRaw_time (s : Blk) (src : Nat) (c : Option Nat) (k : Nat) : (evRaw s src c k).time = s.time := rfl
@[simp] theorem evRaw_regs (s : Blk) (src : Nat) (c : Option Nat) (k : Nat) : (evRaw s src c k).regs = s.regs := rfl
@[simp] theorem evRaw_hi (s : Blk) (src : Nat) (c : Option Nat) (k : Nat) : (evRaw s src c k).hi = s.hi := rfl
@[simp] theorem evRaw_ports (s : Blk) (src : Nat) (c : Option Nat) (k : Nat) : (evRaw s src c k).ports = s.ports := rfl
@[simp] theorem evRaw_mem (s : Blk) (src : Nat) (c : Option Nat) (k : Nat) : (evRaw s src c k).mem = s.mem := rfl
@[simp] theorem evRaw_tsk (s : Blk) (src : Nat) (c : Option Nat) (k : Nat) : (evRaw s src c k).tsk = s.tsk := rfl
@[simp] theorem evRaw_iss (s : Blk) (src : Nat) (c : Option Nat) (k : Nat) : (evRaw s src c k).iss = s.iss := rfl
@[simp] theorem evRaw_sve (s : Blk) (src : Nat) (c : Option Nat) (k : Nat) : (evRaw s src c k).sve = s.sve := rfl
@[simp] theorem evRaw_sqt (s : Blk) (src : Nat) (c : Option Nat) (k : Nat) : (evRaw s src c k).sqt = s.sqt := rfl
@[simp] theorem evRaw_csq (s : Blk) (src : Nat) (c : Option Nat) (k : Nat) : (evRaw s src c k).csq = s.csq := rfl
@[simp] theorem evRaw_xch (s : Blk) (src : Nat) (c : Option Nat) (k : Nat) : (evRaw s src c k).xch = s.xch := rfl
@[simp] theorem evRaw_ctx (s : Blk) (src : Nat) (c : Option Nat) (k : Nat) : (evRaw s src c k).ctx = s.ctx := rfl
@[simp] theorem evRaw_dbg (s : Blk) (src : Nat) (c : Option Nat) (k : Nat) : (evRaw s src c k).dbg = s.dbg := rfl
@[simp] theorem evRaw_saf (s : Blk) (src : Nat) (c : Option Nat) (k : Nat) : (evRaw s src c k).saf = s.saf := rfl
@[simp] theorem evRaw_free (s : Blk) (src : Nat) (c : Option Nat) (k : Nat) : (evRaw s src c k).free = s.free := rfl
@[simp] theorem evRaw_work (s : Blk) (src : Nat) (c : Option Nat) (k : Nat) : (evRaw s src c k).work = s.work := rfl

/-! `setOcc` writes `iss` alone. -/
@[simp] theorem setOcc_cfg (s : Blk) (e c n : Nat) : (setOcc s e c n).cfg = s.cfg := rfl
@[simp] theorem setOcc_time (s : Blk) (e c n : Nat) : (setOcc s e c n).time = s.time := rfl
@[simp] theorem setOcc_regs (s : Blk) (e c n : Nat) : (setOcc s e c n).regs = s.regs := rfl
@[simp] theorem setOcc_hi (s : Blk) (e c n : Nat) : (setOcc s e c n).hi = s.hi := rfl
@[simp] theorem setOcc_ports (s : Blk) (e c n : Nat) : (setOcc s e c n).ports = s.ports := rfl
@[simp] theorem setOcc_mem (s : Blk) (e c n : Nat) : (setOcc s e c n).mem = s.mem := rfl
@[simp] theorem setOcc_tsk (s : Blk) (e c n : Nat) : (setOcc s e c n).tsk = s.tsk := rfl
@[simp] theorem setOcc_sve (s : Blk) (e c n : Nat) : (setOcc s e c n).sve = s.sve := rfl
@[simp] theorem setOcc_sqt (s : Blk) (e c n : Nat) : (setOcc s e c n).sqt = s.sqt := rfl
@[simp] theorem setOcc_csq (s : Blk) (e c n : Nat) : (setOcc s e c n).csq = s.csq := rfl
@[simp] theorem setOcc_xch (s : Blk) (e c n : Nat) : (setOcc s e c n).xch = s.xch := rfl
@[simp] theorem setOcc_ctx (s : Blk) (e c n : Nat) : (setOcc s e c n).ctx = s.ctx := rfl
@[simp] theorem setOcc_obs (s : Blk) (e c n : Nat) : (setOcc s e c n).obs = s.obs := rfl
@[simp] theorem setOcc_dbg (s : Blk) (e c n : Nat) : (setOcc s e c n).dbg = s.dbg := rfl
@[simp] theorem setOcc_saf (s : Blk) (e c n : Nat) : (setOcc s e c n).saf = s.saf := rfl
@[simp] theorem setOcc_free (s : Blk) (e c n : Nat) : (setOcc s e c n).free = s.free := rfl
@[simp] theorem setOcc_work (s : Blk) (e c n : Nat) : (setOcc s e c n).work = s.work := rfl

/-! `setLog` writes `saf` alone. -/
@[simp] theorem setLog_cfg (s : Blk) (n : Nat) (l : ELog) : (setLog s n l).cfg = s.cfg := rfl
@[simp] theorem setLog_time (s : Blk) (n : Nat) (l : ELog) : (setLog s n l).time = s.time := rfl
@[simp] theorem setLog_regs (s : Blk) (n : Nat) (l : ELog) : (setLog s n l).regs = s.regs := rfl
@[simp] theorem setLog_hi (s : Blk) (n : Nat) (l : ELog) : (setLog s n l).hi = s.hi := rfl
@[simp] theorem setLog_ports (s : Blk) (n : Nat) (l : ELog) : (setLog s n l).ports = s.ports := rfl
@[simp] theorem setLog_mem (s : Blk) (n : Nat) (l : ELog) : (setLog s n l).mem = s.mem := rfl
@[simp] theorem setLog_tsk (s : Blk) (n : Nat) (l : ELog) : (setLog s n l).tsk = s.tsk := rfl
@[simp] theorem setLog_iss (s : Blk) (n : Nat) (l : ELog) : (setLog s n l).iss = s.iss := rfl
@[simp] theorem setLog_sve (s : Blk) (n : Nat) (l : ELog) : (setLog s n l).sve = s.sve := rfl
@[simp] theorem setLog_sqt (s : Blk) (n : Nat) (l : ELog) : (setLog s n l).sqt = s.sqt := rfl
@[simp] theorem setLog_csq (s : Blk) (n : Nat) (l : ELog) : (setLog s n l).csq = s.csq := rfl
@[simp] theorem setLog_xch (s : Blk) (n : Nat) (l : ELog) : (setLog s n l).xch = s.xch := rfl
@[simp] theorem setLog_ctx (s : Blk) (n : Nat) (l : ELog) : (setLog s n l).ctx = s.ctx := rfl
@[simp] theorem setLog_obs (s : Blk) (n : Nat) (l : ELog) : (setLog s n l).obs = s.obs := rfl
@[simp] theorem setLog_dbg (s : Blk) (n : Nat) (l : ELog) : (setLog s n l).dbg = s.dbg := rfl
@[simp] theorem setLog_free (s : Blk) (n : Nat) (l : ELog) : (setLog s n l).free = s.free := rfl
@[simp] theorem setLog_work (s : Blk) (n : Nat) (l : ELog) : (setLog s n l).work = s.work := rfl

/-! `setDbg` writes `dbg` alone. -/
@[simp] theorem setDbg_cfg (s : Blk) (d : Dbg) : (setDbg s d).cfg = s.cfg := rfl
@[simp] theorem setDbg_time (s : Blk) (d : Dbg) : (setDbg s d).time = s.time := rfl
@[simp] theorem setDbg_regs (s : Blk) (d : Dbg) : (setDbg s d).regs = s.regs := rfl
@[simp] theorem setDbg_hi (s : Blk) (d : Dbg) : (setDbg s d).hi = s.hi := rfl
@[simp] theorem setDbg_ports (s : Blk) (d : Dbg) : (setDbg s d).ports = s.ports := rfl
@[simp] theorem setDbg_mem (s : Blk) (d : Dbg) : (setDbg s d).mem = s.mem := rfl
@[simp] theorem setDbg_tsk (s : Blk) (d : Dbg) : (setDbg s d).tsk = s.tsk := rfl
@[simp] theorem setDbg_iss (s : Blk) (d : Dbg) : (setDbg s d).iss = s.iss := rfl
@[simp] theorem setDbg_sve (s : Blk) (d : Dbg) : (setDbg s d).sve = s.sve := rfl
@[simp] theorem setDbg_sqt (s : Blk) (d : Dbg) : (setDbg s d).sqt = s.sqt := rfl
@[simp] theorem setDbg_csq (s : Blk) (d : Dbg) : (setDbg s d).csq = s.csq := rfl
@[simp] theorem setDbg_xch (s : Blk) (d : Dbg) : (setDbg s d).xch = s.xch := rfl
@[simp] theorem setDbg_ctx (s : Blk) (d : Dbg) : (setDbg s d).ctx = s.ctx := rfl
@[simp] theorem setDbg_obs (s : Blk) (d : Dbg) : (setDbg s d).obs = s.obs := rfl
@[simp] theorem setDbg_saf (s : Blk) (d : Dbg) : (setDbg s d).saf = s.saf := rfl
@[simp] theorem setDbg_free (s : Blk) (d : Dbg) : (setDbg s d).free = s.free := rfl
@[simp] theorem setDbg_work (s : Blk) (d : Dbg) : (setDbg s d).work = s.work := rfl

/-! `modCfg` writes `cfg` alone. -/
@[simp] theorem modCfg_time (s : Blk) (f : Cfg → Cfg) : (modCfg s f).time = s.time := rfl
@[simp] theorem modCfg_regs (s : Blk) (f : Cfg → Cfg) : (modCfg s f).regs = s.regs := rfl
@[simp] theorem modCfg_hi (s : Blk) (f : Cfg → Cfg) : (modCfg s f).hi = s.hi := rfl
@[simp] theorem modCfg_ports (s : Blk) (f : Cfg → Cfg) : (modCfg s f).ports = s.ports := rfl
@[simp] theorem modCfg_mem (s : Blk) (f : Cfg → Cfg) : (modCfg s f).mem = s.mem := rfl
@[simp] theorem modCfg_tsk (s : Blk) (f : Cfg → Cfg) : (modCfg s f).tsk = s.tsk := rfl
@[simp] theorem modCfg_iss (s : Blk) (f : Cfg → Cfg) : (modCfg s f).iss = s.iss := rfl
@[simp] theorem modCfg_sve (s : Blk) (f : Cfg → Cfg) : (modCfg s f).sve = s.sve := rfl
@[simp] theorem modCfg_sqt (s : Blk) (f : Cfg → Cfg) : (modCfg s f).sqt = s.sqt := rfl
@[simp] theorem modCfg_csq (s : Blk) (f : Cfg → Cfg) : (modCfg s f).csq = s.csq := rfl
@[simp] theorem modCfg_xch (s : Blk) (f : Cfg → Cfg) : (modCfg s f).xch = s.xch := rfl
@[simp] theorem modCfg_ctx (s : Blk) (f : Cfg → Cfg) : (modCfg s f).ctx = s.ctx := rfl
@[simp] theorem modCfg_obs (s : Blk) (f : Cfg → Cfg) : (modCfg s f).obs = s.obs := rfl
@[simp] theorem modCfg_dbg (s : Blk) (f : Cfg → Cfg) : (modCfg s f).dbg = s.dbg := rfl
@[simp] theorem modCfg_saf (s : Blk) (f : Cfg → Cfg) : (modCfg s f).saf = s.saf := rfl
@[simp] theorem modCfg_free (s : Blk) (f : Cfg → Cfg) : (modCfg s f).free = s.free := rfl
@[simp] theorem modCfg_work (s : Blk) (f : Cfg → Cfg) : (modCfg s f).work = s.work := rfl

/-! `rgpEnd` writes `ports` alone. -/
@[simp] theorem rgpEnd_cfg (s : Blk) (status : Nat) (data : Word) : (rgpEnd s status data).cfg = s.cfg := rfl
@[simp] theorem rgpEnd_time (s : Blk) (status : Nat) (data : Word) : (rgpEnd s status data).time = s.time := rfl
@[simp] theorem rgpEnd_regs (s : Blk) (status : Nat) (data : Word) : (rgpEnd s status data).regs = s.regs := rfl
@[simp] theorem rgpEnd_hi (s : Blk) (status : Nat) (data : Word) : (rgpEnd s status data).hi = s.hi := rfl
@[simp] theorem rgpEnd_mem (s : Blk) (status : Nat) (data : Word) : (rgpEnd s status data).mem = s.mem := rfl
@[simp] theorem rgpEnd_tsk (s : Blk) (status : Nat) (data : Word) : (rgpEnd s status data).tsk = s.tsk := rfl
@[simp] theorem rgpEnd_iss (s : Blk) (status : Nat) (data : Word) : (rgpEnd s status data).iss = s.iss := rfl
@[simp] theorem rgpEnd_sve (s : Blk) (status : Nat) (data : Word) : (rgpEnd s status data).sve = s.sve := rfl
@[simp] theorem rgpEnd_sqt (s : Blk) (status : Nat) (data : Word) : (rgpEnd s status data).sqt = s.sqt := rfl
@[simp] theorem rgpEnd_csq (s : Blk) (status : Nat) (data : Word) : (rgpEnd s status data).csq = s.csq := rfl
@[simp] theorem rgpEnd_xch (s : Blk) (status : Nat) (data : Word) : (rgpEnd s status data).xch = s.xch := rfl
@[simp] theorem rgpEnd_ctx (s : Blk) (status : Nat) (data : Word) : (rgpEnd s status data).ctx = s.ctx := rfl
@[simp] theorem rgpEnd_obs (s : Blk) (status : Nat) (data : Word) : (rgpEnd s status data).obs = s.obs := rfl
@[simp] theorem rgpEnd_dbg (s : Blk) (status : Nat) (data : Word) : (rgpEnd s status data).dbg = s.dbg := rfl
@[simp] theorem rgpEnd_saf (s : Blk) (status : Nat) (data : Word) : (rgpEnd s status data).saf = s.saf := rfl
@[simp] theorem rgpEnd_free (s : Blk) (status : Nat) (data : Word) : (rgpEnd s status data).free = s.free := rfl
@[simp] theorem rgpEnd_work (s : Blk) (status : Nat) (data : Word) : (rgpEnd s status data).work = s.work := rfl

/-! `setRcpErr` writes `ports` alone. -/
@[simp] theorem setRcpErr_cfg (s : Blk) (n code : Nat) : (setRcpErr s n code).cfg = s.cfg := rfl
@[simp] theorem setRcpErr_time (s : Blk) (n code : Nat) : (setRcpErr s n code).time = s.time := rfl
@[simp] theorem setRcpErr_regs (s : Blk) (n code : Nat) : (setRcpErr s n code).regs = s.regs := rfl
@[simp] theorem setRcpErr_hi (s : Blk) (n code : Nat) : (setRcpErr s n code).hi = s.hi := rfl
@[simp] theorem setRcpErr_mem (s : Blk) (n code : Nat) : (setRcpErr s n code).mem = s.mem := rfl
@[simp] theorem setRcpErr_tsk (s : Blk) (n code : Nat) : (setRcpErr s n code).tsk = s.tsk := rfl
@[simp] theorem setRcpErr_iss (s : Blk) (n code : Nat) : (setRcpErr s n code).iss = s.iss := rfl
@[simp] theorem setRcpErr_sve (s : Blk) (n code : Nat) : (setRcpErr s n code).sve = s.sve := rfl
@[simp] theorem setRcpErr_sqt (s : Blk) (n code : Nat) : (setRcpErr s n code).sqt = s.sqt := rfl
@[simp] theorem setRcpErr_csq (s : Blk) (n code : Nat) : (setRcpErr s n code).csq = s.csq := rfl
@[simp] theorem setRcpErr_xch (s : Blk) (n code : Nat) : (setRcpErr s n code).xch = s.xch := rfl
@[simp] theorem setRcpErr_ctx (s : Blk) (n code : Nat) : (setRcpErr s n code).ctx = s.ctx := rfl
@[simp] theorem setRcpErr_obs (s : Blk) (n code : Nat) : (setRcpErr s n code).obs = s.obs := rfl
@[simp] theorem setRcpErr_dbg (s : Blk) (n code : Nat) : (setRcpErr s n code).dbg = s.dbg := rfl
@[simp] theorem setRcpErr_saf (s : Blk) (n code : Nat) : (setRcpErr s n code).saf = s.saf := rfl
@[simp] theorem setRcpErr_free (s : Blk) (n code : Nat) : (setRcpErr s n code).free = s.free := rfl
@[simp] theorem setRcpErr_work (s : Blk) (n code : Nat) : (setRcpErr s n code).work = s.work := rfl

/-! `freeTag` writes `mem` alone. -/
@[simp] theorem freeTag_cfg (s : Blk) (tag : Nat) : (freeTag s tag).cfg = s.cfg := rfl
@[simp] theorem freeTag_time (s : Blk) (tag : Nat) : (freeTag s tag).time = s.time := rfl
@[simp] theorem freeTag_regs (s : Blk) (tag : Nat) : (freeTag s tag).regs = s.regs := rfl
@[simp] theorem freeTag_hi (s : Blk) (tag : Nat) : (freeTag s tag).hi = s.hi := rfl
@[simp] theorem freeTag_ports (s : Blk) (tag : Nat) : (freeTag s tag).ports = s.ports := rfl
@[simp] theorem freeTag_tsk (s : Blk) (tag : Nat) : (freeTag s tag).tsk = s.tsk := rfl
@[simp] theorem freeTag_iss (s : Blk) (tag : Nat) : (freeTag s tag).iss = s.iss := rfl
@[simp] theorem freeTag_sve (s : Blk) (tag : Nat) : (freeTag s tag).sve = s.sve := rfl
@[simp] theorem freeTag_sqt (s : Blk) (tag : Nat) : (freeTag s tag).sqt = s.sqt := rfl
@[simp] theorem freeTag_csq (s : Blk) (tag : Nat) : (freeTag s tag).csq = s.csq := rfl
@[simp] theorem freeTag_xch (s : Blk) (tag : Nat) : (freeTag s tag).xch = s.xch := rfl
@[simp] theorem freeTag_ctx (s : Blk) (tag : Nat) : (freeTag s tag).ctx = s.ctx := rfl
@[simp] theorem freeTag_obs (s : Blk) (tag : Nat) : (freeTag s tag).obs = s.obs := rfl
@[simp] theorem freeTag_dbg (s : Blk) (tag : Nat) : (freeTag s tag).dbg = s.dbg := rfl
@[simp] theorem freeTag_saf (s : Blk) (tag : Nat) : (freeTag s tag).saf = s.saf := rfl
@[simp] theorem freeTag_free (s : Blk) (tag : Nat) : (freeTag s tag).free = s.free := rfl
@[simp] theorem freeTag_work (s : Blk) (tag : Nat) : (freeTag s tag).work = s.work := rfl

/-! `takeWait` writes `mem` alone. -/
@[simp] theorem takeWait_cfg (s : Blk) (i : Nat) : (takeWait s i).cfg = s.cfg := rfl
@[simp] theorem takeWait_time (s : Blk) (i : Nat) : (takeWait s i).time = s.time := rfl
@[simp] theorem takeWait_regs (s : Blk) (i : Nat) : (takeWait s i).regs = s.regs := rfl
@[simp] theorem takeWait_hi (s : Blk) (i : Nat) : (takeWait s i).hi = s.hi := rfl
@[simp] theorem takeWait_ports (s : Blk) (i : Nat) : (takeWait s i).ports = s.ports := rfl
@[simp] theorem takeWait_tsk (s : Blk) (i : Nat) : (takeWait s i).tsk = s.tsk := rfl
@[simp] theorem takeWait_iss (s : Blk) (i : Nat) : (takeWait s i).iss = s.iss := rfl
@[simp] theorem takeWait_sve (s : Blk) (i : Nat) : (takeWait s i).sve = s.sve := rfl
@[simp] theorem takeWait_sqt (s : Blk) (i : Nat) : (takeWait s i).sqt = s.sqt := rfl
@[simp] theorem takeWait_csq (s : Blk) (i : Nat) : (takeWait s i).csq = s.csq := rfl
@[simp] theorem takeWait_xch (s : Blk) (i : Nat) : (takeWait s i).xch = s.xch := rfl
@[simp] theorem takeWait_ctx (s : Blk) (i : Nat) : (takeWait s i).ctx = s.ctx := rfl
@[simp] theorem takeWait_obs (s : Blk) (i : Nat) : (takeWait s i).obs = s.obs := rfl
@[simp] theorem takeWait_dbg (s : Blk) (i : Nat) : (takeWait s i).dbg = s.dbg := rfl
@[simp] theorem takeWait_saf (s : Blk) (i : Nat) : (takeWait s i).saf = s.saf := rfl
@[simp] theorem takeWait_free (s : Blk) (i : Nat) : (takeWait s i).free = s.free := rfl
@[simp] theorem takeWait_work (s : Blk) (i : Nat) : (takeWait s i).work = s.work := rfl

end Sys2Proof.Machine
end

