-- ==== Sys2Proof/Laws/Store.lean ====
section
/-! SUPPORT. Sparse stores: what a read gives after a write, and that every operation keeps the canonical form. -/
namespace Sys2Proof.Machine

variable {α : Type}

/-! ## Reads after writes -/

@[simp] theorem get?_set_same (m : Store α) (k : Nat) (v : α) : Store.get? (Store.set m k v) k = some v := by
  induction m with
  | nil => simp [Store.set, Store.get?]
  | cons p r ih =>
    obtain ⟨k', v'⟩ := p
    simp only [Store.set]
    split
    · simp [Store.get?]
    · split
      · simp [Store.get?]
      · rename_i h; simp [Store.get?, Ne.symm h, ih]

theorem get?_set_other (m : Store α) {k j : Nat} (v : α) (h : j ≠ k) :
    Store.get? (Store.set m k v) j = Store.get? m j := by
  induction m with
  | nil => simp [Store.set, Store.get?, h.symm]
  | cons p r ih =>
    obtain ⟨k', v'⟩ := p
    simp only [Store.set]
    split
    · simp [Store.get?, h.symm]
    · split
      · rename_i e; subst e; simp [Store.get?, h.symm]
      · simp [Store.get?, ih]

@[simp] theorem get?_erase_same (m : Store α) (k : Nat) : Store.get? (Store.erase m k) k = none := by
  induction m with
  | nil => rfl
  | cons p r ih =>
    obtain ⟨k', v'⟩ := p
    by_cases e : k' = k <;> simp [Store.erase, Store.get?, e, ih]

theorem get?_erase_other (m : Store α) {k j : Nat} (h : j ≠ k) : Store.get? (Store.erase m k) j = Store.get? m j := by
  induction m with
  | nil => rfl
  | cons p r ih =>
    obtain ⟨k', v'⟩ := p
    by_cases e : k' = k
    · subst e; simp [Store.erase, Store.get?, h.symm, ih]
    · by_cases e' : k' = j
      · simp [Store.erase, Store.get?, e']; split <;> simp_all [Store.get?]
      · simp [Store.erase, Store.get?, e, e', ih]

theorem set_set (m : Store α) (k : Nat) (v w : α) : Store.set (Store.set m k v) k w = Store.set m k w := by
  induction m with
  | nil => simp [Store.set]
  | cons p r ih =>
    obtain ⟨a, b⟩ := p
    by_cases h1 : k < a
    · simp [Store.set, h1]
    · by_cases h2 : k = a
      · simp [Store.set, h2]
      · simp [Store.set, h1, h2, ih]

theorem get?_modify_same (m : Store α) (k : Nat) (f : α → α) :
    Store.get? (Store.modify m k f) k = (Store.get? m k).map f := by
  unfold Store.modify
  induction m with
  | nil => rfl
  | cons p r ih =>
    obtain ⟨a, b⟩ := p
    by_cases h : a = k
    · simp [Store.get?, h]
    · simp only [List.map_cons, h, if_false, Store.get?, ih]

variable [DecidableEq α]

@[simp] theorem getD_put_same (d : α) (m : Store α) (k : Nat) (v : α) : Store.getD (Store.put d m k v) k d = v := by
  unfold Store.put Store.getD
  split
  · rename_i h; simp [h]
  · simp

theorem getD_put_other (d : α) (m : Store α) {k j : Nat} (v : α) (h : j ≠ k) :
    Store.getD (Store.put d m k v) j d = Store.getD m j d := by
  unfold Store.put Store.getD
  split
  · rw [get?_erase_other m h]
  · rw [get?_set_other m v h]

/-! ## The canonical form -/

omit [DecidableEq α] in
/-- The form, as rising indices. -/
theorem wf_iff (m : Store α) : Store.wf m = true ↔ (m.map Prod.fst).Pairwise (· < ·) := by
  induction m with
  | nil => simp [Store.wf]
  | cons p r ih =>
    cases r with
    | nil => simp [Store.wf]
    | cons q r =>
      obtain ⟨a, v⟩ := p
      obtain ⟨b, w⟩ := q
      simp only [Store.wf, Bool.and_eq_true, decide_eq_true_eq, ih, List.map_cons, List.pairwise_cons, List.mem_cons]
      constructor
      · rintro ⟨h, h1, h2⟩
        refine ⟨?_, h1, h2⟩
        rintro x (rfl | hx)
        · exact h
        · exact Nat.lt_trans h (h1 x hx)
      · rintro ⟨h, h1, h2⟩
        exact ⟨h b (.inl rfl), h1, h2⟩

omit [DecidableEq α] in
/-- An index of a store after a write is the one written, or was there. -/
theorem keys_set (m : Store α) (k : Nat) (v : α) {x : Nat} (h : x ∈ (Store.set m k v).map Prod.fst) :
    x = k ∨ x ∈ m.map Prod.fst := by
  induction m with
  | nil => simpa [Store.set] using h
  | cons p r ih =>
    obtain ⟨k', v'⟩ := p
    simp only [Store.set] at h
    split at h
    · simp at h ⊢; tauto
    · split at h
      · simp at h ⊢; tauto
      · simp only [List.map_cons, List.mem_cons] at h ⊢
        rcases h with rfl | h
        · exact .inr (.inl rfl)
        · rcases ih h with h | h
          · exact .inl h
          · exact .inr (.inr h)

omit [DecidableEq α] in
theorem keys_erase (m : Store α) (k : Nat) {x : Nat} (h : x ∈ (Store.erase m k).map Prod.fst) : x ∈ m.map Prod.fst := by
  induction m with
  | nil => exact h
  | cons p r ih =>
    obtain ⟨k', v'⟩ := p
    simp only [Store.erase] at h
    split at h
    · exact List.mem_cons_of_mem _ (ih h)
    · simp only [List.map_cons, List.mem_cons] at h ⊢
      exact h.imp id ih

omit [DecidableEq α] in
/-- Listing an entry keeps the form. -/
theorem set_wf (m : Store α) (k : Nat) (v : α) (h : Store.wf m = true) : Store.wf (Store.set m k v) = true := by
  rw [wf_iff] at h ⊢
  induction m with
  | nil => simp [Store.set]
  | cons p r ih =>
    obtain ⟨k', v'⟩ := p
    simp only [List.map_cons, List.pairwise_cons] at h
    simp only [Store.set]
    split
    · rename_i hk
      simp only [List.map_cons, List.pairwise_cons, List.mem_cons]
      refine ⟨?_, h⟩
      rintro x (rfl | hx)
      · exact hk
      · exact Nat.lt_trans hk (h.1 x hx)
    · split
      · rename_i e; subst e; simpa using h
      · rename_i h1 h2
        simp only [List.map_cons, List.pairwise_cons]
        refine ⟨fun x hx => ?_, ih h.2⟩
        rcases keys_set r k v hx with rfl | hx
        · omega
        · exact h.1 x hx

omit [DecidableEq α] in
/-- Taking an entry out keeps the form. -/
theorem erase_wf (m : Store α) (k : Nat) (h : Store.wf m = true) : Store.wf (Store.erase m k) = true := by
  rw [wf_iff] at h ⊢
  induction m with
  | nil => exact h
  | cons p r ih =>
    obtain ⟨k', v'⟩ := p
    simp only [List.map_cons, List.pairwise_cons] at h
    simp only [Store.erase]
    split
    · exact ih h.2
    · simp only [List.map_cons, List.pairwise_cons]
      exact ⟨fun x hx => h.1 x (keys_erase r k hx), ih h.2⟩

omit [DecidableEq α] in
/-- Changing an entry in place keeps the form. -/
theorem modify_wf (m : Store α) (k : Nat) (f : α → α) (h : Store.wf m = true) : Store.wf (Store.modify m k f) = true := by
  rw [wf_iff] at h ⊢
  have : (Store.modify m k f).map Prod.fst = m.map Prod.fst := by
    unfold Store.modify
    rw [List.map_map]
    apply List.map_congr_left
    intro p _
    simp only [Function.comp]
    split <;> rfl
  rw [this]; exact h

omit [DecidableEq α] in
theorem mem_set (m : Store α) (k : Nat) (v : α) {p : Nat × α} (h : p ∈ Store.set m k v) : p = (k, v) ∨ p ∈ m := by
  induction m with
  | nil => simpa [Store.set] using h
  | cons q r ih =>
    obtain ⟨k', v'⟩ := q
    simp only [Store.set] at h
    split at h
    · simpa using h
    · split at h
      · simp only [List.mem_cons] at h ⊢; tauto
      · simp only [List.mem_cons] at h ⊢
        rcases h with h | h
        · exact .inr (.inl h)
        · exact (ih h).imp id .inr

omit [DecidableEq α] in
theorem mem_erase (m : Store α) (k : Nat) {p : Nat × α} (h : p ∈ Store.erase m k) : p ∈ m := by
  induction m with
  | nil => exact h
  | cons q r ih =>
    obtain ⟨k', v'⟩ := q
    simp only [Store.erase] at h
    split at h
    · exact List.mem_cons_of_mem _ (ih h)
    · simp only [List.mem_cons] at h ⊢
      exact h.imp id ih

/-- A write of a store with a default keeps its canonical form: no listed entry equals the default. -/
theorem put_wfD (d : α) (m : Store α) (k : Nat) (v : α) (h : Store.wfD d m = true) : Store.wfD d (Store.put d m k v) = true := by
  simp only [Store.wfD, Bool.and_eq_true, List.all_eq_true, decide_eq_true_eq] at h ⊢
  unfold Store.put
  split
  · exact ⟨erase_wf m k h.1, fun p hp => h.2 p (mem_erase m k hp)⟩
  · rename_i hv
    refine ⟨set_wf m k v h.1, fun p hp => ?_⟩
    rcases mem_set m k v hp with rfl | hp
    · exact hv
    · exact h.2 p hp

end Sys2Proof.Machine
end

