-- ==== Sys2Proof/Laws/Obs.lean ====
section
/-! SUPPORT. What counting, tracing, triggering, logging and alarms can do to the block: each is said once, as the parts that it
leaves alone. -/
namespace Sys2Proof.Machine

/-! ## Registers -/

theorem regDefault_lt (k : Nat) : regDefault k < 2 ^ 32 := by
  unfold regDefault
  simp only []
  split
  · decide
  · cases h : coldTable.find? (fun p => p.1 == k % 0x1000000) with
    | none => decide
    | some p =>
      have all : ∀ p ∈ coldTable, p.2 < 2 ^ 32 := by decide
      exact all p (List.mem_of_find?_eq_some h)

theorem releaseSet_lt (o : Nat) : releaseSet o < 2 ^ 32 := by
  unfold releaseSet
  split <;> decide

theorem regRelease_lt (k : Nat) : regRelease k < 2 ^ 32 := by
  unfold regRelease
  simp only []
  split
  · exact releaseSet_lt _
  · split
    · rename_i p hp
      have all : ∀ p ∈ releaseTable, p.2 < 2 ^ 32 := by decide
      exact all p (List.mem_of_find?_eq_some hp)
    · exact regDefault_lt k

/-- What an unlisted register word holds is a word. -/
theorem regUnlisted_lt (s : Blk) (k : Nat) : regUnlisted s k < 2 ^ 32 := by
  unfold regUnlisted
  split
  · exact regRelease_lt k
  · exact regDefault_lt k

/-- A register word reads what was written to it. -/
@[simp] theorem rg_wr_same (s : Blk) (k v : Nat) : rg (wr s k v) k = v % 2 ^ 32 := by
  unfold rg wr Store.put
  by_cases h : w32 v = w32 (regUnlisted s k)
  · have e := congrArg BitVec.toNat h
    simp only [w32, BitVec.toNat_ofNat, Nat.mod_eq_of_lt (regUnlisted_lt s k)] at e
    simp only [h, ↓reduceIte, get?_erase_same]
    exact e.symm
  · simp only [h, ↓reduceIte, get?_set_same]
    simp [w32]

/-- A write of one register word leaves every other as it was. -/
theorem rg_wr_other (s : Blk) {k j : Nat} (v : Nat) (h : j ≠ k) : rg (wr s k v) j = rg s j := by
  unfold rg wr Store.put
  by_cases e : w32 v = w32 (regUnlisted s k)
  · simp only [e, ↓reduceIte, get?_erase_other _ h]; rfl
  · simp only [e, ↓reduceIte, get?_set_other _ _ h]; rfl

/-- A register word is a word. -/
theorem rg_lt (s : Blk) (k : Nat) : rg s k < 2 ^ 32 := by
  unfold rg
  split
  · exact BitVec.isLt _
  · exact regUnlisted_lt s k

/-! ## Observation -/

/-- `t` differs from `s` at most in registers, observation and the Blotter: all that counting, tracing, triggering and asking for
a blot can change (R23). -/
def ObsOnly (s t : Blk) : Prop := t = { s with regs := t.regs, obs := t.obs, dbg := t.dbg }

namespace ObsOnly

theorem rfl' (s : Blk) : ObsOnly s s := rfl

theorem trans {s t u : Blk} (h : ObsOnly s t) (k : ObsOnly t u) : ObsOnly s u := by
  unfold ObsOnly at *; rw [k, h]

theorem wr (s : Blk) (k v : Nat) : ObsOnly s (wr s k v) := rfl

theorem evRaw (s : Blk) (src : Nat) (c : Option Nat) (k : Nat) : ObsOnly s (evRaw s src c k) := rfl

theorem setBuf (s : Blk) (b : Nat) (v : TBuf) : ObsOnly s (setBuf s b v) := rfl

theorem bumpN (s : Blk) (k n : Nat) : ObsOnly s (bumpN s k n) := by unfold Machine.bumpN; split <;> rfl

theorem bump (s : Blk) (k : Nat) : ObsOnly s (bump s k) := bumpN s k 1

theorem forEach {α : Type} (f : Blk → α → Blk) (hf : ∀ s x, ObsOnly s (f s x)) (xs : List α) (s : Blk) :
    ObsOnly s (forEach xs s f) := by
  unfold Machine.forEach
  induction xs generalizing s with
  | nil => exact rfl' s
  | cons x r ih => exact (hf s x).trans (ih _)

theorem loseRecs (s : Blk) (b : Nat) (l : List Word256) : ObsOnly s (loseRecs s b l) := by
  unfold Machine.loseRecs
  split
  · exact ((setBuf _ _ _).trans (bumpN _ _ _)).trans (evRaw _ _ _ _)
  · rfl

theorem bufPut (s : Blk) (b : Nat) (w : Word256) : ObsOnly s (bufPut s b w) := by
  unfold Machine.bufPut
  simp only []
  split
  · rfl
  · split
    · exact setBuf _ _ _
    · exact (loseRecs _ _ _).trans (setBuf _ _ _)
  · split
    · exact (setBuf _ _ _).trans (wr _ _ _)
    · exact setBuf _ _ _
  · exact bump _ _

theorem blotAskRaw (s : Blk) (r : BlotReq) : ObsOnly s (blotAskRaw s r) := by
  unfold Machine.blotAskRaw
  simp only []
  have d : ObsOnly s (Machine.evRaw (orBits (Machine.bump s rDbgDrop) rDbgIrq 2) 0x14c none 1) :=
    ((bump _ _).trans (wr _ _ _)).trans (evRaw _ _ _ _)
  split
  · exact d
  · split
    · rfl
    · split
      · rfl
      · exact d

theorem blotAutoRaw (s : Blk) (b x y z : Nat) : ObsOnly s (blotAutoRaw s b x y z) := by
  unfold Machine.blotAutoRaw; split
  · exact blotAskRaw _ _
  · rfl

theorem trigBuf (s : Blk) (b : Nat) (w : Word256) : ObsOnly s (trigBuf s b w) :=
  (loseRecs _ _ _).trans (setBuf _ _ _)

theorem trigOne (s : Blk) (x y : Nat) : ObsOnly s (trigOne s x y) := by
  unfold Machine.trigOne
  simp only []
  split
  · exact (bump _ _).trans (evRaw _ _ _ _)
  · exact ((((bump _ _).trans (evRaw _ _ _ _)).trans (forEach _ (fun s b => trigBuf s b _) _ _)).trans (wr _ _ _)).trans
      (blotAutoRaw _ _ _ _ _)

theorem trigger (s : Blk) (x y : Nat) : ObsOnly s (trigger s x y) := by
  unfold Machine.trigger
  simp only []
  split
  · exact (trigOne _ _ _).trans (trigOne _ _ _)
  · exact trigOne _ _ _

theorem cntTrig {s t : Blk} (h : ObsOnly s t) (u : Blk) : ObsOnly s (cntTrig u t) := by
  unfold Machine.cntTrig; split
  · exact h.trans (trigger _ _ _)
  · exact h

theorem evN (s : Blk) (src : Nat) (c : Option Nat) (k : Nat) : ObsOnly s (evN s src c k) := by
  unfold Machine.evN; split
  · rfl
  · exact cntTrig (evRaw _ _ _ _) _

theorem ev (s : Blk) (src c : Nat) : ObsOnly s (ev s src c) := evN s src (some c) 1

theorem ev0 (s : Blk) (src : Nat) : ObsOnly s (ev0 s src) := evN s src none 1

theorem blotAsk (s : Blk) (r : BlotReq) : ObsOnly s (blotAsk s r) := cntTrig (blotAskRaw _ _) _

theorem blotAuto (s : Blk) (b x y z : Nat) : ObsOnly s (blotAuto s b x y z) := by
  unfold Machine.blotAuto; split
  · exact blotAsk _ _
  · rfl

theorem trace (s : Blk) (ty : Nat) (c : Option Nat) (p : Nat) : ObsOnly s (trace s ty c p) := by
  unfold Machine.trace
  simp only []
  split
  · rfl
  · have h : ObsOnly s { s with obs := (intake s.obs).2 } := rfl
    split
    · split
      · exact h
      · exact cntTrig (h.trans (loseRecs _ _ _)) _
    · split
      · exact (cntTrig (h.trans (bufPut _ _ _)) _).trans (trigger _ _ _)
      · exact cntTrig (h.trans (bufPut _ _ _)) _

end ObsOnly

/-! The parts that they leave alone, one by one. -/

@[simp] theorem bumpN_cfg (s : Blk) (k n : Nat) : (bumpN s k n).cfg = s.cfg :=
  (congrArg Blk.cfg (ObsOnly.bumpN s k n) :)
@[simp] theorem bumpN_time (s : Blk) (k n : Nat) : (bumpN s k n).time = s.time :=
  (congrArg Blk.time (ObsOnly.bumpN s k n) :)
@[simp] theorem bumpN_hi (s : Blk) (k n : Nat) : (bumpN s k n).hi = s.hi :=
  (congrArg Blk.hi (ObsOnly.bumpN s k n) :)
@[simp] theorem bumpN_ports (s : Blk) (k n : Nat) : (bumpN s k n).ports = s.ports :=
  (congrArg Blk.ports (ObsOnly.bumpN s k n) :)
@[simp] theorem bumpN_mem (s : Blk) (k n : Nat) : (bumpN s k n).mem = s.mem :=
  (congrArg Blk.mem (ObsOnly.bumpN s k n) :)
@[simp] theorem bumpN_tsk (s : Blk) (k n : Nat) : (bumpN s k n).tsk = s.tsk :=
  (congrArg Blk.tsk (ObsOnly.bumpN s k n) :)
@[simp] theorem bumpN_iss (s : Blk) (k n : Nat) : (bumpN s k n).iss = s.iss :=
  (congrArg Blk.iss (ObsOnly.bumpN s k n) :)
@[simp] theorem bumpN_sve (s : Blk) (k n : Nat) : (bumpN s k n).sve = s.sve :=
  (congrArg Blk.sve (ObsOnly.bumpN s k n) :)
@[simp] theorem bumpN_sqt (s : Blk) (k n : Nat) : (bumpN s k n).sqt = s.sqt :=
  (congrArg Blk.sqt (ObsOnly.bumpN s k n) :)
@[simp] theorem bumpN_csq (s : Blk) (k n : Nat) : (bumpN s k n).csq = s.csq :=
  (congrArg Blk.csq (ObsOnly.bumpN s k n) :)
@[simp] theorem bumpN_xch (s : Blk) (k n : Nat) : (bumpN s k n).xch = s.xch :=
  (congrArg Blk.xch (ObsOnly.bumpN s k n) :)
@[simp] theorem bumpN_ctx (s : Blk) (k n : Nat) : (bumpN s k n).ctx = s.ctx :=
  (congrArg Blk.ctx (ObsOnly.bumpN s k n) :)
@[simp] theorem bumpN_saf (s : Blk) (k n : Nat) : (bumpN s k n).saf = s.saf :=
  (congrArg Blk.saf (ObsOnly.bumpN s k n) :)
@[simp] theorem bumpN_free (s : Blk) (k n : Nat) : (bumpN s k n).free = s.free :=
  (congrArg Blk.free (ObsOnly.bumpN s k n) :)
@[simp] theorem bumpN_work (s : Blk) (k n : Nat) : (bumpN s k n).work = s.work :=
  (congrArg Blk.work (ObsOnly.bumpN s k n) :)

@[simp] theorem bump_cfg (s : Blk) (k : Nat) : (bump s k).cfg = s.cfg :=
  (congrArg Blk.cfg (ObsOnly.bump s k) :)
@[simp] theorem bump_time (s : Blk) (k : Nat) : (bump s k).time = s.time :=
  (congrArg Blk.time (ObsOnly.bump s k) :)
@[simp] theorem bump_hi (s : Blk) (k : Nat) : (bump s k).hi = s.hi :=
  (congrArg Blk.hi (ObsOnly.bump s k) :)
@[simp] theorem bump_ports (s : Blk) (k : Nat) : (bump s k).ports = s.ports :=
  (congrArg Blk.ports (ObsOnly.bump s k) :)
@[simp] theorem bump_mem (s : Blk) (k : Nat) : (bump s k).mem = s.mem :=
  (congrArg Blk.mem (ObsOnly.bump s k) :)
@[simp] theorem bump_tsk (s : Blk) (k : Nat) : (bump s k).tsk = s.tsk :=
  (congrArg Blk.tsk (ObsOnly.bump s k) :)
@[simp] theorem bump_iss (s : Blk) (k : Nat) : (bump s k).iss = s.iss :=
  (congrArg Blk.iss (ObsOnly.bump s k) :)
@[simp] theorem bump_sve (s : Blk) (k : Nat) : (bump s k).sve = s.sve :=
  (congrArg Blk.sve (ObsOnly.bump s k) :)
@[simp] theorem bump_sqt (s : Blk) (k : Nat) : (bump s k).sqt = s.sqt :=
  (congrArg Blk.sqt (ObsOnly.bump s k) :)
@[simp] theorem bump_csq (s : Blk) (k : Nat) : (bump s k).csq = s.csq :=
  (congrArg Blk.csq (ObsOnly.bump s k) :)
@[simp] theorem bump_xch (s : Blk) (k : Nat) : (bump s k).xch = s.xch :=
  (congrArg Blk.xch (ObsOnly.bump s k) :)
@[simp] theorem bump_ctx (s : Blk) (k : Nat) : (bump s k).ctx = s.ctx :=
  (congrArg Blk.ctx (ObsOnly.bump s k) :)
@[simp] theorem bump_saf (s : Blk) (k : Nat) : (bump s k).saf = s.saf :=
  (congrArg Blk.saf (ObsOnly.bump s k) :)
@[simp] theorem bump_free (s : Blk) (k : Nat) : (bump s k).free = s.free :=
  (congrArg Blk.free (ObsOnly.bump s k) :)
@[simp] theorem bump_work (s : Blk) (k : Nat) : (bump s k).work = s.work :=
  (congrArg Blk.work (ObsOnly.bump s k) :)

@[simp] theorem loseRecs_cfg (s : Blk) (b : Nat) (l : List Word256) : (loseRecs s b l).cfg = s.cfg :=
  (congrArg Blk.cfg (ObsOnly.loseRecs s b l) :)
@[simp] theorem loseRecs_time (s : Blk) (b : Nat) (l : List Word256) : (loseRecs s b l).time = s.time :=
  (congrArg Blk.time (ObsOnly.loseRecs s b l) :)
@[simp] theorem loseRecs_hi (s : Blk) (b : Nat) (l : List Word256) : (loseRecs s b l).hi = s.hi :=
  (congrArg Blk.hi (ObsOnly.loseRecs s b l) :)
@[simp] theorem loseRecs_ports (s : Blk) (b : Nat) (l : List Word256) : (loseRecs s b l).ports = s.ports :=
  (congrArg Blk.ports (ObsOnly.loseRecs s b l) :)
@[simp] theorem loseRecs_mem (s : Blk) (b : Nat) (l : List Word256) : (loseRecs s b l).mem = s.mem :=
  (congrArg Blk.mem (ObsOnly.loseRecs s b l) :)
@[simp] theorem loseRecs_tsk (s : Blk) (b : Nat) (l : List Word256) : (loseRecs s b l).tsk = s.tsk :=
  (congrArg Blk.tsk (ObsOnly.loseRecs s b l) :)
@[simp] theorem loseRecs_iss (s : Blk) (b : Nat) (l : List Word256) : (loseRecs s b l).iss = s.iss :=
  (congrArg Blk.iss (ObsOnly.loseRecs s b l) :)
@[simp] theorem loseRecs_sve (s : Blk) (b : Nat) (l : List Word256) : (loseRecs s b l).sve = s.sve :=
  (congrArg Blk.sve (ObsOnly.loseRecs s b l) :)
@[simp] theorem loseRecs_sqt (s : Blk) (b : Nat) (l : List Word256) : (loseRecs s b l).sqt = s.sqt :=
  (congrArg Blk.sqt (ObsOnly.loseRecs s b l) :)
@[simp] theorem loseRecs_csq (s : Blk) (b : Nat) (l : List Word256) : (loseRecs s b l).csq = s.csq :=
  (congrArg Blk.csq (ObsOnly.loseRecs s b l) :)
@[simp] theorem loseRecs_xch (s : Blk) (b : Nat) (l : List Word256) : (loseRecs s b l).xch = s.xch :=
  (congrArg Blk.xch (ObsOnly.loseRecs s b l) :)
@[simp] theorem loseRecs_ctx (s : Blk) (b : Nat) (l : List Word256) : (loseRecs s b l).ctx = s.ctx :=
  (congrArg Blk.ctx (ObsOnly.loseRecs s b l) :)
@[simp] theorem loseRecs_saf (s : Blk) (b : Nat) (l : List Word256) : (loseRecs s b l).saf = s.saf :=
  (congrArg Blk.saf (ObsOnly.loseRecs s b l) :)
@[simp] theorem loseRecs_free (s : Blk) (b : Nat) (l : List Word256) : (loseRecs s b l).free = s.free :=
  (congrArg Blk.free (ObsOnly.loseRecs s b l) :)
@[simp] theorem loseRecs_work (s : Blk) (b : Nat) (l : List Word256) : (loseRecs s b l).work = s.work :=
  (congrArg Blk.work (ObsOnly.loseRecs s b l) :)

@[simp] theorem bufPut_cfg (s : Blk) (b : Nat) (w : Word256) : (bufPut s b w).cfg = s.cfg :=
  (congrArg Blk.cfg (ObsOnly.bufPut s b w) :)
@[simp] theorem bufPut_time (s : Blk) (b : Nat) (w : Word256) : (bufPut s b w).time = s.time :=
  (congrArg Blk.time (ObsOnly.bufPut s b w) :)
@[simp] theorem bufPut_hi (s : Blk) (b : Nat) (w : Word256) : (bufPut s b w).hi = s.hi :=
  (congrArg Blk.hi (ObsOnly.bufPut s b w) :)
@[simp] theorem bufPut_ports (s : Blk) (b : Nat) (w : Word256) : (bufPut s b w).ports = s.ports :=
  (congrArg Blk.ports (ObsOnly.bufPut s b w) :)
@[simp] theorem bufPut_mem (s : Blk) (b : Nat) (w : Word256) : (bufPut s b w).mem = s.mem :=
  (congrArg Blk.mem (ObsOnly.bufPut s b w) :)
@[simp] theorem bufPut_tsk (s : Blk) (b : Nat) (w : Word256) : (bufPut s b w).tsk = s.tsk :=
  (congrArg Blk.tsk (ObsOnly.bufPut s b w) :)
@[simp] theorem bufPut_iss (s : Blk) (b : Nat) (w : Word256) : (bufPut s b w).iss = s.iss :=
  (congrArg Blk.iss (ObsOnly.bufPut s b w) :)
@[simp] theorem bufPut_sve (s : Blk) (b : Nat) (w : Word256) : (bufPut s b w).sve = s.sve :=
  (congrArg Blk.sve (ObsOnly.bufPut s b w) :)
@[simp] theorem bufPut_sqt (s : Blk) (b : Nat) (w : Word256) : (bufPut s b w).sqt = s.sqt :=
  (congrArg Blk.sqt (ObsOnly.bufPut s b w) :)
@[simp] theorem bufPut_csq (s : Blk) (b : Nat) (w : Word256) : (bufPut s b w).csq = s.csq :=
  (congrArg Blk.csq (ObsOnly.bufPut s b w) :)
@[simp] theorem bufPut_xch (s : Blk) (b : Nat) (w : Word256) : (bufPut s b w).xch = s.xch :=
  (congrArg Blk.xch (ObsOnly.bufPut s b w) :)
@[simp] theorem bufPut_ctx (s : Blk) (b : Nat) (w : Word256) : (bufPut s b w).ctx = s.ctx :=
  (congrArg Blk.ctx (ObsOnly.bufPut s b w) :)
@[simp] theorem bufPut_saf (s : Blk) (b : Nat) (w : Word256) : (bufPut s b w).saf = s.saf :=
  (congrArg Blk.saf (ObsOnly.bufPut s b w) :)
@[simp] theorem bufPut_free (s : Blk) (b : Nat) (w : Word256) : (bufPut s b w).free = s.free :=
  (congrArg Blk.free (ObsOnly.bufPut s b w) :)
@[simp] theorem bufPut_work (s : Blk) (b : Nat) (w : Word256) : (bufPut s b w).work = s.work :=
  (congrArg Blk.work (ObsOnly.bufPut s b w) :)

@[simp] theorem blotAsk_cfg (s : Blk) (r : BlotReq) : (blotAsk s r).cfg = s.cfg :=
  (congrArg Blk.cfg (ObsOnly.blotAsk s r) :)
@[simp] theorem blotAsk_time (s : Blk) (r : BlotReq) : (blotAsk s r).time = s.time :=
  (congrArg Blk.time (ObsOnly.blotAsk s r) :)
@[simp] theorem blotAsk_hi (s : Blk) (r : BlotReq) : (blotAsk s r).hi = s.hi :=
  (congrArg Blk.hi (ObsOnly.blotAsk s r) :)
@[simp] theorem blotAsk_ports (s : Blk) (r : BlotReq) : (blotAsk s r).ports = s.ports :=
  (congrArg Blk.ports (ObsOnly.blotAsk s r) :)
@[simp] theorem blotAsk_mem (s : Blk) (r : BlotReq) : (blotAsk s r).mem = s.mem :=
  (congrArg Blk.mem (ObsOnly.blotAsk s r) :)
@[simp] theorem blotAsk_tsk (s : Blk) (r : BlotReq) : (blotAsk s r).tsk = s.tsk :=
  (congrArg Blk.tsk (ObsOnly.blotAsk s r) :)
@[simp] theorem blotAsk_iss (s : Blk) (r : BlotReq) : (blotAsk s r).iss = s.iss :=
  (congrArg Blk.iss (ObsOnly.blotAsk s r) :)
@[simp] theorem blotAsk_sve (s : Blk) (r : BlotReq) : (blotAsk s r).sve = s.sve :=
  (congrArg Blk.sve (ObsOnly.blotAsk s r) :)
@[simp] theorem blotAsk_sqt (s : Blk) (r : BlotReq) : (blotAsk s r).sqt = s.sqt :=
  (congrArg Blk.sqt (ObsOnly.blotAsk s r) :)
@[simp] theorem blotAsk_csq (s : Blk) (r : BlotReq) : (blotAsk s r).csq = s.csq :=
  (congrArg Blk.csq (ObsOnly.blotAsk s r) :)
@[simp] theorem blotAsk_xch (s : Blk) (r : BlotReq) : (blotAsk s r).xch = s.xch :=
  (congrArg Blk.xch (ObsOnly.blotAsk s r) :)
@[simp] theorem blotAsk_ctx (s : Blk) (r : BlotReq) : (blotAsk s r).ctx = s.ctx :=
  (congrArg Blk.ctx (ObsOnly.blotAsk s r) :)
@[simp] theorem blotAsk_saf (s : Blk) (r : BlotReq) : (blotAsk s r).saf = s.saf :=
  (congrArg Blk.saf (ObsOnly.blotAsk s r) :)
@[simp] theorem blotAsk_free (s : Blk) (r : BlotReq) : (blotAsk s r).free = s.free :=
  (congrArg Blk.free (ObsOnly.blotAsk s r) :)
@[simp] theorem blotAsk_work (s : Blk) (r : BlotReq) : (blotAsk s r).work = s.work :=
  (congrArg Blk.work (ObsOnly.blotAsk s r) :)

@[simp] theorem blotAuto_cfg (s : Blk) (b x y z : Nat) : (blotAuto s b x y z).cfg = s.cfg :=
  (congrArg Blk.cfg (ObsOnly.blotAuto s b x y z) :)
@[simp] theorem blotAuto_time (s : Blk) (b x y z : Nat) : (blotAuto s b x y z).time = s.time :=
  (congrArg Blk.time (ObsOnly.blotAuto s b x y z) :)
@[simp] theorem blotAuto_hi (s : Blk) (b x y z : Nat) : (blotAuto s b x y z).hi = s.hi :=
  (congrArg Blk.hi (ObsOnly.blotAuto s b x y z) :)
@[simp] theorem blotAuto_ports (s : Blk) (b x y z : Nat) : (blotAuto s b x y z).ports = s.ports :=
  (congrArg Blk.ports (ObsOnly.blotAuto s b x y z) :)
@[simp] theorem blotAuto_mem (s : Blk) (b x y z : Nat) : (blotAuto s b x y z).mem = s.mem :=
  (congrArg Blk.mem (ObsOnly.blotAuto s b x y z) :)
@[simp] theorem blotAuto_tsk (s : Blk) (b x y z : Nat) : (blotAuto s b x y z).tsk = s.tsk :=
  (congrArg Blk.tsk (ObsOnly.blotAuto s b x y z) :)
@[simp] theorem blotAuto_iss (s : Blk) (b x y z : Nat) : (blotAuto s b x y z).iss = s.iss :=
  (congrArg Blk.iss (ObsOnly.blotAuto s b x y z) :)
@[simp] theorem blotAuto_sve (s : Blk) (b x y z : Nat) : (blotAuto s b x y z).sve = s.sve :=
  (congrArg Blk.sve (ObsOnly.blotAuto s b x y z) :)
@[simp] theorem blotAuto_sqt (s : Blk) (b x y z : Nat) : (blotAuto s b x y z).sqt = s.sqt :=
  (congrArg Blk.sqt (ObsOnly.blotAuto s b x y z) :)
@[simp] theorem blotAuto_csq (s : Blk) (b x y z : Nat) : (blotAuto s b x y z).csq = s.csq :=
  (congrArg Blk.csq (ObsOnly.blotAuto s b x y z) :)
@[simp] theorem blotAuto_xch (s : Blk) (b x y z : Nat) : (blotAuto s b x y z).xch = s.xch :=
  (congrArg Blk.xch (ObsOnly.blotAuto s b x y z) :)
@[simp] theorem blotAuto_ctx (s : Blk) (b x y z : Nat) : (blotAuto s b x y z).ctx = s.ctx :=
  (congrArg Blk.ctx (ObsOnly.blotAuto s b x y z) :)
@[simp] theorem blotAuto_saf (s : Blk) (b x y z : Nat) : (blotAuto s b x y z).saf = s.saf :=
  (congrArg Blk.saf (ObsOnly.blotAuto s b x y z) :)
@[simp] theorem blotAuto_free (s : Blk) (b x y z : Nat) : (blotAuto s b x y z).free = s.free :=
  (congrArg Blk.free (ObsOnly.blotAuto s b x y z) :)
@[simp] theorem blotAuto_work (s : Blk) (b x y z : Nat) : (blotAuto s b x y z).work = s.work :=
  (congrArg Blk.work (ObsOnly.blotAuto s b x y z) :)

@[simp] theorem trigger_cfg (s : Blk) (x y : Nat) : (trigger s x y).cfg = s.cfg :=
  (congrArg Blk.cfg (ObsOnly.trigger s x y) :)
@[simp] theorem trigger_time (s : Blk) (x y : Nat) : (trigger s x y).time = s.time :=
  (congrArg Blk.time (ObsOnly.trigger s x y) :)
@[simp] theorem trigger_hi (s : Blk) (x y : Nat) : (trigger s x y).hi = s.hi :=
  (congrArg Blk.hi (ObsOnly.trigger s x y) :)
@[simp] theorem trigger_ports (s : Blk) (x y : Nat) : (trigger s x y).ports = s.ports :=
  (congrArg Blk.ports (ObsOnly.trigger s x y) :)
@[simp] theorem trigger_mem (s : Blk) (x y : Nat) : (trigger s x y).mem = s.mem :=
  (congrArg Blk.mem (ObsOnly.trigger s x y) :)
@[simp] theorem trigger_tsk (s : Blk) (x y : Nat) : (trigger s x y).tsk = s.tsk :=
  (congrArg Blk.tsk (ObsOnly.trigger s x y) :)
@[simp] theorem trigger_iss (s : Blk) (x y : Nat) : (trigger s x y).iss = s.iss :=
  (congrArg Blk.iss (ObsOnly.trigger s x y) :)
@[simp] theorem trigger_sve (s : Blk) (x y : Nat) : (trigger s x y).sve = s.sve :=
  (congrArg Blk.sve (ObsOnly.trigger s x y) :)
@[simp] theorem trigger_sqt (s : Blk) (x y : Nat) : (trigger s x y).sqt = s.sqt :=
  (congrArg Blk.sqt (ObsOnly.trigger s x y) :)
@[simp] theorem trigger_csq (s : Blk) (x y : Nat) : (trigger s x y).csq = s.csq :=
  (congrArg Blk.csq (ObsOnly.trigger s x y) :)
@[simp] theorem trigger_xch (s : Blk) (x y : Nat) : (trigger s x y).xch = s.xch :=
  (congrArg Blk.xch (ObsOnly.trigger s x y) :)
@[simp] theorem trigger_ctx (s : Blk) (x y : Nat) : (trigger s x y).ctx = s.ctx :=
  (congrArg Blk.ctx (ObsOnly.trigger s x y) :)
@[simp] theorem trigger_saf (s : Blk) (x y : Nat) : (trigger s x y).saf = s.saf :=
  (congrArg Blk.saf (ObsOnly.trigger s x y) :)
@[simp] theorem trigger_free (s : Blk) (x y : Nat) : (trigger s x y).free = s.free :=
  (congrArg Blk.free (ObsOnly.trigger s x y) :)
@[simp] theorem trigger_work (s : Blk) (x y : Nat) : (trigger s x y).work = s.work :=
  (congrArg Blk.work (ObsOnly.trigger s x y) :)

@[simp] theorem evN_cfg (s : Blk) (src : Nat) (c : Option Nat) (k : Nat) : (evN s src c k).cfg = s.cfg :=
  (congrArg Blk.cfg (ObsOnly.evN s src c k) :)
@[simp] theorem evN_time (s : Blk) (src : Nat) (c : Option Nat) (k : Nat) : (evN s src c k).time = s.time :=
  (congrArg Blk.time (ObsOnly.evN s src c k) :)
@[simp] theorem evN_hi (s : Blk) (src : Nat) (c : Option Nat) (k : Nat) : (evN s src c k).hi = s.hi :=
  (congrArg Blk.hi (ObsOnly.evN s src c k) :)
@[simp] theorem evN_ports (s : Blk) (src : Nat) (c : Option Nat) (k : Nat) : (evN s src c k).ports = s.ports :=
  (congrArg Blk.ports (ObsOnly.evN s src c k) :)
@[simp] theorem evN_mem (s : Blk) (src : Nat) (c : Option Nat) (k : Nat) : (evN s src c k).mem = s.mem :=
  (congrArg Blk.mem (ObsOnly.evN s src c k) :)
@[simp] theorem evN_tsk (s : Blk) (src : Nat) (c : Option Nat) (k : Nat) : (evN s src c k).tsk = s.tsk :=
  (congrArg Blk.tsk (ObsOnly.evN s src c k) :)
@[simp] theorem evN_iss (s : Blk) (src : Nat) (c : Option Nat) (k : Nat) : (evN s src c k).iss = s.iss :=
  (congrArg Blk.iss (ObsOnly.evN s src c k) :)
@[simp] theorem evN_sve (s : Blk) (src : Nat) (c : Option Nat) (k : Nat) : (evN s src c k).sve = s.sve :=
  (congrArg Blk.sve (ObsOnly.evN s src c k) :)
@[simp] theorem evN_sqt (s : Blk) (src : Nat) (c : Option Nat) (k : Nat) : (evN s src c k).sqt = s.sqt :=
  (congrArg Blk.sqt (ObsOnly.evN s src c k) :)
@[simp] theorem evN_csq (s : Blk) (src : Nat) (c : Option Nat) (k : Nat) : (evN s src c k).csq = s.csq :=
  (congrArg Blk.csq (ObsOnly.evN s src c k) :)
@[simp] theorem evN_xch (s : Blk) (src : Nat) (c : Option Nat) (k : Nat) : (evN s src c k).xch = s.xch :=
  (congrArg Blk.xch (ObsOnly.evN s src c k) :)
@[simp] theorem evN_ctx (s : Blk) (src : Nat) (c : Option Nat) (k : Nat) : (evN s src c k).ctx = s.ctx :=
  (congrArg Blk.ctx (ObsOnly.evN s src c k) :)
@[simp] theorem evN_saf (s : Blk) (src : Nat) (c : Option Nat) (k : Nat) : (evN s src c k).saf = s.saf :=
  (congrArg Blk.saf (ObsOnly.evN s src c k) :)
@[simp] theorem evN_free (s : Blk) (src : Nat) (c : Option Nat) (k : Nat) : (evN s src c k).free = s.free :=
  (congrArg Blk.free (ObsOnly.evN s src c k) :)
@[simp] theorem evN_work (s : Blk) (src : Nat) (c : Option Nat) (k : Nat) : (evN s src c k).work = s.work :=
  (congrArg Blk.work (ObsOnly.evN s src c k) :)

@[simp] theorem ev_cfg (s : Blk) (src c : Nat) : (ev s src c).cfg = s.cfg :=
  (congrArg Blk.cfg (ObsOnly.ev s src c) :)
@[simp] theorem ev_time (s : Blk) (src c : Nat) : (ev s src c).time = s.time :=
  (congrArg Blk.time (ObsOnly.ev s src c) :)
@[simp] theorem ev_hi (s : Blk) (src c : Nat) : (ev s src c).hi = s.hi :=
  (congrArg Blk.hi (ObsOnly.ev s src c) :)
@[simp] theorem ev_ports (s : Blk) (src c : Nat) : (ev s src c).ports = s.ports :=
  (congrArg Blk.ports (ObsOnly.ev s src c) :)
@[simp] theorem ev_mem (s : Blk) (src c : Nat) : (ev s src c).mem = s.mem :=
  (congrArg Blk.mem (ObsOnly.ev s src c) :)
@[simp] theorem ev_tsk (s : Blk) (src c : Nat) : (ev s src c).tsk = s.tsk :=
  (congrArg Blk.tsk (ObsOnly.ev s src c) :)
@[simp] theorem ev_iss (s : Blk) (src c : Nat) : (ev s src c).iss = s.iss :=
  (congrArg Blk.iss (ObsOnly.ev s src c) :)
@[simp] theorem ev_sve (s : Blk) (src c : Nat) : (ev s src c).sve = s.sve :=
  (congrArg Blk.sve (ObsOnly.ev s src c) :)
@[simp] theorem ev_sqt (s : Blk) (src c : Nat) : (ev s src c).sqt = s.sqt :=
  (congrArg Blk.sqt (ObsOnly.ev s src c) :)
@[simp] theorem ev_csq (s : Blk) (src c : Nat) : (ev s src c).csq = s.csq :=
  (congrArg Blk.csq (ObsOnly.ev s src c) :)
@[simp] theorem ev_xch (s : Blk) (src c : Nat) : (ev s src c).xch = s.xch :=
  (congrArg Blk.xch (ObsOnly.ev s src c) :)
@[simp] theorem ev_ctx (s : Blk) (src c : Nat) : (ev s src c).ctx = s.ctx :=
  (congrArg Blk.ctx (ObsOnly.ev s src c) :)
@[simp] theorem ev_saf (s : Blk) (src c : Nat) : (ev s src c).saf = s.saf :=
  (congrArg Blk.saf (ObsOnly.ev s src c) :)
@[simp] theorem ev_free (s : Blk) (src c : Nat) : (ev s src c).free = s.free :=
  (congrArg Blk.free (ObsOnly.ev s src c) :)
@[simp] theorem ev_work (s : Blk) (src c : Nat) : (ev s src c).work = s.work :=
  (congrArg Blk.work (ObsOnly.ev s src c) :)

@[simp] theorem ev0_cfg (s : Blk) (src : Nat) : (ev0 s src).cfg = s.cfg :=
  (congrArg Blk.cfg (ObsOnly.ev0 s src) :)
@[simp] theorem ev0_time (s : Blk) (src : Nat) : (ev0 s src).time = s.time :=
  (congrArg Blk.time (ObsOnly.ev0 s src) :)
@[simp] theorem ev0_hi (s : Blk) (src : Nat) : (ev0 s src).hi = s.hi :=
  (congrArg Blk.hi (ObsOnly.ev0 s src) :)
@[simp] theorem ev0_ports (s : Blk) (src : Nat) : (ev0 s src).ports = s.ports :=
  (congrArg Blk.ports (ObsOnly.ev0 s src) :)
@[simp] theorem ev0_mem (s : Blk) (src : Nat) : (ev0 s src).mem = s.mem :=
  (congrArg Blk.mem (ObsOnly.ev0 s src) :)
@[simp] theorem ev0_tsk (s : Blk) (src : Nat) : (ev0 s src).tsk = s.tsk :=
  (congrArg Blk.tsk (ObsOnly.ev0 s src) :)
@[simp] theorem ev0_iss (s : Blk) (src : Nat) : (ev0 s src).iss = s.iss :=
  (congrArg Blk.iss (ObsOnly.ev0 s src) :)
@[simp] theorem ev0_sve (s : Blk) (src : Nat) : (ev0 s src).sve = s.sve :=
  (congrArg Blk.sve (ObsOnly.ev0 s src) :)
@[simp] theorem ev0_sqt (s : Blk) (src : Nat) : (ev0 s src).sqt = s.sqt :=
  (congrArg Blk.sqt (ObsOnly.ev0 s src) :)
@[simp] theorem ev0_csq (s : Blk) (src : Nat) : (ev0 s src).csq = s.csq :=
  (congrArg Blk.csq (ObsOnly.ev0 s src) :)
@[simp] theorem ev0_xch (s : Blk) (src : Nat) : (ev0 s src).xch = s.xch :=
  (congrArg Blk.xch (ObsOnly.ev0 s src) :)
@[simp] theorem ev0_ctx (s : Blk) (src : Nat) : (ev0 s src).ctx = s.ctx :=
  (congrArg Blk.ctx (ObsOnly.ev0 s src) :)
@[simp] theorem ev0_saf (s : Blk) (src : Nat) : (ev0 s src).saf = s.saf :=
  (congrArg Blk.saf (ObsOnly.ev0 s src) :)
@[simp] theorem ev0_free (s : Blk) (src : Nat) : (ev0 s src).free = s.free :=
  (congrArg Blk.free (ObsOnly.ev0 s src) :)
@[simp] theorem ev0_work (s : Blk) (src : Nat) : (ev0 s src).work = s.work :=
  (congrArg Blk.work (ObsOnly.ev0 s src) :)

@[simp] theorem trace_cfg (s : Blk) (ty : Nat) (c : Option Nat) (p : Nat) : (trace s ty c p).cfg = s.cfg :=
  (congrArg Blk.cfg (ObsOnly.trace s ty c p) :)
@[simp] theorem trace_time (s : Blk) (ty : Nat) (c : Option Nat) (p : Nat) : (trace s ty c p).time = s.time :=
  (congrArg Blk.time (ObsOnly.trace s ty c p) :)
@[simp] theorem trace_hi (s : Blk) (ty : Nat) (c : Option Nat) (p : Nat) : (trace s ty c p).hi = s.hi :=
  (congrArg Blk.hi (ObsOnly.trace s ty c p) :)
@[simp] theorem trace_ports (s : Blk) (ty : Nat) (c : Option Nat) (p : Nat) : (trace s ty c p).ports = s.ports :=
  (congrArg Blk.ports (ObsOnly.trace s ty c p) :)
@[simp] theorem trace_mem (s : Blk) (ty : Nat) (c : Option Nat) (p : Nat) : (trace s ty c p).mem = s.mem :=
  (congrArg Blk.mem (ObsOnly.trace s ty c p) :)
@[simp] theorem trace_tsk (s : Blk) (ty : Nat) (c : Option Nat) (p : Nat) : (trace s ty c p).tsk = s.tsk :=
  (congrArg Blk.tsk (ObsOnly.trace s ty c p) :)
@[simp] theorem trace_iss (s : Blk) (ty : Nat) (c : Option Nat) (p : Nat) : (trace s ty c p).iss = s.iss :=
  (congrArg Blk.iss (ObsOnly.trace s ty c p) :)
@[simp] theorem trace_sve (s : Blk) (ty : Nat) (c : Option Nat) (p : Nat) : (trace s ty c p).sve = s.sve :=
  (congrArg Blk.sve (ObsOnly.trace s ty c p) :)
@[simp] theorem trace_sqt (s : Blk) (ty : Nat) (c : Option Nat) (p : Nat) : (trace s ty c p).sqt = s.sqt :=
  (congrArg Blk.sqt (ObsOnly.trace s ty c p) :)
@[simp] theorem trace_csq (s : Blk) (ty : Nat) (c : Option Nat) (p : Nat) : (trace s ty c p).csq = s.csq :=
  (congrArg Blk.csq (ObsOnly.trace s ty c p) :)
@[simp] theorem trace_xch (s : Blk) (ty : Nat) (c : Option Nat) (p : Nat) : (trace s ty c p).xch = s.xch :=
  (congrArg Blk.xch (ObsOnly.trace s ty c p) :)
@[simp] theorem trace_ctx (s : Blk) (ty : Nat) (c : Option Nat) (p : Nat) : (trace s ty c p).ctx = s.ctx :=
  (congrArg Blk.ctx (ObsOnly.trace s ty c p) :)
@[simp] theorem trace_saf (s : Blk) (ty : Nat) (c : Option Nat) (p : Nat) : (trace s ty c p).saf = s.saf :=
  (congrArg Blk.saf (ObsOnly.trace s ty c p) :)
@[simp] theorem trace_free (s : Blk) (ty : Nat) (c : Option Nat) (p : Nat) : (trace s ty c p).free = s.free :=
  (congrArg Blk.free (ObsOnly.trace s ty c p) :)
@[simp] theorem trace_work (s : Blk) (ty : Nat) (c : Option Nat) (p : Nat) : (trace s ty c p).work = s.work :=
  (congrArg Blk.work (ObsOnly.trace s ty c p) :)

end Sys2Proof.Machine
end

