-- ==== Sys2Proof/Laws/Logs.lean ====
section
/-! SUPPORT. Error logs, alarms and context states: what recording a fault adds to a log, and the parts it leaves alone. -/
namespace Sys2Proof.Machine

/-! ## Logs -/

@[simp] theorem logOf_setLog_same (s : Blk) (n : Nat) (l : ELog) : logOf (setLog s n l) n = l := getD_put_same _ _ _ _

theorem logOf_setLog_other (s : Blk) {n m : Nat} (l : ELog) (h : m ≠ n) : logOf (setLog s n l) m = logOf s m :=
  getD_put_other _ _ _ h

/-- A log depends on the safety monitor's part alone. -/
theorem logOf_congr {s t : Blk} (h : t.saf = s.saf) (n : Nat) : logOf t n = logOf s n := by unfold logOf; rw [h]

/-- The room of a log's ring (R390). -/
abbrev logRoom (n : Nat) : Nat := if n < 16 then 15 else 7

/-- `t` differs from `s` at most in registers, observation, the Blotter and the logs. -/
def LogOnly (s t : Blk) : Prop := t = { s with regs := t.regs, obs := t.obs, dbg := t.dbg, saf := { s.saf with logs := t.saf.logs } }

theorem LogOnly.trans {s t u : Blk} (h : LogOnly s t) (k : LogOnly t u) : LogOnly s u := by
  unfold LogOnly at *; rw [k, h]

theorem LogOnly.of {s t : Blk} (h : ObsOnly s t) : LogOnly s t := by unfold LogOnly; unfold ObsOnly at h; rw [h]

theorem LogOnly.setLog (s : Blk) (n : Nat) (l : ELog) : LogOnly s (setLog s n l) := rfl

theorem xchErr_obsOnly (s : Blk) (code : Nat) : ObsOnly s (xchErr s code) := by
  unfold xchErr
  split <;> rfl

/-- Recording a fault adds one entry to one log, and touches nothing but logs, registers and observation (R390). -/
theorem LogOnly.logFault (s : Blk) (log unit code : Nat) (c : Option Nat) (d : Nat) (al : Bool) :
    LogOnly s (logFault s log unit code c d al) := by
  unfold Machine.logFault
  simp only []
  refine LogOnly.trans ?_ (LogOnly.of (ObsOnly.trace _ _ _ _))
  split
  · refine LogOnly.trans ?_ (LogOnly.of (ObsOnly.wr _ _ _))
    split
    · exact (LogOnly.setLog _ _ _).trans (LogOnly.of (xchErr_obsOnly _ _))
    · exact LogOnly.setLog _ _ _
  · split
    · exact (LogOnly.setLog _ _ _).trans (LogOnly.of (xchErr_obsOnly _ _))
    · exact LogOnly.setLog _ _ _

/-- The log of a recorded fault has taken its entry as R390 says; every other log is as it was. -/
theorem logOf_logFault (s : Blk) (log unit code : Nat) (c : Option Nat) (d : Nat) (al : Bool) (n : Nat) :
    logOf (logFault s log unit code c d al) n =
      if n = log then (logOf s log).add (logRoom log)
        { time := now s, code, unit, ctx := c, ctxGen := (c.map (ctxGen s)).getD 0,
          strict := (c.map (isStrict s)).getD false, alarm := al, badPar := false, rep := 0, detail := d }
      else logOf s n := by
  have key : ∀ (s1 : Blk) (l : ELog), logOf (Machine.setLog s1 log l) n = if n = log then l else logOf s1 n := by
    intro s1 l
    by_cases h : n = log
    · subst h; simp
    · simp [h, logOf_setLog_other]
  unfold Machine.logFault
  simp only []
  rw [logOf_congr (trace_saf _ _ _ _)]
  rw [← key]
  split
  · rw [logOf_congr (orBits_saf _ _ _)]
    split
    · exact logOf_congr (congrArg Blk.saf (xchErr_obsOnly _ _) :) n
    · rfl
  · split
    · exact logOf_congr (congrArg Blk.saf (xchErr_obsOnly _ _) :) n
    · rfl

@[simp] theorem logFault_cfg (s : Blk) (log unit code : Nat) (c : Option Nat) (d : Nat) (al : Bool) :
    (logFault s log unit code c d al).cfg = s.cfg := (congrArg Blk.cfg (LogOnly.logFault s log unit code c d al) :)
@[simp] theorem logFault_time (s : Blk) (log unit code : Nat) (c : Option Nat) (d : Nat) (al : Bool) :
    (logFault s log unit code c d al).time = s.time := (congrArg Blk.time (LogOnly.logFault s log unit code c d al) :)
@[simp] theorem logFault_hi (s : Blk) (log unit code : Nat) (c : Option Nat) (d : Nat) (al : Bool) :
    (logFault s log unit code c d al).hi = s.hi := (congrArg Blk.hi (LogOnly.logFault s log unit code c d al) :)
@[simp] theorem logFault_ports (s : Blk) (log unit code : Nat) (c : Option Nat) (d : Nat) (al : Bool) :
    (logFault s log unit code c d al).ports = s.ports := (congrArg Blk.ports (LogOnly.logFault s log unit code c d al) :)
@[simp] theorem logFault_mem (s : Blk) (log unit code : Nat) (c : Option Nat) (d : Nat) (al : Bool) :
    (logFault s log unit code c d al).mem = s.mem := (congrArg Blk.mem (LogOnly.logFault s log unit code c d al) :)
@[simp] theorem logFault_tsk (s : Blk) (log unit code : Nat) (c : Option Nat) (d : Nat) (al : Bool) :
    (logFault s log unit code c d al).tsk = s.tsk := (congrArg Blk.tsk (LogOnly.logFault s log unit code c d al) :)
@[simp] theorem logFault_iss (s : Blk) (log unit code : Nat) (c : Option Nat) (d : Nat) (al : Bool) :
    (logFault s log unit code c d al).iss = s.iss := (congrArg Blk.iss (LogOnly.logFault s log unit code c d al) :)
@[simp] theorem logFault_sve (s : Blk) (log unit code : Nat) (c : Option Nat) (d : Nat) (al : Bool) :
    (logFault s log unit code c d al).sve = s.sve := (congrArg Blk.sve (LogOnly.logFault s log unit code c d al) :)
@[simp] theorem logFault_sqt (s : Blk) (log unit code : Nat) (c : Option Nat) (d : Nat) (al : Bool) :
    (logFault s log unit code c d al).sqt = s.sqt := (congrArg Blk.sqt (LogOnly.logFault s log unit code c d al) :)
@[simp] theorem logFault_csq (s : Blk) (log unit code : Nat) (c : Option Nat) (d : Nat) (al : Bool) :
    (logFault s log unit code c d al).csq = s.csq := (congrArg Blk.csq (LogOnly.logFault s log unit code c d al) :)
@[simp] theorem logFault_xch (s : Blk) (log unit code : Nat) (c : Option Nat) (d : Nat) (al : Bool) :
    (logFault s log unit code c d al).xch = s.xch := (congrArg Blk.xch (LogOnly.logFault s log unit code c d al) :)
@[simp] theorem logFault_ctx (s : Blk) (log unit code : Nat) (c : Option Nat) (d : Nat) (al : Bool) :
    (logFault s log unit code c d al).ctx = s.ctx := (congrArg Blk.ctx (LogOnly.logFault s log unit code c d al) :)
@[simp] theorem logFault_free (s : Blk) (log unit code : Nat) (c : Option Nat) (d : Nat) (al : Bool) :
    (logFault s log unit code c d al).free = s.free := (congrArg Blk.free (LogOnly.logFault s log unit code c d al) :)
@[simp] theorem logFault_work (s : Blk) (log unit code : Nat) (c : Option Nat) (d : Nat) (al : Bool) :
    (logFault s log unit code c d al).work = s.work := (congrArg Blk.work (LogOnly.logFault s log unit code c d al) :)

/-! ## Alarms -/

/-- What raising a cause leaves alone: all but registers, observation, the Blotter, and the cascade (R382). -/
theorem raiseAlarm_frame (s : Blk) (bit code c : Nat) :
    raiseAlarm s bit code c =
      { s with regs := (raiseAlarm s bit code c).regs, obs := (raiseAlarm s bit code c).obs,
               dbg := (raiseAlarm s bit code c).dbg, work := (raiseAlarm s bit code c).work } := by
  have h1 : ObsOnly s (orBits (orBits s rAlarmCause (2 ^ bit)) rSafIrq 1) := rfl
  unfold raiseAlarm
  simp only []
  split
  · exact h1
  · have h2 := h1.trans (ObsOnly.blotAuto _ 1 4 code c)
    split
    · have h3 := h2.trans (ObsOnly.trigger _ 5 0)
      unfold ObsOnly at h3
      unfold push
      rw [h3]
    · unfold ObsOnly at h2
      unfold push
      rw [h2]

@[simp] theorem raiseAlarm_cfg (s : Blk) (bit code c : Nat) : (raiseAlarm s bit code c).cfg = s.cfg :=
  (congrArg Blk.cfg (raiseAlarm_frame s bit code c) :)
@[simp] theorem raiseAlarm_time (s : Blk) (bit code c : Nat) : (raiseAlarm s bit code c).time = s.time :=
  (congrArg Blk.time (raiseAlarm_frame s bit code c) :)
@[simp] theorem raiseAlarm_hi (s : Blk) (bit code c : Nat) : (raiseAlarm s bit code c).hi = s.hi :=
  (congrArg Blk.hi (raiseAlarm_frame s bit code c) :)
@[simp] theorem raiseAlarm_ports (s : Blk) (bit code c : Nat) : (raiseAlarm s bit code c).ports = s.ports :=
  (congrArg Blk.ports (raiseAlarm_frame s bit code c) :)
@[simp] theorem raiseAlarm_mem (s : Blk) (bit code c : Nat) : (raiseAlarm s bit code c).mem = s.mem :=
  (congrArg Blk.mem (raiseAlarm_frame s bit code c) :)
@[simp] theorem raiseAlarm_tsk (s : Blk) (bit code c : Nat) : (raiseAlarm s bit code c).tsk = s.tsk :=
  (congrArg Blk.tsk (raiseAlarm_frame s bit code c) :)
@[simp] theorem raiseAlarm_iss (s : Blk) (bit code c : Nat) : (raiseAlarm s bit code c).iss = s.iss :=
  (congrArg Blk.iss (raiseAlarm_frame s bit code c) :)
@[simp] theorem raiseAlarm_sve (s : Blk) (bit code c : Nat) : (raiseAlarm s bit code c).sve = s.sve :=
  (congrArg Blk.sve (raiseAlarm_frame s bit code c) :)
@[simp] theorem raiseAlarm_sqt (s : Blk) (bit code c : Nat) : (raiseAlarm s bit code c).sqt = s.sqt :=
  (congrArg Blk.sqt (raiseAlarm_frame s bit code c) :)
@[simp] theorem raiseAlarm_csq (s : Blk) (bit code c : Nat) : (raiseAlarm s bit code c).csq = s.csq :=
  (congrArg Blk.csq (raiseAlarm_frame s bit code c) :)
@[simp] theorem raiseAlarm_xch (s : Blk) (bit code c : Nat) : (raiseAlarm s bit code c).xch = s.xch :=
  (congrArg Blk.xch (raiseAlarm_frame s bit code c) :)
@[simp] theorem raiseAlarm_ctx (s : Blk) (bit code c : Nat) : (raiseAlarm s bit code c).ctx = s.ctx :=
  (congrArg Blk.ctx (raiseAlarm_frame s bit code c) :)
@[simp] theorem raiseAlarm_saf (s : Blk) (bit code c : Nat) : (raiseAlarm s bit code c).saf = s.saf :=
  (congrArg Blk.saf (raiseAlarm_frame s bit code c) :)
@[simp] theorem raiseAlarm_free (s : Blk) (bit code c : Nat) : (raiseAlarm s bit code c).free = s.free :=
  (congrArg Blk.free (raiseAlarm_frame s bit code c) :)

/-! ## Context states -/

@[simp] theorem slotOf_setSlot_same (s : Blk) (c : Nat) (v : CtxSlot) : slotOf (setSlot s c v) c = v := getD_put_same _ _ _ _

theorem slotOf_setSlot_other (s : Blk) {c d : Nat} (v : CtxSlot) (h : d ≠ c) : slotOf (setSlot s c v) d = slotOf s d :=
  getD_put_other _ _ _ h

/-- A slot depends on the context unit's part alone. -/
theorem slotOf_congr {s t : Blk} (h : t.ctx = s.ctx) (c : Nat) : slotOf t c = slotOf s c := by unfold slotOf; rw [h]

/-- Moving a slot to a state changes its state alone, besides what is observed of it (R306, R349). -/
theorem slotOf_setCtxSt (s : Blk) (c : Nat) (st : CtxState) (d : Nat) :
    slotOf (setCtxSt s c st) d = if d = c then { slotOf s c with state := st } else slotOf s d := by
  unfold setCtxSt
  simp only []
  rw [slotOf_congr (trace_ctx _ _ _ _)]
  by_cases h : d = c
  · subst h; simp
  · simp [h, slotOf_setSlot_other]

@[simp] theorem setCtxSt_cfg (s : Blk) (c : Nat) (st : CtxState) : (setCtxSt s c st).cfg = s.cfg := by
  unfold setCtxSt; simp
@[simp] theorem setCtxSt_time (s : Blk) (c : Nat) (st : CtxState) : (setCtxSt s c st).time = s.time := by
  unfold setCtxSt; simp
@[simp] theorem setCtxSt_hi (s : Blk) (c : Nat) (st : CtxState) : (setCtxSt s c st).hi = s.hi := by
  unfold setCtxSt; simp
@[simp] theorem setCtxSt_ports (s : Blk) (c : Nat) (st : CtxState) : (setCtxSt s c st).ports = s.ports := by
  unfold setCtxSt; simp
@[simp] theorem setCtxSt_mem (s : Blk) (c : Nat) (st : CtxState) : (setCtxSt s c st).mem = s.mem := by
  unfold setCtxSt; simp
@[simp] theorem setCtxSt_tsk (s : Blk) (c : Nat) (st : CtxState) : (setCtxSt s c st).tsk = s.tsk := by
  unfold setCtxSt; simp
@[simp] theorem setCtxSt_iss (s : Blk) (c : Nat) (st : CtxState) : (setCtxSt s c st).iss = s.iss := by
  unfold setCtxSt; simp
@[simp] theorem setCtxSt_sve (s : Blk) (c : Nat) (st : CtxState) : (setCtxSt s c st).sve = s.sve := by
  unfold setCtxSt; simp
@[simp] theorem setCtxSt_sqt (s : Blk) (c : Nat) (st : CtxState) : (setCtxSt s c st).sqt = s.sqt := by
  unfold setCtxSt; simp
@[simp] theorem setCtxSt_csq (s : Blk) (c : Nat) (st : CtxState) : (setCtxSt s c st).csq = s.csq := by
  unfold setCtxSt; simp
@[simp] theorem setCtxSt_xch (s : Blk) (c : Nat) (st : CtxState) : (setCtxSt s c st).xch = s.xch := by
  unfold setCtxSt; simp
@[simp] theorem setCtxSt_saf (s : Blk) (c : Nat) (st : CtxState) : (setCtxSt s c st).saf = s.saf := by
  unfold setCtxSt; simp
@[simp] theorem setCtxSt_free (s : Blk) (c : Nat) (st : CtxState) : (setCtxSt s c st).free = s.free := by
  unfold setCtxSt; simp
@[simp] theorem setCtxSt_work (s : Blk) (c : Nat) (st : CtxState) : (setCtxSt s c st).work = s.work := by
  unfold setCtxSt; simp

end Sys2Proof.Machine
end

