-- ==== Sys2Proof/Laws/Act.lean ====
section
/-! SUPPORT. What every command shares: the end of a step, the gate of a function, and the outcomes of a Register Port write. -/
namespace Sys2Proof.Machine

/-! ## The end of a step -/

@[simp] theorem finish_pending (s : State) (b : Blk) : (s.finish b).pending = s.pending := by unfold State.finish; dsimp only
@[simp] theorem finish_tap (s : State) (b : Blk) : (s.finish b).tap = s.tap := by unfold State.finish; dsimp only
@[simp] theorem finish_time (s : State) (b : Blk) : (s.finish b).blk.time = s.blk.time := by unfold State.finish; dsimp only
@[simp] theorem finish_rgpStatus (s : State) (b : Blk) : (s.finish b).blk.ports.rgpStatus = b.ports.rgpStatus := by
  unfold State.finish settled; dsimp only
@[simp] theorem finish_rgpData (s : State) (b : Blk) : (s.finish b).blk.ports.rgpData = b.ports.rgpData := by unfold State.finish settled; dsimp only
@[simp] theorem finishTime_pending (s : State) (b : Blk) : (s.finishTime b).pending = s.pending := by unfold State.finishTime; dsimp only
@[simp] theorem finishTime_tap (s : State) (b : Blk) : (s.finishTime b).tap = s.tap := by unfold State.finishTime; dsimp only
@[simp] theorem finishTime_time (s : State) (b : Blk) : (s.finishTime b).blk.time = b.time := by unfold State.finishTime; dsimp only

/-! ## Gates -/

/-- A command that a function serves answers the state its update leads to. -/
theorem act_serves {serves : Bool} (h : serves = true) (f : Blk → Blk) (s : State) :
    act serves f s = .next (s.finish (f s.blk)) := by subst h; rfl

/-- A command that a function does not serve changes nothing. -/
theorem act_waits {serves : Bool} (h : serves = false) (f : Blk → Blk) (s : State) : act serves f s = .next s := by
  subst h; rfl

/-- The one thing a served command can answer. -/
theorem act_cases (serves : Bool) (f : Blk → Blk) (s : State) :
    (serves = true ∧ act serves f s = .next (s.finish (f s.blk))) ∨ (serves = false ∧ act serves f s = .next s) := by
  cases serves
  · exact .inr ⟨rfl, rfl⟩
  · exact .inl ⟨rfl, rfl⟩

/-! ## Register Port writes -/

theorem busWrite_ok {b : Blk} {off : Nat} {a : Access} (h : Served b off a) {v : Word} {t : Blk}
    (w : regAct b off v = some t) : busWrite b a off v = rgpEnd t rgpOk 0 := by
  have hp : (!a.priv && !unprivOk off true) = false := by rcases h.priv with e | e <;> simp [e]
  have hm : (regPlain b off).isNone = false := by have := h.mapped; cases e : regPlain b off <;> simp_all
  have hl : (decide (0x400000 ≤ off) && decide (off < 0x1000000)) = false := by simp [h.low]
  unfold busWrite
  rw [h.reg, h.alone, h.parity, hp, hl, hm, h.unit, w]
  rfl

theorem busWrite_refused {b : Blk} {off : Nat} {a : Access} (h : Served b off a) {v : Word}
    (w : regAct b off v = none) : busWrite b a off v = refuseWrite (refusedDoorbell b off) off v a := by
  have hp : (!a.priv && !unprivOk off true) = false := by rcases h.priv with e | e <;> simp [e]
  have hm : (regPlain b off).isNone = false := by have := h.mapped; cases e : regPlain b off <;> simp_all
  have hl : (decide (0x400000 ≤ off) && decide (off < 0x1000000)) = false := by simp [h.low]
  unfold busWrite
  rw [h.reg, h.alone, h.parity, hp, hl, hm, h.unit, w]
  rfl

/-- Only a refused doorbell counts before its refusal is logged. -/
theorem refusedDoorbell_other {b : Blk} {off : Nat} (h : off < rPage ∨ 0x300000 ≤ off ∨ off % 0x1000 ≠ 0) :
    refusedDoorbell b off = b := by
  unfold refusedDoorbell
  rw [if_neg]
  simp only [Bool.and_eq_true, decide_eq_true_eq, not_and]
  intro h1 h2
  rcases h with h | h | h <;> omega

/-- A write that asks no store of other parties contends with nobody. -/
theorem grantedWrite_none {b : Blk} {off : Nat} (h : asksFor b off = none) (a : Access) (t : Blk) : grantedWrite b a off t = t := by
  unfold grantedWrite; rw [h]

/-- Below the context pages only CTX_CTL asks such a store. -/
theorem asksFor_low {b : Blk} {off : Nat} (h : off < 0x200000) (h2 : off ≠ 0x120008) : asksFor b off = none := by
  unfold asksFor
  rw [if_neg h2, if_neg (by omega)]

/-- In the context pages only XCH_RCTL does. -/
theorem asksFor_page {b : Blk} {off : Nat} (h : 0x200000 ≤ off) (h2 : off % 4096 ≠ 0x430) : asksFor b off = none := by
  unfold asksFor
  rw [if_neg (by omega), if_neg (fun k => h2 k.2.2)]

/-- A write that is performed, as a command. -/
theorem busCmd_ok {s : State} {off : Nat} {a : Access} (h : Served s.blk off a) (hg : asksFor s.blk off = none) {v : Word} {t : Blk}
    (w : regAct s.blk off v = some t) : busCmd off v a s = .next (s.finish (rgpEnd t rgpOk 0)) := by
  unfold busCmd ready
  rw [act_serves h.reg, grantedWrite_none hg, busWrite_ok h w]

/-- A write that is performed at a store that other parties ask too, as a command: a contested grant is counted (R297). -/
theorem busCmd_asked {s : State} {off : Nat} {a : Access} (h : Served s.blk off a) {c : Nat} (hg : asksFor s.blk off = some c) {v : Word}
    {t : Blk} (w : regAct s.blk off v = some t) :
    busCmd off v a s = .next (s.finish (contested (rgpEnd t rgpOk 0) c a.waiting)) := by
  unfold busCmd ready
  rw [act_serves h.reg, busWrite_ok h w]
  unfold grantedWrite
  rw [hg]
  dsimp only
  rw [if_pos ⟨h.alone, rfl⟩]

/-- A write that R14 refuses, as a command. -/
theorem busCmd_refused {s : State} {off : Nat} {a : Access} (h : Served s.blk off a) {v : Word}
    (w : regAct s.blk off v = none) (hd : off < rPage ∨ 0x300000 ≤ off ∨ off % 0x1000 ≠ 0) :
    busCmd off v a s = .next (s.finish (refuseWrite s.blk off v a)) := by
  unfold busCmd ready
  have hr : (refuseWrite s.blk off v a).ports.rgpStatus ≠ rgpOk := by unfold refuseWrite rgpEnd; exact (by decide : rgpRefused ≠ rgpOk)
  rw [act_serves h.reg, busWrite_refused h w, refusedDoorbell_other hd]
  unfold grantedWrite
  split
  · rw [if_neg (fun x => hr x.2)]
  · rfl

end Sys2Proof.Machine
end

