-- ==== Sys2Proof/Laws/Lists.lean ====
section
/-! SUPPORT. Sorting, first hits, least elements, and lists without repeats. -/
namespace Sys2Proof.Machine

theorem mem_insertBy {α : Type} (le : α → α → Bool) (x y : α) (l : List α) : y ∈ insertBy le x l ↔ y = x ∨ y ∈ l := by
  induction l with
  | nil => simp [insertBy]
  | cons z r ih =>
    unfold insertBy
    split
    · simp only [List.mem_cons, ih]; tauto
    · simp

theorem insertBy_sorted {α : Type} (le : α → α → Bool) (tot : ∀ a b, le a b = true ∨ le b a = true)
    (tr : ∀ a b c, le a b = true → le b c = true → le a c = true) (x : α) (l : List α) (h : l.Pairwise (fun a b => le a b = true)) :
    (insertBy le x l).Pairwise (fun a b => le a b = true) := by
  induction l with
  | nil => simp [insertBy]
  | cons z r ih =>
    rw [List.pairwise_cons] at h
    unfold insertBy
    split
    · rename_i hz
      rw [List.pairwise_cons]
      refine ⟨fun y hy => ?_, ih h.2⟩
      rcases (mem_insertBy le x y r).mp hy with rfl | hy
      · exact hz
      · exact h.1 y hy
    · rename_i hz
      have hxz : le x z = true := (tot x z).resolve_right hz
      rw [List.pairwise_cons, List.pairwise_cons]
      refine ⟨fun y hy => ?_, h⟩
      rcases List.mem_cons.mp hy with rfl | hy
      · exact hxz
      · exact tr _ _ _ hxz (h.1 y hy)

theorem foldl_insert {α : Type} (le : α → α → Bool) (tot : ∀ a b, le a b = true ∨ le b a = true)
    (tr : ∀ a b c, le a b = true → le b c = true → le a c = true) (l acc : List α) (h : acc.Pairwise (fun a b => le a b = true)) :
    (l.foldl (fun a x => insertBy le x a) acc).Pairwise (fun a b => le a b = true) ∧
    ∀ y, y ∈ l.foldl (fun a x => insertBy le x a) acc ↔ y ∈ l ∨ y ∈ acc := by
  induction l generalizing acc with
  | nil => exact ⟨h, by simp⟩
  | cons x r ih =>
    obtain ⟨h1, h2⟩ := ih (insertBy le x acc) (insertBy_sorted le tot tr x acc h)
    refine ⟨h1, fun y => ?_⟩
    rw [List.foldl_cons, h2, mem_insertBy, List.mem_cons]; tauto

theorem sortBy_sorted {α : Type} (le : α → α → Bool) (tot : ∀ a b, le a b = true ∨ le b a = true)
    (tr : ∀ a b c, le a b = true → le b c = true → le a c = true) (l : List α) : (sortBy le l).Pairwise (fun a b => le a b = true) :=
  (foldl_insert le tot tr l [] .nil).1

theorem mem_sortBy {α : Type} (le : α → α → Bool) (y : α) (l : List α) : y ∈ sortBy le l ↔ y ∈ l := by
  unfold sortBy
  have : ∀ acc, y ∈ l.foldl (fun a x => insertBy le x a) acc ↔ y ∈ l ∨ y ∈ acc := by
    induction l with
    | nil => simp
    | cons x r ih => intro acc; rw [List.foldl_cons, ih, mem_insertBy, List.mem_cons]; tauto
  simpa using this []

theorem findSome_first {α β : Type} (f : α → Option β) (l : List α) (v : β) (h : l.findSome? f = some v) :
    ∃ a b x, l = a ++ x :: b ∧ f x = some v ∧ ∀ y ∈ a, f y = none := by
  induction l with
  | nil => simp at h
  | cons x r ih =>
    rw [List.findSome?_cons] at h
    cases hx : f x with
    | some w =>
      rw [hx] at h
      exact ⟨[], r, x, rfl, by rw [hx]; exact h, by simp⟩
    | none =>
      rw [hx] at h
      obtain ⟨a, b, y, e, h1, h2⟩ := ih h
      refine ⟨x :: a, b, y, by rw [e]; rfl, h1, ?_⟩
      intro z hz
      rcases List.mem_cons.mp hz with rfl | hz
      · exact hx
      · exact h2 z hz

def readyLe (a b : Nat × Task) : Bool := decide (a.2.level < b.2.level) || (a.2.level == b.2.level && decide (a.2.seq ≤ b.2.seq))

theorem argmin_mem {α : Type} (f : α → Nat) (l : List α) (x : α) (h : argmin f l = some x) : x ∈ l := by
  cases l with
  | nil => simp [argmin] at h
  | cons y r =>
    simp only [argmin, Option.some.injEq] at h
    have : ∀ (r : List α) (b : α), r.foldl (fun b y => if f y < f b then y else b) b = b ∨
        r.foldl (fun b y => if f y < f b then y else b) b ∈ r := by
      intro r
      induction r with
      | nil => intro b; left; rfl
      | cons z r ih =>
        intro b
        rw [List.foldl_cons]
        rcases ih (if f z < f b then z else b) with h | h
        · rw [h]; split
          · right; simp
          · left; rfl
        · right; exact List.mem_cons_of_mem _ h
    rcases this r y with h' | h'
    · rw [h'] at h; subst h; simp
    · rw [h] at h'; exact List.mem_cons_of_mem _ h'

theorem nodup_eraseDups (n : Nat) : ∀ l : List Nat, l.length ≤ n → l.eraseDups.Nodup := by
  induction n with
  | zero => intro l h; rw [List.length_eq_zero_iff.mp (Nat.le_zero.mp h)]; simp
  | succ n ih =>
    intro l h
    cases l with
    | nil => simp
    | cons a r =>
      rw [List.eraseDups_cons, List.nodup_cons]
      refine ⟨?_, ih _ ?_⟩
      · rw [List.mem_eraseDups]; simp
      · refine Nat.le_trans (List.length_filter_le _ _) ?_
        simpa using h

end Sys2Proof.Machine
end

