-- ==== Sys2Proof/Laws/Rows.lean ====
section
/-! SUPPORT. What `exec` is, command by command: the gate of the function it needs, and its update. -/
namespace Sys2Proof.Machine

theorem exec_coldReset (s : State) :
    exec (.coldReset) s =
      .next { s with blk := coldReset s.blk, tap := { s.tap with dirty := s.tap.dirty && s.tap.running } } := rfl
theorem exec_coldResetRelease (keyhash : BitVec 384) (s : State) :
    exec (.coldResetRelease keyhash) s = .next (s.finishTime (coldRelease s.blk keyhash)) := rfl
theorem exec_storeInitDone (st : InitStore) (s : State) :
    exec (.storeInitDone st) s = act (awake s) (fun b => storeInitDone b st) s := rfl
theorem exec_nvmOperationDone (beats : List (Word × Bool)) (derr : Bool) (s : State) :
    exec (.nvmOperationDone beats derr) s = act (awake s) (fun b => nvmDone b beats derr) s := rfl
theorem exec_pbApply (s : State) : exec (.pbApply) s = act (awake s) pbApply s := rfl
theorem exec_softrst (a : Access) (s : State) : exec (.softrst a) s = busCmd 0x10020 1 a s := rfl
theorem exec_softResetDrainExpiry (s : State) :
    exec (.softResetDrainExpiry) s = .next (if awake s then s.finishTime (srstExpiry s.blk) else s) := rfl
theorem exec_handshakeViolation (p : PortName) (s : State) :
    exec (.handshakeViolation p) s = act (awake s) (fun b => handshake b p) s := rfl
theorem exec_timeSample (val : Nat) (valid parityOk : Bool) (s : State) :
    exec (.timeSample val valid parityOk) s =
      .next (if ready s 1 then s.finishTime (timeSample s.blk val valid parityOk) else s) := rfl
theorem exec_throttleCeiling (v : Nat) (parityOk : Bool) (s : State) :
    exec (.throttleCeiling v parityOk) s = act (answers s 9) (fun b => takeCeiling b v parityOk) s := rfl
theorem exec_tokenGain (s : State) :
    exec (.tokenGain) s = act (ready s 9) (fun b => if gainDue b then gainToken b else b) s := rfl
theorem exec_dispatchDecision (waiting : List Nat) (s : State) :
    exec (.dispatchDecision waiting) s = act (ready s 9) (fun b => decideNext b waiting) s := rfl
theorem exec_dispatchAck (n : Nat) (err : Bool) (s : State) :
    exec (.dispatchAck n err) s = act (awake s) (fun b => ripAck b n err) s := rfl
theorem exec_completionWord (n src : Nat) (w : Word64) (parityOk : Bool) (waiting : List Nat) (s : State) :
    exec (.completionWord n src w parityOk waiting) s =
      act (answers s 9) (fun b => takeCompletion b (n % 16) (src % 256) w parityOk waiting) s := rfl
theorem exec_candidateRecord (n src : Nat) (w : Word64) (parityOk : Bool) (waiting : List Nat) (s : State) :
    exec (.candidateRecord n src w parityOk waiting) s =
      act (answers s 9) (fun b => takeRecord b (n % 16) (src % 256) w parityOk waiting) s := rfl
theorem exec_enqueueRequest (n src : Nat) (w : Word64) (parityOk : Bool) (waiting : List Nat) (s : State) :
    exec (.enqueueRequest n src w parityOk waiting) s =
      act (answers s 9) (fun b => takeEnqueue b (n % 16) (src % 256) w parityOk waiting) s := rfl
theorem exec_rcpReservedKind (n src kind : Nat) (w : Word64) (parityOk : Bool) (s : State) :
    exec (.rcpReservedKind n src kind w parityOk) s =
      act (answers s 9) (fun b => takeReserved b (n % 16) (src % 256) kind parityOk) s := rfl
theorem exec_memoryResponse (tag status : Nat) (data : Line) (dataOk ctlOk : Bool) (waiting : List Nat) (s : State) :
    exec (.memoryResponse tag status data dataOk ctlOk waiting) s =
      act (ready s 2) (fun b => memResponse b (tag % 1024) (status % 8) data dataOk ctlOk waiting) s := rfl
theorem exec_arrive (h : FHdr) (scope node : Nat) (dead : Bool) (s : State) :
    exec (.arrive h scope node dead) s = reqCmd h 0x01 (some (.arrive scope node dead)) s := rfl
theorem exec_closeRequest (h : FHdr) (t scope node : Nat) (s : State) :
    exec (.closeRequest h t scope node) s = reqCmd h 0x02 (some (.close t scope node)) s := rfl
theorem exec_cand (h : FHdr) (scope : Nat) (dead fin : Bool) (recs : List Word64) (s : State) :
    exec (.cand h scope dead fin recs) s = reqCmd h 0x04 (some (.cand scope dead fin recs)) s := rfl
theorem exec_tally (h : FHdr) (final : Bool) (home scope expNode : Nat) (entries : List (Nat × Nat)) (s : State) :
    exec (.tally h final home scope expNode entries) s = reqCmd h 0x05 (some (.tally final home scope expNode entries)) s := rfl
theorem exec_assign (h : FHdr) (expert home scope : Nat) (recs : List Word64) (s : State) :
    exec (.assign h expert home scope recs) s = reqCmd h 0x06 (some (.assign expert home scope recs)) s := rfl
theorem exec_stage (h : FHdr) (expert scope expNode : Nat) (s : State) :
    exec (.stage h expert scope expNode) s = reqCmd h 0x07 (some (.stage expert scope expNode)) s := rfl
theorem exec_cancelRequest (h : FHdr) (expert scope expNode : Nat) (s : State) :
    exec (.cancelRequest h expert scope expNode) s = reqCmd h 0x08 (some (.cancel expert scope expNode)) s := rfl
theorem exec_amReq (h : FHdr) (m : AmHdr) (payload : List Byte) (s : State) :
    exec (.amReq h m payload) s = reqCmd h 0x10 (some (.am false m payload)) s := rfl
theorem exec_amRpl (h : FHdr) (m : AmHdr) (payload : List Byte) (s : State) :
    exec (.amRpl h m payload) s = reqCmd h 0x11 (some (.am true m payload)) s := rfl
theorem exec_fabricReservedType (h : FHdr) (ty : Nat) (s : State) :
    exec (.fabricReservedType h ty) s = reqCmd h (ty % 64) none s := rfl
theorem exec_orderHoldExpiry (src pseq : Nat) (s : State) :
    exec (.orderHoldExpiry src pseq) s = act (ready s 11) (fun b => holdExpiry b src pseq) s := rfl
theorem exec_orderWindowClose (s : State) : exec (.orderWindowClose) s = act (ready s 11) windowClose s := rfl
theorem exec_answer (_src rqid code : Nat) (parityOk : Bool) (flits : Nat) (waiting : List Nat) (s : State) :
    exec (.answer _src rqid code parityOk flits waiting) s =
      act (answers s 11) (fun b => inAnswer b (rqid % 65536) (code % 16) parityOk flits waiting) s := rfl
theorem exec_replyTimerExpiry (idx : Nat) (waiting : List Nat) (s : State) :
    exec (.replyTimerExpiry idx waiting) s = act (ready s 11) (fun b => replyExpiry b idx waiting) s := rfl
theorem exec_epochNotice (epoch : Nat) (s : State) :
    exec (.epochNotice epoch) s = act (answers s 11) (fun b => takeEpoch b epoch) s := rfl
theorem exec_fabricXoff (ch : FabChan) (on : Bool) (s : State) :
    exec (.fabricXoff ch on) s = act true (fun b => setXoff b ch on) s := rfl
theorem exec_retryOffer (i : Nat) (s : State) : exec (.retryOffer i) s = act (ready s 11) (fun b => retryOffer b i) s := rfl
theorem exec_earlyArrivalExpiry (s : State) : exec (.earlyArrivalExpiry) s = act (ready s 8) expireEarly s := rfl
theorem exec_delayRelease (waiting : List Nat) (s : State) :
    exec (.delayRelease waiting) s =
      act (ready s 8) (fun b => match dlyDue b with
          | some d => dlyRelease (contestedOpt b ((taskOf b d.slot).map (·.ctx)) waiting) d | none => b) s := rfl
theorem exec_taskOverrun (slot : Nat) (s : State) :
    exec (.taskOverrun slot) s = act (ready s 9) (fun b => overrunAt b slot) s := rfl
theorem exec_sieveRunTimeout (run : Nat) (s : State) :
    exec (.sieveRunTimeout run) s = act (ready s 10) (fun b => timeoutRun b run) s := rfl
theorem exec_launchEnd (l : Nat) (waiting : List Nat) (s : State) :
    exec (.launchEnd l waiting) s =
      act (ready s 8) (fun b => match launchOf b l with
        | some v => if freeCtx b v.ctx && launchDue b l v then launchEnd (contested b v.ctx waiting) l else b | none => b) s := rfl
theorem exec_courseBuild (s : State) : exec (.courseBuild) s = act (ready s 14) (boundPhase courseBuild) s := rfl
theorem exec_boundaryEnd (s : State) : exec (.boundaryEnd) s = act (ready s 14) (boundPhase boundaryEnd) s := rfl
theorem exec_seqAdvance (ctx : Nat) (s : State) :
    exec (.seqAdvance ctx) s = act (ready s 14) (fun b => if freeCtx b ctx then seqAdvance b ctx else b) s := rfl
theorem exec_cmdNop (q : Nat) (s : State) : exec (.cmdNop q) s = nibCmd q oNop [] runNop s := rfl
theorem exec_cmdLaunch (q : Nat) (waiting : List Nat) (s : State) :
    exec (.cmdLaunch q waiting) s = nibCmd q oLaunch waiting runLaunch s := rfl
theorem exec_cmdWait (q : Nat) (waiting : List Nat) (s : State) :
    exec (.cmdWait q waiting) s = nibCmd q oWait waiting runWait s := rfl
theorem exec_cmdSignal (q : Nat) (waiting : List Nat) (s : State) :
    exec (.cmdSignal q waiting) s = nibCmd q oSignal waiting runSignal s := rfl
theorem exec_cmdClose (q : Nat) (waiting : List Nat) (s : State) :
    exec (.cmdClose q waiting) s = nibCmd q oClose waiting runClose s := rfl
theorem exec_cmdJalloc (q : Nat) (waiting : List Nat) (s : State) :
    exec (.cmdJalloc q waiting) s = nibCmd q oJalloc waiting runJalloc s := rfl
theorem exec_cmdJfree (q : Nat) (waiting : List Nat) (s : State) :
    exec (.cmdJfree q waiting) s = nibCmd q oJfree waiting runJfree s := rfl
theorem exec_cmdCancel (q : Nat) (waiting : List Nat) (s : State) :
    exec (.cmdCancel q waiting) s = nibCmd q oCancel waiting runCancel s := rfl
theorem exec_cmdSet (q : Nat) (s : State) : exec (.cmdSet q) s = nibCmd q oSet [] runSet s := rfl
theorem exec_cmdAdd (q : Nat) (s : State) : exec (.cmdAdd q) s = nibCmd q oAdd [] runAdd s := rfl
theorem exec_cmdGet (q : Nat) (s : State) : exec (.cmdGet q) s = nibCmd q oGet [] runGet s := rfl
theorem exec_cmdLoad (q : Nat) (s : State) : exec (.cmdLoad q) s = nibCmd q oLoad [] runLoad s := rfl
theorem exec_cmdStore (q : Nat) (s : State) : exec (.cmdStore q) s = nibCmd q oStore [] runStore s := rfl
theorem exec_cmdBr (q : Nat) (s : State) : exec (.cmdBr q) s = nibCmd q oBr [] runBr s := rfl
theorem exec_cmdLoop (q : Nat) (s : State) : exec (.cmdLoop q) s = nibCmd q oLoop [] runLoop s := rfl
theorem exec_cmdCall (q : Nat) (s : State) : exec (.cmdCall q) s = nibCmd q oCall [] runCall s := rfl
theorem exec_cmdRet (q : Nat) (s : State) : exec (.cmdRet q) s = nibCmd q oRet [] runRet s := rfl
theorem exec_cmdSleep (q : Nat) (s : State) : exec (.cmdSleep q) s = nibCmd q oSleep [] runSleep s := rfl
theorem exec_cmdBrk (q : Nat) (s : State) :
    exec (.cmdBrk q) s = act (ready s 13) (fun b => execCmd b q oBrk [] (fun b w passed => runBrk b q w passed)) s := rfl
theorem exec_cmdPatch (q : Nat) (waiting : List Nat) (s : State) :
    exec (.cmdPatch q waiting) s = nibCmd q oPatch waiting runPatch s := rfl
theorem exec_cmdSpill (q : Nat) (waiting : List Nat) (s : State) :
    exec (.cmdSpill q waiting) s = nibCmd q oSpill waiting runSpill s := rfl
theorem exec_cmdRefill (q : Nat) (waiting : List Nat) (s : State) :
    exec (.cmdRefill q waiting) s = nibCmd q oRefill waiting runRefill s := rfl
theorem exec_cmdLatch (q : Nat) (s : State) : exec (.cmdLatch q) s = nibCmd q oLatch [] runLatch s := rfl
theorem exec_cmdFence (q : Nat) (waiting : List Nat) (s : State) :
    exec (.cmdFence q waiting) s = nibCmd q oFence waiting runFence s := rfl
theorem exec_cmdAudit (q : Nat) (s : State) : exec (.cmdAudit q) s = nibCmd q oAudit [] runAudit s := rfl
theorem exec_cmdHello (q : Nat) (s : State) : exec (.cmdHello q) s = nibCmd q oHello [] runHello s := rfl
theorem exec_cmdAdopt (q : Nat) (s : State) : exec (.cmdAdopt q) s = nibCmd q oAdopt [] runAdopt s := rfl
theorem exec_illegalOpcode (q : Nat) (s : State) :
    exec (.illegalOpcode q) s = act (ready s 13) (fun b => illegalOpcode b q) s := rfl
theorem exec_waitTimeout (q : Nat) (s : State) :
    exec (.waitTimeout q) s = act (ready s 13) (fun b => if freeCtx b (sqCtx b q) then waitTimeout b q else b) s := rfl
theorem exec_sleepWake (q : Nat) (s : State) :
    exec (.sleepWake q) s = act (ready s 13) (fun b => if freeCtx b (sqCtx b q) then sleepWake b q else b) s := rfl
theorem exec_pulse (s : State) : exec (.pulse) s = act (ready s 13) pulseCmd s := rfl
theorem exec_pcSample (s : State) : exec (.pcSample) s = act (ready s 13) pcSample s := rfl
theorem exec_csqDb (page q tail : Nat) (a : Access) (s : State) :
    exec (.csqDb page q tail a) s = busCmd (pageReg (page % 256) 0) (w32 (put q 21 16 + put tail 15 0)) a s := rfl
theorem exec_queueEnable (q : Nat) (v : Word) (a : Access) (s : State) :
    exec (.queueEnable q v a) s = busCmd (sqReg (q % 64) 0) (v ||| 0x80000000#32) a s := rfl
theorem exec_queueDisable (q : Nat) (v : Word) (a : Access) (s : State) :
    exec (.queueDisable q v a) s = busCmd (sqReg (q % 64) 0) (v &&& 0x7fffffff#32) a s := rfl
theorem exec_retry (q : Nat) (a : Access) (s : State) : exec (.retry q a) s = busCmd (sqReg (q % 64) 0x24) 1 a s := rfl
theorem exec_skip (q : Nat) (a : Access) (s : State) : exec (.skip q a) s = busCmd (sqReg (q % 64) 0x24) 2 a s := rfl
theorem exec_flush (q : Nat) (a : Access) (s : State) : exec (.flush q a) s = busCmd (sqReg (q % 64) 0x24) 3 a s := rfl
theorem exec_resume (a : Access) (s : State) : exec (.resume a) s = busCmd 0x20144 1 a s := rfl
theorem exec_stepBrk (a : Access) (s : State) : exec (.stepBrk a) s = busCmd 0x20144 2 a s := rfl
theorem exec_completionHeadWrite (page : Nat) (v : Word) (a : Access) (s : State) :
    exec (.completionHeadWrite page v a) s = busCmd (pageReg (page % 256) 0x10) v a s := rfl
theorem exec_install (tid : Nat) (a : Access) (s : State) :
    exec (.install tid a) s = busCmd 0x4000c (w32 (put 1 29 28 + put tid 11 0)) a s := rfl
theorem exec_uninstall (tid : Nat) (a : Access) (s : State) :
    exec (.uninstall tid a) s = busCmd 0x4000c (w32 (put 2 29 28 + put tid 11 0)) a s := rfl
theorem exec_xtLoad (a : Access) (s : State) : exec (.xtLoad a) s = busCmd 0xc0010 1 a s := rfl
theorem exec_c0ResvWrite (v : Word) (a : Access) (s : State) : exec (.c0ResvWrite v a) s = busCmd rC0Resv v a s := rfl
theorem exec_regionReturn (mask : Word) (a : Access) (s : State) :
    exec (.regionReturn mask a) s = busCmd rRegionFail mask a s := rfl
theorem exec_reqFaultClear (a : Access) (s : State) : exec (.reqFaultClear a) s = busCmd 0xe0138 1 a s := rfl
theorem exec_noticeHeadWrite (page : Nat) (v : Word) (a : Access) (s : State) :
    exec (.noticeHeadWrite page v a) s = busCmd (pageReg (page % 256) 0x20c) v a s := rfl
theorem exec_xchSdb (page ch tail : Nat) (a : Access) (s : State) :
    exec (.xchSdb page ch tail a) s = busCmd (pageReg (page % 256) 0x400) (w32 (put ch 25 16 + put tail 15 0)) a s := rfl
theorem exec_send (ch : Nat) (s : State) : exec (.send ch) s = act (ready s 11) (fun b => sendCmd b ch) s := rfl
theorem exec_alloc (ch : Nat) (s : State) : exec (.alloc ch) s = act (ready s 11) (fun b => allocCmd b ch) s := rfl
theorem exec_freeHandle (ch : Nat) (s : State) : exec (.freeHandle ch) s = act (ready s 11) (fun b => freeCmd b ch) s := rfl
theorem exec_channelEnable (page : Nat) (v : Word) (a : Access) (s : State) :
    exec (.channelEnable page v a) s = busCmd (pageReg (page % 256) 0x408) (v ||| 0x80000000#32) a s := rfl
theorem exec_channelFaultClear (page : Nat) (a : Access) (s : State) :
    exec (.channelFaultClear page a) s = busCmd (pageReg (page % 256) 0x408) (scfgClear s.blk (page % 256)) a s := rfl
theorem exec_openRing (page : Nat) (a : Access) (s : State) :
    exec (.openRing page a) s = busCmd (pageReg (page % 256) 0x430) 1 a s := rfl
theorem exec_openBound (page : Nat) (a : Access) (s : State) :
    exec (.openBound page a) s = busCmd (pageReg (page % 256) 0x430) 2 a s := rfl
theorem exec_ringClose (page : Nat) (a : Access) (s : State) :
    exec (.ringClose page a) s = busCmd (pageReg (page % 256) 0x430) 3 a s := rfl
theorem exec_ctxOpen (a : Access) (s : State) : exec (.ctxOpen a) s = busCmd 0x120008 1 a s := rfl
theorem exec_ctxFence (a : Access) (s : State) : exec (.ctxFence a) s = busCmd 0x120008 2 a s := rfl
theorem exec_ctxReset (a : Access) (s : State) : exec (.ctxReset a) s = busCmd 0x120008 3 a s := rfl
theorem exec_ctxClose (a : Access) (s : State) : exec (.ctxClose a) s = busCmd 0x120008 4 a s := rfl
theorem exec_ctxResume (a : Access) (s : State) : exec (.ctxResume a) s = busCmd 0x120008 5 a s := rfl
theorem exec_openingDone (ctx : Nat) (s : State) :
    exec (.openingDone ctx) s = act (ready s 12) (fun b => openingDone b (ctx % 256)) s := rfl
theorem exec_drainComplete (ctx : Nat) (s : State) :
    exec (.drainComplete ctx) s = act (ready s 12) (fun b => drainComplete b (ctx % 256)) s := rfl
theorem exec_quiesceExpiry (ctx : Nat) (s : State) :
    exec (.quiesceExpiry ctx) s = act (ready s 12) (fun b => quiesceExpiry b (ctx % 256)) s := rfl
theorem exec_closeReleaseDone (ctx : Nat) (s : State) :
    exec (.closeReleaseDone ctx) s = act (ready s 12) (fun b => closeReleaseDone b (ctx % 256)) s := rfl
theorem exec_ctxRenew (v : Word) (a : Access) (s : State) : exec (.ctxRenew v a) s = busCmd 0x120100 v a s := rfl
theorem exec_leaseExpiry (ctx : Nat) (s : State) :
    exec (.leaseExpiry ctx) s = act (ready s 12) (fun b => leaseExpiry b (ctx % 256)) s := rfl
theorem exec_peerFence (v : Word) (a : Access) (s : State) :
    exec (.peerFence v a) s = busCmd rPeerEnt (v ||| 0x80000000#32) a s := rfl
theorem exec_peerUnfence (v : Word) (a : Access) (s : State) :
    exec (.peerUnfence v a) s = busCmd rPeerEnt (v &&& 0x7fffffff#32) a s := rfl
theorem exec_boardFaultClear (a : Access) (s : State) :
    exec (.boardFaultClear a) s = busCmd rCtxStatus 0x80000000#32 a s := rfl
theorem exec_ordModeWrite (v : Word) (a : Access) (s : State) : exec (.ordModeWrite v a) s = busCmd rOrdMode v a s := rfl
theorem exec_stepLoad (a : Access) (s : State) : exec (.stepLoad a) s = busCmd 0x120824 2 a s := rfl
theorem exec_tccClear (a : Access) (s : State) : exec (.tccClear a) s = busCmd 0x120824 1 a s := rfl
theorem exec_ruledTick (ctx : Nat) (s : State) :
    exec (.ruledTick ctx) s = act (ready s 12) (fun b => ruledTick b (ctx % 256)) s := rfl
theorem exec_frontStallExpiry (ctx : Nat) (s : State) :
    exec (.frontStallExpiry ctx) s = act (ready s 12) (fun b => frontStall b (ctx % 256)) s := rfl
theorem exec_counterConfig (n : Nat) (v : Word) (a : Access) (s : State) :
    exec (.counterConfig n v a) s = busCmd (cntReg (n % 64)) v a s := rfl
theorem exec_counterClear (n : Nat) (a : Access) (s : State) :
    exec (.counterClear n a) s = busCmd (cntReg (n % 64) + 0x14) 1 a s := rfl
theorem exec_counterReadClear (off : Nat) (a : Access) (s : State) :
    exec (.counterReadClear off a) s = readCmd off a s := rfl
theorem exec_trigger (a : Access) (s : State) : exec (.trigger a) s = busCmd 0x140918 1 a s := rfl
theorem exec_arm (b : Nat) (a : Access) (s : State) : exec (.arm b a) s = busCmd (bufReg (b % 4) 4) 1 a s := rfl
theorem exec_bufferEnable (b : Nat) (v : Word) (a : Access) (s : State) :
    exec (.bufferEnable b v a) s = busCmd (bufReg (b % 4) 0) (v ||| 0x80000000#32) a s := rfl
theorem exec_bufferFaultClear (b : Nat) (a : Access) (s : State) :
    exec (.bufferFaultClear b a) s = busCmd (bufReg (b % 4) 8) 0x20000000#32 a s := rfl
theorem exec_latchRingEnable (v : Word) (a : Access) (s : State) :
    exec (.latchRingEnable v a) s = busCmd rLcfg (v ||| 0x80000000#32) a s := rfl
theorem exec_latchFaultClear (a : Access) (s : State) :
    exec (.latchFaultClear a) s = busCmd rLcfg (lcfgClear s.blk) a s := rfl
theorem exec_traceDrainLine (s : State) : exec (.traceDrainLine) s = act (ready s 6) drainLine s := rfl
theorem exec_traceFlushExpiry (b : Nat) (s : State) :
    exec (.traceFlushExpiry b) s = act (ready s 6) (fun x => flushLone x (b % 4)) s := rfl
theorem exec_blot (a : Access) (s : State) : exec (.blot a) s = busCmd 0x180000 2 a s := rfl
theorem exec_snap (a : Access) (s : State) : exec (.snap a) s = busCmd 0x180000 1 a s := rfl
theorem exec_blotWrite (s : State) : exec (.blotWrite) s = act (answers s 5) blotWrite s := rfl
theorem exec_raiseTest (a : Access) (s : State) : exec (.raiseTest a) s = busCmd 0x160008 1 a s := rfl
theorem exec_alarmCauseClear (v : Word) (a : Access) (s : State) :
    exec (.alarmCauseClear v a) s = busCmd rAlarmCause v a s := rfl
theorem exec_logClear (a : Access) (s : State) : exec (.logClear a) s = busCmd 0x160068 1 a s := rfl
theorem exec_selfCheckFail (s : State) : exec (.selfCheckFail) s = act (awake s) selfCheck s := rfl
theorem exec_sweepRead (f : Finding) (unit : Option Nat) (s : State) :
    exec (.sweepRead f unit) s = act (awake s) (fun b => sweepRead b f unit) s := rfl
theorem exec_sweepOverrun (s : State) : exec (.sweepOverrun) s = act (awake s) sweepOverrun s := rfl
theorem exec_pulseWatchdogExpiry (s : State) : exec (.pulseWatchdogExpiry) s = act (awake s) pulseWatchdog s := rfl
theorem exec_dispatchWatchdogExpiry (s : State) : exec (.dispatchWatchdogExpiry) s = act (awake s) dispatchWatchdog s := rfl
theorem exec_autoAudit (s : State) : exec (.autoAudit) s = act (awake s) autoAudit s := rfl
theorem exec_diagWindowRead (off : Nat) (a : Access) (f : Finding) (s : State) :
    exec (.diagWindowRead off a f) s = act (ready s 0) (fun b => diagRead b off a f) s := rfl
theorem exec_registerWrite (off : Nat) (v : Word) (a : Access) (s : State) :
    exec (.registerWrite off v a) s = busCmd off v a s := rfl
theorem exec_wsBypass (code : Nat) (s : State) :
    exec (.wsBypass code) s = tapCmd (fun t => if wirOf code = .bypass then t.toBypass else t) s := rfl
theorem exec_wsExtest (pins : List Bool) (s : State) :
    exec (.wsExtest pins) s =
      tapCmd (fun t => { t with wir := .extest, captured := BitVec.ofNat 8527 (shifted pins) }) s := rfl
theorem exec_wsPreload (bits : List Bool) (s : State) :
    exec (.wsPreload bits) s =
      tapCmd (fun t => { t with wir := .preload, boundary := BitVec.ofNat 8527 (shifted bits) }) s := rfl
theorem exec_qmScan (s : State) : exec (.qmScan) s = execQmScan s := rfl
theorem exec_qmMbist (start : Bool) (s : State) : exec (.qmMbist start) s = execQmMbist s start := rfl
theorem exec_qmMbistDone (st row : Nat) (s : State) :
    exec (.qmMbistDone st row) s =
      tapCmd (fun t => if t.running then { t with
          running := false, doneBit := true, failStore := st % 2 ^ 16, failRow := row % 2 ^ 32 } else t) s := rfl
theorem exec_qmMbistRes (s : State) :
    exec (.qmMbistRes) s = tapCmd (fun t => { t with wir := .mbistRes, out := t.result }) s := rfl
theorem exec_qmDlymon (s : State) : exec (.qmDlymon) s = execQmDlymon s := rfl
theorem exec_qmId (s : State) :
    exec (.qmId) s = tapCmd (fun t => { t with wir := .id, out := 0x514d4e5300030001#64 }) s := rfl
theorem exec_wrapperReset (s : State) : exec (.wrapperReset) s = tapCmd (fun t => { dirty := t.dirty }) s := rfl
theorem exec_memoryRequestTaken (s : State) : exec (.memoryRequestTaken) s = act (awake s) memTake s := rfl
theorem exec_fabricFlitTaken (ch : FabChan) (s : State) :
    exec (.fabricFlitTaken ch) s = act (awake s) (fun b => match ch with | .fqo => fqoTaken b | .fpo => fpoTaken b) s := rfl
theorem exec_loHalfRead (off : Nat) (a : Access) (s : State) : exec (.loHalfRead off a) s = readCmd off a s := rfl

end Sys2Proof.Machine
end

