-- ==== Sys2Proof/Laws/Exec.lean ====
section
/-! SUPPORT. What `exec` is, command by command: every command but those of the wrapper and of wall time is an update behind a
gate. -/
namespace Sys2Proof.Machine

/-- A command that is neither of the wrapper nor of wall time is an update of the block behind the gate of a function. -/
theorem exec_acts (c : Instr) (s : State) (hw : ofWrapper c = false) (ht : movesTime c = false) :
    ∃ b f, exec c s = act b f s := by
  cases c
  all_goals first
    | exact Bool.noConfusion (show true = false from hw)
    | exact Bool.noConfusion (show true = false from ht)
    | (unfold exec; dsimp only; simp only [
      busCmd, readCmd, nibCmd, reqCmd, execStoreInitDone, execNvmOperationDone, execPbApply, execSoftrst,
      execHandshakeViolation, execThrottleCeiling, execTokenGain, execDispatchDecision, execDispatchAck,
      execCompletionWord, execCandidateRecord, execEnqueueRequest, execRcpReservedKind, execMemoryResponse,
      execArrive, execCloseRequest, execCand, execTally, execAssign, execStage, execCancelRequest, execAmReq,
      execAmRpl, execFabricReservedType, execOrderHoldExpiry, execOrderWindowClose, execAnswer,
      execReplyTimerExpiry, execEpochNotice, execFabricXoff, execRetryOffer, execEarlyArrivalExpiry,
      execDelayRelease, execTaskOverrun, execSieveRunTimeout, execLaunchEnd, execCourseBuild, execBoundaryEnd,
      execSeqAdvance, execCmdNop, execCmdLaunch, execCmdWait, execCmdSignal, execCmdClose, execCmdJalloc,
      execCmdJfree, execCmdCancel, execCmdSet, execCmdAdd, execCmdGet, execCmdLoad, execCmdStore, execCmdBr,
      execCmdLoop, execCmdCall, execCmdRet, execCmdSleep, execCmdBrk, execCmdPatch, execCmdSpill,
      execCmdRefill, execCmdLatch, execCmdFence, execCmdAudit, execCmdHello, execCmdAdopt, execIllegalOpcode,
      execWaitTimeout, execSleepWake, execPulse, execPcSample, execCsqDb, execQueueEnable, execQueueDisable,
      execRetry, execSkip, execFlush, execResume, execStepBrk, execCompletionHeadWrite, execInstall,
      execUninstall, execXtLoad, execC0ResvWrite, execRegionReturn, execReqFaultClear, execNoticeHeadWrite,
      execXchSdb, execSend, execAlloc, execFreeHandle, execChannelEnable, execChannelFaultClear, execOpenRing,
      execOpenBound, execRingClose, execCtxOpen, execCtxFence, execCtxReset, execCtxClose, execCtxResume,
      execOpeningDone, execDrainComplete, execQuiesceExpiry, execCloseReleaseDone, execCtxRenew,
      execLeaseExpiry, execPeerFence, execPeerUnfence, execBoardFaultClear, execOrdModeWrite, execStepLoad,
      execTccClear, execRuledTick, execFrontStallExpiry, execCounterConfig, execCounterClear,
      execCounterReadClear, execTrigger, execArm, execBufferEnable, execBufferFaultClear, execLatchRingEnable,
      execLatchFaultClear, execTraceDrainLine, execTraceFlushExpiry, execBlot, execSnap, execBlotWrite,
      execRaiseTest, execAlarmCauseClear, execLogClear, execSelfCheckFail, execSweepRead, execSweepOverrun,
      execPulseWatchdogExpiry, execDispatchWatchdogExpiry, execAutoAudit, execDiagWindowRead,
      execRegisterWrite, execMemoryRequestTaken, execFabricFlitTaken, execLoHalfRead]; exact ⟨_, _, rfl⟩)

end Sys2Proof.Machine
end

