-- ==== Sys2Proof/Laws/Frames.lean ====
section
/-! SUPPORT. What observation, and recording a fault, leave of the registers; what a write of one word does. -/
namespace Sys2Proof.Machine

/-! ## One register word -/

theorem onlyReg_wr (s : Blk) (k v : Nat) : OnlyReg s (wr s k v) k (v % 2 ^ 32) :=
  ⟨rfl, rg_wr_same s k v, fun _ h => rg_wr_other s v h⟩

/-! ## Observation -/

/-- A register word of OBS or DBG. -/
abbrev obsKey (k : Nat) : Prop := (0x140000 ≤ k ∧ k < 0x150000) ∨ (0x180000 ≤ k ∧ k < rPage)

theorem unitKey_ne {j k : Nat} (h : unitKey j) (hk : obsKey k) : j ≠ k := by
  unfold unitKey at h
  rintro rfl
  have : rPage = 0x200000 := rfl
  have e : j % 0x1000000 = j := Nat.mod_eq_of_lt (by omega)
  omega

theorem filter_set {α : Type} (f : Nat → Bool) (m : Store α) (k : Nat) (v : α) (h : ¬ f k = true) :
    (Store.set m k v).filter (fun p => f p.1) = m.filter (fun p => f p.1) := by
  induction m with
  | nil => simp [Store.set, h]
  | cons p r ih =>
    obtain ⟨k', v'⟩ := p
    unfold Store.set
    split
    · simp [h]
    · split
      · rename_i e; subst e; simp [h]
      · simp only [List.filter_cons, ih]

theorem filter_erase {α : Type} (f : Nat → Bool) (m : Store α) (k : Nat) (h : ¬ f k = true) :
    (Store.erase m k).filter (fun p => f p.1) = m.filter (fun p => f p.1) := by
  induction m with
  | nil => rfl
  | cons p r ih =>
    obtain ⟨k', v'⟩ := p
    unfold Store.erase
    split
    · rename_i e; subst e; simp [h, ih]
    · simp only [List.filter_cons, ih]

/-- Writing an entry leaves the entries of other kinds as they stand. -/
theorem filter_put {α : Type} [DecidableEq α] (d : α) (m : Store α) (k : Nat) (v : α) {f : Nat → Bool} (h : ¬ f k = true) :
    (Store.put d m k v).filter (fun p => f p.1) = m.filter (fun p => f p.1) := by
  unfold Store.put; split
  · exact filter_erase f m k h
  · exact filter_set f m k v h

namespace Observed

theorem self (s : Blk) : Observed s s := ⟨rfl, fun _ _ => rfl, rfl⟩

theorem trans {s t u : Blk} (h : Observed s t) (k : Observed t u) : Observed s u := by
  refine ⟨?_, fun j hj => (k.regs j hj).trans (h.regs j hj), k.words.trans h.words⟩
  have h1 := h.rest
  have k1 := k.rest
  rw [k1]; rw [h1]

theorem wr (s : Blk) (k v : Nat) (hk : obsKey k) : Observed s (wr s k v) :=
  ⟨rfl, fun _ hj => rg_wr_other s v (unitKey_ne hj hk), filter_put (f := fun j => decide (unitKey j)) _ s.regs k _
    (fun h => unitKey_ne (of_decide_eq_true h) hk rfl)⟩

theorem evRaw (s : Blk) (src : Nat) (c : Option Nat) (k : Nat) : Observed s (evRaw s src c k) := ⟨rfl, fun _ _ => rfl, rfl⟩

theorem setBuf (s : Blk) (b : Nat) (v : TBuf) : Observed s (setBuf s b v) := ⟨rfl, fun _ _ => rfl, rfl⟩

theorem bumpN (s : Blk) (k n : Nat) (hk : obsKey k) : Observed s (bumpN s k n) := by
  unfold Machine.bumpN; split
  · exact self s
  · exact wr _ _ _ hk

theorem bump (s : Blk) (k : Nat) (hk : obsKey k) : Observed s (bump s k) := bumpN s k 1 hk

theorem forEach {α : Type} (f : Blk → α → Blk) (xs : List α) (hf : ∀ s, ∀ x ∈ xs, Observed s (f s x)) (s : Blk) :
    Observed s (forEach xs s f) := by
  unfold Machine.forEach
  induction xs generalizing s with
  | nil => exact self s
  | cons x r ih => exact (hf s x (by simp)).trans (ih (fun s y hy => hf s y (by simp [hy])) _)

theorem bufKey {b o : Nat} (hb : b < 4) (ho : o < 0x40) : obsKey (bufReg b o) := by
  unfold bufReg; have : rBuf = 0x140a00 := rfl; have : rPage = 0x200000 := rfl; left; constructor <;> omega

theorem loseRecs (s : Blk) (b : Nat) (l : List Word256) (hb : b < 4) : Observed s (loseRecs s b l) := by
  unfold Machine.loseRecs
  split
  · exact ((setBuf _ _ _).trans (bumpN _ _ _ (bufKey hb (by decide)))).trans (evRaw _ _ _ _)
  · exact self s

theorem bufPut (s : Blk) (b : Nat) (w : Word256) (hb : b < 4) : Observed s (bufPut s b w) := by
  unfold Machine.bufPut
  simp only []
  split
  · exact self s
  · split
    · exact setBuf _ _ _
    · exact (loseRecs _ _ _ hb).trans (setBuf _ _ _)
  · split
    · exact (setBuf _ _ _).trans (wr _ _ _ (by decide))
    · exact setBuf _ _ _
  · exact bump _ _ (bufKey hb (by decide))

theorem blotAskRaw (s : Blk) (r : BlotReq) : Observed s (blotAskRaw s r) := by
  unfold Machine.blotAskRaw
  simp only []
  have d : Observed s (Machine.evRaw (orBits (Machine.bump s rDbgDrop) rDbgIrq 2) 0x14c none 1) :=
    ((bump _ _ (by decide)).trans (wr _ _ _ (by decide))).trans (evRaw _ _ _ _)
  split
  · exact d
  · split
    · exact ⟨rfl, fun _ _ => rfl, rfl⟩
    · split
      · exact ⟨rfl, fun _ _ => rfl, rfl⟩
      · exact d

theorem blotAutoRaw (s : Blk) (b x y z : Nat) : Observed s (blotAutoRaw s b x y z) := by
  unfold Machine.blotAutoRaw; split
  · exact blotAskRaw _ _
  · exact self s

theorem trigOne (s : Blk) (x y : Nat) : Observed s (trigOne s x y) := by
  unfold Machine.trigOne
  simp only []
  split
  · exact (bump _ _ (by decide)).trans (evRaw _ _ _ _)
  · refine ((((bump _ _ (by decide)).trans (evRaw _ _ _ _)).trans (forEach _ _ ?_ _)).trans (wr _ _ _ (by decide))).trans
      (blotAutoRaw _ _ _ _ _)
    intro t b hb
    have hb : b < 4 := by
      have h : b ∈ trigBufs (Machine.evRaw (Machine.bump s rTrigCount) 0x14a none 1) := hb
      unfold trigBufs at h
      exact List.mem_range.mp (List.mem_of_mem_filter h)
    exact (loseRecs _ _ _ hb).trans (setBuf _ _ _)

theorem trigger (s : Blk) (x y : Nat) : Observed s (trigger s x y) := by
  unfold Machine.trigger
  simp only []
  split
  · exact (trigOne _ _ _).trans (trigOne _ _ _)
  · exact trigOne _ _ _

/-- A trigger by a count is observation. -/
theorem cntTrig {s t : Blk} (h : Observed s t) (u : Blk) : Observed s (cntTrig u t) := by
  unfold Machine.cntTrig; split
  · exact h.trans (trigger _ _ _)
  · exact h

/-- Counting an event is observation. -/
theorem evN (s : Blk) (src : Nat) (c : Option Nat) (k : Nat) : Observed s (evN s src c k) := by
  unfold Machine.evN; split
  · exact self s
  · exact cntTrig (evRaw _ _ _ _) _

theorem blotAsk (s : Blk) (r : BlotReq) : Observed s (blotAsk s r) := cntTrig (blotAskRaw _ _) _

theorem blotAuto (s : Blk) (b x y z : Nat) : Observed s (blotAuto s b x y z) := by
  unfold Machine.blotAuto; split
  · exact blotAsk _ _
  · exact self s

theorem ev (s : Blk) (src c : Nat) : Observed s (ev s src c) := evN s src (some c) 1

theorem ev0 (s : Blk) (src : Nat) : Observed s (ev0 s src) := evN s src none 1

/-- A trace record is observation. -/
theorem trace (s : Blk) (ty : Nat) (c : Option Nat) (p : Nat) : Observed s (trace s ty c p) := by
  unfold Machine.trace
  simp only []
  have hb : ∀ x : Nat, x % 4 < 4 := fun x => Nat.mod_lt _ (by decide)
  split
  · exact self s
  · have h : Observed s { s with obs := (intake s.obs).2 } := ⟨rfl, fun _ _ => rfl, rfl⟩
    split
    · split
      · exact h
      · exact cntTrig (h.trans (loseRecs _ _ _ (hb _))) _
    · split
      · exact (cntTrig (h.trans (bufPut _ _ _ (hb _))) _).trans (trigger _ _ _)
      · exact cntTrig (h.trans (bufPut _ _ _ (hb _))) _

/-- The parts that observation leaves alone. -/
theorem saf {s t : Blk} (h : Observed s t) : t.saf = s.saf := by rw [h.rest]

/-- Observation, with the parts it changes as names: for proofs about what comes before and after it. -/
theorem parts {s t : Blk} (h : Observed s t) :
    ∃ r o d, t = { s with regs := r, obs := o, dbg := d } ∧ ∀ k, unitKey k → rg { s with regs := r, obs := o, dbg := d } k = rg s k :=
  ⟨t.regs, t.obs, t.dbg, h.rest, fun k hk => by have := h.regs k hk; rw [h.rest] at this; exact this⟩

end Observed

/-- A register word depends on the register store, and on whether the release defaults are in force. -/
theorem rg_only {s t : Blk} (hr : t.regs = s.regs) (hc : t.cfg.pb = s.cfg.pb) (k : Nat) : rg t k = rg s k := by
  unfold rg regUnlisted; rw [hc, hr]

/-! ## Faults -/

/-- Recording a fault is an entry in one log, and observation (R390). -/
theorem logged (s : Blk) (log unit code : Nat) (c : Option Nat) (d : Nat) (al : Bool) :
    Logged s (logFault s log unit code c d al) log (faultEnt s unit code c d al) := by
  refine ⟨LogOnly.logFault s log unit code c d al, ?_, fun n hn => ?_, fun k hk h2 h3 => ?_⟩
  · rw [logOf_logFault, if_pos rfl]; rfl
  · rw [logOf_logFault, if_neg hn]
  · unfold logFault
    simp only []
    refine ((Observed.trace _ _ _ _).regs k hk).trans ?_
    have e1 : ∀ t : Blk, rg (xchErr t code) k = rg t k := by
      intro t; unfold xchErr
      split
      · exact rg_wr_other _ _ h2
      · rfl
    have e2 : ∀ t : Blk, rg (orBits t rSafIrq 2) k = rg t k := fun t => rg_wr_other _ _ h3
    split
    · rw [e2]
      split
      · rw [e1]; rfl
      · rfl
    · split
      · rw [e1]; rfl
      · rfl

/-- Setting an alarm cause, and what its rise brings (R382). -/
theorem raised (s : Blk) (bit code c : Nat) (hb : bit < 32) : Raised s (raiseAlarm s bit code c) bit := by
  have h2 : 2 ^ bit < 2 ^ 32 := Nat.pow_lt_pow_right (by decide) hb
  have hv : (rg s rAlarmCause ||| 2 ^ bit) % 2 ^ 32 = rg s rAlarmCause ||| 2 ^ bit :=
    Nat.mod_eq_of_lt (Nat.or_lt_two_pow (rg_lt s _) h2)
  have h0 : rg (orBits (orBits s rAlarmCause (2 ^ bit)) rSafIrq 1) rAlarmCause = rg s rAlarmCause ||| 2 ^ bit :=
    (rg_wr_other _ _ (by decide)).trans ((rg_wr_same _ _ _).trans hv)
  have hr : ∀ k, k ≠ rAlarmCause → k ≠ rSafIrq → rg (orBits (orBits s rAlarmCause (2 ^ bit)) rSafIrq 1) k = rg s k :=
    fun k a b => (rg_wr_other _ _ b).trans (rg_wr_other _ _ a)
  unfold raiseAlarm
  dsimp only
  split
  · rename_i h; exact ⟨rfl, h0, by rw [if_neg h]; rfl, fun k _ a b => hr k a b⟩
  · rename_i h
    have h : rg s rAlarmCause = 0 := by simpa using h
    generalize hu : orBits (orBits s rAlarmCause (2 ^ bit)) rSafIrq 1 = u at h0 hr ⊢
    have hus : u = { s with regs := u.regs } := by rw [← hu]; rfl
    have ho : ∀ t : Blk, Observed u t → Raised s (push t [.fenceStrict]) bit := by
      intro t ht
      refine ⟨?_, ?_, ?_, ?_⟩
      · have := ht.rest; unfold push; dsimp only; rw [this]; rw [hus]
      · exact (ht.regs _ (by unfold unitKey; decide)).trans h0
      · rw [if_pos h]; unfold push; dsimp only; rw [ht.rest, hus]; rfl
      · intro k hk a b; exact (ht.regs k hk).trans (hr k a b)
    split
    · exact ho _ ((Observed.blotAuto _ _ _ _ _).trans (Observed.trigger _ _ _))
    · exact ho _ (Observed.blotAuto _ _ _ _ _)

/-! ## Fields of unit registers -/

theorem rgw_unit {s t : Blk} (hr : ∀ k, unitKey k → rg t k = rg s k) {k : Nat} (hk : unitKey k) : rgw t k = rgw s k := by
  unfold rgw; rw [hr k hk]

theorem rgf_unit {s t : Blk} (hr : ∀ k, unitKey k → rg t k = rg s k) {k : Nat} (hk : unitKey k) (a b : Nat) :
    rgf t k a b = rgf s k a b := by
  unfold rgf; rw [rgw_unit hr hk]

theorem rgb_unit {s t : Blk} (hr : ∀ k, unitKey k → rg t k = rg s k) {k : Nat} (hk : unitKey k) (a : Nat) :
    rgb t k a = rgb s k a := by
  unfold rgb; rw [rgw_unit hr hk]

theorem setKey (n o : Nat) (hn : n < 16) (ho : o < 0x40) : unitKey (setReg n o) := by
  unfold setReg; have : rSet = 0xc0100 := rfl; left; omega

theorem bank_mod (off i : Nat) (h : off < 0x1000000) : bank off i % 0x1000000 = off := by
  unfold bank; rw [Nat.add_mul_mod_self_right, Nat.mod_eq_of_lt h]

theorem bankKey (n i : Nat) (hn : n < 0x140000) : unitKey (bank n i) := by
  left; rw [bank_mod _ _ (by omega)]; exact hn

theorem forEach_one {α : Type} (x : α) (s : Blk) (f : Blk → α → Blk) : forEach [x] s f = f s x := rfl

end Sys2Proof.Machine
end

