-- ==== Sys2Proof/Laws/Writes.lean ====
section
/-! SUPPORT. Register Port writes as commands: performed, refused, and the store of one word. -/
namespace Sys2Proof.Machine

theorem fld_lt {n : Nat} (w : BitVec n) (hi lo : Nat) : fld w hi lo < 2 ^ (hi + 1 - lo) := Nat.mod_lt _ (Nat.two_pow_pos _)

theorem updates_bus {c : Instr} {s : State} {off : Nat} {v : Word} {a : Access} {P : Blk → Prop}
    (hc : exec c s = busCmd off v a s) (hr : fnReady s.blk 0 = true) (h : P (busWrite s.blk a off v))
    (hg : asksFor s.blk off = none := by first | exact asksFor_low (by decide) (by decide) | exact asksFor_low (by omega) (by omega)) :
    Updates c s P := by
  refine ⟨busWrite s.blk a off v, ?_, h⟩
  rw [hc]; unfold busCmd ready; rw [act_serves hr, grantedWrite_none hg]

theorem writes_bus {c : Instr} {s : State} {off : Nat} {v : Word} {a : Access} {P : Blk → Prop} {t : Blk}
    (hc : exec c s = busCmd off v a s) (h : Served s.blk off a) (w : regAct s.blk off v = some t) (hp : P t)
    (hg : asksFor s.blk off = none := by first | exact asksFor_low (by decide) (by decide) | exact asksFor_low (by omega) (by omega)) :
    Writes c s P := by
  refine ⟨rgpEnd t rgpOk 0, ?_, t, rfl, hp⟩
  rw [hc, busCmd_ok h hg w]

theorem contested_slots (s : Blk) (g : Nat) (w : List Nat) :
    contested s g w = { s with ctx := { s.ctx with slots := (contested s g w).ctx.slots } } ∧
    ∀ c, slotOf (contested s g w) c =
        if w ≠ [] ∧ c ∈ (g :: w).map (· % 256) ∧ isRuled s c = false then
          { slotOf s c with tcc := min ((slotOf s c).tcc + 1) (2 ^ 48 - 1) }
        else slotOf s c := by
  unfold contested
  by_cases hw : w = []
  · subst hw; exact ⟨rfl, fun c => by simp⟩
  rw [if_neg (by simpa using hw)]
  dsimp only
  have key : ∀ (cs : List Nat) (t : Blk), cs.Nodup →
      let r := forEach cs t (fun s c => let v := slotOf s c; setSlot s c { v with tcc := min (v.tcc + 1) (2 ^ 48 - 1) })
      r = { t with ctx := { t.ctx with slots := r.ctx.slots } } ∧
      ∀ c, slotOf r c = if c ∈ cs then { slotOf t c with tcc := min ((slotOf t c).tcc + 1) (2 ^ 48 - 1) } else slotOf t c := by
    intro cs
    induction cs with
    | nil => intro t _; exact ⟨rfl, fun c => by simp [forEach]⟩
    | cons x r ih =>
      intro t hn
      rw [List.nodup_cons] at hn
      have := ih (setSlot t x { slotOf t x with tcc := min ((slotOf t x).tcc + 1) (2 ^ 48 - 1) }) hn.2
      dsimp only at this ⊢
      unfold forEach at this ⊢
      rw [List.foldl_cons]
      refine ⟨this.1, fun c => ?_⟩
      rw [this.2 c]
      by_cases hc : c = x
      · subst hc; rw [if_neg hn.1, if_pos (by simp)]; simp
      · simp only [List.mem_cons, hc, false_or, slotOf_setSlot_other _ _ hc]
  have hnd : (((g :: w).map (· % 256)).eraseDups.filter (fun c => !isRuled s c)).Nodup := by
    have : ∀ l : List Nat, l.eraseDups.Nodup := by
      intro l
      exact nodup_eraseDups _ l (Nat.le_refl _)
    exact (this _).filter _
  obtain ⟨h1, h2⟩ := key _ s hnd
  refine ⟨h1, fun c => ?_⟩
  refine (h2 c).trans ?_
  simp only [List.mem_filter, List.mem_eraseDups, Bool.not_eq_true']
  simp [hw]

/-- Counting a contested grant (R297). -/
theorem contended (s : Blk) (x : Nat) (ws : List Nat) : Contended s (contested s x ws) x ws :=
  ⟨(contested_slots s x ws).1, (contested_slots s x ws).2⟩

/-- The same of a request that may belong to no context. -/
theorem contendedOpt (s : Blk) (x : Option Nat) (ws : List Nat) : ContendedOpt s (contestedOpt s x ws) x ws := by
  cases x with
  | some x => exact contended _ _ _
  | none => cases ws with
    | nil => exact rfl
    | cons a r => exact contended _ _ _

theorem ContendedOpt.rest {s t : Blk} {x : Option Nat} {ws : List Nat} (h : ContendedOpt s t x ws) :
    t = { s with ctx := { s.ctx with slots := t.ctx.slots } } := by
  cases x with
  | some x => exact Contended.rest h
  | none => cases ws with
    | nil => have e : t = s := h; subst e; rfl
    | cons a r => exact Contended.rest h

theorem Contended.gen {s t : Blk} {x : Nat} {ws : List Nat} (h : Contended s t x ws) (c : Nat) : ctxGen t c = ctxGen s c := by
  unfold ctxGen; rw [h.slots c]; split <;> rfl

theorem writesFor_bus {c : Instr} {s : State} {off : Nat} {v : Word} {a : Access} {P : Blk → Prop} {t : Blk} {x : Nat}
    (hc : exec c s = busCmd off v a s) (h : Served s.blk off a) (w : regAct s.blk off v = some t) (hp : P t)
    (hg : asksFor s.blk off = some x) : WritesFor c s x a.waiting P := by
  refine ⟨contested (rgpEnd t rgpOk 0) x a.waiting, ?_, t, contended _ _ _, hp⟩
  rw [hc, busCmd_asked h hg w]

theorem put_le {v hi lo : Nat} (h : v < 2 ^ (hi + 1 - lo)) : put v hi lo = v * 2 ^ lo := by
  unfold put; rw [Nat.mod_eq_of_lt h, Nat.shiftLeft_eq]

theorem refusal (b : Blk) (off : Nat) (v : Word) (a : Access) (ho : off < 0x400000) :
    ∃ t, refuseWrite b off v a = rgpEnd t rgpRefused 0 ∧ Logged b t (unitOf off)
      (faultEnt b (unitOf off) 0x31 none (2 ^ 63 + off + v.toNat * 2 ^ 64 + b2n a.priv * 2 ^ 96) false) := by
  refine ⟨_, rfl, ?_⟩
  have e : refusedDetail off v.toNat a.priv = 2 ^ 63 + off + v.toNat * 2 ^ 64 + b2n a.priv * 2 ^ 96 := by
    unfold refusedDetail mkDetail
    have hv := v.isLt
    have hb : b2n a.priv < 2 := by cases a.priv <;> decide
    have h1 : put off 23 0 = off := by rw [put_le (by omega)]; omega
    rw [h1, put_le (by omega), put_le (by omega), put_le (by omega)]
    omega
  unfold unitFault
  rw [e]; exact logged _ _ _ _ _ _ _

theorem refuses_bus {c : Instr} {s : State} {off : Nat} {v : Word} {a : Access}
    (hc : exec c s = busCmd off v a s) (h : Served s.blk off a) (w : regAct s.blk off v = none)
    (hd : off < rPage ∨ 0x300000 ≤ off ∨ off % 0x1000 ≠ 0) : Refuses c s off v a := by
  refine ⟨refuseWrite s.blk off v a, ?_, refusal _ _ _ _ h.low⟩
  rw [hc, busCmd_refused h w hd]

theorem written_lt (s : Blk) (k m : Nat) (v : Word) (hm : m < 2 ^ 32) : written (rg s k) m v < 2 ^ 32 := by
  unfold written
  exact Nat.or_lt_two_pow (Nat.lt_of_le_of_lt Nat.and_le_left (rg_lt s k)) (Nat.lt_of_le_of_lt Nat.and_le_right hm)

theorem storeReg_only (s : Blk) (off m : Nat) (v : Word) (h : storedMask off = some m) (hm : m < 2 ^ 32) :
    OnlyReg s (storeReg s off v) (selKey s off) (written (rg s (selKey s off)) m v) := by
  unfold storeReg
  rw [h]
  unfold storeAt
  have := onlyReg_wr s (selKey s off) (written (rg s (selKey s off)) m v)
  rwa [Nat.mod_eq_of_lt (written_lt _ _ _ _ hm)] at this

theorem rg_and_lt (s : Blk) (k m : Nat) : (rg s k &&& m) % 2 ^ 32 = rg s k &&& m :=
  Nat.mod_eq_of_lt (Nat.lt_of_le_of_lt Nat.and_le_left (rg_lt s k))

theorem rg_or (s : Blk) (k m : Nat) (h : m < 2 ^ 32) : (rg s k ||| m) % 2 ^ 32 = rg s k ||| m :=
  Nat.mod_eq_of_lt (Nat.or_lt_two_pow (rg_lt s k) h)

theorem onlyReg_clr (s : Blk) (k m : Nat) (h : m < 2 ^ 32) : OnlyReg s (clrBits s k m) k (rg s k &&& (0xffffffff - m)) := by
  unfold clrBits
  have := onlyReg_wr s k (rg s k &&& (0xffffffff - m % 2 ^ 32))
  rw [Nat.mod_eq_of_lt h] at this ⊢
  rwa [rg_and_lt] at this

theorem onlyReg_or (s : Blk) (k m : Nat) (h : m < 2 ^ 32) : OnlyReg s (orBits s k m) k (rg s k ||| m) := by
  unfold orBits
  have := onlyReg_wr s k (rg s k ||| m)
  rwa [rg_or _ _ _ h] at this

theorem rg_congr {s t : Blk} (hc : t.cfg = s.cfg) (hr : t.regs = s.regs) (k : Nat) : rg t k = rg s k := by
  unfold rg regUnlisted; rw [hc, hr]

/-- A command behind the gate of a function that serves. -/
theorem updates_act {c : Instr} {s : State} {g : Bool} {f : Blk → Blk} {P : Blk → Prop}
    (hc : exec c s = act g f s) (hg : g = true) (h : P (f s.blk)) : Updates c s P :=
  ⟨f s.blk, by rw [hc, act_serves hg], h⟩

theorem orBits_blk (b : Blk) (k m : Nat) : orBits b k m = { b with regs := (orBits b k m).regs } := rfl

theorem orBits_regs_congr {b t : Blk} (hr : t.regs = b.regs) (hp : t.cfg.pb = b.cfg.pb) (k m : Nat) :
    (orBits t k m).regs = (orBits b k m).regs := by
  have e : ∀ j, regUnlisted t j = regUnlisted b j := by intro j; unfold regUnlisted; rw [hp]
  have g : rg t k = rg b k := by unfold rg; rw [hr, e]
  unfold orBits wr
  rw [g, hr, e]

end Sys2Proof.Machine
end

