-- ==== Sys2Proof/Laws/Requests.lean ====
section
/-! SUPPORT. Requests of the fabric: their answers, the checks that come first, and their admission. -/
namespace Sys2Proof.Machine

theorem counted_bump (s : Blk) (k : Nat) : Counted s (bump s k) k := by
  unfold Counted bump bumpN
  have := onlyReg_wr s k ((rg s k + 1) % 2 ^ 32)
  rw [Nat.mod_mod] at this
  exact this

/-- The count and the trace of an answer that was given (R283, R340, R349). -/
theorem code_given (s : Blk) (dst rqid ty code c : Nat) :
    ∃ t, (t = if code = 0 then s else bump s rRefused) ∧ ∃ u, (u = if code = kGap then bump t rOrderGap else t) ∧
      Observed u (codeGiven s dst rqid ty code c) := by
  refine ⟨_, rfl, _, rfl, ?_⟩
  have ho : ∀ b : Blk, Observed b (traceRefusal (ev b (0xf0 + code) c) (some c) ty code 0 dst rqid) := by
    intro b; unfold traceRefusal; split
    · exact Observed.ev _ _ _
    · exact (Observed.ev _ _ _).trans (Observed.trace _ _ _ _)
  unfold codeGiven
  dsimp only
  by_cases hg : code = kGap
  · simp only [if_pos hg]; exact (Observed.ev _ _ _).trans (ho _)
  · simp only [if_neg hg]; exact ho _

theorem answers_give (s : Blk) (dst rqid ty code c : Nat) : Answers s (giveAnswer s dst rqid ty code c) { dst, rqid, code } := by
  unfold giveAnswer
  generalize hb : ({ s with ports := { s.ports with fpoWait := s.ports.fpoWait ++ [{ dst, rqid, code }] } } : Blk) = b
  obtain ⟨t, ht, u, hu, o⟩ := code_given b dst rqid ty code c
  generalize codeGiven b dst rqid ty code c = r at o
  have r1 : ∀ k, rg b k = rg s k := fun k => by subst hb; exact rg_only rfl rfl k
  have ct := counted_bump b rRefused
  have cu := counted_bump t rOrderGap
  have tv : rg t rRefused = if code = 0 then rg s rRefused else (rg s rRefused + 1) % 2 ^ 32 := by
    subst ht; split
    · exact r1 _
    · rw [ct.value, r1]
  have tk : ∀ k, k ≠ rRefused → rg t k = rg s k := by
    intro k hk; subst ht; split
    · exact r1 k
    · rw [ct.others k hk, r1]
  have uk : ∀ k, k ≠ rOrderGap → rg u k = rg t k := by
    intro k hk; subst hu; split
    · exact cu.others k hk
    · rfl
  refine ⟨?_, ?_, ?_, fun k hk h1 h2 => ?_⟩
  · have e1 : t = { b with regs := t.regs } := by
      subst ht; split
      · rfl
      · exact ct.rest
    have e2 : u = { t with regs := u.regs } := by
      subst hu; split
      · exact cu.rest
      · rfl
    rw [o.rest, e2, e1, ← hb]
  · rw [o.regs _ (by unfold unitKey; decide), uk _ (by decide), tv]
  · rw [o.regs _ (by unfold unitKey; decide), hu]
    split
    · rw [cu.value, tk _ (by decide)]
    · rw [tk _ (by decide)]
  · rw [o.regs _ hk, uk _ h2, tk _ h1]

theorem setPairIn_rest (s : Blk) (d e : Nat) (g : Bool) :
    setPairIn s d e g = { s with xch := { s.xch with pairsIn := (setPairIn s d e g).xch.pairsIn, lru := s.xch.lru + 1 } } := rfl

theorem setPairIn_get (s : Blk) (d e : Nat) (g : Bool) :
    Store.get? (setPairIn s d e g).xch.pairsIn d = some { expected := e % 65536, gap := g, used := s.xch.lru } := by
  unfold setPairIn; dsimp only; exact get?_set_same _ _ _

theorem exec_request {c : Instr} {h : FHdr} {ty : Nat} {body : Option FBody} (hc : request c = some (h, ty, body)) (s : State) :
    exec c s = act (answers s 11) (fun b => inbound b h ty body) s := by
  unfold request at hc
  split at hc
  all_goals cases hc
  all_goals simp only [exec_arrive, exec_closeRequest, exec_cand, exec_tally, exec_assign, exec_stage, exec_cancelRequest,
    exec_amReq, exec_amRpl, exec_fabricReservedType, reqCmd]

def nFl (body : Option FBody) : Nat := match body with | some b => b.flits | none => 1

theorem inbound_untrusted (s : Blk) (h : FHdr) (ty : Nat) (body : Option FBody) (hc : h.chk = .untrusted) :
    inbound s h ty body = orBits (evN s 0x116 none (nFl body)) rPortFault 4 := by
  unfold inbound hdrCheck; rw [hc]; simp; rfl

theorem inbound_parity (s : Blk) (h : FHdr) (ty : Nat) (body : Option FBody) (ok : Bool) (hc : h.chk = .parity ok) :
    inbound s h ty body = giveAnswer (parityGap (evN s 0x116 none (nFl body)) h.src h.pseq ok)
      h.src h.rqid ty kParity h.dstCtx := by
  unfold inbound hdrCheck; rw [hc]; simp; rfl

/-- Reserved bits that are not 0 act as a failure of the header's parity (R57). -/
theorem inbound_reserved (s : Blk) (h : FHdr) (ty : Nat) (body : Option FBody) (hr : h.rsv ≠ 0) (hc : h.chk = .ok ∨ h.chk = .layout) :
    inbound s h ty body = giveAnswer (parityGap (evN s 0x116 none (nFl body)) h.src h.pseq true)
      h.src h.rqid ty kParity h.dstCtx := by
  unfold inbound hdrCheck; rw [if_pos ⟨hr, hc⟩]; rfl

theorem inbound_else (s : Blk) (h : FHdr) (ty : Nat) (body : Option FBody) (hr : h.rsv = 0)
    (hc : h.chk = .ok ∨ h.chk = .layout) :
    inbound s h ty body =
      let s := evN s 0x116 none (nFl body)
      let refuse := fun s code => giveAnswer s h.src h.rqid ty code h.dstCtx
      if h.dst ≠ ownDie s then ev0 s 0x11c
      else if s.cfg.srst then refuse s kCtxFenced
      else match body with
        | none => refuse (ev0 (bump s rBadType) 0x111) kBadHandler
        | some b => if h.chk = .layout then refuse (parityGap s h.src h.pseq true) kParity else admitMsg s { h, body := b } := by
  unfold inbound hdrCheck
  rw [if_neg (fun x => x.1 hr)]
  rcases hc with hc | hc <;> rw [hc] <;> rfl

theorem parityGap_eq (s : Blk) (src pseq : Nat) (ok : Bool) :
    parityGap s src pseq ok = { s with xch := { s.xch with
        pairsIn := (parityGap s src pseq ok).xch.pairsIn, lru := (parityGap s src pseq ok).xch.lru } } := by
  unfold parityGap
  split
  · rfl
  · split <;> rfl

theorem noteSeen_mem (s : Blk) (c die l sc : Nat) (e : Nat × Nat × Nat × Nat) :
    e ∈ (noteSeen s c die l sc).ctx.seen ↔ e ∈ s.ctx.seen ∨ e = (c, die, l, sc) := by
  unfold noteSeen; dsimp only
  by_cases h : s.ctx.seen.contains (c, die, l, sc) = true
  · rw [if_pos h]
    have : (c, die, l, sc) ∈ s.ctx.seen := by simpa using h
    constructor
    · exact Or.inl
    · rintro (h | rfl)
      · exact h
      · exact this
  · rw [if_neg h]; simp

theorem noteSeen_rest (s : Blk) (c die l sc : Nat) :
    noteSeen s c die l sc = { s with ctx := { s.ctx with seen := (noteSeen s c die l sc).ctx.seen } } := by
  unfold noteSeen; dsimp only; split <;> rfl

theorem admitted {s : Blk} {h : FHdr} {body : FBody} (ht : InTurn s h)
    (hk : ∀ t, Entered s t h none [] → (takeMsg t { h, body }).xch.hold = []) :
    ∀ b, Observed s b → ∃ t, Entered s t h none [] ∧ admitMsg b { h, body } = takeMsg t { h, body } := by
  intro b ho
  have hb : b.xch = s.xch := by rw [ho.rest]
  have key : ∀ g, Entered s (setPairIn b h.src (h.pseq + 1) g) h none [] := by
    intro g
    refine ⟨?_, ?_, fun e => ?_, fun c => ?_, fun k hk => ?_, ho.words⟩
    · rw [setPairIn_rest, ho.rest]
    · rw [setPairIn_get]; rfl
    · have : (setPairIn b h.src (h.pseq + 1) g).ctx.seen = s.ctx.seen := by rw [setPairIn_rest, ho.rest]
      rw [this]; simp
    · rw [if_neg (by simp)]; unfold slotOf; rw [setPairIn_rest, ho.rest]
    · exact (rg_only rfl rfl k).trans (ho.regs k hk)
  unfold admitMsg
  dsimp only
  cases hp : Store.get? b.xch.pairsIn h.src with
  | none => exact ⟨_, key _, rfl⟩
  | some p =>
    dsimp only
    have := ht.order p (by rw [← hb]; exact hp)
    by_cases hs : h.sync = true
    · rw [if_pos hs]; exact ⟨_, key _, rfl⟩
    · have he : p.expected = h.pseq := by rcases this with h1 | h1 <;> [exact absurd h1 hs; exact h1]
      have hd : (h.pseq + 65536 - p.expected) % 65536 = 0 := by rw [he]; omega
      rw [if_neg hs, if_pos hd, he]
      refine ⟨_, key false, ?_⟩
      rw [hk _ (key false)]
      rfl

theorem updates_taken {c : Instr} {s : State} {h : FHdr} {ty : Nat} {body : FBody} {P : Blk → Prop}
    (hc : request c = some (h, ty, some body)) (hs : Sound s.blk h) (ht : InTurn s.blk h)
    (hk : ∀ t, Entered s.blk t h none [] → (takeMsg t { h, body }).xch.hold = [] ∧ P (takeMsg t { h, body })) : Updates c s P := by
  refine updates_act (exec_request hc s) (by unfold answers; rw [hs.xch]; rfl) ?_
  have o1 := Observed.evN s.blk 0x116 none (nFl (some body))
  rw [inbound_else _ _ _ _ hs.rsv (Or.inl hs.chk)]
  dsimp only
  have ho : ownDie (evN s.blk 0x116 none (nFl (some body))) = ownDie s.blk := by unfold ownDie; rw [o1.rest]
  have hsr : (evN s.blk 0x116 none (nFl (some body))).cfg.srst = s.blk.cfg.srst := by rw [o1.rest]
  rw [ho, hsr, if_neg (by simp [hs.die]), hs.soft, if_neg (by decide), if_neg (by rw [hs.chk]; decide)]
  obtain ⟨t, hE, he⟩ := admitted ht (fun t hE => (hk t hE).1) _ o1
  rw [he]
  exact (hk t hE).2

/-- What a request finds at its context is as it was: only counts of contested grants may differ. -/
theorem Entered.slot {s t : Blk} {h : FHdr} {sc : Option Nat} {ws : List Nat} (e : Entered s t h sc ws) (c : Nat) :
    ∃ n, slotOf t c = { slotOf s c with tcc := n } := by
  rw [e.slots c]
  split
  · exact ⟨_, rfl⟩
  · exact ⟨(slotOf s c).tcc, rfl⟩

theorem Entered.gen {s t : Blk} {h : FHdr} {sc : Option Nat} {ws : List Nat} (e : Entered s t h sc ws) (c : Nat) :
    ctxGen t c = ctxGen s c := by
  obtain ⟨n, hn⟩ := e.slot c; unfold ctxGen; rw [hn]

theorem Entered.state {s t : Blk} {h : FHdr} {sc : Option Nat} {ws : List Nat} (e : Entered s t h sc ws) (c : Nat) :
    ctxSt t c = ctxSt s c := by
  obtain ⟨n, hn⟩ := e.slot c; unfold ctxSt; rw [hn]

theorem Entered.ruled {s t : Blk} {h : FHdr} {sc : Option Nat} {ws : List Nat} (e : Entered s t h sc ws) (c : Nat) :
    isRuled t c = isRuled s c := by
  unfold isRuled; exact rgb_unit e.regs (bankKey _ _ (by decide)) 0

theorem Entered.live {s t : Blk} {h : FHdr} {sc : Option Nat} {ws : List Nat} (e : Entered s t h sc ws) (c : Nat) :
    ruledLive t c = ruledLive s c := by
  unfold ruledLive; rw [e.ruled, e.state]

theorem entered_die {s t : Blk} {h : FHdr} {sc : Option Nat} {ws : List Nat} (e : Entered s t h sc ws) : ownDie t = ownDie s := by
  unfold ownDie; rw [e.rest]

theorem peerFenced_words {s t : Blk} (h : unitWords t = unitWords s) (d : Nat) : peerFenced t d = peerFenced s d := by
  have key : ∀ b : Blk, peerFenced b d = (unitWords b).any (fun p => p.1 % 0x1000000 == rPeerEnt && entFences p.2 d) := by
    intro b
    unfold peerFenced unitWords
    rw [List.any_filter]
    congr 1
    funext p
    by_cases e : p.1 % 0x1000000 = rPeerEnt
    · have : decide (unitKey p.1) = true := by
        refine decide_eq_true (Or.inl ?_); rw [e]; decide
      simp [e, this]
    · have : (p.1 % 0x1000000 == rPeerEnt) = false := by simpa using e
      simp [this]
  rw [key, key, h]

theorem grantOf_words {s t : Blk} (h : unitWords t = unitWords s) (off i : Nat) (ho : off < 0x140000) :
    grantOf t off i = grantOf s off i := by
  have key : ∀ b : Blk, b.regs.find? (fun p => p.1 % 0x1000000 == off &&
      decide (fld p.2 13 0 ≤ i ∧ i < fld p.2 13 0 + fld p.2 30 16)) =
      (unitWords b).find? (fun p => p.1 % 0x1000000 == off &&
      decide (fld p.2 13 0 ≤ i ∧ i < fld p.2 13 0 + fld p.2 30 16)) := by
    intro b
    unfold unitWords
    rw [List.find?_filter]
    congr 1
    funext p
    by_cases e : p.1 % 0x1000000 = off
    · have : decide (unitKey p.1) = true := decide_eq_true (Or.inl (by rw [e]; exact ho))
      simp [e, this]
    · have : (p.1 % 0x1000000 == off) = false := by simpa using e
      simp [this]
  unfold grantOf; rw [key, key, h]

/-- The grant of an admitted request is counted where others wait (R297). -/
theorem entered_granted {s t : Blk} {h : FHdr} (e : Entered s t h none []) (ws : List Nat) :
    Entered s (contested t h.dstCtx ws) h none ws := by
  have k := contended t h.dstCtx ws
  have hr := k.rest
  have hs := k.slots
  generalize contested t h.dstCtx ws = u at hr hs
  have hu : u.regs = t.regs := by rw [hr]
  refine ⟨?_, ?_, fun x => ?_, fun c => ?_, fun k hk => ?_, ?_⟩
  · rw [hr, e.rest]
  · rw [hr]; exact e.pair
  · rw [hr]; exact e.seen x
  · have h0 : slotOf t c = slotOf s c := (e.slots c).trans (if_neg (by simp))
    rw [hs c, e.ruled c, h0]
  · exact (rg_only (by rw [hr]) (by rw [hr]) k).trans (e.regs k hk)
  · unfold unitWords; rw [hu]; exact e.words

theorem entered_note {s t : Blk} {h : FHdr} {ws : List Nat} (e : Entered s t h none ws) (sc : Nat) :
    Entered s (noteSeen t h.dstCtx h.src h.ltag sc) h (some sc) ws := by
  refine ⟨?_, ?_, fun x => ?_, fun c => ?_, fun k hk => ?_, ?_⟩
  · rw [noteSeen_rest, e.rest]
  · rw [noteSeen_rest]; exact e.pair
  · rw [noteSeen_mem, e.seen]; simp
  · rw [noteSeen_rest]; exact e.slots c
  · rw [noteSeen_rest]; exact (rg_only rfl rfl k).trans (e.regs k hk)
  · rw [noteSeen_rest]; exact e.words

theorem take_welcome {s : Blk} {h : FHdr} {body : FBody} (hw : Welcome s h) {t : Blk} (e : Entered s t h none []) :
    ∃ t', Entered s t' h body.scope? h.waiting ∧ ∀ r, r = takeBody t' h.src h.dstCtx h.srcCtx h.srcGen h.ltag
        (flit0Of h.ltag h.dstCtx h.dstGen h.srcCtx h.srcGen h.rqid h.pseq h.sync body) body →
      takeMsg t { h, body } = giveAnswer r.2 h.src h.rqid body.ty r.1 h.dstCtx := by
  have hp : peerFenced t h.src = false := (peerFenced_words e.words _).trans hw.peer
  have hg := e.gen h.dstCtx
  have hst := e.state h.dstCtx
  have hsl : slotCheck t h.dstCtx h.dstGen = none := by
    unfold slotCheck
    rw [hg, hst, if_neg (by simp [hw.gen])]
    rcases hw.ctx with h1 | h1 <;> rw [h1] <;> rfl
  cases hb : body.scope? with
  | none =>
    refine ⟨_, entered_granted e _, fun r hr => ?_⟩
    unfold takeMsg takeCode
    dsimp only
    rw [hp, hsl, hb]
    subst hr; rfl
  | some sc =>
    refine ⟨_, entered_note (entered_granted e _) sc, fun r hr => ?_⟩
    unfold takeMsg takeCode
    dsimp only
    rw [hp, hsl, hb]
    subst hr; rfl

theorem takes_of {c : Instr} {s : State} {h : FHdr} {ty : Nat} {body : FBody} {P : Blk → Blk → Prop} {code : Nat}
    (hc : request c = some (h, ty, some body)) (hs : Sound s.blk h) (ht : InTurn s.blk h) (hw : Welcome s.blk h)
    (key : ∀ t, Entered s.blk t h body.scope? h.waiting → ∃ u, takeBody t h.src h.dstCtx h.srcCtx h.srcGen h.ltag
        (flit0Of h.ltag h.dstCtx h.dstGen h.srcCtx h.srcGen h.rqid h.pseq h.sync body) body = (code, u) ∧
        u.xch.hold = t.xch.hold ∧ P t u) : Takes c s h body.scope? code P := by
  unfold Takes
  refine updates_taken hc hs ht fun t0 e0 => ?_
  obtain ⟨t, e, he⟩ := take_welcome (body := body) hw e0
  obtain ⟨u, h1, h2, h3⟩ := key t e
  have hh : t.xch.hold = [] := by rw [e.rest]; exact ht.hold
  rw [he _ h1.symm]
  have ha := answers_give u h.src h.rqid body.ty code h.dstCtx
  exact ⟨by rw [ha.rest]; exact h2.trans hh, t, u, e, h3, ha⟩

theorem named_live {t : Blk} {die c ltag scope node : Nat} {cl : Option Nat} {dead : Bool} {f : Word256} {i : Nat} {l : Launch} {n : Word256}
    (h1 : liveLaunch t c ltag = some (i, l)) (h2 : scopeNode t l scope node = some n) (h3 : isGate n = true)
    (h5 : cl = none → prunedLate t l die scope node = false) :
    namedArrive t die c ltag scope node cl dead f =
      (kAck, push t [match cl with | none => .nodeArrive i scope node dead | some x => .nodeClose i scope node x]) := by
  unfold namedArrive
  rw [h1]
  have : ¬ (cl.isNone && prunedLate t l die scope node) = true := by
    cases cl with
    | none => simp [h5 rfl]
    | some x => simp
  dsimp only
  rw [if_neg this]
  unfold namedUpdate
  rw [h2]; dsimp only; rw [h3]
  cases cl <;> rfl

theorem named_early {t : Blk} {die c ltag scope node : Nat} {cl : Option Nat} {dead : Bool} {f : Word256}
    (h1 : liveLaunch t c ltag = none) :
    namedArrive t die c ltag scope node cl dead f =
      if t.tsk.early.length ≥ 4096 then (kRingFull, t)
      else (kAck, ev { t with tsk := { t.tsk with early := t.tsk.early ++
        [{ ctx := c, ltag, scope, node, close := cl, dead, born := now t, flit := f, foreign := foreignTo t c }] } } 0x75 c) := by
  unfold namedArrive; rw [h1]

end Sys2Proof.Machine
end

