-- ==== Sys2Proof/Laws/Dispatch.lean ====
section
/-! SUPPORT. Dispatch: the order of the READY tasks, contested grants, the parts of a dispatch, and a port pair that goes out. -/
namespace Sys2Proof.Machine

theorem readyLe_iff (a b : Nat × Task) : readyLe a b = true ↔ a.2.level < b.2.level ∨ (a.2.level = b.2.level ∧ a.2.seq ≤ b.2.seq) := by
  simp [readyLe]

theorem readyOf_sorted (s : Blk) (c : Nat) : (readyOf s c).Pairwise (fun a b => readyLe a b = true) :=
  sortBy_sorted readyLe (fun a b => by simp only [readyLe_iff]; omega) (fun a b c => by simp only [readyLe_iff]; omega) _

theorem mem_readyOf (s : Blk) (c : Nat) (p : Nat × Task) : p ∈ readyOf s c ↔ p ∈ s.tsk.tasks ∧ p.2.state = .ready ∧ p.2.cls = c := by
  unfold readyOf; rw [mem_sortBy]; simp

def d1 (s : Blk) (slot e : Nat) (t : Task) : Blk :=
  let s := setTask s slot { t with state := .issued, issuedEng := e, issuedAt := now s, overrun := false }
  setOcc s e t.cls (occ s e t.cls + 1)
def d2 (s : Blk) (e : Nat) (t : Task) : Blk := if t.bound.isNone then { s with iss := { s.iss with rotor := (e + 1) % 4096 } } else s
def d3 (s : Blk) : Blk := if s.iss.ceil = 255 then s else { s with iss := { s.iss with tokens := s.iss.tokens - 1 } }
def d4 (s : Blk) : Blk := if s.iss.tokWait then ev0 { s with iss := { s.iss with tokWait := false } } 0x7a else s
def d5 (s : Blk) (slot e : Nat) (t : Task) : Blk :=
  let offer : RipOffer := { slot, engine := e, word := dispatchWord s slot t e }
  let s := { s with ports := { s.ports with rip := Store.set s.ports.rip (e / 256) offer } }
  { s with saf := { s.saf with dispatchAt := now s, armedAt := none } }
def d6 (s : Blk) (slot e : Nat) (t : Task) : Blk :=
  let s := ev (ev s (0x51 + t.cls) t.ctx) (1 + e / 256) t.ctx
  trace s 1 (some t.ctx) (put t.seq 127 96 + put t.ltag 95 64 + put slot 63 47 + put e 46 35 + put t.cls 34 33 +
    put t.level 32 27 + put (kindCode t.kind) 26 25 + put (stampOf s slot) 24 17 + put (b2n t.bound.isSome) 16 16)

theorem disp_eq (s : Blk) (slot e : Nat) (t : Task) :
  dispatch s slot t e = d6 (d5 (d4 (d3 (d2 (d1 s slot e t) e t))) slot e t) slot e t := rfl

theorem dispatch_obs (s : Blk) (slot e : Nat) (t : Task) :
    Observed { s with
        tsk := { s.tsk with
          tasks := Store.set s.tsk.tasks slot
            { t with state := .issued, issuedEng := e, issuedAt := now s, overrun := false } }
        iss := { s.iss with
          occ := Store.put 0 s.iss.occ (4 * e + t.cls) (occ s e t.cls + 1)
          rotor := if t.bound = none then (e + 1) % 4096 else s.iss.rotor
          tokens := if s.iss.ceil = 255 then s.iss.tokens else s.iss.tokens - 1
          tokWait := false }
        ports := { s.ports with
          rip := Store.set s.ports.rip (e / 256) { slot, engine := e, word := dispatchWord s slot t e } }
        saf := { s.saf with dispatchAt := now s, armedAt := none } } (dispatch s slot t e) := by
  rw [disp_eq]
  have e1 : d1 s slot e t = { s with
        tsk := { s.tsk with tasks := Store.set s.tsk.tasks slot { t with
            state := .issued, issuedEng := e, issuedAt := now s, overrun := false } }
        iss := { s.iss with occ := Store.put 0 s.iss.occ (4 * e + t.cls) (occ s e t.cls + 1) } } := rfl
  generalize d1 s slot e t = a1 at e1
  have e2 : d2 a1 e t = { a1 with iss := { a1.iss with rotor := if t.bound = none then (e + 1) % 4096 else s.iss.rotor } } := by
    unfold d2; cases t.bound
    · simp
    · simp [e1]
  generalize d2 a1 e t = a2 at e2
  have e3 : d3 a2 = { a2 with iss := { a2.iss with tokens := if s.iss.ceil = 255 then s.iss.tokens else s.iss.tokens - 1 } } := by
    unfold d3
    have hc : a2.iss.ceil = s.iss.ceil := by rw [e2, e1]
    have ht : a2.iss.tokens = s.iss.tokens := by rw [e2, e1]
    rw [hc]; split
    · rw [← ht]
    · rw [ht]
  generalize d3 a2 = a3 at e3
  have ho : Observed { a3 with iss := { a3.iss with tokWait := false } } (d4 a3) := by
    unfold d4
    split
    · exact Observed.ev0 _ _
    · rename_i h
      have h : a3.iss.tokWait = false := by simpa using h
      have : a3 = { a3 with iss := { a3.iss with tokWait := false } } := by rw [← h]
      rw [← this]; exact Observed.self _
  generalize d4 a3 = a4 at ho
  have h6 : ∀ b, Observed b (d6 b slot e t) := fun b => by
    unfold d6; exact ((Observed.ev _ _ _).trans (Observed.ev _ _ _)).trans (Observed.trace _ _ _ _)
  refine Observed.trans ?_ (h6 _)
  obtain ⟨r, o, d, e4, hr⟩ := ho.parts
  have hd : dispatchWord a4 slot t e = dispatchWord s slot t e := by
    have : a4.tsk.stamps = s.tsk.stamps := by rw [e4, e3, e2, e1]
    unfold dispatchWord stampOf; rw [this]
  have hnow : now a4 = now s := by unfold now; rw [e4, e3, e2, e1]
  have e5 : d5 a4 slot e t = { a4 with
     ports := { a4.ports with rip := Store.set a4.ports.rip (e / 256) { slot, engine := e, word := dispatchWord s slot t e } }
     saf := { a4.saf with dispatchAt := now s, armedAt := none } } := by
    rw [← hd, ← hnow]; rfl
  rw [e5]
  refine ⟨by rw [e4, e3, e2, e1], fun k hk => ?_, ho.words.trans (by rw [e3, e2, e1]; rfl)⟩
  have q1 : rg ({ a4 with
     ports := { a4.ports with rip := Store.set a4.ports.rip (e / 256) { slot, engine := e, word := dispatchWord s slot t e } }
     saf := { a4.saf with dispatchAt := now s, armedAt := none } } : Blk) k = rg a4 k := rg_only rfl rfl k
  rw [q1]
  have q2 : rg a4 k = rg { a3 with iss := { a3.iss with tokWait := false } } k := ho.regs k hk
  rw [q2, e3, e2, e1]; exact rg_only rfl rfl k

theorem push_nil (b : Blk) : push b [] = b := by unfold push; rfl

end Sys2Proof.Machine
end

