-- ==== Sys2Proof/Laws/Memory.lean ====
section
/-! SUPPORT. What making a Memory Port request leaves alone: everything but the requests that wait and the events owed. -/
namespace Sys2Proof.Machine

/-- Only the requests that wait at the Memory Port, and the events owed to ruled contexts, differ. -/
structure Asked (s t : Blk) : Prop where
  rest : t = { s with mem := { s.mem with waitq := t.mem.waitq }, ctx := { s.ctx with owed := t.ctx.owed, serial := t.ctx.serial } }

namespace Asked

theorem self (s : Blk) : Asked s s := ⟨rfl⟩

theorem trans {s t u : Blk} (h : Asked s t) (k : Asked t u) : Asked s u := by
  refine ⟨?_⟩
  have h1 := h.rest
  have k1 := k.rest
  rw [k1]; rw [h1]

theorem memReq (s : Blk) (r : MemReq) : Asked s (memReq s r) := by
  unfold Machine.memReq; split
  · dsimp only; split <;> exact ⟨rfl⟩
  · exact ⟨rfl⟩

theorem memRead (s : Blk) (a q : Nat) (c : Option Nat) (u i : Nat) (o : MemOwner) : Asked s (memRead s a q c u i o) :=
  memReq _ _

theorem forEach {α : Type} (f : Blk → α → Blk) (xs : List α) (hf : ∀ s, ∀ x ∈ xs, Asked s (f s x)) (s : Blk) :
    Asked s (forEach xs s f) := by
  unfold Machine.forEach
  induction xs generalizing s with
  | nil => exact self s
  | cons x r ih => exact (hf s x (by simp)).trans (ih (fun s y hy => hf s y (by simp [hy])) _)

theorem memWrite (s : Blk) (a : Nat) (bs : List Byte) (q : Nat) (c : Option Nat) (u i : Nat) (o : MemOwner) :
    Asked s (memWrite s a bs q c u i o) := forEach _ _ (fun _ _ _ => memReq _ _) _

theorem regs {s t : Blk} (h : Asked s t) (k : Nat) : rg t k = rg s k := by rw [h.rest]; exact rg_only rfl rfl k

end Asked

/-! ## Placing a message -/

theorem startRefresh_hold (s : Blk) (g : Nat) : (startRefresh s g).xch.hold = s.xch.hold ∧ (startRefresh s g).cfg = s.cfg := by
  unfold startRefresh; dsimp only
  split
  · exact ⟨rfl, rfl⟩
  · rw [(Asked.memRead _ _ _ _ _ _ _).rest]; simp [setRing]

theorem place_hold (s : Blk) (g die a b : Nat) (r : Bool) (m : AmHdr) (p : List Byte) :
    (place s g die a b r m p).2.xch.hold = s.xch.hold ∧ (place s g die a b r m p).2.cfg = s.cfg := by
  have hw : ∀ b g i o bs, (writeRec b g i o bs).xch = b.xch ∧ (writeRec b g i o bs).cfg = b.cfg := by
    intro b g i o bs; unfold writeRec; dsimp only; rw [(Asked.memWrite _ _ _ _ _ _ _ _).rest]; exact ⟨rfl, rfl⟩
  have key : ∀ (x : Blk) (c d : Prop) [Decidable c] [Decidable d] (f : Blk → Blk) (gg : Nat), (∀ y, (f y).xch.hold = y.xch.hold ∧
      (f y).cfg = y.cfg) →
      ∀ (k : Blk → Blk), (∀ y, (k y).xch.hold = y.xch.hold ∧ (k y).cfg = y.cfg) →
      (if d then startRefresh (f (if c then k x else x)) gg else f (if c then k x else x)).xch.hold = x.xch.hold ∧
      (if d then startRefresh (f (if c then k x else x)) gg else f (if c then k x else x)).cfg = x.cfg := by
    intro x c d _ _ f gg hf k hk
    have h1 : (if c then k x else x).xch.hold = x.xch.hold ∧ (if c then k x else x).cfg = x.cfg := by
      split
      · exact hk x
      · exact ⟨rfl, rfl⟩
    split
    · exact ⟨(startRefresh_hold _ _).1.trans ((hf _).1.trans h1.1), (startRefresh_hold _ _).2.trans ((hf _).2.trans h1.2)⟩
    · exact ⟨(hf _).1.trans h1.1, (hf _).2.trans h1.2⟩
  unfold place
  dsimp only
  by_cases h1 : recLen m.len > 2 ^ (ringOf s g).log2
  · rw [if_pos h1]; exact ⟨rfl, rfl⟩
  rw [if_neg h1]
  by_cases h2 : (!(ringOf s g).ready) = true
  · rw [if_pos h2]; exact ⟨rfl, rfl⟩
  rw [if_neg h2]
  generalize (if recLen m.len > 2 ^ (ringOf s g).log2 - (ringOf s g).resv % 2 ^ (ringOf s g).log2 then
    2 ^ (ringOf s g).log2 - (ringOf s g).resv % 2 ^ (ringOf s g).log2 else 0) = skip
  split
  · exact startRefresh_hold _ _
  · refine key _ _ _ (fun y => ev (bump (writeRec y _ _ _ _) rDelivered) 0x106 _) _ ?_ (fun y => writeRec (ev (bump y rSkips) 0x107 _) _ _ _ _) ?_
    · intro y; simp [hw]
    · intro y; simp [hw]

end Sys2Proof.Machine
end

