-- ==== Sys2Proof/Laws/Sieve.lean ====
section
/-! SUPPORT. The sieve and the expander: what they read of unit registers, one admitted record, one entry of a TALLY. -/
namespace Sys2Proof.Machine

theorem dieEnt_unit {s t : Blk} (hr : ∀ k, unitKey k → rg t k = rg s k) (i : Nat) : dieEnt t i = dieEnt s i := by
  have k : ∀ {o : Nat}, o < 0x140000 → rg t (bank o i) = rg s (bank o i) := fun h => hr _ (bankKey _ _ h)
  unfold dieEnt rgb rgf rgw
  rw [k (show rDieId < 0x140000 by decide), k (show rDieCtx < 0x140000 by decide)]

theorem rangeDies_unit {s t : Blk} (hr : ∀ k, unitKey k →
    rg t k = rg s k) {n o : Nat} (hn : n < 16) (ho : o < 0x40) : rangeDies t n o = rangeDies s n o := by
  unfold rangeDies setRange
  rw [rgf_unit hr (setKey _ _ hn ho), rgf_unit hr (setKey _ _ hn ho)]
  simp only [dieEnt_unit hr]

theorem setV_unit {s t : Blk} (hr : ∀ k, unitKey k → rg t k = rg s k) {n : Nat} (hn : n < 16) (x : Nat) : setV t n x = setV s n x := by
  unfold setV; rw [rgf_unit hr (setKey _ _ hn (by decide)), rgf_unit hr (setKey _ _ hn (by decide))]

theorem xtEnt_unit {s t : Blk} (hr : ∀ k, unitKey k → rg t k = rg s k) (hx : t.sve.xt = s.sve.xt) {n : Nat} (hn : n < 16) (l x : Nat) :
    xtEnt t n l x = xtEnt s n l x := by
  unfold xtEnt setXt setNexp
  rw [hx, rgf_unit hr (setKey _ _ hn (by decide)), rgf_unit hr (setKey _ _ hn (by decide))]

theorem recFits_unit {s t : Blk} (hr : ∀ k, unitKey k →
    rg t k = rg s k) (hx : t.sve.xt = s.sve.xt) {r : Run} (hn : r.set < 16) (w : Word64) :
    recFits t r w = recFits s r w := by
  unfold recFits setHshift setNexp
  rw [setV_unit hr hn, xtEnt_unit hr hx hn, rgf_unit hr (setKey _ _ hn (by decide)), rgf_unit hr (setKey _ _ hn (by decide))]

theorem candKey_unit {s t : Blk} (hr : ∀ k, unitKey k →
    rg t k = rg s k) (hx : t.sve.xt = s.sve.xt) {r : Run} (hn : r.set < 16) (a b : Nat) (v : Int) :
    candKey t r a b v = candKey s r a b v := by
  unfold candKey setNoise setSeed setNshift rg2
  rw [xtEnt_unit hr hx hn, rgb_unit hr (setKey _ _ hn (by decide)), rgf_unit hr (setKey _ _ hn (by decide)),
    hr _ (setKey _ _ hn (by decide)), hr _ (setKey _ _ hn (by decide))]

theorem sveCount_parts (s : Blk) (reg src c : Nat) : ∃ x, Counted s x reg ∧ Observed x (sveCount s reg src c 1) :=
  ⟨bump s reg, counted_bump s reg, Observed.evN _ _ _ _⟩

theorem admit_one {s : Blk} {i : Nat} {r : Run} {w : Word64} {v : Int} (hg : Store.get? s.sve.runs i = some r)
    (hn : r.set < 16) (hf : recFits s r w = true) (hv : setV s r.set (crScore w) = some v) (hS : setStage s r.set = false) :
    let p := laneAdd (setKeep s r.set) (Store.getD r.toks (crTok w) {})
      { expert := crExpert w, v, key := candKey s r (crTok w) (crExpert w) v }
    let k := { p.2 with n := p.2.n + 1, keys := keysAdd (setK s r.set) p.2.keys (candKey s r (crTok w) (crExpert w) v) }
    ∃ x y, Counted (setRun s i { r with toks := Store.set r.toks (crTok w) k, admitted := r.admitted + 1,
                                        started := r.started <|> some (now s) }) x rSveCandIn ∧ Observed x y ∧
      (p.1 = false → admitRec s i w = y) ∧ (p.1 = true → ∃ z, Counted y z rSveCandDup ∧ Observed z (admitRec s i w)) := by
  intro p k
  have e : admitRec s i w =
      let r' : Run := { r with toks := Store.set r.toks (crTok w) k, admitted := r.admitted + 1,
                               started := r.started <|> some (now s) }
      let b := sveCount (setRun s i r') rSveCandIn 0xd0 r.ctx 1
      let b := if p.1 then sveCount b rSveCandDup 0xd2 r.ctx 1 else b
      if !isRuled b r.ctx && stageTest b r' k { expert := crExpert w, v, key := candKey s r (crTok w) (crExpert w) v }
      then sendStage b i (crExpert w) else b := by
    unfold admitRec
    rw [hg]; dsimp only
    rw [hf, hv]; rfl
  dsimp only at e
  generalize hr' : ({ r with
      toks := Store.set r.toks (crTok w) k, admitted := r.admitted + 1, started := r.started <|> some (now s) } : Run) = r' at e ⊢
  have hset : r'.set = r.set := by rw [← hr']
  obtain ⟨x, c1, o1⟩ := sveCount_parts (setRun s i r') rSveCandIn 0xd0 r.ctx
  refine ⟨x, _, c1, o1, ?_⟩
  have st : ∀ b : Blk, rg b (setReg r.set 0) = rg s (setReg r.set 0) → ∀ t c, stageTest b r' t c = false := by
    intro b hb t c
    unfold stageTest setStage rgb rgw
    unfold setStage rgb rgw at hS
    rw [hset, hb, hS]; rfl
  have k0 : rg (setRun s i r') (setReg r.set 0) = rg s (setReg r.set 0) := rg_only rfl rfl _
  have n1 : setReg r.set 0 ≠ rSveCandIn := by unfold setReg; have : rSet = 0xc0100 := rfl; have : rSveCandIn = 0xc0040 := rfl; omega
  have n2 : setReg r.set 0 ≠ rSveCandDup := by unfold setReg; have : rSet = 0xc0100 := rfl; have : rSveCandDup = 0xc0048 := rfl; omega
  have k1 := (o1.regs _ (setKey _ 0 hn (by decide))).trans ((c1.others _ n1).trans k0)
  generalize sveCount (setRun s i r') rSveCandIn 0xd0 r.ctx 1 = y at o1 e k1 ⊢
  refine And.intro ?_ ?_
  · intro hp
    rw [e, hp]; simp only [Bool.false_eq_true, if_false]
    rw [st y k1]; simp
  · intro hp
    obtain ⟨z, c2, o2⟩ := sveCount_parts y rSveCandDup 0xd2 r.ctx
    have k2 := (o2.regs _ (setKey _ 0 hn (by decide))).trans ((c2.others _ n2).trans k1)
    refine ⟨z, c2, ?_⟩
    rw [e, hp]; simp only [if_true]
    rw [st _ k2]; simpa using o2

theorem xpSet_lt (n : Word256) : xpSet n < 16 := by unfold xpSet nOp fld; exact Nat.mod_lt _ (by decide)

theorem find_expert {ts : List XTask} {e : Nat} {k : XTask} (f : XTask → XTask) (hf : ∀ q, (f q).expert = q.expert)
    (h : ts.find? (fun q => q.expert == e) = some k) :
    (ts.map (fun q => if q.expert = e then f q else q)).find? (fun q => q.expert == e) = some (f k) := by
  induction ts with
  | nil => cases h
  | cons q r ih =>
    by_cases hq : q.expert = e
    · simp [hq] at h; subst h; simp [hf, hq]
    · simp [hq] at h ⊢; simpa using ih (by simpa using h)

theorem homeList_unit {s t : Blk} (hr : ∀ k, unitKey k → rg t k = rg s k) (n : Word256) : homeList t n = homeList s n := by
  unfold homeList scopeHomes setRange
  rw [rgf_unit hr (setKey _ _ (xpSet_lt n) (by decide)), rgf_unit hr (setKey _ _ (xpSet_lt n) (by decide))]

theorem xlLines_unit {s t : Blk} (hr : ∀ k, unitKey k → rg t k = rg s k) : xlLines t = xlLines s := by
  unfold xlLines; rw [rgf_unit hr (by unfold unitKey; decide)]

theorem listAddr_unit {s t : Blk} (hr : ∀ k, unitKey k → rg t k = rg s k) (x : Nat) : listAddr t x = listAddr s x := by
  unfold listAddr rg2; rw [hr _ (by unfold unitKey; decide), hr _ (by unfold unitKey; decide)]

theorem isRuled_unit {s t : Blk} (hr : ∀ k, unitKey k → rg t k = rg s k) (c : Nat) : isRuled t c = isRuled s c := by
  unfold isRuled; rw [rgb_unit hr (bankKey _ _ (by decide))]

theorem tally_one {t : Blk} {i home expert cnt : Nat} {n : Word256} {x : XScope} {k : XTask} {sl : Nat}
    (hg : Store.get? t.sve.scopes i = some x) (hf : x.tasks.find? (fun k => k.expert == expert) = some k) (hs : k.slot = some sl)
    (hh : k.homes.any (fun p => p.1 == home) = true) :
    tallyEntry t i home n (expert, cnt) = modX t i expert (fun q => { q with
            pend := q.pend + cnt, homes := k.homes.map (fun p => if p.1 = home then (home, p.2 + cnt) else p) }) := by
  have hsome : ∃ y, k.homes.find? (fun p => p.1 == home) = some y := by
    rw [← Option.isSome_iff_exists, List.find?_isSome]
    simpa using hh
  obtain ⟨y, hy⟩ := hsome
  unfold tallyEntry
  rw [hg]; dsimp only
  rw [hf]; dsimp only
  rw [hy, hs]; dsimp only
  simp only [Option.isNone_some, Bool.false_and, Bool.false_eq_true, if_false, Bool.and_false]
  have e1 : (Store.get? (modX t i expert (fun q => { q with
            pend := q.pend + cnt, homes := k.homes.map (fun p => if p.1 = home then (home, p.2 + cnt) else p) })).sve.scopes i).bind
            (fun x => x.tasks.find? (fun k => k.expert == expert)) = some { k with
            pend := k.pend + cnt, homes := k.homes.map (fun p => if p.1 = home then (home, p.2 + cnt) else p) } := by
    unfold modX; dsimp only
    rw [get?_modify_same, hg]
    exact find_expert (fun q => { q with
            pend := q.pend + cnt, homes := k.homes.map (fun p => if p.1 = home then (home, p.2 + cnt) else p) }) (fun _ => rfl) hf
  rw [e1]
  dsimp only
  rw [hs]
  rfl

end Sys2Proof.Machine
end

