-- ==== Sys2Proof/Laws/Tasks.lean ====
section
/-! SUPPORT. What a task's transition leaves alone: the ports, memory, the sieve, the Sequencer and the Exchange. -/
namespace Sys2Proof.Machine

/-- What differs belongs to observation, the logs, the tasks, issue, the contexts, the courses or the cascade. -/
structure Moved (s t : Blk) : Prop where
  cfg : t.cfg = s.cfg
  time : t.time = s.time
  hi : t.hi = s.hi
  ports : t.ports = s.ports
  mem : t.mem = s.mem
  sve : t.sve = s.sve
  csq : t.csq = s.csq
  xch : t.xch = s.xch

namespace Moved

theorem self (s : Blk) : Moved s s := ⟨rfl, rfl, rfl, rfl, rfl, rfl, rfl, rfl⟩

theorem trans {s t u : Blk} (h : Moved s t) (k : Moved t u) : Moved s u :=
  ⟨k.cfg.trans h.cfg, k.time.trans h.time, k.hi.trans h.hi, k.ports.trans h.ports, k.mem.trans h.mem, k.sve.trans h.sve,
   k.csq.trans h.csq, k.xch.trans h.xch⟩

theorem observed {s t : Blk} (h : Observed s t) : Moved s t := by
  constructor <;> rw [h.rest]

theorem logFault (s : Blk) (log unit code : Nat) (c : Option Nat) (d : Nat) (al : Bool) :
    Moved s (logFault s log unit code c d al) := by
  have h := (logged s log unit code c d al).rest
  constructor <;> rw [h]

theorem setCtxSt (s : Blk) (c : Nat) (st : CtxState) : Moved s (setCtxSt s c st) := by
  unfold Machine.setCtxSt
  dsimp only
  generalize hu : setSlot s c _ = u
  have h : Moved s u := by subst hu; exact ⟨rfl, rfl, rfl, rfl, rfl, rfl, rfl, rfl⟩
  exact h.trans (observed (Observed.trace _ _ _ _))

theorem toFaulted (s : Blk) (c code : Nat) : Moved s (toFaulted s c code) := by
  unfold Machine.toFaulted
  dsimp only
  generalize hu : dropCourse _ c = u
  have h : Moved s u := by subst hu; exact ⟨rfl, rfl, rfl, rfl, rfl, rfl, rfl, rfl⟩
  have h1 := h.trans (setCtxSt u c .faulted)
  generalize Machine.setCtxSt u c .faulted = v at h1 ⊢
  have h2 : Moved v (orBits v rCtxIrq 4) := ⟨rfl, rfl, rfl, rfl, rfl, rfl, rfl, rfl⟩
  exact (h1.trans h2).trans (observed (Observed.ev _ _ _))

theorem ctxFault (s : Blk) (c unit code d : Nat) : Moved s (ctxFault s c unit code d) := by
  unfold Machine.ctxFault ctxFaultA
  dsimp only
  split
  · exact (logFault _ _ _ _ _ _ _).trans (toFaulted _ _ _)
  · exact logFault _ _ _ _ _ _ _

theorem ev (s : Blk) (n c : Nat) : Moved s (ev s n c) := observed (Observed.ev s n c)

theorem bump (s : Blk) (k : Nat) : Moved s (bump s k) := ⟨rfl, rfl, rfl, rfl, rfl, rfl, rfl, rfl⟩

theorem setTask (s : Blk) (slot : Nat) (t : Task) : Moved s (setTask s slot t) := ⟨rfl, rfl, rfl, rfl, rfl, rfl, rfl, rfl⟩

theorem push (s : Blk) (ws : List Work) : Moved s (push s ws) := ⟨rfl, rfl, rfl, rfl, rfl, rfl, rfl, rfl⟩

theorem unowe (s : Blk) (slot : Nat) : Moved s (unowe s slot) := ⟨rfl, rfl, rfl, rfl, rfl, rfl, rfl, rfl⟩

theorem choose (s : Blk) (n : Nat) : Moved s (choose s n).2 := by
  unfold Machine.choose; split
  · exact self s
  · have h : Moved s (draw s).2 := by unfold draw; split <;> exact ⟨rfl, rfl, rfl, rfl, rfl, rfl, rfl, rfl⟩
    generalize draw s = d at h
    exact h

theorem dropDelay (s : Blk) (slot : Nat) : Moved s (dropDelay s slot) := by
  unfold Machine.dropDelay; dsimp only
  split
  · split <;> exact ⟨rfl, rfl, rfl, rfl, rfl, rfl, rfl, rfl⟩
  · exact ⟨rfl, rfl, rfl, rfl, rfl, rfl, rfl, rfl⟩

theorem finalEv (s : Blk) (t : Task) (st : TaskState) : Moved s (finalEv s t st) := by
  unfold Machine.finalEv; dsimp only
  split
  · split
    · exact (ev _ _ _).trans (ev _ _ _)
    · exact ev _ _ _
  · exact ev _ _ _
  · exact ev _ _ _
  · exact self s

theorem finishTask (s : Blk) (slot : Nat) (st : TaskState) (dead : Bool) : Moved s (finishTask s slot st dead) := by
  unfold Machine.finishTask
  dsimp only
  refine trans (dropDelay s slot) ?_
  generalize Machine.dropDelay s slot = t
  split
  · exact self t
  · refine trans ?_ (push _ _)
    refine trans ?_ (finalEv _ _ _)
    refine trans ?_ (setTask _ _ _)
    split
    · exact unowe _ _
    · exact self t

theorem noEngine (s : Blk) (slot : Nat) : Moved s (noEngine s slot) := by
  unfold Machine.noEngine
  split
  · exact self s
  · split
    · exact self s
    · exact (((setTask _ _ _).trans (bump _ _)).trans (ev _ _ _)).trans (ctxFault _ _ _ _ _)

theorem starve (d : Blk) (slot : Nat) : Moved d (match taskOf d slot with
    | some t => if isRuled d t.ctx && (eligible d t).isEmpty then Machine.setTask d slot { t with starved := true } else d
    | none => d) := by
  split
  · split
    · exact setTask _ _ _
    · exact self d
  · exact self d

theorem evIf (a : Blk) (q : Bool) (n c : Nat) : Moved a (if q then a else Machine.ev a n c) := by
  cases q
  · exact ev _ _ _
  · exact self a

theorem enterReady (s : Blk) (slot : Nat) : Moved s (enterReady s slot) := by
  unfold Machine.enterReady
  split
  · exact self s
  · split
    · exact finishTask _ _ _ _
    · exact ((((setTask _ _ _).trans (ev _ _ _)).trans (evIf _ _ _ _)).trans (noEngine _ _)).trans (starve _ _)

theorem takeDelay (s : Blk) (slot : Nat) (t : Task) : Moved s (takeDelay s slot t) := by
  unfold Machine.takeDelay
  dsimp only
  have h := choose s (List.filter (fun i => !(List.map (fun x : DlyEntry => x.idx) s.iss.dly).contains i) (List.range 16384)).length
  generalize Machine.choose s _ = d at h ⊢
  refine (h.trans ?_).trans (ev _ _ _)
  exact ⟨rfl, rfl, rfl, rfl, rfl, rfl, rfl, rfl⟩

theorem enterDelayed (s : Blk) (slot : Nat) : Moved s (enterDelayed s slot) := by
  unfold Machine.enterDelayed
  split
  · exact self s
  · split
    · exact takeDelay _ _ _
    · exact ((setTask _ _ _).trans (bump _ _)).trans (ev _ _ _)

theorem startTask (s : Blk) (slot : Nat) : Moved s (startTask s slot) := by
  unfold Machine.startTask
  split
  · exact self s
  · split
    · exact enterDelayed _ _
    · exact enterReady _ _

end Moved

theorem finalEv_obs (s : Blk) (t : Task) (st : TaskState) : Observed s (finalEv s t st) := by
  unfold finalEv; dsimp only
  split
  · split
    · exact (Observed.ev _ _ _).trans (Observed.ev _ _ _)
    · exact Observed.ev _ _ _
  · exact Observed.ev _ _ _
  · exact Observed.ev _ _ _
  · exact Observed.self s

theorem taskOf_set_same (s : Blk) (slot : Nat) (t : Task) : taskOf (setTask s slot t) slot = some t := get?_set_same _ _ _
theorem taskOf_set_other (s : Blk) {slot j : Nat} (t : Task) (h : j ≠ slot) : taskOf (setTask s slot t) j = taskOf s j :=
    get?_set_other _ _ h
theorem Observed.taskOf {s t : Blk} (h : Observed s t) (j : Nat) : taskOf t j = taskOf s j := by unfold Machine.taskOf; rw [h.rest]

/-- Leaving the delay lists. -/
theorem dropDelay_eq (s : Blk) (slot : Nat) (k : Task) (h : taskOf s slot = some k) :
    ∃ ts, dropDelay s slot = { s with tsk := { s.tsk with tasks := ts }, iss := { s.iss with
        dly := s.iss.dly.filter (fun d => d.slot ≠ slot) } } ∧
      Store.get? ts slot = some { k with dlyWait := false } ∧ ∀ j, j ≠ slot → Store.get? ts j = Store.get? s.tsk.tasks j := by
  unfold dropDelay
  dsimp only
  have h' : taskOf { s with iss := { s.iss with dly := s.iss.dly.filter (fun d => d.slot ≠ slot) } } slot = some k := h
  rw [h']; dsimp only
  by_cases hw : k.dlyWait = true
  · rw [if_pos hw]
    exact ⟨_, rfl, get?_set_same _ _ _, fun j hj => get?_set_other _ _ hj⟩
  · rw [if_neg hw]
    refine ⟨s.tsk.tasks, rfl, ?_, fun _ _ => rfl⟩
    have : k = { k with dlyWait := false } := by have : k.dlyWait = false := by simpa using hw
                                                 rw [← this]
    rw [← this]; exact h

theorem ends_finish (s : Blk) (slot : Nat) (k : Task) (st : TaskState) (dead : Bool) (h : taskOf s slot = some k) :
    TaskEnds s (finishTask s slot st dead) slot k st dead := by
  obtain ⟨ts, e, h1, h2⟩ := dropDelay_eq s slot k h
  unfold finishTask
  dsimp only
  rw [e]
  generalize hs1 : ({ s with tsk := { s.tsk with tasks := ts }, iss := { s.iss with
      dly := s.iss.dly.filter (fun d => d.slot ≠ slot) } } : Blk) = s1
  have t1 : taskOf s1 slot = some { k with dlyWait := false } := by rw [← hs1]; exact h1
  rw [t1]; dsimp only
  have hu : ∃ ow, (if (k.state == .ready) = true then unowe s1 slot else s1) = { s1 with ctx := { s1.ctx with owed := ow } } ∧
      ow = if k.state = .ready then s.ctx.owed.filter (fun o => o.what ≠ .completion slot) else s.ctx.owed := by
    by_cases hr : k.state = .ready
    · rw [hr]; refine ⟨_, rfl, ?_⟩; rw [← hs1]; rfl
    · have : (k.state == .ready) = false := by simpa using hr
      rw [this]; refine ⟨s1.ctx.owed, rfl, ?_⟩; rw [if_neg hr, ← hs1]
  obtain ⟨ow, e2, how⟩ := hu
  rw [e2]
  generalize hs2 : setTask { s1 with ctx := { s1.ctx with owed := ow } } slot { k with dlyWait := false, state := st } = s2
  have o := finalEv_obs s2 { k with dlyWait := false } st
  generalize finalEv s2 { k with dlyWait := false } st = s3 at o
  have r2 : ∀ j, rg s2 j = rg s j := fun j => by rw [← hs2, ← hs1]; exact rg_only rfl rfl j
  refine ⟨?_, ?_, ?_, ?_, ?_, ?_, ?_, ?_⟩
  · unfold push; dsimp only; rw [o.rest, ← hs2, ← hs1]; rfl
  · show taskOf s3 slot = _
    rw [o.taskOf, ← hs2, taskOf_set_same]
  · intro j hj
    show taskOf s3 j = _
    rw [o.taskOf, ← hs2, taskOf_set_other _ _ hj, ← hs1]; exact h2 j hj
  · show s3.iss.dly = _; rw [o.rest, ← hs2, ← hs1]; rfl
  · show s3.ctx.owed = _; rw [o.rest, ← hs2]; exact how
  · show _ ++ s3.work = _; rw [o.rest, ← hs2, ← hs1]; rfl
  · intro j hj
    exact (rg_only rfl rfl j).trans ((o.regs j hj).trans (r2 j))
  · show unitWords s3 = _
    rw [o.words, ← hs2, ← hs1]; rfl

theorem eligible_obs {s t : Blk} (h : Observed s t) (k : Task) : eligible t k = eligible s k := by
  have hm : t.cfg = s.cfg := by rw [h.rest]
  have hr : rg t rRegionFail = rg s rRegionFail := h.regs _ (by unfold unitKey; decide)
  unfold eligible
  have : engUsable t = engUsable s := by
    funext e; unfold engUsable engMasked regionOut rgb rgw; rw [hm, hr]
  rw [this]

theorem toFaulted_tsk (s : Blk) (c code : Nat) : (toFaulted s c code).tsk = s.tsk := by
  unfold toFaulted
  rw [(Observed.ev _ _ _).rest]
  show (setCtxSt _ _ _).tsk = _
  unfold setCtxSt; dsimp only
  rw [(Observed.trace _ _ _ _).rest]; rfl

theorem toFaulted_rg (s : Blk) (c code : Nat) {k : Nat} (hk : unitKey k) (h : k ≠ rCtxIrq) : rg (toFaulted s c code) k = rg s k := by
  unfold toFaulted
  rw [(Observed.ev _ _ _).regs k hk]
  refine (rg_wr_other _ _ h).trans ?_
  unfold setCtxSt; dsimp only
  rw [(Observed.trace _ _ _ _).regs k hk]
  exact rg_only rfl rfl k

theorem ctxFault_tsk (s : Blk) (c u code d : Nat) : (ctxFault s c u code d).tsk = s.tsk := by
  have h := (logged s (ctxLog c) u code (some c) d false).rest
  unfold ctxFault ctxFaultA; dsimp only
  split
  · rw [toFaulted_tsk, h]
  · rw [h]

theorem ctxFault_rg (s : Blk) (c u code d : Nat) {k : Nat} (hk : unitKey k) (h2 : k ≠ rXchIrq)
    (h3 : k ≠ rSafIrq) (h4 : k ≠ rCtxIrq) : rg (ctxFault s c u code d) k = rg s k := by
  have h := (logged s (ctxLog c) u code (some c) d false).regs k hk h2 h3
  unfold ctxFault ctxFaultA; dsimp only
  split
  · rw [toFaulted_rg _ _ _ hk h4, h]
  · rw [h]

theorem ordKey (c : Nat) : unitKey (bank rOrdMode c) ∧ bank rOrdMode c ≠ rXchIrq ∧
    bank rOrdMode c ≠ rSafIrq ∧ bank rOrdMode c ≠ rCtxIrq := by
  have : bank rOrdMode c % 0x1000000 = rOrdMode := bank_mod _ _ (by decide)
  refine ⟨Or.inl (by rw [this]; decide), ?_, ?_, ?_⟩ <;> intro h <;> rw [h] at this <;> revert this <;> decide

theorem put16 (n : Nat) : mkDetail (put n 16 0) 0 0 = put n 16 0 := by
  unfold mkDetail put
  simp
  have : n % 131072 < 131072 := Nat.mod_lt _ (by decide)
  omega

theorem evIf_obs (a : Blk) (q : Bool) (n c : Nat) : Observed a (if q then a else ev a n c) := by
  cases q
  · exact Observed.ev _ _ _
  · exact Observed.self a

theorem free_entry (used : List Nat) (n : Nat) (h : used.length < n) : 0 < ((List.range n).filter (fun i => !used.contains i)).length := by
  rw [List.length_pos_iff_exists_mem]
  by_contra hc
  push Not at hc
  have : List.range n ⊆ used := by
    intro i hi
    have := hc i
    rw [List.mem_filter] at this
    by_contra hu
    exact this ⟨hi, by simpa using hu⟩
  have := (List.nodup_range (n := n)).subperm this
  have := this.length_le
  rw [List.length_range] at this
  omega

theorem choose_lt (s : Blk) (n : Nat) (h : 0 < n) : (choose s n).1 < n ∧ ∃ f, (choose s n).2 = { s with free := f } := by
  unfold choose
  split
  · exact ⟨h, s.free, rfl⟩
  · have hd : ∃ f, (draw s).2 = { s with free := f } := by
      unfold draw; split <;> exact ⟨_, rfl⟩
    generalize draw s = d at hd
    obtain ⟨x, t⟩ := d
    exact ⟨Nat.mod_lt _ h, hd⟩

theorem delayed_of (s : Blk) (slot : Nat) (k : Task) (f : FreeVals) (E : DlyEntry) (i : Nat) (hi : i < 16384)
    (hu : ∀ d ∈ s.iss.dly, d.idx ≠ i)
    (hE : E = { idx := i, slot, lst := 2 * k.cls + (if k.delay ≤ 255 then 0 else 1), delay := k.delay
                shift := rgf s rDlyTick 4 0, release := (now s / 2 ^ rgf s rDlyTick 4 0 + k.delay) * 2 ^ rgf s rDlyTick 4 0 }) :
    TaskDelayed s (ev ({ s with free := f, tsk := { s.tsk with tasks := Store.set s.tsk.tasks slot { k with
        state := .delayed, dlyWait := false } }, iss := { s.iss with dly := s.iss.dly ++ [E] } } : Blk) 0x77 k.ctx) slot k := by
  have o := Observed.ev ({ s with free := f, tsk := { s.tsk with tasks := Store.set s.tsk.tasks slot { k with
      state := .delayed, dlyWait := false } }, iss := { s.iss with dly := s.iss.dly ++ [E] } } : Blk) 0x77 k.ctx
  generalize ev _ 0x77 k.ctx = t at o
  refine ⟨?_, ?_, ?_, ?_, ?_⟩
  · rw [o.rest]
  · rw [o.taskOf]; exact get?_set_same _ _ _
  · intro j hj; rw [o.taskOf]; exact get?_set_other _ _ hj
  · exact ⟨i, hi, hu, by rw [o.rest, hE]⟩
  · intro j hj; rw [o.regs j hj]; exact rg_only rfl rfl j

theorem delayed_take (s : Blk) (slot : Nat) (k : Task) (h : s.iss.dly.length < 16384) : TaskDelayed s (takeDelay s slot k) slot k := by
  have hf := free_entry (s.iss.dly.map (·.idx)) 16384 (by simpa using h)
  obtain ⟨h1, f, h2⟩ := choose_lt s _ hf
  unfold takeDelay
  dsimp only
  generalize hfr : (List.range 16384).filter (fun i => !(s.iss.dly.map (fun x : DlyEntry => x.idx)).contains i) = fr at hf h1 h2 ⊢
  generalize hch : choose s fr.length = ch at h1 h2 ⊢
  obtain ⟨i, s1⟩ := ch
  dsimp only at h1 h2 ⊢
  subst h2
  have hm : fr.getD i 0 ∈ fr := by
    have : fr.getD i 0 = fr[i] := by simp [List.getD_eq_getElem?_getD, h1]
    rw [this]; exact List.getElem_mem h1
  have hall : ∀ x ∈ fr, x < 16384 ∧ (s.iss.dly.map (fun x : DlyEntry => x.idx)).contains x = false := by
    intro x hx
    rw [← hfr, List.mem_filter] at hx
    exact ⟨List.mem_range.mp hx.1, (Bool.not_eq_true' _).mp hx.2⟩
  obtain ⟨hlt, hnot⟩ := hall _ hm
  refine delayed_of s slot k f _ _ hlt ?_ ?_
  · intro d hd he
    have : (s.iss.dly.map (fun x : DlyEntry => x.idx)).contains (fr.getD i 0) = true := by
      rw [List.contains_iff_mem]; exact List.mem_map.mpr ⟨d, hd, he⟩
    rw [this] at hnot; cases hnot
  · unfold releaseAt
    rw [Nat.shiftRight_eq_div_pow, Nat.shiftLeft_eq]; rfl
/-- The end of a step into READY. -/
def readyTail (s : Blk) (slot : Nat) : Blk :=
  match taskOf (noEngine s slot) slot with
  | some t => if isRuled (noEngine s slot) t.ctx && (eligible (noEngine s slot) t).isEmpty then setTask (noEngine s slot) slot { t with
      starved := true } else noEngine s slot
  | none => noEngine s slot

theorem enterReady_tail (s : Blk) (slot : Nat) (k k1 : Task) (hk : taskOf s slot = some k) (hn : k.kind ≠ .null)
    (h1 : k1 = { k with state := .ready, mark := markNow s k.ctx }) :
    ∃ s2, Observed (setTask s slot k1) s2 ∧ enterReady s slot = readyTail s2 slot := by
  unfold enterReady
  rw [hk]
  have : (k.kind == .null) = false := by simpa using hn
  dsimp only
  rw [this]
  subst h1
  exact ⟨_, (Observed.ev _ _ _).trans (evIf_obs _ _ _ _), rfl⟩

end Sys2Proof.Machine
end

