-- ==== Sys2Proof/Laws/Regions.lean ====
section
/-! SUPPORT. Words on the regions' completion ports, and the taking of task slots. -/
namespace Sys2Proof.Machine

theorem Observed.regionOut {s t : Blk} (h : Observed s t) (n : Nat) : regionOut t n = regionOut s n := by
  unfold Machine.regionOut; exact rgb_unit h.regs (by unfold unitKey; decide) n

theorem Observed.engMasked {s t : Blk} (h : Observed s t) (n : Nat) : engMasked t n = engMasked s n := by
  unfold Machine.engMasked; rw [h.rest]

theorem discard_obs (s : Blk) (n : Nat) : Observed { s with ports := { s.ports with
    rcpErr := Store.put 0 s.ports.rcpErr n 2 } } (rcpDiscard s n) :=
  Observed.ev0 _ _

theorem rcp_take {s : Blk} {n src : Nat} (h : Listens s n src) : rcpCheck s n src true = (.take, rcpAnswered s n 0 (n * 256 + src) 0) := by
  unfold rcpCheck; dsimp only
  rw [h.soft, h.pair]
  have : engMasked (setFails s (n * 256 + src) 0) (n * 256 + src) = false := h.mask
  simp only [Bool.or_self, Bool.false_eq_true, if_false, Bool.not_true, this]
  rfl

theorem completion_word {s : State} {n src : Nat} {w : Word64} {ok : Bool} {q : List Nat} {P : Blk → Prop} (h1 : n < 16) (h2 : src < 256)
    (hr : fnReady s.blk 9 = true) (h : P (takeCompletion s.blk n src w ok q)) : Updates (.completionWord n src w ok q) s P := by
  refine updates_act (exec_completionWord n src w ok q s) (by unfold answers; rw [hr]; rfl) ?_
  rw [Nat.mod_eq_of_lt h1, Nat.mod_eq_of_lt h2]; exact h

theorem candidate_record {s : State} {n src : Nat} {w : Word64} {ok : Bool} {q : List Nat} {P : Blk → Prop}
    (h1 : n < 16) (h2 : src < 256) (hr : fnReady s.blk 9 = true) (h : P (takeRecord s.blk n src w ok q)) : Updates (.candidateRecord n src w ok q) s P := by
  refine updates_act (exec_candidateRecord n src w ok q s) (by unfold answers; rw [hr]; rfl) ?_
  rw [Nat.mod_eq_of_lt h1, Nat.mod_eq_of_lt h2]; exact h

theorem enqueue_request {s : State} {n src : Nat} {w : Word64} {ok : Bool} {q : List Nat} {P : Blk → Prop}
    (h1 : n < 16) (h2 : src < 256) (hr : fnReady s.blk 9 = true) (h : P (takeEnqueue s.blk n src w ok q)) : Updates (.enqueueRequest n src w ok q) s P := by
  refine updates_act (exec_enqueueRequest n src w ok q s) (by unfold answers; rw [hr]; rfl) ?_
  rw [Nat.mod_eq_of_lt h1, Nat.mod_eq_of_lt h2]; exact h

theorem reserved_kind {s : State} {n src kind : Nat} {w : Word64} {ok : Bool} {P : Blk → Prop} (h1 : n < 16) (h2 : src < 256)
    (hr : fnReady s.blk 9 = true) (h : P (takeReserved s.blk n src kind ok)) : Updates (.rcpReservedKind n src kind w ok) s P := by
  refine updates_act (exec_rcpReservedKind n src kind w ok s) (by unfold answers; rw [hr]; rfl) ?_
  rw [Nat.mod_eq_of_lt h1, Nat.mod_eq_of_lt h2]; exact h

theorem erase_erase {α : Type} (m : Store α) (k : Nat) : Store.erase (Store.erase m k) k = Store.erase m k := by
  induction m with
  | nil => rfl
  | cons p r ih =>
    obtain ⟨a, b⟩ := p
    by_cases h : a = k
    · simp [Store.erase, h, ih]
    · simp [Store.erase, h, ih]

theorem discard_taken (s : Blk) (n e : Nat) : Observed (rcpAnswered (rcpAnswered s n 0 e 0) n 2 e 0) (rcpDiscard (rcpAnswered s n 0 e 0) n) := by
  have o := discard_obs (rcpAnswered s n 0 e 0) n
  have : rcpAnswered (rcpAnswered s n 0 e 0) n 2 e 0 = { rcpAnswered s n 0 e 0 with ports := { (rcpAnswered s n 0 e 0).ports with
      rcpErr := Store.put 0 (rcpAnswered s n 0 e 0).ports.rcpErr n 2 } } := by
    unfold rcpAnswered; dsimp only
    have : Store.put 0 (Store.put 0 s.ports.rcpFails e 0) e 0 = Store.put 0 s.ports.rcpFails e 0 := by
      unfold Store.put; simp only [if_true, erase_erase]
    rw [this]
  rw [this]; exact o

/-- What a word is, whose check does not take it. -/
theorem not_taken {c : Instr} {s : State} {n src : Nat} {ok : Bool} {P : Blk → Prop} (hc : regionWord c = some (n, src, ok)) (h1 : n < 16)
    (h2 : src < 256) (hr : fnReady s.blk 9 = true) {t : Blk}
    (hk : rcpCheck s.blk n src ok = (.again, t) ∨ (rcpCheck s.blk n src ok = (.discard, t) ∧
      ((∀ w q, c ≠ .completionWord n src w ok q) ∨ regionOut t n = false)))
    (h : P t) : Updates c s P := by
  unfold regionWord at hc
  split at hc
  all_goals cases hc
  · refine completion_word h1 h2 hr ?_
    unfold takeCompletion; dsimp only
    rcases hk with hk | ⟨hk, h3⟩
    · rw [hk]; exact h
    · rw [hk]
      rcases h3 with h3 | h3
      · exact absurd rfl (h3 _ _)
      · dsimp only; rw [h3]; exact h
  · refine candidate_record h1 h2 hr ?_
    unfold takeRecord; rcases hk with hk | ⟨hk, _⟩ <;> rw [hk] <;> exact h
  · refine enqueue_request h1 h2 hr ?_
    unfold takeEnqueue; rcases hk with hk | ⟨hk, _⟩ <;> dsimp only <;> rw [hk] <;> exact h
  · refine reserved_kind h1 h2 hr ?_
    unfold takeReserved; rcases hk with hk | ⟨hk, _⟩ <;> rw [hk] <;> exact h

theorem engDetail (slot e : Nat) (h1 : slot < 2 ^ 17) (h2 : e < 4096) : slotDetail slot e = slot + e * 2 ^ 64 := by
  unfold slotDetail mkDetail
  have e1 : put slot 16 0 = slot := by rw [put_le (by omega)]; omega
  have e2 : put e 11 0 = e := by rw [put_le (by omega)]; omega
  rw [e1, e2, put_le (by omega), put_le (by omega), put_le (by omega)]
  omega

theorem contested_parts (s : Blk) (c : Nat) (q : List Nat) : contested s c q = { s with ctx := { s.ctx with
    slots := (contested s c q).ctx.slots } } := by
  unfold contested
  split
  · rfl
  · dsimp only
    unfold forEach
    generalize (((c :: q).map (· % 256)).eraseDups.filter (fun c => !isRuled s c)) = l
    induction l generalizing s with
    | nil => rfl
    | cons x r ih =>
      simp only [List.foldl_cons]
      rw [ih]; rfl

theorem cwMatch_stable {s t : Blk} (h : t.tsk = s.tsk) (e : Nat) (w : Word64) : cwMatch t e w = cwMatch s e w := by
  unfold cwMatch taskOf stampOf; rw [h]

theorem cwMatch_task {s : Blk} {e : Nat} {w : Word64} {k : Task} (h : cwMatch s e w = some k) :
    taskOf s (cwSlot w) = some k ∧ k.ctx = cwCtx w ∧ k.state = .issued := by
  unfold cwMatch at h
  split at h
  · rename_i t ht
    split at h
    · rename_i hc; cases h; exact ⟨ht, hc.2.1, hc.2.2.2.1⟩
    · cases h
  · cases h

theorem holdOwed_none {s : Blk} {slot : Nat} (x : OwedEv) (a : Bool) (h : ∀ o ∈ s.ctx.owed, o.what ≠ .completion slot) :
    holdOwed s slot x a = none := by
  unfold holdOwed
  have : s.ctx.owed.find? (fun o => o.what == .completion slot) = none := by
    rw [List.find?_eq_none]; intro o ho; simpa using h o ho
  rw [this]

/-- Nothing but observation differs after a credit has returned, where nothing else differed before. -/
theorem Observed.credited {s t : Blk} (h : Observed s t) (e : Nat) (w : Word64) (k : Task) :
    Observed (credited s e w k) (credited t e w k) := by
  obtain ⟨r, o, d, ht, _⟩ := h.parts
  have hr := h.regs
  have hw := h.words
  subst ht
  unfold Machine.credited creditBack setOcc occ
  dsimp only
  split
  · exact ⟨rfl, hr, hw⟩
  · exact ⟨rfl, hr, hw⟩

theorem credited_tsk (s : Blk) (e : Nat) (w : Word64) (k : Task) : (credited s e w k).tsk = s.tsk := by
  unfold credited; dsimp only; split <;> rfl

/-- The credit that `completeTask` returns, where no completion of the task is owed. -/
theorem credited_free {s : Blk} {e : Nat} {w : Word64} {k : Task} (ho : ∀ o ∈ s.ctx.owed, o.what ≠ .completion (cwSlot w)) :
    (if fld w 18 16 = 0 then unowe (creditBack s e k.cls) (cwSlot w) else
      { unowe (creditBack s e k.cls) (cwSlot w) with iss := { (unowe (creditBack s e k.cls) (cwSlot w)).iss with
          rsvCount := (unowe (creditBack s e k.cls) (cwSlot w)).iss.rsvCount + 1 } }) = credited s e w k := by
  have hu : unowe (creditBack s e k.cls) (cwSlot w) = creditBack s e k.cls := by
    unfold unowe
    have : (creditBack s e k.cls).ctx.owed.filter (fun o => o.what ≠ .completion (cwSlot w)) = (creditBack s e k.cls).ctx.owed := by
      rw [List.filter_eq_self]; intro o h; simpa using ho o h
    rw [this]
  rw [hu]; rfl

/-- A word that matches ends its task. -/
theorem completes {s t : Blk} {e : Nat} {w : Word64} {k : Task} (hk : taskOf s (cwSlot w) = some k)
    (hc : cwCls w = k.cls) (ho : ∀ o ∈ s.ctx.owed, o.what ≠ .completion (cwSlot w)) (h0 : cwStatus w = 0) (ht : t = completeTask s e w k) :
    ∃ u, Observed (credited s e w k) u ∧ TaskEnds u t (cwSlot w) k .done k.dead := by
  have o : Observed (credited s e w k) (traceComplete (credited s e w k) e w 0) := Observed.trace _ _ _ _
  refine ⟨_, o, ?_⟩
  rw [ht]; unfold completeTask; dsimp only
  rw [credited_free ho, if_pos hc, if_pos h0]
  exact ends_finish _ _ _ _ _ ((o.taskOf _).trans (by unfold taskOf; rw [credited_tsk]; exact hk))

theorem completes_bad {s t : Blk} {e : Nat} {w : Word64} {k : Task} (hc : cwCls w = k.cls)
    (ho : ∀ o ∈ s.ctx.owed, o.what ≠ .completion (cwSlot w)) (h0 : cwStatus w = 1 ∨ cwStatus w = 2) (he : e < 4096)
    (ht : t = completeTask s e w k) :
    ∃ u, Observed (credited s e w k) u ∧ TaskEnds (setTask (ctxFault u k.ctx uIss 0x59
          (mkDetail (cwSlot w + cwStatus w * 2 ^ 24) e (cwDetail w))) (cwSlot w) { k with dead := true }) t (cwSlot w) { k with
              dead := true } .done true := by
  have o : Observed (credited s e w k) (traceComplete (credited s e w k) e w 0) := Observed.trace _ _ _ _
  refine ⟨_, o, ?_⟩
  have e1 : put (cwSlot w) 16 0 + put (cwStatus w) 25 24 = cwSlot w + cwStatus w * 2 ^ 24 := by
    have : cwSlot w < 2 ^ 17 := fld_lt _ _ _
    have : cwStatus w < 2 ^ 2 := fld_lt _ _ _
    rw [put_le (by omega), put_le (by omega)]; omega
  have e2 : put e 11 0 = e := by rw [put_le (by omega)]; omega
  rw [ht]; unfold completeTask; dsimp only
  rw [credited_free ho, if_pos hc, if_neg (by omega), if_neg (by omega), e1, e2]
  exact ends_finish _ _ _ _ _ (taskOf_set_same _ _ _)

/-- What a word is counted as before what it fits is looked for (R340). -/
def wordSeen (s : Blk) (w : Word64) : Blk := if cwStatus w = 1 ∨ cwStatus w = 2 then ev s 0x60 (cwCtx w) else s

theorem wordSeen_obs (s : Blk) (w : Word64) : Observed s (wordSeen s w) := by
  unfold wordSeen; split
  · exact Observed.ev _ _ _
  · exact Observed.self s

theorem applyCompletion_seen (s : Blk) (e : Nat) (w : Word64) : applyCompletion s e w =
    match cwMatch (wordSeen s w) e w with
    | some t => completeTask (wordSeen s w) e w t
    | none =>
      match settlePurge (wordSeen s w) e w with
      | some s => traceComplete (ev0 (bump s rStaleCmpl) 0x7c) e w 2
      | none =>
        if occ (wordSeen s w) e (cwCls w) = 0 then
          traceComplete (unitFault (ev0 (bump (wordSeen s w) rCreditErr) 0x7d) uIss 0x31 none (slotDetail (cwSlot w) e)) e w 3
        else
          let s := ev0 (bump (creditBack (wordSeen s w) e (cwCls w)) rStaleCmpl) 0x7c
          traceComplete (match Store.get? s.tsk.held (cwSlot w) with
            | some h => if h.istamp = cwStamp w then unhold s (cwSlot w) else s
            | none => s) e w 1 := rfl

theorem purge_settled {s : Blk} {e : Nat} {w : Word64} (hm : cwMatch s e w = none) {h : HeldWord}
    (hp : s.iss.purge.find? (purgeMatch e w) = some h) : ∃ t, Observed s t ∧
    applyCompletion s e w = traceComplete (ev0 (bump { t with iss := { t.iss with
        purge := t.iss.purge.erase h } } rStaleCmpl) 0x7c) e w 2 := by
  have o := wordSeen_obs s w
  refine ⟨_, o, ?_⟩
  have hi : (wordSeen s w).iss = s.iss := by rw [o.rest]
  have ht : (wordSeen s w).tsk = s.tsk := by rw [o.rest]
  rw [applyCompletion_seen, cwMatch_stable ht, hm]
  unfold settlePurge
  rw [hi, hp]

theorem stale_credit {s : Blk} {e : Nat} {w : Word64} (hm : cwMatch s e w = none) (hp : s.iss.purge.find? (purgeMatch e w) = none)
    (h0 : occ s e (cwCls w) ≠ 0) (hh : ∀ h, Store.get? s.tsk.held (cwSlot w) = some h → h.istamp ≠ cwStamp w) : ∃ t, Observed s t ∧
    applyCompletion s e w = traceComplete (ev0 (bump (creditBack t e (cwCls w)) rStaleCmpl) 0x7c) e w 1 := by
  have q := wordSeen_obs s w
  refine ⟨_, q, ?_⟩
  have hi : (wordSeen s w).iss = s.iss := by rw [q.rest]
  have ht : (wordSeen s w).tsk = s.tsk := by rw [q.rest]
  rw [applyCompletion_seen, cwMatch_stable ht, hm]
  unfold settlePurge
  rw [hi, hp]
  dsimp only
  have h0' : occ (wordSeen s w) e (cwCls w) ≠ 0 := by unfold occ; rw [hi]; exact h0
  rw [if_neg h0']
  have o := Observed.ev0 (bump (creditBack (wordSeen s w) e (cwCls w)) rStaleCmpl) 0x7c
  have : (ev0 (bump (creditBack (wordSeen s w) e (cwCls w)) rStaleCmpl) 0x7c).tsk.held = s.tsk.held := by rw [o.rest, ← ht]; rfl
  rw [this]
  cases hg : Store.get? s.tsk.held (cwSlot w) with
  | none => rfl
  | some h => dsimp only; rw [if_neg (hh h hg)]

theorem credit_error {s : Blk} {e : Nat} {w : Word64} (hm : cwMatch s e w = none) (hp : s.iss.purge.find? (purgeMatch e w) = none)
    (h0 : occ s e (cwCls w) = 0) : ∃ t, Observed s t ∧
    applyCompletion s e w = traceComplete (unitFault (ev0 (bump t rCreditErr) 0x7d) uIss 0x31 none (slotDetail (cwSlot w) e)) e w 3 := by
  have q := wordSeen_obs s w
  refine ⟨_, q, ?_⟩
  have hi : (wordSeen s w).iss = s.iss := by rw [q.rest]
  have ht : (wordSeen s w).tsk = s.tsk := by rw [q.rest]
  rw [applyCompletion_seen, cwMatch_stable ht, hm]
  unfold settlePurge
  rw [hi, hp]
  dsimp only
  have h0' : occ (wordSeen s w) e (cwCls w) = 0 := by unfold occ; rw [hi]; exact h0
  rw [if_pos h0']

theorem draw_fst {s t : Blk} (h : t.free = s.free) : (draw t).1 = (draw s).1 := by
  unfold draw; rw [h]; split <;> rfl

theorem choose_fst {s t : Blk} (h : t.free = s.free) (n : Nat) : (choose t n).1 = (choose s n).1 := by
  unfold choose
  by_cases h1 : n ≤ 1
  · rw [if_pos h1, if_pos h1]
  · rw [if_neg h1, if_neg h1]; dsimp only; rw [draw_fst h]

theorem choose_free (s : Blk) (n : Nat) : ∃ f, (choose s n).2 = { s with free := f } := by
  unfold choose
  by_cases h1 : n ≤ 1
  · rw [if_pos h1]; exact ⟨s.free, rfl⟩
  · rw [if_neg h1]; dsimp only; unfold draw; split <;> exact ⟨_, rfl⟩

theorem chooseRuns_fst {s t : Blk} (h : t.free = s.free) (rs : List (Nat × Nat)) (n : Nat) : (chooseRuns t rs n).1 = (chooseRuns s rs n).1 := by
  unfold chooseRuns
  by_cases h1 : n = 0
  · rw [if_pos h1, if_pos h1]
  · rw [if_neg h1, if_neg h1]; dsimp only
    by_cases h2 : placesFor rs n = 0
    · rw [if_pos h2, if_pos h2]
    · rw [if_neg h2, if_neg h2]; dsimp only; rw [choose_fst h]

theorem chooseRuns_free (s : Blk) (rs : List (Nat × Nat)) (n : Nat) : ∃ f, (chooseRuns s rs n).2 = { s with free := f } := by
  unfold chooseRuns
  by_cases h1 : n = 0
  · rw [if_pos h1]; exact ⟨s.free, rfl⟩
  · rw [if_neg h1]; dsimp only
    by_cases h2 : placesFor rs n = 0
    · rw [if_pos h2]; exact ⟨s.free, rfl⟩
    · rw [if_neg h2]; exact choose_free _ _

theorem takeSlots_parts {s t : Blk} (h1 : t.tsk = s.tsk) (h2 : t.free = s.free) (n : Nat) : (takeSlots t n).1 = (takeSlots s n).1 := by
  have e := chooseRuns_fst h2 s.tsk.freeSlots n
  unfold takeSlots
  rw [h1]
  dsimp only
  rw [e]
  cases (chooseRuns s s.tsk.freeSlots n).1 <;> rfl

theorem takeSlots_seq (s : Blk) (n : Nat) : (takeSlots s n).2.tsk.seqNext = s.tsk.seqNext := by
  obtain ⟨f, e⟩ := chooseRuns_free s s.tsk.freeSlots n
  unfold takeSlots
  generalize chooseRuns s s.tsk.freeSlots n = p at e
  obtain ⟨r, u⟩ := p
  dsimp only at e ⊢
  subst e
  cases r <;> rfl

end Sys2Proof.Machine
end

