-- ==== Sys2Proof/Laws/Pairs.lean ====
section
/-! SUPPORT. Port pairs that leave service (R375): the words written off, the bindings dropped, and the faults recorded. -/
namespace Sys2Proof.Machine

/-- What a pass over a list keeps. -/
theorem forEach_keeps {α : Type} {P : Blk → Prop} (f : Blk → α → Blk) (l : List α) (h : ∀ s, ∀ x ∈ l, P s → P (f s x)) :
    ∀ s, P s → P (forEach l s f) := by
  induction l with
  | nil => intro s hs; exact hs
  | cons a l ih =>
    intro s hs
    exact ih (fun s x hx => h s x (List.mem_cons_of_mem _ hx)) _ (h s a (List.mem_cons_self ..) hs)

/-- What a port pair that leaves service does after its words are written off leaves this alone. -/
structure Steady (r x : Blk) : Prop where
  time : x.time = r.time
  gen : ∀ d, ctxGen x d = ctxGen r d
  strict : ∀ d, d < 256 → isStrict x d = isStrict r d
  fail : rg x rRegionFail = rg r rRegionFail
  iss : x.iss = r.iss
  ports : x.ports = r.ports
  owed : ∀ o ∈ x.ctx.owed, o ∈ r.ctx.owed
  work : ∀ w ∈ r.work, w ∈ x.work

namespace Steady

theorem self (s : Blk) : Steady s s := ⟨rfl, fun _ => rfl, fun _ _ => rfl, rfl, rfl, rfl, fun _ h => h, fun _ h => h⟩

theorem trans {r x y : Blk} (h : Steady r x) (k : Steady x y) : Steady r y :=
  ⟨k.time.trans h.time, fun d => (k.gen d).trans (h.gen d), fun d hd => (k.strict d hd).trans (h.strict d hd), k.fail.trans h.fail,
   k.iss.trans h.iss, k.ports.trans h.ports, fun o ho => h.owed o (k.owed o ho), fun w hw => k.work w (h.work w hw)⟩

theorem strictKey {d : Nat} (hd : d < 256) : rStrict ≤ rStrict + 4 * (d / 32) ∧ rStrict + 4 * (d / 32) ≤ rStrict + 28 := by omega

/-- Where the registers read by `Steady` stand, and contexts' generations. -/
theorem mk' {r x : Blk} (h1 : x.time = r.time) (h2 : x.iss = r.iss) (h3 : x.ports = r.ports) (h4 : x.ctx.owed = r.ctx.owed)
    (h5 : x.work = r.work) (hg : ∀ d, ctxGen x d = ctxGen r d)
    (hr : ∀ k, unitKey k → k ≠ rNoEngine → k ≠ rXchIrq → k ≠ rSafIrq → k ≠ rCtxIrq → k ≠ rAlarmCause → rg x k = rg r k) : Steady r x := by
  refine ⟨h1, hg, fun d hd => ?_, hr _ (by unfold unitKey; decide) (by decide) (by decide) (by decide) (by decide) (by decide), h2, h3,
    fun o ho => by rw [← h4]; exact ho, fun w hw => by rw [h5]; exact hw⟩
  have hk := strictKey hd
  have e : rStrict = 0x160040 := rfl
  unfold isStrict rgb rgw
  rw [hr _ (by right; left; omega) (by show _ ≠ 0x80048; omega) (by show _ ≠ 0x10002c; omega) (by show _ ≠ 0x160098; omega)
    (by show _ ≠ 0x12012c; omega) (by show _ ≠ 0x160004; omega)]

theorem observed {r x : Blk} (h : Observed r x) : Steady r x := by
  refine mk' (by rw [h.rest]) (by rw [h.rest]) (by rw [h.rest]) (by rw [h.rest]) (by rw [h.rest]) (fun d => ?_) (fun k hk _ _ _ _ _ => h.regs k hk)
  unfold ctxGen slotOf; rw [h.rest]

theorem logged {r x : Blk} {n : Nat} {e : LogEnt} (h : Logged r x n e) : Steady r x := by
  refine mk' (by rw [h.rest]) (by rw [h.rest]) (by rw [h.rest]) (by rw [h.rest]) (by rw [h.rest]) (fun d => ?_)
    (fun k hk _ h2 h3 _ _ => h.regs k hk h2 h3)
  unfold ctxGen slotOf; rw [h.rest]

theorem setTask (s : Blk) (j : Nat) (t : Task) : Steady s (setTask s j t) :=
  mk' rfl rfl rfl rfl rfl (fun _ => rfl) (fun k _ _ _ _ _ _ => rg_only rfl rfl k)

theorem unowe (s : Blk) (j : Nat) : Steady s (unowe s j) :=
  ⟨rfl, fun _ => rfl, fun _ _ => rfl, rfl, rfl, rfl, fun _ h => List.mem_of_mem_filter h, fun _ h => h⟩

theorem push (s : Blk) (ws : List Work) : Steady s (push s ws) :=
  ⟨rfl, fun _ => rfl, fun _ _ => rfl, rfl, rfl, rfl, fun _ h => h, fun _ h => List.mem_append_right _ h⟩

theorem gen_obs {s t : Blk} (o : Observed s t) (d : Nat) : ctxGen t d = ctxGen s d := by unfold ctxGen slotOf; rw [o.rest]

theorem gen_setCtxSt (s : Blk) (c : Nat) (st : CtxState) (d : Nat) : ctxGen (setCtxSt s c st) d = ctxGen s d := by
  unfold setCtxSt
  dsimp only
  rw [gen_obs (Observed.trace _ _ _ _)]
  unfold ctxGen
  by_cases h : d = c
  · subst h; rw [slotOf_setSlot_same]
  · rw [slotOf_setSlot_other _ _ h]

theorem toFaulted (s : Blk) (c code : Nat) : Steady s (toFaulted s c code) := by
  have hm := Moved.toFaulted s c code
  have key : ∀ x : Blk, (∀ d, ctxGen x d = ctxGen s d) → x.iss = s.iss → x.ctx.owed = s.ctx.owed → x.work = s.work → ∀ y, Observed x y →
      (∀ d, ctxGen y d = ctxGen s d) ∧ y.iss = s.iss ∧ y.ctx.owed = s.ctx.owed ∧ y.work = s.work := by
    intro x h1 h2 h3 h4 y o
    refine ⟨fun d => ?_, by rw [o.rest]; exact h2, by rw [o.rest]; exact h3, by rw [o.rest]; exact h4⟩
    have : ctxGen y d = ctxGen x d := by unfold ctxGen slotOf; rw [o.rest]
    rw [this, h1]
  have all : (∀ d, ctxGen (Machine.toFaulted s c code) d = ctxGen s d) ∧ (Machine.toFaulted s c code).iss = s.iss ∧
      (Machine.toFaulted s c code).ctx.owed = s.ctx.owed ∧ (Machine.toFaulted s c code).work = s.work := by
    unfold Machine.toFaulted
    dsimp only
    generalize hu : dropCourse (setSlot s c { slotOf s c with code }) c = u
    have hg : ∀ d, ctxGen u d = ctxGen s d := by
      intro d; subst hu
      show (slotOf (setSlot s c { slotOf s c with code }) d).gen = _
      by_cases h : d = c
      · subst h; rw [slotOf_setSlot_same]; rfl
      · rw [slotOf_setSlot_other _ _ h]; rfl
    refine key (orBits (setCtxSt u c .faulted) rCtxIrq 4) (fun d => ?_) ?_ ?_ ?_ _ (Observed.ev _ _ _)
    · exact (gen_setCtxSt u c .faulted d).trans (hg d)
    · show (setCtxSt u c .faulted).iss = _
      unfold setCtxSt; dsimp only; rw [(Observed.trace _ _ _ _).rest, ← hu]; rfl
    · show (setCtxSt u c .faulted).ctx.owed = _
      unfold setCtxSt; dsimp only; rw [(Observed.trace _ _ _ _).rest, ← hu]; rfl
    · show (setCtxSt u c .faulted).work = _
      unfold setCtxSt; dsimp only; rw [(Observed.trace _ _ _ _).rest, ← hu]; rfl
  exact mk' hm.time all.2.1 hm.ports all.2.2.1 all.2.2.2 all.1 (fun k hk _ _ _ h _ => toFaulted_rg s c code hk h)

theorem ctxFault (s : Blk) (c u code d : Nat) : Steady s (ctxFault s c u code d) := by
  have h := logged (Machine.logged s (ctxLog c) u code (some c) d false)
  unfold Machine.ctxFault ctxFaultA; dsimp only
  split
  · exact h.trans (toFaulted _ _ _)
  · exact h

theorem raised {r x : Blk} {n : Nat} (h : Raised r x n) : Steady r x := by
  have hs : ∀ k, unitKey k → k ≠ rNoEngine → k ≠ rXchIrq → k ≠ rSafIrq → k ≠ rCtxIrq → k ≠ rAlarmCause → rg x k = rg r k :=
    fun k hk _ _ h3 _ h5 => h.regs k hk h5 h3
  have a := mk' (r := r) (x := { x with work := r.work }) (by rw [h.rest]) (by rw [h.rest]) (by rw [h.rest]) (by rw [h.rest]) rfl
    (fun d => by unfold ctxGen slotOf; rw [h.rest]) (fun k hk h1 h2 h3 h4 h5 => (rg_only rfl rfl k).trans (hs k hk h1 h2 h3 h4 h5))
  exact ⟨a.time, a.gen, a.strict, a.fail, a.iss, a.ports, a.owed, fun w hw => by rw [h.fence]; split <;> simp [hw]⟩

theorem noEngine (s : Blk) (j : Nat) : Steady s (noEngine s j) := by
  unfold Machine.noEngine
  split
  · exact self s
  · split
    · exact self s
    · rename_i t _ _
      refine ((setTask s j { t with noEngine := true }).trans ?_).trans (ctxFault _ _ _ _ _)
      refine Steady.trans ?_ (observed (Observed.ev _ _ _))
      exact mk' rfl rfl rfl rfl rfl (fun _ => rfl) (fun k _ h _ _ _ _ => rg_wr_other _ _ h)

theorem dropBinding (s : Blk) (n : Nat) (p : Nat × Task) : Steady s (dropBinding s n p) := by
  unfold Machine.dropBinding
  split
  · split
    · exact (unowe _ _).trans (setTask _ _ _)
    · exact self s
  · exact self s

end Steady


/-- The task that a port pair going out ends. -/
def lostTask (k : Task) : Task := { k with state := .done, dead := true }

/-- The tasks of a pair are ended one by one. -/
theorem ended_all (l : Store Task) : ∀ s : Blk, ∃ ts, forEach l s (fun s p => setTask s p.1 { p.2 with state := .done, dead := true }) =
      { s with tsk := { s.tsk with tasks := ts } } ∧
    (∀ q ∈ ts, q ∈ s.tsk.tasks ∨ ∃ p ∈ l, q = (p.1, lostTask p.2)) ∧
    (∀ j, (∀ p ∈ l, p.1 ≠ j) → Store.get? ts j = Store.get? s.tsk.tasks j) ∧
    ∀ p ∈ l, (∀ q ∈ l, q.1 = p.1 → q = p) → Store.get? ts p.1 = some (lostTask p.2) := by
  induction l with
  | nil => intro s; exact ⟨s.tsk.tasks, rfl, fun q h => Or.inl h, fun _ _ => rfl, fun p h => by cases h⟩
  | cons a l ih =>
    intro s
    obtain ⟨ts, h1, h2, h3, h4⟩ := ih (setTask s a.1 { a.2 with state := .done, dead := true })
    refine ⟨ts, ?_, fun q hq => ?_, fun j hj => ?_, fun p hp hu => ?_⟩
    · show forEach l _ _ = _
      rw [h1]; rfl
    · rcases h2 q hq with h | ⟨p, hp, e⟩
      · rcases mem_set _ _ _ h with h | h
        · exact Or.inr ⟨a, List.mem_cons_self .., h⟩
        · exact Or.inl h
      · exact Or.inr ⟨p, List.mem_cons_of_mem _ hp, e⟩
    · rw [h3 j (fun p hp => hj p (List.mem_cons_of_mem _ hp))]
      exact get?_set_other _ _ (fun e => hj a (List.mem_cons_self ..) e.symm)
    · by_cases hl : ∃ q ∈ l, q.1 = p.1
      · obtain ⟨q, hq, e⟩ := hl
        have := hu q (List.mem_cons_of_mem _ hq) e
        subst this
        exact h4 q hq (fun x hx => hu x (List.mem_cons_of_mem _ hx))
      · have hpa : p = a := by
          rcases List.mem_cons.mp hp with h | h
          · exact h
          · exact absurd ⟨p, h, rfl⟩ hl
        subst hpa
        rw [h3 _ (fun q hq e => hl ⟨q, hq, e⟩)]
        exact get?_set_same _ _ _

theorem occ_setOcc (s : Blk) (e c n e' c' : Nat) : occ (setOcc s e c n) e' c' = if 4 * e' + c' = 4 * e + c then n else occ s e' c' := by
  unfold occ setOcc
  dsimp only
  split
  · rename_i h; rw [h]; exact getD_put_same _ _ _ _
  · rename_i h; exact getD_put_other _ _ _ h

/-- Words are written off one by one, as long as the purge store has room. -/
theorem written_off_all (l : Store Task) : ∀ s : Blk, ∃ rs hd fs oc, forEach l s (fun s p => (writeOff s (heldOf s p.1 p.2)).2) =
      { s with
        regs := rs, tsk := { s.tsk with held := hd, freeSlots := fs }
        iss := { s.iss with
          occ := oc, purge := s.iss.purge ++ (l.take (1024 - s.iss.purge.length)).map (fun p => heldOf s p.1 p.2) } } ∧
    (∀ k, k ≠ rPurgeFull → rg { s with regs := rs } k = rg s k) ∧
    ∀ e c, Store.getD oc (4 * e + c) 0 = occ s e c -
      (l.take (1024 - s.iss.purge.length)).countP (fun p => 4 * p.2.issuedEng + p.2.cls = 4 * e + c) := by
  induction l with
  | nil =>
    intro s
    refine ⟨s.regs, s.tsk.held, s.tsk.freeSlots, s.iss.occ, ?_, fun _ _ => rfl, fun e c => ?_⟩
    · unfold forEach; simp
    · simp [occ]
  | cons a l ih =>
    intro s
    by_cases hr : s.iss.purge.length < 1024
    · have h1 : ∃ hd fs, (writeOff s (heldOf s a.1 a.2)).2 = { s with
          tsk := { s.tsk with held := hd, freeSlots := fs }
          iss := { s.iss with occ := Store.put 0 s.iss.occ (4 * a.2.issuedEng + a.2.cls) (occ s a.2.issuedEng a.2.cls - 1), purge := s.iss.purge ++ [heldOf s a.1 a.2] } } := by
        unfold writeOff
        rw [if_pos hr]
        dsimp only
        unfold unhold
        split
        · exact ⟨_, _, rfl⟩
        · dsimp only; split
          · exact ⟨_, _, rfl⟩
          · exact ⟨_, _, rfl⟩
      obtain ⟨hd, fs, h1⟩ := h1
      obtain ⟨rs, hd2, fs2, oc, h2, h3, h4⟩ := ih (writeOff s (heldOf s a.1 a.2)).2
      have hlen : 1024 - (s.iss.purge ++ [heldOf s a.1 a.2]).length = 1023 - s.iss.purge.length := by
        rw [List.length_append, List.length_singleton]; omega
      have htake : (a :: l).take (1024 - s.iss.purge.length) = a :: l.take (1023 - s.iss.purge.length) := by
        have : 1024 - s.iss.purge.length = (1023 - s.iss.purge.length) + 1 := by omega
        rw [this, List.take_succ_cons]
      have hf : ∀ p : Nat × Task, heldOf (writeOff s (heldOf s a.1 a.2)).2 p.1 p.2 = heldOf s p.1 p.2 := by intro p; rw [h1]; rfl
      refine ⟨rs, hd2, fs2, oc, ?_, fun k hk => ?_, fun e c => ?_⟩
      · show forEach l _ _ = _
        rw [h2]
        simp only [hf]
        rw [h1]
        dsimp only
        rw [hlen, htake]
        simp
      · have := h3 k hk
        rw [h1] at this
        exact this
      · rw [h4 e c, htake]
        have e1 : (writeOff s (heldOf s a.1 a.2)).2.iss.purge = s.iss.purge ++ [heldOf s a.1 a.2] := by rw [h1]
        have e2 : occ (writeOff s (heldOf s a.1 a.2)).2 e c = if 4 * e + c = 4 * a.2.issuedEng + a.2.cls then
            occ s a.2.issuedEng a.2.cls - 1 else occ s e c := by
          rw [← occ_setOcc]; unfold occ; rw [h1]; rfl
        rw [e1, hlen, e2, List.countP_cons]
        by_cases hk : 4 * e + c = 4 * a.2.issuedEng + a.2.cls
        · have ho : occ s e c = occ s a.2.issuedEng a.2.cls := by unfold occ; rw [hk]
          rw [if_pos hk, ho]
          simp only [hk, decide_true, if_true]
          omega
        · rw [if_neg hk]
          have : ¬ (4 * a.2.issuedEng + a.2.cls = 4 * e + c) := fun h => hk h.symm
          simp only [this, decide_false, Bool.false_eq_true, if_false]
          omega
    · have h1 : (writeOff s (heldOf s a.1 a.2)).2 = bump (holdSlot s (heldOf s a.1 a.2)) rPurgeFull := by
        unfold writeOff; rw [if_neg hr]
      obtain ⟨rs, hd2, fs2, oc, h2, h3, h4⟩ := ih (writeOff s (heldOf s a.1 a.2)).2
      have h0 : 1024 - s.iss.purge.length = 0 := by omega
      have e1 : (writeOff s (heldOf s a.1 a.2)).2.iss = s.iss := by rw [h1]; rfl
      refine ⟨rs, hd2, fs2, oc, ?_, fun k hk => ?_, fun e c => ?_⟩
      · show forEach l _ _ = _
        rw [h2, e1, h0, h1]
        simp only [List.take_zero, List.map_nil, List.append_nil]
        rfl
      · have := h3 k hk
        rw [h1] at this
        refine Eq.trans ?_ (this.trans ?_)
        · exact rg_only rfl rfl k
        · rw [(counted_bump (holdSlot s (heldOf s a.1 a.2)) rPurgeFull).others k hk]; exact rg_only rfl rfl k
      · rw [h4 e c, e1, h0]
        unfold occ; rw [e1]; simp

theorem owed_off_all (l : Store Task) : ∀ s : Blk, ∃ ow,
    forEach l s (fun s p => owedWriteOff s p.1) = { s with ctx := { s.ctx with owed := ow } } ∧
    ∀ p ∈ l, ∀ o ∈ ow, o.what = .completion p.1 → o.evs ≠ [] ∧ o.arrived = true := by
  have one : ∀ (s : Blk) (j : Nat), ∀ o ∈ (owedWriteOff s j).ctx.owed, o.what = .completion j → o.evs ≠ [] ∧ o.arrived = true := by
    intro s j o ho hw
    unfold owedWriteOff at ho
    dsimp only at ho
    rw [List.mem_filterMap] at ho
    obtain ⟨x, _, hx⟩ := ho
    split at hx
    · rename_i h; cases hx; exact absurd hw h
    · split at hx
      · cases hx
      · rename_i h; cases hx; exact ⟨by simpa using h, rfl⟩
  have keep : ∀ (s : Blk) (j i : Nat), (∀ o ∈ s.ctx.owed, o.what = .completion i → o.evs ≠ [] ∧ o.arrived = true) →
      ∀ o ∈ (owedWriteOff s j).ctx.owed, o.what = .completion i → o.evs ≠ [] ∧ o.arrived = true := by
    intro s j i h o ho hw
    unfold owedWriteOff at ho
    dsimp only at ho
    rw [List.mem_filterMap] at ho
    obtain ⟨x, hx0, hx⟩ := ho
    split at hx
    · cases hx; exact h _ hx0 hw
    · split at hx
      · cases hx
      · rename_i h2; cases hx; exact ⟨by simpa using h2, rfl⟩
  have rest : ∀ (l : Store Task) (s : Blk), ∃ ow,
      forEach l s (fun s p => owedWriteOff s p.1) = { s with ctx := { s.ctx with owed := ow } } := by
    intro l
    induction l with
    | nil => intro s; exact ⟨s.ctx.owed, rfl⟩
    | cons a l ih => intro s; obtain ⟨ow, h⟩ := ih (owedWriteOff s a.1); exact ⟨ow, h⟩
  intro s
  obtain ⟨ow, h⟩ := rest l s
  refine ⟨ow, h, ?_⟩
  intro p hp
  have key : ∀ (l : Store Task) (s : Blk), p ∈ l → ∀ o ∈ (forEach l s (fun s p => owedWriteOff s p.1)).ctx.owed,
      o.what = .completion p.1 → o.evs ≠ [] ∧ o.arrived = true := by
    intro l
    induction l with
    | nil => intro s hp; cases hp
    | cons a l ih =>
      intro s hp
      rcases List.mem_cons.mp hp with e | hp
      · subst e
        exact forEach_keeps (P := fun x => ∀ o ∈ x.ctx.owed, o.what = .completion p.1 → o.evs ≠ [] ∧ o.arrived = true)
          _ l (fun x q _ hx => keep x q.1 p.1 hx) _ (one s p.1)
      · exact ih _ hp
  have := key l s hp
  rw [h] at this
  exact this


theorem toFaulted_saf (s : Blk) (c code : Nat) : (Machine.toFaulted s c code).saf = s.saf := by
  unfold Machine.toFaulted
  rw [(Observed.ev _ _ _).rest]
  show (setCtxSt _ _ _).saf = _
  unfold setCtxSt; dsimp only
  rw [(Observed.trace _ _ _ _).rest]; rfl

/-- The logs after a fault against a context: its reaction adds nothing to them. -/
theorem ctxFault_log (x : Blk) (c u code d m : Nat) :
    logOf (ctxFault x c u code d) m = logOf (logFault x (ctxLog c) u code (some c) d false) m := by
  unfold ctxFault ctxFaultA; dsimp only
  split
  · exact logOf_congr (toFaulted_saf _ _ _) m
  · rfl

theorem ctxFault_log_other (x : Blk) (c u code d : Nat) {m : Nat} (h : m ≠ ctxLog c) : logOf (ctxFault x c u code d) m = logOf x m := by
  rw [ctxFault_log]; exact (logged x (ctxLog c) u code (some c) d false).others m h

/-- No task of a context is READY. -/
def NoneReady (c : Nat) (x : Blk) : Prop := ∀ q ∈ x.tsk.tasks, q.2.ctx = c → q.2.state ≠ .ready

theorem drop_all (n : Nat) (l : Store Task) (s : Blk) (hl : ∀ p ∈ l, p ∈ s.tsk.tasks) :
    Steady s (forEach l s (fun s p => dropBinding s n p)) ∧ (forEach l s (fun s p => dropBinding s n p)).saf = s.saf ∧
    (∀ j X, taskOf s j = some X → (∀ q ∈ s.tsk.tasks, q.1 = j → q.2.state ≠ .ready) →
      taskOf (forEach l s (fun s p => dropBinding s n p)) j = some X) ∧
    ∀ c, NoneReady c s → NoneReady c (forEach l s (fun s p => dropBinding s n p)) := by
  have one : ∀ (x : Blk) (p : Nat × Task), (dropBinding x n p).saf = x.saf ∧
      ((dropBinding x n p).tsk = x.tsk ∨ (p.2.state = .ready ∧ (dropBinding x n p).tsk = { x.tsk with
        tasks := Store.set x.tsk.tasks p.1 { p.2 with bound := none, starved := false } })) := by
    intro x p
    unfold dropBinding
    split
    · split
      · rename_i h; simp only [Bool.and_eq_true, beq_iff_eq] at h
        exact ⟨rfl, Or.inr ⟨h.1, rfl⟩⟩
      · exact ⟨rfl, Or.inl rfl⟩
    · exact ⟨rfl, Or.inl rfl⟩
  refine ⟨forEach_keeps (P := Steady s) _ l (fun x p _ hx => hx.trans (Steady.dropBinding x n p)) s (Steady.self s),
    forEach_keeps (P := fun x => x.saf = s.saf) _ l (fun x p _ hx => (one x p).1.trans hx) s rfl, fun j X hX hj => ?_, fun c hc => ?_⟩
  · refine forEach_keeps (P := fun x => taskOf x j = some X) _ l (fun x p hp hx => ?_) s hX
    rcases (one x p).2 with h | ⟨h1, h2⟩
    · unfold taskOf at hx ⊢; rw [h]; exact hx
    · have : j ≠ p.1 := fun e => hj p (hl p hp) e.symm h1
      unfold taskOf at hx ⊢; rw [h2]; dsimp only; rw [get?_set_other _ _ this]; exact hx
  · refine forEach_keeps (P := NoneReady c) _ l (fun x p hp hx => ?_) s hc
    intro q hq hqc
    rcases (one x p).2 with h | ⟨h1, h2⟩
    · rw [h] at hq; exact hx q hq hqc
    · rw [h2] at hq
      rcases mem_set _ _ _ hq with e | e
      · subst e; exact absurd h1 (hc p (hl p hp) hqc)
      · exact hx q e hqc

theorem noEngine_all (l : List Nat) (s : Blk) :
    Steady s (forEach l s noEngine) ∧ (∀ m, m < 16 → logOf (forEach l s noEngine) m = logOf s m) ∧
    (∀ j X, taskOf s j = some X → X.state ≠ .ready → taskOf (forEach l s noEngine) j = some X) ∧
    ∀ c, NoneReady c s → logOf (forEach l s noEngine) (ctxLog c) = logOf s (ctxLog c) := by
  have one : ∀ (x : Blk) (j : Nat), noEngine x j = x ∨ ∃ t, taskOf x j = some t ∧ t.state = .ready ∧
      (∀ m, m ≠ ctxLog t.ctx → logOf (noEngine x j) m = logOf x m) ∧
      (noEngine x j).tsk = { x.tsk with tasks := Store.set x.tsk.tasks j { t with noEngine := true } } := by
    intro x j
    unfold noEngine
    split
    · exact Or.inl rfl
    · rename_i t ht
      split
      · exact Or.inl rfl
      · rename_i h
        simp only [Bool.or_eq_true, decide_eq_true_eq, not_or, Decidable.not_not] at h
        refine Or.inr ⟨t, ht, h.1.2, fun m hm => ?_, ?_⟩
        · rw [ctxFault_log_other _ _ _ _ _ hm, logOf_congr (Observed.saf (Observed.ev _ _ _))]; rfl
        · rw [ctxFault_tsk, (Observed.ev _ _ _).rest]; rfl
  refine ⟨forEach_keeps (P := Steady s) _ l (fun x p _ hx => hx.trans (Steady.noEngine x p)) s (Steady.self s), fun m hm => ?_,
    fun j X hX hr => ?_, fun c hc => ?_⟩
  · refine forEach_keeps (P := fun x => logOf x m = logOf s m) _ l (fun x j _ hx => ?_) s rfl
    rcases one x j with h | ⟨t, _, _, h, _⟩
    · rw [h]; exact hx
    · rw [h m (by unfold ctxLog; omega)]; exact hx
  · refine forEach_keeps (P := fun x => taskOf x j = some X) _ l (fun x i _ hx => ?_) s hX
    rcases one x i with h | ⟨t, ht, hst, _, h⟩
    · rw [h]; exact hx
    · have : j ≠ i := by rintro rfl; rw [hx] at ht; cases ht; exact hr hst
      unfold taskOf at hx ⊢; rw [h]; dsimp only; rw [get?_set_other _ _ this]; exact hx
  · refine (forEach_keeps (P := fun x => logOf x (ctxLog c) = logOf s (ctxLog c) ∧ NoneReady c x) _ l (fun x j _ hx => ?_) s ⟨rfl, hc⟩).1
    rcases one x j with h | ⟨t, ht, hst, h, h2⟩
    · rw [h]; exact hx
    · have htm : (j, t) ∈ x.tsk.tasks := by
        have : ∀ m : Store Task, Store.get? m j = some t → (j, t) ∈ m := by
          intro m
          induction m with
          | nil => intro h; cases h
          | cons a r ih =>
            obtain ⟨k, v⟩ := a
            intro h
            unfold Store.get? at h
            split at h
            · rename_i e; cases h; subst e; exact List.mem_cons_self ..
            · exact List.mem_cons_of_mem _ (ih h)
        exact this _ ht
      have hne : t.ctx ≠ c := fun e => hx.2 _ htm e hst
      refine ⟨by rw [h _ (by unfold ctxLog; omega)]; exact hx.1, fun q hq hqc => ?_⟩
      rw [h2] at hq
      rcases mem_set _ _ _ hq with e | e
      · subst e; exact absurd hqc hne
      · exact hx.2 q e hqc

/-- The faults of the contexts concerned, one each. -/
theorem faults_all (u code : Nat) (D : Nat → Nat) (l : List Nat) (hn : l.Nodup) : ∀ s : Blk,
    Steady s (forEach l s (fun s c => ctxFault s c u code (D c))) ∧ (forEach l s (fun s c => ctxFault s c u code (D c))).tsk = s.tsk ∧
    (∀ m, (∀ c ∈ l, m ≠ ctxLog c) → logOf (forEach l s (fun s c => ctxFault s c u code (D c))) m = logOf s m) ∧
    ∀ c ∈ l, c < 256 → logOf (forEach l s (fun s c => ctxFault s c u code (D c))) (ctxLog c) =
      (logOf s (ctxLog c)).add 7 (faultEnt s u code (some c) (D c) false) := by
  induction l with
  | nil => intro s; exact ⟨Steady.self s, rfl, fun _ _ => rfl, fun c h => by cases h⟩
  | cons a l ih =>
    intro s
    obtain ⟨h1, h2, h3, h4⟩ := ih (List.nodup_cons.mp hn).2 (ctxFault s a u code (D a))
    have hna := (List.nodup_cons.mp hn).1
    have hS := Steady.ctxFault s a u code (D a)
    have hL := logged s (ctxLog a) u code (some a) (D a) false
    refine ⟨hS.trans h1, h2.trans (ctxFault_tsk _ _ _ _ _), fun m hm => ?_, fun c hc h256 => ?_⟩
    · show logOf (forEach l _ _) m = _
      rw [h3 m (fun c hc => hm c (List.mem_cons_of_mem _ hc)), ctxFault_log, hL.others _ (hm a (List.mem_cons_self ..))]
    · show logOf (forEach l _ _) (ctxLog c) = _
      rcases List.mem_cons.mp hc with e | hc'
      · subst e
        rw [h3 _ (fun d hd e => hna (by have : c = d := by unfold ctxLog at e; omega
                                        rw [this]; exact hd)), ctxFault_log, hL.entry]
        rw [if_neg (by unfold ctxLog; omega)]
      · have hne : c ≠ a := fun e => hna (e ▸ hc')
        rw [h4 c hc' h256, ctxFault_log, hL.others _ (by unfold ctxLog; omega)]
        have : faultEnt (ctxFault s a u code (D a)) u code (some c) (D c) false = faultEnt s u code (some c) (D c) false := by
          unfold faultEnt now
          rw [hS.time]
          simp only [Option.map_some, Option.getD_some]
          rw [hS.gen, hS.strict c h256]
        rw [this]


/-- The words of a pair's tasks have been written off (R375): the block up to there. -/
structure WordsOff (s x : Blk) (n : Nat) (I : Store Task) : Prop where
  rip : Store.get? x.ports.rip n = (Store.get? s.ports.rip n).map (fun o => { o with writtenOff := true })
  from_ : ∀ q ∈ x.tsk.tasks, q ∈ s.tsk.tasks ∨ ∃ p ∈ I, q = (p.1, lostTask p.2)
  tasks : ∀ p ∈ I, (∀ q ∈ I, q.1 = p.1 → q = p) → taskOf x p.1 = some (lostTask p.2)
  owed : ∀ p ∈ I, ∀ o ∈ x.ctx.owed, o.what = .completion p.1 → o.evs ≠ [] ∧ o.arrived = true
  saf : x.saf = s.saf
  time : x.time = s.time
  gen : ∀ d, ctxGen x d = ctxGen s d
  strict : ∀ d, d < 256 → isStrict x d = isStrict s d
  fail : rg x rRegionFail = rg s rRegionFail ||| 2 ^ n
  purge : x.iss.purge = s.iss.purge ++ (I.take (1024 - s.iss.purge.length)).map (fun p => heldOf s p.1 p.2)
  occ : ∀ e c, occ x e c = occ s e c -
      (I.take (1024 - s.iss.purge.length)).countP (fun p => 4 * p.2.issuedEng + p.2.cls = 4 * e + c)

/-- The steps of `regionGoesOut` up to the offer on the port. -/
def wordsOff (s : Blk) (n : Nat) (I : Store Task) : Blk :=
  let s := forEach I s (fun s p => setTask s p.1 { p.2 with state := .done, dead := true })
  let s := forEach I s (fun s p => (writeOff s (heldOf s p.1 p.2)).2)
  let s := forEach I s (fun s p => finalEv s { p.2 with dead := true } .done)
  let s := forEach I s (fun s p => owedWriteOff s p.1)
  match Store.get? s.ports.rip n with
  | some o => { s with ports := { s.ports with rip := Store.set s.ports.rip n { o with writtenOff := true } } }
  | none => s

theorem words_off {s : Blk} {n : Nat} (h16 : n < 16) (I : Store Task) : WordsOff s (wordsOff (orBits s rRegionFail (2 ^ n)) n I) n I := by
  generalize hs0 : orBits s rRegionFail (2 ^ n) = s0
  have e0 : s0 = { s with regs := s0.regs } := by rw [← hs0]; rfl
  have r0 : rg s0 rRegionFail = rg s rRegionFail ||| 2 ^ n := by
    rw [← hs0]; exact (onlyReg_or s _ _ (Nat.pow_lt_pow_right (by decide) (by omega))).value
  have r0' : ∀ k, k ≠ rRegionFail → rg s0 k = rg s k := by intro k hk; rw [← hs0]; exact rg_wr_other _ _ hk
  have t0 : s0.tsk = s.tsk := by rw [e0]
  have i0 : s0.iss = s.iss := by rw [e0]
  have x0 : s0.ports = s.ports ∧ s0.saf = s.saf ∧ s0.time = s.time ∧ s0.ctx = s.ctx := by rw [e0]; exact ⟨rfl, rfl, rfl, rfl⟩
  clear hs0 e0
  unfold wordsOff
  dsimp only
  obtain ⟨ts, h1, m1, o1, u1⟩ := ended_all I s0
  rw [h1]
  clear h1
  obtain ⟨rs, hd, fs, oc, h2, k2, c2⟩ := written_off_all I { s0 with tsk := { s0.tsk with tasks := ts } }
  rw [h2]
  clear h2
  have held1 : ∀ p : Nat × Task, heldOf { s0 with tsk := { s0.tsk with tasks := ts } } p.1 p.2 = heldOf s p.1 p.2 := by
    intro p; unfold heldOf stampOf; dsimp only; rw [t0]
  simp only [held1]
  generalize hs2 : ({ s0 with
        regs := rs, tsk := { s0.tsk with tasks := ts, held := hd, freeSlots := fs }
        iss := { s0.iss with
          occ := oc, purge := s0.iss.purge ++ (I.take (1024 - s0.iss.purge.length)).map (fun p => heldOf s p.1 p.2) } } : Blk) = s2
  have x2 : s2.ports = s.ports ∧ s2.saf = s.saf ∧ s2.time = s.time ∧ s2.ctx = s.ctx := by subst hs2; exact x0
  have t2 : s2.tsk.tasks = ts := by subst hs2; rfl
  have p2 : s2.iss.purge = s.iss.purge ++ (I.take (1024 - s.iss.purge.length)).map (fun p => heldOf s p.1 p.2) := by
    subst hs2; show s0.iss.purge ++ (I.take (1024 - s0.iss.purge.length)).map _ = _
    have e := congrArg Iss.purge i0
    simp only [e]
  have oc2 : s2.iss.occ = oc := by subst hs2; rfl
  have g2 : ∀ k, k ≠ rPurgeFull → rg s2 k = rg s0 k := by
    intro k hk; subst hs2; exact Eq.trans (rg_only rfl rfl k) ((k2 k hk).trans (rg_only rfl rfl k))
  clear hs2
  have o3 : Observed s2 (forEach I s2 (fun s p => finalEv s { p.2 with dead := true } .done)) :=
    Observed.forEach _ _ (fun x p _ => finalEv_obs _ _ _) _
  generalize forEach I s2 (fun s p => finalEv s { p.2 with dead := true } .done) = s3 at o3
  have x3 : s3.ports = s.ports ∧ s3.saf = s.saf ∧ s3.time = s.time ∧ s3.ctx = s.ctx ∧ s3.tsk = s2.tsk ∧ s3.iss = s2.iss := by
    rw [o3.rest]; exact ⟨x2.1, x2.2.1, x2.2.2.1, x2.2.2.2, rfl, rfl⟩
  have g3 : ∀ k, unitKey k → k ≠ rPurgeFull → rg s3 k = rg s0 k := fun k hk hp => (o3.regs k hk).trans (g2 k hp)
  clear o3
  obtain ⟨ow, h4, w4⟩ := owed_off_all I s3
  rw [h4]
  clear h4
  generalize hs4 : ({ s3 with ctx := { s3.ctx with owed := ow } } : Blk) = s4
  have x4 : s4.ports = s.ports ∧ s4.saf = s.saf ∧ s4.time = s.time ∧ s4.ctx.slots = s.ctx.slots ∧ s4.tsk = s2.tsk ∧ s4.iss = s2.iss ∧
      s4.ctx.owed = ow := by
    subst hs4; exact ⟨x3.1, x3.2.1, x3.2.2.1, by dsimp only; rw [x3.2.2.2.1], x3.2.2.2.2.1, x3.2.2.2.2.2, rfl⟩
  have g4 : ∀ k, unitKey k → k ≠ rPurgeFull → rg s4 k = rg s0 k := by
    intro k hk hp; subst hs4; exact (rg_only rfl rfl k).trans (g3 k hk hp)
  clear hs4
  have fin : ∀ x : Blk, (∃ p, x = { s4 with ports := p }) →
      Store.get? x.ports.rip n = (Store.get? s.ports.rip n).map (fun o => { o with writtenOff := true }) →
      WordsOff s x n I := by
    rintro x ⟨p, rfl⟩ hr
    refine ⟨hr, fun q hq => ?_, fun p hp hu => ?_, fun p hp o ho => ?_, x4.2.1, x4.2.2.1, fun d => ?_, fun d hd => ?_, ?_, ?_,
        fun e c => ?_⟩
    · have hq : q ∈ s4.tsk.tasks := hq
      rw [x4.2.2.2.2.1, t2] at hq
      rcases m1 q hq with h | h
      · left; rw [← t0]; exact h
      · exact Or.inr h
    · show Store.get? s4.tsk.tasks _ = _
      rw [x4.2.2.2.2.1, t2]; exact u1 p hp hu
    · have ho : o ∈ s4.ctx.owed := ho
      rw [x4.2.2.2.2.2.2] at ho; exact w4 p hp o ho
    · unfold ctxGen slotOf; dsimp only; rw [x4.2.2.2.1]
    · have hk := Steady.strictKey hd
      have e : rStrict = 0x160040 := rfl
      unfold isStrict rgb rgw
      have a : ∀ k, rg { s4 with ports := p } k = rg s4 k := fun k => rg_only rfl rfl k
      rw [a, g4 _ (by right; left; omega) (by show _ ≠ 0x120120; omega), r0' _ (by show _ ≠ 0x110; omega)]
    · have a : ∀ k, rg { s4 with ports := p } k = rg s4 k := fun k => rg_only rfl rfl k
      rw [a, g4 _ (by unfold unitKey; decide) (by decide), r0]
    · show s4.iss.purge = _
      rw [x4.2.2.2.2.2.1, p2]
    · have a : Machine.occ { s4 with ports := p } e c = Store.getD oc (4 * e + c) 0 := by
        unfold Machine.occ; dsimp only; rw [x4.2.2.2.2.2.1, oc2]
      rw [a, c2]
      unfold Machine.occ; dsimp only; rw [i0]
  cases h : Store.get? s4.ports.rip n with
  | none => exact fin _ ⟨s4.ports, rfl⟩ (by rw [h]; rw [x4.1] at h; rw [h]; rfl)
  | some o => exact fin _ ⟨_, rfl⟩ (by dsimp only; rw [get?_set_same]; rw [x4.1] at h; rw [h]; rfl)


/-- What `regionGoesOut` does once the words are off. -/
def pairTail (s : Blk) (n cause : Nat) (I : Store Task) (k : Nat) (D : Nat → Nat) : Blk :=
  let s := forEach (s.tsk.tasks.filter (fun p => p.2.bound.isSome)) s (fun s p => dropBinding s n p)
  let s := forEach (Store.keys (s.tsk.tasks.filter (fun p => p.2.state == .ready))) s noEngine
  let s := logFault s uIss uIss 0x20 none (pairDetail n cause k) true
  let s := forEach (I.map (fun p => p.2.ctx)).eraseDups s (fun s c => ctxFault s c uIss 0x20 (D c))
  raiseAlarm (push s (I.map (fun p => Work.succs p.1 true))) aRegion 0x20 0

theorem goesOut_eq {s : Blk} {n : Nat} (cause : Nat) (hn : regionOut s n = false) : regionGoesOut s n cause =
    pairTail (wordsOff (orBits s rRegionFail (2 ^ n)) n (issuedOn s n)) n cause (issuedOn s n) ((issuedOn s n).take (1024 - s.iss.purge.length)).length
      (fun c => pairDetail n cause ((((issuedOn s n).take (1024 - s.iss.purge.length)).filter (fun p => p.2.ctx == c)).length)) := by
  unfold regionGoesOut
  rw [if_neg (by simp [hn])]
  rfl

theorem pair_tail {s x : Blk} {n : Nat} (cause k : Nat) {I : Store Task} (D : Nat → Nat) (h : WordsOff s x n I)
    (hI : ∀ p ∈ I, p ∈ s.tsk.tasks ∧ p.2.state = .issued) :
    let b := pairTail x n cause I k D
    rg b rRegionFail = rg s rRegionFail ||| 2 ^ n ∧ (rg b rAlarmCause).testBit 6 = true ∧
    (∀ p ∈ I, (∀ q ∈ s.tsk.tasks, q.1 = p.1 → q = p) → taskOf b p.1 = some (lostTask p.2)) ∧
    (∀ p ∈ I, .succs p.1 true ∈ b.work ∧ ∀ o ∈ b.ctx.owed, o.what = .completion p.1 → o.evs ≠ [] ∧ o.arrived = true) ∧
    b.iss = x.iss ∧ b.ports = x.ports ∧
    logOf b uIss = (logOf s uIss).add 15 (faultEnt s uIss 0x20 none (pairDetail n cause k) true) ∧
    (∀ p ∈ I, p.2.ctx < 256 → (∀ q ∈ s.tsk.tasks, q.2.ctx = p.2.ctx → q.2.state ≠ .ready) →
      logOf b (ctxLog p.2.ctx) = (logOf s (ctxLog p.2.ctx)).add 7 (faultEnt s uIss 0x20 (some p.2.ctx) (D p.2.ctx) false)) := by
  unfold pairTail
  dsimp only
  obtain ⟨d1, d2, d3, d4⟩ := drop_all n (x.tsk.tasks.filter (fun p => p.2.bound.isSome)) x (fun p hp => List.mem_of_mem_filter hp)
  generalize forEach (x.tsk.tasks.filter (fun p => p.2.bound.isSome)) x (fun s p => dropBinding s n p) = s6 at d1 d2 d3 d4 ⊢
  obtain ⟨n1, n2, n3, n4⟩ := noEngine_all (Store.keys (s6.tsk.tasks.filter (fun p => p.2.state == .ready))) s6
  generalize forEach (Store.keys (s6.tsk.tasks.filter (fun p => p.2.state == .ready))) s6 noEngine = s7 at n1 n2 n3 n4 ⊢
  have L8 := logged s7 uIss uIss 0x20 none (pairDetail n cause k) true
  generalize logFault s7 uIss uIss 0x20 none (pairDetail n cause k) true = s8 at L8 ⊢
  have hnd : (I.map (fun p => p.2.ctx)).eraseDups.Nodup := nodup_eraseDups _ _ (Nat.le_refl _)
  obtain ⟨f1, f2, f3, f4⟩ := faults_all uIss 0x20 D (I.map (fun p => p.2.ctx)).eraseDups hnd s8
  generalize forEach (I.map (fun p => p.2.ctx)).eraseDups s8 (fun s c => ctxFault s c uIss 0x20 (D c)) = s9 at f1 f2 f3 f4 ⊢
  have S7 := d1.trans n1
  have S8 := S7.trans (Steady.logged L8)
  have S9 := S8.trans f1
  have S10 := S9.trans (Steady.push s9 (I.map (fun p => Work.succs p.1 true)))
  have pw : ∀ p ∈ I, Work.succs p.1 true ∈ (push s9 (I.map (fun p => Work.succs p.1 true))).work :=
    fun p hp => List.mem_append_left _ (List.mem_map.mpr ⟨p, hp, rfl⟩)
  have ps : (push s9 (I.map (fun p => Work.succs p.1 true))).saf = s9.saf := rfl
  have pt : (push s9 (I.map (fun p => Work.succs p.1 true))).tsk = s9.tsk := rfl
  generalize push s9 (I.map (fun p => Work.succs p.1 true)) = s10 at S10 pw ps pt ⊢
  have R := raised s10 aRegion 0x20 0 (by decide)
  have safb : (raiseAlarm s10 aRegion 0x20 0).saf = s9.saf := (raiseAlarm_saf _ _ _ _).trans ps
  generalize raiseAlarm s10 aRegion 0x20 0 = b at R safb ⊢
  have S11 := S10.trans (Steady.raised R)
  have tskb : b.tsk = s9.tsk := by rw [R.rest]; exact pt
  have now7 : now s7 = now s := by unfold now; rw [S7.time, h.time]
  refine ⟨by rw [S11.fail, h.fail], ?_, fun p hp hu => ?_, fun p hp => ⟨(Steady.raised R).work _ (pw p hp),
      fun o ho => h.owed p hp o (S11.owed o ho)⟩,
    S11.iss, S11.ports, ?_, fun p hp h256 hr => ?_⟩
  · rw [R.cause, Nat.testBit_or]
    exact Bool.or_eq_true_iff.mpr (Or.inr (by decide))
  · obtain ⟨hps, hst⟩ := hI p hp
    have n5 : ∀ q ∈ x.tsk.tasks, q.1 = p.1 → q.2.state ≠ .ready := by
      intro q hq e
      rcases h.from_ q hq with h | ⟨y, _, e2⟩
      · rw [hu q h e, hst]; decide
      · rw [e2]; show TaskState.done ≠ .ready; decide
    have a7 := n3 p.1 _ (d3 p.1 _ (h.tasks p hp (fun q hq e => hu q (hI q hq).1 e)) n5) (by show TaskState.done ≠ .ready; decide)
    unfold taskOf at a7 ⊢
    rw [tskb, f2, L8.rest]
    exact a7
  · rw [logOf_congr safb, f3 uIss (fun c _ => by unfold ctxLog uIss; omega), L8.entry, n2 uIss (by decide), logOf_congr d2,
      logOf_congr h.saf, if_pos (by decide)]
    have : faultEnt s7 uIss 0x20 none (pairDetail n cause k) true = faultEnt s uIss 0x20 none (pairDetail n cause k) true := by
      unfold faultEnt; rw [now7]; rfl
    rw [this]
  · have hc : p.2.ctx ∈ (I.map (fun p => p.2.ctx)).eraseDups := by rw [List.mem_eraseDups]; exact List.mem_map.mpr ⟨p, hp, rfl⟩
    have nr5 : NoneReady p.2.ctx x := by
      intro q hq hqc
      rcases h.from_ q hq with h | ⟨y, _, e2⟩
      · exact hr q h hqc
      · rw [e2]; show TaskState.done ≠ .ready; decide
    rw [logOf_congr safb, f4 _ hc h256, L8.others _ (by unfold ctxLog uIss; omega), n4 _ (d4 _ nr5), logOf_congr d2, logOf_congr h.saf]
    have : faultEnt s8 uIss 0x20 (some p.2.ctx) (D p.2.ctx) false = faultEnt s uIss 0x20 (some p.2.ctx) (D p.2.ctx) false := by
      unfold faultEnt now
      rw [S8.time, h.time]
      simp only [Option.map_some, Option.getD_some]
      rw [S8.gen, h.gen, S8.strict _ h256, h.strict _ h256]
    rw [this]

/-- A pair that leaves service (R375). -/
theorem pair_gone {s : Blk} {n : Nat} (cause : Nat) (hn : regionOut s n = false) (h16 : n < 16) :
    PairGone s (regionGoesOut s n cause) n cause := by
  have hI : ∀ p ∈ issuedOn s n, p ∈ s.tsk.tasks ∧ p.2.state = .issued := by
    intro p hp
    have h := List.mem_filter.mp hp
    have h2 := h.2
    simp only [Bool.and_eq_true, beq_iff_eq] at h2
    exact ⟨h.1, h2.1⟩
  have W := words_off (s := s) h16 (issuedOn s n)
  rw [goesOut_eq cause hn]
  have T := pair_tail cause ((issuedOn s n).take (1024 - s.iss.purge.length)).length
    (fun c => pairDetail n cause ((((issuedOn s n).take (1024 - s.iss.purge.length)).filter (fun p => p.2.ctx == c)).length)) W hI
  dsimp only at T
  generalize pairTail _ n cause (issuedOn s n) _ _ = b at T
  obtain ⟨t1, t2, t3, t4, t5, t6, t7, t8⟩ := T
  refine ⟨t1, t2, fun p hp hu => ⟨t3 p hp hu, t4 p hp⟩, by rw [t5]; exact W.purge, fun e c => ?_, ?_, fun p hp h256 hr => ?_,
      by rw [t6]; exact W.rip⟩
  · rw [← W.occ e c]; unfold occ; rw [t5]
  · rw [t7, List.length_take, Nat.min_comm]
  · rw [t8 p hp h256 hr, List.countP_eq_length_filter]; rfl

end Sys2Proof.Machine
end

