-- ==== Sys2Proof/Laws/Nib.lean ====
section
/-! SUPPORT. The Nib: the grant of the issue point, commands that begin, branches and joints. -/
namespace Sys2Proof.Machine

/-- The counting of a contested grant leaves what `Granted` speaks of (R297). -/
theorem contested_grants {s u : Blk} {q : Nat} (x : Nat) (w : List Nat) (h : Granted s u q) : Granted s (contested u x w) q := by
  have c := contested_slots u x w
  generalize contested u x w = t at c
  refine ⟨?_, fun y => ?_, fun e => ?_⟩
  · rw [c.1, h.rest]
  · rw [c.2 y]
    split
    · exact congrArg (fun v => { v with tcc := min ((slotOf u y).tcc + 1) (2 ^ 48 - 1) }) (h.slots y)
    · exact h.slots y
  · rw [c.1]; exact h.last e

theorem granted_serve (s : Blk) (q : Nat) (ws : List Nat) : Granted s (serve s q ws) q := by
  unfold serve
  by_cases h : ruledLive s (sqCtx s q) = true
  · rw [if_pos h]
    exact contested_grants _ _ ⟨rfl, fun _ => rfl, fun e => by rw [h] at e; exact Bool.noConfusion e⟩
  · rw [if_neg h]
    refine contested_grants _ _ (contested_grants _ _ ⟨rfl, fun _ => rfl, fun _ => ?_⟩)
    unfold Store.getD; simp

namespace Granted
variable {s t : Blk} {q : Nat}

theorem queues (h : Granted s t q) : t.csq.queues = s.csq.queues := by rw [h.rest]

theorem queueOf (h : Granted s t q) (x : Nat) : queueOf t x = queueOf s x := by
  unfold Machine.queueOf; rw [h.queues]

theorem rg (h : Granted s t q) (k : Nat) : rg t k = rg s k := by rw [h.rest]; rfl

theorem rgf (h : Granted s t q) (k x y : Nat) : rgf t k x y = rgf s k x y := by rw [h.rest]; rfl

theorem rgb (h : Granted s t q) (k x : Nat) : rgb t k x = rgb s k x := by rw [h.rest]; rfl

theorem rg2 (h : Granted s t q) (k x : Nat) : rg2 t k x = rg2 s k x := by rw [h.rest]; rfl

theorem sqCtx (h : Granted s t q) (x : Nat) : sqCtx t x = sqCtx s x := h.rgf _ _ _

theorem sqPriv (h : Granted s t q) (x : Nat) : sqPriv t x = sqPriv s x := h.rgb _ _

theorem now (h : Granted s t q) : now t = now s := by rw [h.rest]; rfl

theorem sqtOf (h : Granted s t q) (x : Nat) : sqtOf t x = sqtOf s x := by rw [h.rest]; rfl

theorem tsk (h : Granted s t q) : t.tsk = s.tsk := by rw [h.rest]

theorem ctxGen (h : Granted s t q) (c : Nat) : ctxGen t c = ctxGen s c := by unfold Machine.ctxGen; rw [h.slots c]

theorem brk (h : Granted s t q) : t.csq.brkHit = s.csq.brkHit ∧ t.csq.brkMode = s.csq.brkMode ∧ t.csq.brkCtx = s.csq.brkCtx ∧
    t.csq.brkQueue = s.csq.brkQueue := by rw [h.rest]; exact ⟨rfl, rfl, rfl, rfl⟩

theorem brkHit (h : Granted s t q) (v : Queue) (w : Word256) : brkHit t q v w = brkHit s q v w := by rw [h.rest]; rfl

theorem front (h : Granted s t q) (w : Word256) : frontCheck t q w = frontCheck s q w := by rw [h.rest]; rfl
end Granted

theorem brkTest_goes {s : Blk} {q : Nat} {w : Word256}
    (h : (queueOf s q).passBrk = true ∨ ((brkHolds s (sqCtx s q) = true → q = s.csq.brkQueue) ∧ (queueOf s q).stepArm = false ∧
    brkHit s q (queueOf s q) w = none)) : brkTest s q w = (true, s) := by
  unfold brkTest
  rcases h with h | ⟨h1, h2, h3⟩
  · exact if_pos h
  · by_cases hp : (queueOf s q).passBrk = true
    · exact if_pos hp
    · refine (if_neg hp).trans ((if_neg ?_).trans ?_)
      · intro e
        simp only [Bool.and_eq_true, decide_eq_true_eq] at e
        exact e.2 (h1 e.1)
      · dsimp only
        rw [h2, h3]; rfl

/-- A command that begins runs, on the block that has granted it. -/
theorem execCmd_begins {s : Blk} {q : Nat} {w : Word256} (h : Begins s q w) {op : Nat} (ho : cOp w = op)
    (ws : List Nat) (run : Blk → Word256 → Bool → Blk) :
    Granted s (serve s q ws) q ∧ execCmd s q op ws run = run (serve s q ws) w (queueOf s q).passBrk := by
  have g := granted_serve s q ws
  refine ⟨g, ?_⟩
  unfold execCmd
  rw [h.word]
  refine (if_pos ho).trans ?_
  unfold beginCmd
  generalize serve s q ws = t at g
  rw [brkTest_goes (s := t) (q := q) (w := w), g.queueOf]
  · dsimp only
    rw [g.front, h.sound]
  · rw [g.queueOf, g.brkHit]
    unfold brkHolds
    rw [g.sqCtx, g.brk.1, g.brk.2.1, g.brk.2.2.1, g.brk.2.2.2]
    exact h.goes

/-- The one way a command of the Nib that begins is proved to do what it does. -/
theorem runs_nib {c : Instr} {s : State} {q op : Nat} {w : Word256} {ws : List Nat} {run : Blk → Nat → Word256 → Blk} {P : Blk → Blk → Prop}
    (hc : exec c s = nibCmd q op ws run s) (h : Begins s.blk q w) (ho : cOp w = op)
    (hp : ∀ t, Granted s.blk t q → P t (run t q w)) : Runs c s q P := by
  obtain ⟨g, e⟩ := execCmd_begins h ho ws (fun b w _ => run b q w)
  refine updates_act hc (by unfold ready; exact h.csq) ⟨serve s.blk q ws, g, ?_⟩
  rw [e]
  exact hp _ g

theorem setQ_setQ {s : Blk} {q : Nat} {a b : Queue} (ha : a ≠ {}) (hb : b ≠ {}) : setQ (setQ s q a) q b = setQ s q b := by
  have : Store.put {} (Store.put {} s.csq.queues q a) q b = Store.put {} s.csq.queues q b := by
    unfold Store.put; rw [if_neg ha, if_neg hb, if_neg hb, set_set]
  unfold setQ
  dsimp only
  rw [this]

theorem queueOf_setQ (s : Blk) (q : Nat) (v : Queue) : queueOf (setQ s q v) q = v := by
  unfold queueOf setQ; simp

theorem setQ_rg (s : Blk) (q : Nat) (v : Queue) (k : Nat) : rg (setQ s q v) k = rg s k := rfl

theorem branchTo_eq (v : Queue) (w : Word256) : branchTo v w = (((v.pc : Int) + offOf w) % 2 ^ 52).toNat := by
  unfold branchTo
  refine Nat.mod_eq_of_lt ?_
  omega

theorem takeBranch_cases (t : Blk) (q : Nat) (w : Word256) (upd : Queue → Queue) (hu : (upd (queueOf t q)).stack = (queueOf t q).stack)
    (hb : (upd (queueOf t q)).backj = (queueOf t q).backj) :
    let v := queueOf t q
    let max := rg t rLoopMax
    let target := ((v.pc : Int) + offOf w) % 2 ^ 52
    (v.stack = [] → takeBranch t q w upd = haltCmd t q w 0x31) ∧
    (v.stack ≠ [] → 0 < offOf w → takeBranch t q w upd =
        retire (setQ t q (upd v)) q { word := w, pc := v.pc, act := .jump target.toNat }) ∧
    (v.stack ≠ [] → offOf w ≤ 0 → max ≠ 0 → max < v.backj + 1 → takeBranch t q w upd = haltCmd t q w 0x32) ∧
    (v.stack ≠ [] → offOf w ≤ 0 → (max = 0 ∨ v.backj + 1 ≤ max) → ∃ u,
        Observed (setQ t q { upd v with backj := v.backj + 1 }) u ∧
        takeBranch t q w upd = retire u q { word := w, pc := v.pc, act := .jump target.toNat }) := by
  intro v max target
  have ne : ∀ {l : List Nat}, l ≠ [] → ¬ l.isEmpty = true := fun h => by simpa using h
  refine ⟨fun h => ?_, fun h h2 => ?_, fun h h2 h3 h4 => ?_, fun h h2 h3 => ?_⟩
  · unfold takeBranch; exact if_pos (by simp [show (queueOf t q).stack = [] from h])
  · unfold takeBranch
    refine (if_neg (ne h)).trans ?_
    have : decide (offOf w ≤ 0) = false := by simp; omega
    dsimp only
    rw [this, branchTo_eq]; rfl
  · unfold takeBranch
    refine (if_neg (ne h)).trans ?_
    refine if_pos ?_
    simp only [Bool.and_eq_true, decide_eq_true_eq]
    exact ⟨⟨h2, by simpa using h3⟩, h4⟩
  · refine ⟨ev (modQ (modQ t q upd) q (fun v => { v with backj := v.backj + 1 })) 0xcf (sqCtx (modQ t q upd) q), ?_, ?_⟩
    · refine Observed.trans ?_ (Observed.ev _ _ _)
      unfold modQ
      rw [queueOf_setQ, setQ_setQ]
      · dsimp only; rw [hb]; exact Observed.self _
      · intro e; exact h (hu.symm.trans (congrArg Queue.stack e))
      · intro e; exact h (hu.symm.trans (congrArg Queue.stack e))
    · unfold takeBranch
      refine (if_neg (ne h)).trans ((if_neg ?_).trans ?_)
      · simp only [Bool.and_eq_true, decide_eq_true_eq, not_and]
        intro ⟨_, e⟩
        rcases h3 with h3 | h3
        · have : (rg t rLoopMax) = 0 := h3
          simp [this] at e
        · exact Nat.not_lt.mpr h3
      · have : decide (offOf w ≤ 0) = true := by simpa using h2
        dsimp only
        rw [this, branchTo_eq]; rfl

theorem Granted.jointFired {s t : Blk} {q : Nat} (h : Granted s t q) (j : Nat) : jointFired t j = jointFired s j := by
  unfold Machine.jointFired jointOf; rw [h.tsk]

theorem Granted.isEndJoint {s t : Blk} {q : Nat} (h : Granted s t q) (j : Nat) : isEndJoint t j = isEndJoint s j := by
  unfold Machine.isEndJoint; rw [h.tsk]

theorem Granted.free {s t : Blk} {q : Nat} (h : Granted s t q) : t.free = s.free := by rw [h.rest]

theorem queueOf_setQ_other (s : Blk) {q x : Nat} (v : Queue) (h : x ≠ q) : queueOf (setQ s q v) x = queueOf s x := by
  unfold queueOf setQ; exact getD_put_other _ _ _ h

theorem get?_filter {α : Type} (m : Store α) (p : Nat → Bool) (k : Nat) :
    Store.get? (m.filter (fun x => p x.1)) k = if p k then Store.get? m k else none := by
  induction m with
  | nil => simp [Store.get?]
  | cons x r ih =>
    obtain ⟨a, v⟩ := x
    by_cases h : p a = true
    · rw [List.filter_cons_of_pos (by simpa using h)]
      simp only [Store.get?]
      by_cases e : a = k
      · subst e; simp [h]
      · simp only [e, if_false]; exact ih
    · rw [List.filter_cons_of_neg (by simpa using h)]
      simp only [Store.get?]
      by_cases e : a = k
      · subst e; rw [ih]; simp [h]
      · simp only [e, if_false]; exact ih

theorem jointFreed (t : Blk) (q j : Nat) : JointFreed t (dropJoint t q j) q j := by
  refine ⟨rfl, queueOf_setQ _ _ _, fun x h => queueOf_setQ_other _ _ h, fun i => ?_⟩
  unfold dropJoint giveJoints jointOf
  dsimp only
  refine (get?_filter _ (fun i => !(List.contains [j] i)) i).trans ?_
  by_cases h : i = j <;> simp [h]; rfl

theorem foldl_add_init (l : List Nat) (a : Nat) : l.foldl (· + ·) a = l.foldl (· + ·) 0 + a := by
  induction l generalizing a with
  | nil => simp
  | cons x r ih => rw [List.foldl_cons, List.foldl_cons, ih (a + x), ih (0 + x)]; omega

theorem takeRun_of_placeAt : ∀ (rs : List (Nat × Nat)) (i : Nat), i < placesFor rs 1 →
    ∃ b, placeAt rs 1 i = some b ∧ ∃ r ∈ rs, r.1 ≤ b ∧
    b < r.1 + r.2 := by
  intro rs
  induction rs with
  | nil => intro i h; simp [placesFor] at h
  | cons x r ih =>
    intro i h
    obtain ⟨a, l⟩ := x
    have hp : placesFor ((a, l) :: r) 1 = (if l < 1 then 0 else l + 1 - 1) + placesFor r 1 := by
      unfold placesFor; rw [List.map_cons, List.foldl_cons, foldl_add_init, Nat.zero_add, Nat.add_comm]
    rw [hp] at h
    unfold placeAt
    dsimp only
    by_cases hl : l < 1
    · rw [if_pos hl] at h ⊢
      obtain ⟨b, h1, y, hy, h2⟩ := ih i (by omega)
      exact ⟨b, h1, y, by simp [hy], h2⟩
    · rw [if_neg hl] at h ⊢
      by_cases hi : i < l + 1 - 1
      · rw [if_pos hi]
        exact ⟨_, rfl, (a, l), by simp, by simp, by simp; omega⟩
      · rw [if_neg hi]
        obtain ⟨b, h1, y, hy, h2⟩ := ih (i - (l + 1 - 1)) (by omega)
        exact ⟨b, h1, y, by simp [hy], h2⟩

theorem placesFor_one (rs : List (Nat × Nat)) : placesFor rs 1 = runTotal rs := by
  unfold placesFor runTotal
  congr 1
  apply List.map_congr_left
  intro r _
  split <;> omega

theorem takeJoints_one (s : Blk) (h : runTotal s.tsk.freeJoints ≠ 0) : ∃ j f, (∃ r ∈ s.tsk.freeJoints, r.1 ≤ j ∧ j < r.1 + r.2) ∧
    takeJoints s 1 = (some [j], { s with free := f, tsk := { s.tsk with freeJoints := takeRun s.tsk.freeJoints j 1 } }) := by
  rw [← placesFor_one] at h
  obtain ⟨h1, f, h2⟩ := choose_lt s (placesFor s.tsk.freeJoints 1) (by omega)
  obtain ⟨b, h3, h4⟩ := takeRun_of_placeAt _ _ h1
  refine ⟨b, f, h4, ?_⟩
  unfold takeJoints chooseRuns
  rw [if_neg (by decide)]
  dsimp only
  rw [if_neg h]
  dsimp only
  rw [h3, h2]
  rfl

theorem jointTaken (t : Blk) (q : Nat) (w : JWord) (h : runTotal t.tsk.freeJoints ≠ 0) : ∃ i u v, takeJoints t 1 = (some [i], v) ∧
    JointTaken t u q i w ∧ u = ev (modQ (newJoint v i w (.queue q) (sqCtx v q)) q (fun x => { x with joints := x.joints ++ [i] })) 0xcc
      (sqCtx (modQ (newJoint v i w (.queue q) (sqCtx v q)) q (fun x => { x with joints := x.joints ++ [i] })) q) := by
  obtain ⟨j, f, h1, h2⟩ := takeJoints_one t h
  refine ⟨j, _, _, h2, ?_, rfl⟩
  generalize hx : modQ (newJoint { t with free := f, tsk := { t.tsk with
      freeJoints := takeRun t.tsk.freeJoints j 1 } } j w (.queue q)
      (sqCtx { t with free := f, tsk := { t.tsk with freeJoints := takeRun t.tsk.freeJoints j 1 } } q)) q (fun x => { x with joints := x.joints ++ [j] }) = x
  have o := Observed.ev x 0xcc (sqCtx x q)
  generalize ev x 0xcc (sqCtx x q) = u at o
  have hq : ∀ k, queueOf u k = queueOf x k := fun k => by unfold queueOf; rw [o.rest]
  have hj : ∀ k, jointOf u k = jointOf x k := fun k => by unfold jointOf; rw [o.rest]
  refine ⟨?_, h1, ?_, fun k hk => ?_, ?_, fun i hi => ?_, fun k hk => ?_⟩
  · rw [o.rest, ← hx]; rfl
  · rw [hq, ← hx]; exact queueOf_setQ _ _ _
  · rw [hq, ← hx]; exact queueOf_setQ_other _ _ hk
  · rw [hj, ← hx]; exact get?_set_same _ _ _
  · rw [hj, ← hx]; exact get?_set_other _ _ hi
  · rw [o.regs k hk, ← hx]; rfl

theorem runs_nib' {c : Instr} {s : State} {q op : Nat} {w : Word256} {ws : List Nat} {run : Blk → Word256 → Bool → Blk} {P : Blk → Blk → Prop}
    (hc : exec c s = act (ready s 13) (fun b => execCmd b q op ws run) s) (h : Begins s.blk q w) (ho : cOp w = op)
    (hp : ∀ t, Granted s.blk t q → P t (run t w (queueOf s.blk q).passBrk)) : Runs c s q P := by
  obtain ⟨g, e⟩ := execCmd_begins h ho ws run
  refine updates_act hc (by unfold ready; exact h.csq) ⟨serve s.blk q ws, g, ?_⟩
  rw [e]
  exact hp _ g

theorem Granted.ruledLive {s t : Blk} {q : Nat} (h : Granted s t q) (c : Nat) : ruledLive t c = ruledLive s c := by
  unfold Machine.ruledLive isRuled ctxSt
  rw [h.slots c, h.rgb]

theorem Granted.ownDie {s t : Blk} {q : Nat} (h : Granted s t q) : ownDie t = ownDie s := by
  rw [h.rest]; rfl

theorem nodeReq_granted {s t : Blk} {q : Nat} (g : Granted s t q) (w : Word256) (close : Option Nat) (d x y : Nat) :
    nodeReq t q w close d x y =
        { dst := d, dstCtx := x, dstGen := y, srcCtx := sqCtx s q, srcGen := ctxGen s (sqCtx s q), ltag := cImm w
          body := match close with
            | none => .arrive (opaF w 61 50) (opaF w 49 38) (opaF w 0 0 == 1)
            | some t => .close t (opaF w 61 50) (opaF w 49 38)
          owner := .signal q (queueOf s q).life } := by
  unfold nodeReq; rewrite [g.sqCtx, g.ctxGen, g.queueOf]
  cases close <;> rfl

theorem Observed.modQ {s t : Blk} (h : Observed s t) (q : Nat) (f : Queue → Queue) : Observed (modQ s q f) (modQ t q f) := by
  refine ⟨?_, fun k hk => h.regs k hk, h.words⟩
  unfold Machine.modQ setQ queueOf
  rw [h.rest]

theorem takeBreak_obs (t : Blk) (q n : Nat) (m : Bool) :
    Observed (setQ { orBits t rCsqIrq 2 with csq := { (orBits t rCsqIrq 2).csq with
        brkHit := true, brkComp := n, brkQueue := q, brkCtx := sqCtx t q, brkMode := m } } q
      { dropAhead (queueOf t q) with state := .brk, backj := 0 }) (takeBreak t q n m) := by
  unfold takeBreak
  generalize hx : ({ t with csq := { t.csq with
      brkHit := true, brkComp := n, brkQueue := q, brkCtx := sqCtx t q, brkMode := m } } : Blk) = x
  dsimp only
  have o := (Observed.ev (orBits x rCsqIrq 2) 0xc1 (sqCtx x q)).modQ q (fun v => dropAhead { v with state := .brk, backj := 0 })
  generalize ev (orBits x rCsqIrq 2) 0xc1 (sqCtx x q) = y at o
  have e : modQ (orBits x rCsqIrq 2) q (fun v => dropAhead { v with state := .brk, backj := 0 }) =
    setQ { orBits t rCsqIrq 2 with csq := { (orBits t rCsqIrq 2).csq with
        brkHit := true, brkComp := n, brkQueue := q, brkCtx := sqCtx t q, brkMode := m } } q
      { dropAhead (queueOf t q) with state := .brk, backj := 0 } := by rw [← hx]; rfl
  rw [← e]
  refine o.trans ?_
  unfold enterBreak
  generalize modQ y q (fun v => dropAhead { v with state := .brk, backj := 0 }) = z
  by_cases hc : trigCond z = 4
  · rw [if_pos hc]; exact Observed.trigger z 4 0
  · rw [if_neg hc]; exact Observed.self _

theorem memReq_asked (s : Blk) (r : MemReq) (h : r.serial = none) : MemAsked s (memReq s r) r := by
  have hr : r = { r with serial := none } := by rw [← h]
  unfold memReq
  cases hc : r.ctx with
  | none => exact ⟨rfl, ⟨none, by dsimp only; rw [← hr]⟩, fun _ => ⟨rfl, rfl⟩⟩
  | some c =>
    dsimp only
    by_cases hl : (ruledLive s c && owedReq s r.owner) = true
    · rw [if_pos hl]
      refine ⟨rfl, ⟨some s.ctx.serial, ?_⟩, fun f => ?_⟩
      · show (owe _ _).mem.waitq ++ _ = _
        rw [hc]; rfl
      rw [f c hc] at hl; exact Bool.noConfusion hl
    · rw [if_neg hl]
      exact ⟨rfl, ⟨none, by dsimp only; rw [← hr]⟩, fun _ => ⟨rfl, rfl⟩⟩

theorem sound_operands {s : Blk} {q : Nat} {w : Word256} (h : frontCheck s q w = none) : operandsOk w = true := by
  unfold frontCheck at h
  split at h
  · cases h
  · split at h
    · cases h
    · split at h
      · cases h
      · split at h
        · cases h
        · rename_i hh; simpa using hh

theorem store_addr {w : Word256} (h : operandsOk w = true) (o : cOp w = oStore) : cOpa w % 8 = 0 := by
  unfold operandsOk at h
  rw [o] at h
  simp [addrOk] at h
  exact h.2.1.2.2

theorem leBytes_length (k n : Nat) : (leBytes k n).length = k := by simp [leBytes]

theorem linesOf_within {a : Nat} {bs : List Byte} (h0 : bs ≠ []) (h : a % 64 + bs.length ≤ 64) : linesOf a bs = [(a, bs)] := by
  unfold linesOf
  cases bs with
  | nil => exact absurd rfl h0
  | cons x r =>
    have e1 : (x :: r).take (64 - a % 64) = x :: r := List.take_of_length_le (by omega)
    have e2 : (x :: r).drop (64 - a % 64) = [] := List.drop_of_length_le (by omega)
    show (a, (x :: r).take (64 - a % 64)) :: cutLines _ _ ((x :: r).drop (64 - a % 64)) = _
    rw [e1, e2]
    cases (x :: r).length / 64 + 1 <;> rfl

theorem memWrite_asked (s : Blk) (a : Nat) (bs : List Byte) (qos : Nat) (c : Option Nat) (u i : Nat) (o : MemOwner) (h0 : bs ≠ [])
    (h : a % 64 + bs.length ≤ 64) : MemAsked s (memWrite s a bs qos c u i o)
      { write := true, addr := a / 64 * 64, first := a, be := beOf (a % 64) bs.length
        data := lineOf (a % 64) bs, qos, ctx := c, unit := u, index := i, owner := o } := by
  unfold memWrite
  rw [linesOf_within h0 h]
  exact memReq_asked s _ rfl

theorem Granted.liveLaunch {s t : Blk} {q : Nat} (h : Granted s t q) (c n : Nat) : liveLaunch t c n = liveLaunch s c n := by
  unfold Machine.liveLaunch; rw [h.tsk]

theorem Granted.spillBad {s t : Blk} {q : Nat} (h : Granted s t q) (l : Launch) : spillBad t l = spillBad s l := by
  rw [h.rest]; rfl

theorem Granted.ctxChecks {s t : Blk} {q : Nat} (h : Granted s t q) (a : LArgs) : ctxChecks t a = ctxChecks s a := by
  rw [h.rest]; rfl

theorem Granted.armWaits {s t : Blk} {q : Nat} (h : Granted s t q) (a : LArgs) : armWaits t a = armWaits s a := by
  unfold Machine.armWaits; rw [h.ctxGen, h.rest]; rfl

theorem Granted.launchRefusal {s t : Blk} {q : Nat} (h : Granted s t q) (a : LArgs) : launchRefusal t a = launchRefusal s a := by
  have e1 : pinsFor t a.tid = pinsFor s a.tid := by rw [h.rest]; rfl
  have e2 : curGen t a.tid = curGen s a.tid := by rw [h.rest]; rfl
  have e3 : courseFor t a = courseFor s a := by rw [h.rest]; rfl
  have e4 : ∀ l im, shapeOk t l im = shapeOk s l im := fun l im => by rw [h.rest]; rfl
  have e5 : ∀ l, slotsNeeded t l = slotsNeeded s l := fun l => by rw [h.rest]; rfl
  have e6 : ∀ l, sievesOf t l = sievesOf s l := fun l => by rw [h.rest]; rfl
  have e7 : ∀ x y, armBad t a.ctx x y = armBad s a.ctx x y := fun x y => by
    unfold armBad homeHere; simp only [h.ctxGen]; rw [h.rest]; rfl
  have e8 : liveCount t = liveCount s := by rw [h.rest]; rfl
  have e9 : ctxUsed t a.ctx = ctxUsed s a.ctx := by rw [h.rest]; rfl
  have e10 : ctxQuota t a.ctx = ctxQuota s a.ctx := by rw [h.rest]; rfl
  have e11 : ∀ g, genImg t g = genImg s g := fun g => by rw [h.rest]; rfl
  have e12 : t.sve = s.sve := by rw [h.rest]
  have e13 : ∀ ps, launchLost t ps = launchLost s ps := fun ps => by rw [h.rest]; rfl
  unfold Machine.launchRefusal
  simp only [h.ctxChecks, h.ctxGen, e1, e2, e3, e4, e5, e6, e7, e8, e9, e10, e11, e12, e13, h.tsk]

theorem Granted.cancelSet {s t : Blk} {q : Nat} (h : Granted s t q) (l : Launch) (w : Word256) : cancelSet t l w = cancelSet s l w := by
  unfold Machine.cancelSet taskOf; rw [h.tsk]

theorem Granted.launchArgs {s t : Blk} {q : Nat} (h : Granted s t q) (w : Word256) : launchArgs t q w = launchArgs s q w := by
  unfold Machine.launchArgs sreg; rw [h.queueOf, h.sqCtx]

theorem Granted.endJointOk {s t : Blk} {q : Nat} (h : Granted s t q) (a : LArgs) : endJointOk t q a = endJointOk s q a := by
  unfold Machine.endJointOk; rw [h.queueOf]; cases a.endJ with
  | none => rfl
  | some j => dsimp only; rw [h.jointFired]

def cancelPairs (s : Blk) (l : Launch) (w : Word256) : List (Nat × Task) :=
  (l.slots.filterMap (fun i => (taskOf s i).map (fun t => (i, t)))).filter (fun p =>
    (opaF w 24 24 == 1 || (p.2.scope == opaF w 23 12 && p.2.node == opaF w 11 0)) &&
      (p.2.state == .waiting || p.2.state == .ready || p.2.state == .delayed))

theorem mem_cancelPairs (s : Blk) (l : Launch) (w : Word256) (p : Nat × Task) : p ∈ cancelPairs s l w ↔
    p.1 ∈ l.slots ∧ taskOf s p.1 = some p.2 ∧ (p.2.state = .waiting ∨ p.2.state = .ready ∨ p.2.state = .delayed) ∧
            (opaF w 24 24 = 1 ∨ (p.2.scope = opaF w 23 12 ∧ p.2.node = opaF w 11 0)) := by
  obtain ⟨i, k⟩ := p
  unfold cancelPairs
  simp only [List.mem_filter, List.mem_filterMap, Option.map_eq_some_iff, Prod.mk.injEq, Bool.and_eq_true, Bool.or_eq_true, beq_iff_eq]
  constructor
  · rintro ⟨⟨a, h1, b, h2, rfl, rfl⟩, h3, h4⟩; exact ⟨h1, h2, by tauto, h3⟩
  · rintro ⟨h1, h2, h3, h4⟩; exact ⟨⟨i, h1, k, h2, rfl, rfl⟩, h4, by tauto⟩

theorem cancelSet_eq (s : Blk) (l : Launch) (w : Word256) :
    cancelSet s l w = (sortBy (fun a b => decide (a.2.seq ≤ b.2.seq)) (cancelPairs s l w)).map Prod.fst := rfl

theorem mem_cancelSet (s : Blk) (l : Launch) (w : Word256) (x : Nat) : x ∈ cancelSet s l w ↔
    x ∈ l.slots ∧ ∃ k, taskOf s x = some k ∧ (k.state = .waiting ∨ k.state = .ready ∨ k.state = .delayed) ∧
            (opaF w 24 24 = 1 ∨ (k.scope = opaF w 23 12 ∧ k.node = opaF w 11 0)) := by
  rw [cancelSet_eq]
  simp only [List.mem_map, mem_sortBy, mem_cancelPairs]
  constructor
  · rintro ⟨⟨i, k⟩, ⟨h1, h2⟩, rfl⟩; exact ⟨h1, k, h2⟩
  · rintro ⟨h1, k, h2⟩; exact ⟨(x, k), ⟨h1, h2⟩, rfl⟩

theorem cancelSet_sorted (s : Blk) (l : Launch) (w : Word256) :
    (cancelSet s l w).Pairwise (fun x y => ∀ a b, taskOf s x = some a → taskOf s y = some b → a.seq ≤ b.seq) := by
  rw [cancelSet_eq, List.pairwise_map]
  have := sortBy_sorted (fun (a b : Nat × Task) => decide (a.2.seq ≤ b.2.seq)) (fun a b => by simp; omega)
    (fun a b c => by simp; omega) (cancelPairs s l w)
  refine List.Pairwise.imp_of_mem ?_ this
  intro a b ha hb h x y hx hy
  rw [mem_sortBy, mem_cancelPairs] at ha hb
  rw [ha.2.1] at hx; rw [hb.2.1] at hy
  cases hx; cases hy
  simpa using h

theorem Granted.ctxSt {s t : Blk} {q : Nat} (h : Granted s t q) (c : Nat) : ctxSt t c = ctxSt s c := by
  unfold Machine.ctxSt; rw [h.slots c]

theorem Granted.fenceable {s t : Blk} {q : Nat} (h : Granted s t q) (c : Nat) : fenceable t c = fenceable s c := by
  unfold Machine.fenceable; rw [h.ctxSt]

theorem Granted.cfg {s t : Blk} {q : Nat} (h : Granted s t q) : t.cfg = s.cfg := by rw [h.rest]

theorem beginCmd_next {s : Blk} {q : Nat} {w : Word256} (h : IsNext s q w) (ws : List Nat) (run : Blk → Word256 → Bool → Blk) {code : Nat}
    (hf : frontCheck s q w = some code) : Granted s (serve s q ws) q ∧
    beginCmd (serve s q ws) q w run = haltCmd (serve s q ws) q w code := by
  have g := granted_serve s q ws
  refine ⟨g, ?_⟩
  unfold beginCmd
  generalize serve s q ws = t at g
  rw [brkTest_goes (s := t) (q := q) (w := w)]
  · dsimp only
    rw [g.front, hf]
  · rw [g.queueOf, g.brkHit]
    unfold brkHolds
    rw [g.sqCtx, g.brk.1, g.brk.2.1, g.brk.2.2.1, g.brk.2.2.2]
    exact h.goes

theorem nibRow_exec {c : Instr} {q op : Nat} (h : nibRow c = some (q, op)) (s : State) :
    ∃ ws run, exec c s = act (ready s 13) (fun b => execCmd b q op ws run) s := by
  cases c <;> simp only [nibRow, Option.some.injEq, Prod.mk.injEq, reduceCtorEq] at h <;> obtain ⟨rfl, rfl⟩ := h <;> exact ⟨_, _, rfl⟩

theorem halts_nib {c : Instr} {s : State} {q op : Nat} {w : Word256} (hc : nibRow c = some (q,
    op)) (h : IsNext s.blk q w) (ho : cOp w = op) {code : Nat}
    (hf : frontCheck s.blk q w = some code) : Halts c s q w code := by
  obtain ⟨ws, run, e⟩ := nibRow_exec hc s
  obtain ⟨g, e2⟩ := beginCmd_next h ws run hf
  refine updates_act e (by unfold ready; exact h.csq) ⟨serve s.blk q ws, g, ?_⟩
  unfold execCmd
  rw [h.word]
  exact (if_pos ho).trans e2

theorem nibRow_known {c : Instr} {q op : Nat} (h : nibRow c = some (q, op)) : opKnown op = true := by
  cases c <;> simp only [nibRow, Option.some.injEq, Prod.mk.injEq, reduceCtorEq] at h <;> obtain ⟨rfl, rfl⟩ := h <;> rfl

theorem emitPulse_obs (s : Blk) (x : Bool) : Observed { bump s rPulseCount with
          csq := { (bump s rPulseCount).csq with pulseSeq := (s.csq.pulseSeq + 1) % 65536, retired := 0, active := x, pulseAt := now s }
          saf := { (bump s rPulseCount).saf with pulseAt := now s, pulseActive := x, pulseLost := false } } (emitPulse s x) := by
  have o := (Observed.ev0 (bump s rPulseCount) 0xc5).trans (Observed.trace (ev0 (bump s rPulseCount) 0xc5) 0xb none
    (put s.csq.pulseSeq 127 112 + put (b2n x) 111 111 + put (ev0 (bump s rPulseCount) 0xc5).csq.retired 95 64))
  unfold emitPulse
  dsimp only
  generalize trace _ _ _ _ = y at o
  refine ⟨?_, fun k hk => o.regs k hk, o.words⟩
  have ht : now y = now s := by unfold now; rw [o.rest]; rfl
  rw [ht, o.rest]

theorem put_lt_pow (v hi lo : Nat) : put v hi lo < 2 ^ (hi + 1 - lo) * 2 ^ lo := by
  unfold put; rw [Nat.shiftLeft_eq]
  exact Nat.mul_lt_mul_of_pos_right (Nat.mod_lt _ (Nat.two_pow_pos _)) (Nat.two_pow_pos _)

theorem now_wr (s : Blk) (k v : Nat) : now (wr s k v) = now s := rfl

theorem now_wr3 (s : Blk) (i j k u v w : Nat) : now (wr (wr (wr s i u) j v) k w) = now s :=
  (now_wr _ _ _).trans ((now_wr _ _ _).trans (now_wr _ _ _))

theorem pcsLast_lt (a b c : Nat) : put a 31 28 + 2 ^ 27 + put b 26 24 + put c 21 16 < 2 ^ 32 := by
  have h1 := put_lt_pow a 31 28
  have h2 := put_lt_pow b 26 24
  have h3 := put_lt_pow c 21 16
  have m1 : put a 31 28 % 2 ^ 28 = 0 := by unfold put; rw [Nat.shiftLeft_eq]; exact Nat.mul_mod_left _ _
  have m2 : put b 26 24 % 2 ^ 24 = 0 := by unfold put; rw [Nat.shiftLeft_eq]; exact Nat.mul_mod_left _ _
  simp only [Nat.reducePow, Nat.reduceAdd, Nat.reduceSub, Nat.reduceMul] at *
  omega

theorem pcSample_takes {s : Blk} {q : Nat} (hd : pcsDue s = true) (hq : pcsQueue s = some q) : ∃ t u v,
    OnlyReg s t rPcsLast (put (stallOf s q) 31 28 + 2 ^ 27 + put (queueOf s q).stack.length 26 24 + put q 21 16) ∧
    OnlyReg t u rPcsPcLo ((queueOf s q).pc % 2 ^ 32) ∧ OnlyReg u v rPcsPcHi ((queueOf s q).pc / 2 ^ 32 % 2 ^ 20) ∧
    Observed { v with csq := { v.csq with pcsNext := (q + 1) % 64, pcsAt := now s } } (pcSample s) := by
  have b1 := pcsLast_lt (stallOf s q) (queueOf s q).stack.length q
  unfold pcSample
  rw [hd, hq]
  dsimp only
  rw [if_neg (by decide)]
  generalize put (stallOf s q) 31 28 + 2 ^ 27 + put (queueOf s q).stack.length 26 24 + put q 21 16 = A at b1
  have hB : (queueOf s q).pc % 2 ^ 32 < 2 ^ 32 := by omega
  have hC : (queueOf s q).pc / 2 ^ 32 % 2 ^ 20 < 2 ^ 32 := by omega
  generalize (queueOf s q).pc % 2 ^ 32 = B at hB
  generalize (queueOf s q).pc / 2 ^ 32 % 2 ^ 20 = C at hC
  have e1 := onlyReg_wr s rPcsLast A
  have e2 := onlyReg_wr (wr s rPcsLast A) rPcsPcLo B
  have e3 := onlyReg_wr (wr (wr s rPcsLast A) rPcsPcLo B) rPcsPcHi C
  rw [Nat.mod_eq_of_lt b1] at e1
  rw [Nat.mod_eq_of_lt hB] at e2
  rw [Nat.mod_eq_of_lt hC] at e3
  refine ⟨_, _, _, e1, e2, e3, ?_⟩
  have hn : now (wr (wr (wr s rPcsLast A) rPcsPcLo B) rPcsPcHi C) = now s := now_wr3 _ _ _ _ _ _ _
  rw [hn]
  generalize wr (wr (wr s rPcsLast A) rPcsPcLo B) rPcsPcHi C = v
  generalize put ((queueOf s q).pc >>> 5) 127 81 + put (queueOf s q).stack.length 80 78 + put (stallOf s q) 77 74 + put q 73 68 = D
  exact (Observed.ev _ _ _).trans (Observed.trace _ _ _ _)

theorem w1c_none {off : Nat} (h : ∀ p ∈ w1cTable, p.1 ≠ off) : w1cMask off = none := by
  unfold w1cMask
  rw [List.find?_eq_none.mpr]
  · rfl
  · intro p hp; simpa using h p hp

theorem regAct_page (s : Blk) {c o : Nat} (v : Word) (hc : c < 256) (ho : o < 0x1000) : regAct s (pageReg c o) v = actPage s c o v := by
  have h0 : pageReg c o = 0x200000 + 0x1000 * c + o := rfl
  unfold regAct
  rw [w1c_none]
  · dsimp only
    rw [if_pos (by rw [h0]; show 0x200000 ≤ _; omega), h0]
    have e1 : (0x200000 + 0x1000 * c + o - rPage) / 0x1000 = c := by show (0x200000 + 0x1000 * c + o - 0x200000) / 0x1000 = c; omega
    have e2 : (0x200000 + 0x1000 * c + o) % 0x1000 = o := by omega
    rw [e1, e2]
  · have : ∀ p ∈ w1cTable, p.1 < 0x200000 := by decide
    intro p hp; have := this p hp; rw [h0]; omega

theorem regAct_sq (s : Blk) {q o : Nat} (v : Word) (hq : q < 64) (ho : o < 0x100) : regAct s (sqReg q o) v = actSq s q (sqReg q o) v := by
  have h0 : sqReg q o = 0x21000 + 0x100 * q + o := rfl
  unfold regAct
  rw [w1c_none]
  · dsimp only
    rw [if_neg (by rw [h0]; show ¬ 0x200000 ≤ _; omega), if_neg (by rw [h0]; omega), if_pos (by rw [h0]; omega)]
    unfold actCsq
    rw [if_pos (by rw [h0]; simp; show 0x21000 ≤ _ ∧ _; omega)]
    have e1 : (sqReg q o - rSq) / 0x100 = q := by rw [h0]; show (_ - 0x21000) / _ = _; omega
    rw [e1]
  · have : ∀ p ∈ w1cTable, p.1 < 0x21000 ∨ 0x25000 ≤ p.1 := by decide
    intro p hp; have := this p hp; rw [h0]; omega

theorem db_word {q tail : Nat} (hq : q < 64) (ht : tail < 65536) :
    fld (w32 (put q 21 16 + put tail 15 0)) 21 16 = q ∧ fld (w32 (put q 21 16 + put tail 15 0)) 15 0 = tail := by
  rw [put_le (show q < 2 ^ (21 + 1 - 16) by omega), put_le (show tail < 2 ^ (15 + 1 - 0) by omega)]
  unfold fld w32
  simp only [BitVec.toNat_ofNat, Nat.shiftRight_eq_div_pow]
  omega

theorem fld_or {v a : Word} {hi lo : Nat} (h : fld a hi lo = 0) : fld (v ||| a) hi lo = fld v hi lo := by
  unfold fld at *
  rw [BitVec.toNat_or, Nat.shiftRight_or_distrib, Nat.or_mod_two_pow, h, Nat.or_zero]

theorem fld_and {v a : Word} {hi lo : Nat} (h : fld a hi lo = 2 ^ (hi + 1 - lo) - 1) : fld (v &&& a) hi lo = fld v hi lo := by
  unfold fld at *
  rw [BitVec.toNat_and, Nat.shiftRight_and_distrib, Nat.and_mod_two_pow, h, Nat.and_two_pow_sub_one_eq_mod, Nat.mod_mod]

theorem or_mask (v : Word) : (v ||| 0x80000000#32).toNat &&& 0x70ff1f1f = v.toNat &&& 0x70ff1f1f := by
  rw [BitVec.toNat_or, Nat.and_or_distrib_right]
  exact Nat.or_zero _

theorem and_mask (v : Word) : (v &&& 0x7fffffff#32).toNat &&& 0x70ff1f1f = v.toNat &&& 0x70ff1f1f := by
  rw [BitVec.toNat_and, Nat.and_assoc]
  rfl

theorem or_top (v : Word) : bitAt (v ||| 0x80000000#32) 31 = true := by unfold bitAt; simp

theorem and_top (v : Word) : bitAt (v &&& 0x7fffffff#32) 31 = false := by unfold bitAt; simp

theorem storeAt_only (s : Blk) (k m : Nat) (v : Word) (hm : m < 2 ^ 32) : OnlyReg s (storeAt s k m v) k (written (rg s k) m v) := by
  unfold storeAt
  have := onlyReg_wr s k (written (rg s k) m v)
  rwa [Nat.mod_eq_of_lt (written_lt _ _ _ _ hm)] at this

theorem storeAt_queue (s : Blk) (k m : Nat) (v : Word) (q : Nat) : queueOf (storeAt s k m v) q = queueOf s q := rfl

/-- The cases of a write of CSQ_SQq_CFG. -/
theorem sqCfg_cases (s : Blk) (q : Nat) (w : Word) :
    let fits := 4 ≤ fld w 4 0 ∧ fld w 4 0 ≤ 16 ∧ 4 ≤ fld w 12 8 ∧ fld w 12 8 ≤ 16
    let same := w.toNat &&& 0x70ff1f1f = rg s (sqReg q 0) &&& 0x70ff1f1f
    let u := storeAt s (sqReg q 0) 0xf0ff1f1f w
    let st := (queueOf s q).state
    (¬ fits → sqCfgWrite s q w = none) ∧
    (fits → rgb s (sqReg q 0) 31 = true → ¬ same → sqCfgWrite s q w = none) ∧
    (fits → rgb s (sqReg q 0) 31 = true → same → bitAt w 31 = true → sqCfgWrite s q w = some u) ∧
    (fits → rgb s (sqReg q 0) 31 = true → same → bitAt w 31 = false → (st = .idle ∨ st = .brk ∨ st = .halted) →
      sqCfgWrite s q w = some (disableQ u q)) ∧
    (fits → rgb s (sqReg q 0) 31 = true → same → bitAt w 31 = false → (st = .run ∨ st = .wait ∨ st = .sleep) →
      sqCfgWrite s q w = none) ∧
    (fits → rgb s (sqReg q 0) 31 = false → bitAt w 31 = true → sqCfgWrite s q w = some (enableQ u q)) ∧
    (fits → rgb s (sqReg q 0) 31 = false → bitAt w 31 = false → sqCfgWrite s q w = some u) := by
  intro fits same u st
  have hf : (!(inRange 4 16 (fld w 4 0) && inRange 4 16 (fld w 12 8))) = !decide fits := by
    unfold inRange; rw [← Bool.decide_and]
    congr 2; exact propext ⟨fun h => ⟨h.1.1, h.1.2, h.2.1, h.2.2⟩, fun h => ⟨⟨h.1, h.2.1⟩, h.2.2.1, h.2.2.2⟩⟩
  have hs : (!((w.toNat &&& 0x70ff1f1f) == (rg s (sqReg q 0) &&& 0x70ff1f1f))) = !decide same := by
    congr 1
  have nf : ¬ (false = true) := Bool.false_ne_true
  refine ⟨fun h => ?_, fun h h2 h3 => ?_, fun h h2 h3 h4 => ?_, fun h h2 h3 h4 h5 => ?_, fun h h2 h3 h4 h5 => ?_, fun h h2 h3 => ?_,
      fun h h2 h3 => ?_⟩ <;>
    unfold sqCfgWrite <;> dsimp only <;> rw [hf]
  · rw [decide_eq_false h]; exact if_pos rfl
  all_goals rw [decide_eq_true h, h2]
  · rw [hs, decide_eq_false h3]; rfl
  · rw [hs, decide_eq_true h3, h4]; rfl
  · rw [hs, decide_eq_true h3, h4]
    have : ((queueOf s q).state == QState.idle || (queueOf s q).state == QState.brk || (queueOf s q).state == QState.halted) = true := by
      rcases h5 with h | h | h <;> rw [show (queueOf s q).state = _ from h] <;> rfl
    rw [this]; rfl
  · rw [hs, decide_eq_true h3, h4]
    have : ((queueOf s q).state == QState.idle || (queueOf s q).state == QState.brk || (queueOf s q).state == QState.halted) = false := by
      rcases h5 with h | h | h <;> rw [show (queueOf s q).state = _ from h] <;> rfl
    rw [this]; rfl
  · rw [h3]; rfl
  · rw [h3]; rfl

theorem sum_testBit : ∀ (xs : List Nat), (∀ x ∈ xs, x < 2 ^ 32) → ∀ (n k acc : Nat), acc < 2 ^ (32 * n) →
    ((xs.zipIdx n).foldl (fun a p => a + p.1 * 2 ^ (32 * p.2)) acc).testBit k =
      if k < 32 * n then acc.testBit k else ((xs[k / 32 - n]?).getD 0).testBit (k % 32) := by
  intro xs
  induction xs with
  | nil =>
    intro _ n k acc ha
    simp only [List.zipIdx_nil, List.foldl_nil]
    by_cases h : k < 32 * n
    · rw [if_pos h]
    · rw [if_neg h]; simp only [List.getElem?_nil, Option.getD_none, Nat.zero_testBit]
      exact Nat.testBit_lt_two_pow (Nat.lt_of_lt_of_le ha (Nat.pow_le_pow_right (by decide) (by omega)))
  | cons x r ih =>
    intro hx n k acc ha
    simp only [List.zipIdx_cons, List.foldl_cons]
    have hb : acc + x * 2 ^ (32 * n) < 2 ^ (32 * (n + 1)) := by
      have h1 := hx x (by simp)
      have : 2 ^ (32 * (n + 1)) = 2 ^ 32 * 2 ^ (32 * n) := by rw [← Nat.pow_add]; congr 1; omega
      rw [this]
      have : (x + 1) * 2 ^ (32 * n) ≤ 2 ^ 32 * 2 ^ (32 * n) := Nat.mul_le_mul_right _ h1
      rw [Nat.add_mul] at this
      omega
    rw [ih (fun y hy => hx y (by simp [hy])) (n + 1) k _ hb]
    have e : acc + x * 2 ^ (32 * n) = 2 ^ (32 * n) * x + acc := by rw [Nat.add_comm, Nat.mul_comm]
    by_cases h : k < 32 * n
    · rw [if_pos h, if_pos (by omega), e, Nat.testBit_two_pow_mul_add _ ha, if_pos h]
    · rw [if_neg h]
      by_cases h2 : k < 32 * (n + 1)
      · rw [if_pos h2, e, Nat.testBit_two_pow_mul_add _ ha, if_neg h]
        have : k / 32 - n = 0 := by omega
        rw [this]
        have : k - 32 * n = k % 32 := by omega
        rw [this]; rfl
      · rw [if_neg h2]
        have : k / 32 - n = (k / 32 - (n + 1)) + 1 := by omega
        rw [this, List.getElem?_cons_succ]

theorem get?_map (m : Store Queue) (f : Nat × Queue → Queue) (k : Nat) :
    Store.get? (m.map (fun p => (p.1, f p))) k = (Store.get? m k).map (fun v => f (k, v)) := by
  induction m with
  | nil => rfl
  | cons x r ih =>
    obtain ⟨a, v⟩ := x
    simp only [List.map_cons, Store.get?]
    by_cases h : a = k
    · subst h; simp
    · simp only [h, if_false]; exact ih

theorem words_testBit (f : Nat → Nat) (hf : ∀ i, f i < 2 ^ 32) (k : Nat) (hk : k < 256) :
    (((List.range 8).map (fun i => f i * 2 ^ (32 * i))).foldl (· + ·) 0).testBit k = (f (k / 32)).testBit (k % 32) := by
  have e : ((List.range 8).map (fun i => f i * 2 ^ (32 * i))).foldl (· + ·) 0 =
      (((List.range 8).map f).zipIdx 0).foldl (fun a p => a + p.1 * 2 ^ (32 * p.2)) 0 := rfl
  rw [e, sum_testBit _ (by intro x hx; simp only [List.mem_map] at hx; obtain ⟨i, _, rfl⟩ := hx; exact hf i) 0 k 0 (by decide)]
  rw [if_neg (by omega), Nat.sub_zero, List.getElem?_map, List.getElem?_range (by omega)]
  rfl

theorem not256 (k : Nat) (hk : k < 256) : (~~~(256 : Word256)).getLsbD k = decide (k ≠ 8) := by
  rw [BitVec.getLsbD_not]
  have : (256 : Word256).getLsbD k = decide (k = 8) := by
    show (BitVec.ofNat 256 256).getLsbD k = _
    rw [BitVec.getLsbD_ofNat]
    have : (256 : Nat).testBit k = decide (k = 8) := by
      rw [show (256 : Nat) = 2 ^ 8 from rfl, Nat.testBit_two_pow]
      exact decide_eq_decide.mpr ⟨fun h => h.symm, fun h => h.symm⟩
    rw [this]; simp [hk]
  rw [this]; simp [hk]

theorem doorbell_refused {s : Blk} {page q tail : Nat} (_hp : page < 256) (h : sqCtx s q ≠ page ∨
    sqSize s q ≤ tail) : doorbell s page q tail = none := by
  unfold doorbell
  refine if_pos ?_
  simp only [Bool.or_eq_true, decide_eq_true_eq]
  exact h

theorem doorbell_taken {s : Blk} {page q tail : Nat} (h : sqCtx s q = page) (h2 : tail < sqSize s q) :
    doorbell s page q tail = some (ev (setQ s q (if (ruledLive s page && (queueOf s q).state ≠ .idle) = true then
        { queueOf s q with door := some tail }
      else { (if (queueOf s q).tail % 2 = 1 then dropAhead (queueOf s q) else queueOf s q) with tail, door := none })) 0xc2 page) := by
  unfold doorbell
  refine (if_neg ?_).trans ?_
  · simp only [Bool.or_eq_true, decide_eq_true_eq]; omega
  · unfold Queue.takeTail
    by_cases h3 : (queueOf s q).tail % 2 = 1
    · rw [if_pos h3]; dsimp only; rw [show ((queueOf s q).tail % 2 == 1) = true by simpa using h3]; rfl
    · rw [if_neg h3]; dsimp only; rw [show ((queueOf s q).tail % 2 == 1) = false by simpa using h3]; rfl

theorem abandonCmd_end (s : Blk) (q j : Nat) : isEndJoint (abandonCmd s q) j = isEndJoint s j := by
  unfold isEndJoint abandonCmd Store.vals
  dsimp only
  rw [List.map_map, List.any_map, List.any_map]
  rfl

theorem abandonCmd_queues (s : Blk) (q r : Nat) : queueOf (abandonCmd s q) r = queueOf s r := rfl

theorem abandonCmd_joint (s : Blk) (q j : Nat) : jointOf (abandonCmd s q) j = jointOf s j := rfl

theorem setQ_end (s : Blk) (q j : Nat) (v : Queue) : isEndJoint (setQ s q v) j = isEndJoint s j := rfl

theorem giveJoints_queue (s : Blk) (js : List Nat) (r : Nat) : queueOf (giveJoints s js) r = queueOf s r := rfl

theorem giveJoints_joint (s : Blk) (js : List Nat) (j : Nat) : jointOf (giveJoints s js) j = if js.contains j then none else jointOf s j := by
  unfold giveJoints jointOf
  dsimp only
  rw [get?_filter s.tsk.joints (fun k => !js.contains k) j]
  cases js.contains j <;> rfl

theorem placeAt_fits : ∀ (rs : List (Nat × Nat)) (n i : Nat), 0 < n → i < placesFor rs n →
    ∃ b, placeAt rs n i = some b ∧ ∃ r ∈ rs, r.1 ≤ b ∧ b + n ≤ r.1 + r.2 := by
  intro rs n
  induction rs with
  | nil => intro i _ h; simp [placesFor] at h
  | cons x r ih =>
    intro i hn h
    obtain ⟨a, l⟩ := x
    have hp : placesFor ((a, l) :: r) n = (if l < n then 0 else l + 1 - n) + placesFor r n := by
      unfold placesFor; rw [List.map_cons, List.foldl_cons, foldl_add_init, Nat.zero_add, Nat.add_comm]
    rw [hp] at h
    unfold placeAt
    dsimp only
    by_cases hl : l < n
    · rw [if_pos hl] at h ⊢
      obtain ⟨b, h1, y, hy, h2⟩ := ih i hn (by omega)
      exact ⟨b, h1, y, by simp [hy], h2⟩
    · rw [if_neg hl] at h ⊢
      by_cases hi : i < l + 1 - n
      · rw [if_pos hi]
        exact ⟨_, rfl, (a, l), by simp, by simp, by simp; omega⟩
      · rw [if_neg hi]
        obtain ⟨b, h1, y, hy, h2⟩ := ih (i - (l + 1 - n)) hn (by omega)
        exact ⟨b, h1, y, by simp [hy], h2⟩

theorem placesFor_zero : ∀ (rs : List (Nat × Nat)) (n : Nat), placesFor rs n = 0 ↔ ∀ r ∈ rs, r.2 < n := by
  intro rs n
  induction rs with
  | nil => simp [placesFor]
  | cons x r ih =>
    obtain ⟨a, l⟩ := x
    have hp : placesFor ((a, l) :: r) n = (if l < n then 0 else l + 1 - n) + placesFor r n := by
      unfold placesFor; rw [List.map_cons, List.foldl_cons, foldl_add_init, Nat.zero_add, Nat.add_comm]
    rw [hp, List.forall_mem_cons, ← ih]
    dsimp only
    split <;> omega

theorem reads_waitq (f : Nat → Nat) (n unit idx : Nat) (o : Nat → MemOwner) (k : Nat) (s : Blk) :
    forEach (List.range' k n) s (fun s i => memRead s (f i) 0 none unit idx (o i)) =
      { s with mem := { s.mem with waitq := s.mem.waitq ++ (List.range' k n).map (fun i => (none, ({
        write := false, addr := f i / 64 * 64, first := f i, be := 0, data := 0, qos := 0, ctx := none
        unit, index := idx, owner := o i } : MemReq))) } } := by
  induction n generalizing k s with
  | zero => simp [forEach]
  | succ n ih =>
    unfold forEach at *
    rw [List.range'_succ, List.foldl_cons, ih, List.map_cons]
    unfold memRead memReq
    dsimp only
    rw [List.append_assoc]
    rfl

theorem gst_sum (busy : Bool) (code gen : Nat) : put (b2n busy) 31 31 + put code 19 16 + put gen 15 0 < 2 ^ 32 := by
  have h1 := put_lt_pow (b2n busy) 31 31
  unfold put
  rw [Nat.shiftLeft_eq, Nat.shiftLeft_eq, Nat.shiftLeft_eq]
  have a1 : b2n busy % 2 ^ (31 + 1 - 31) < 2 := Nat.mod_lt _ (by decide)
  have a2 : code % 2 ^ (19 + 1 - 16) < 16 := Nat.mod_lt _ (by decide)
  have a3 : gen % 2 ^ (15 + 1 - 0) < 65536 := Nat.mod_lt _ (by decide)
  omega

theorem xt_sum (busy : Bool) (code : Nat) : put (b2n busy) 31 31 + put code 3 0 < 2 ^ 32 := by
  unfold put
  rw [Nat.shiftLeft_eq, Nat.shiftLeft_eq]
  have a1 : b2n busy % 2 ^ (31 + 1 - 31) < 2 := Nat.mod_lt _ (by decide)
  have a2 : code % 2 ^ (3 + 1 - 0) < 16 := Nat.mod_lt _ (by decide)
  omega

theorem gstStatus_only (s : Blk) (busy : Bool) (code gen : Nat) :
    OnlyReg s (gstStatus s busy code gen) rGstStatus
      (put (b2n busy) 31 31 + put code (if rGstStatus = rXtStatus then 3 else 19) (if rGstStatus = rXtStatus then 0 else 16) + put gen 15 0) := by
  have := onlyReg_wr s rGstStatus (put (b2n busy) 31 31 + put code 19 16 + put gen 15 0)
  rwa [Nat.mod_eq_of_lt (gst_sum _ _ _)] at this

theorem xtStatus_only (s : Blk) (busy : Bool) (code : Nat) :
    OnlyReg s (xtStatus s busy code) rXtStatus
      (put (b2n busy) 31 31 + put code (if rXtStatus = rXtStatus then 3 else 19) (if rXtStatus = rXtStatus then 0 else 16) + put 0 15 0) := by
  have := onlyReg_wr s rXtStatus (put (b2n busy) 31 31 + put code 3 0)
  rw [Nat.mod_eq_of_lt (xt_sum _ _)] at this
  rw [show put 0 15 0 = 0 from rfl, Nat.add_zero, if_pos rfl, if_pos rfl]
  exact this

theorem gst_word {op tid : Nat} (ho : op < 4) (ht : tid < 4096) :
    fld (w32 (put op 29 28 + put tid 11 0)) 11 0 = tid ∧ fld (w32 (put op 29 28 + put tid 11 0)) 29 28 = op := by
  rw [put_le (show op < 2 ^ (29 + 1 - 28) by omega), put_le (show tid < 2 ^ (11 + 1 - 0) by omega)]
  unfold fld w32
  simp only [BitVec.toNat_ofNat, Nat.shiftRight_eq_div_pow]
  omega

/-- Which unit takes a write below the pages (R420). -/
theorem regAct_units (s : Blk) {off : Nat} (v : Word) (h : w1cMask off = none) :
    (0x20000 ≤ off → off < 0x40000 → regAct s off v = actCsq s off v) ∧
    (0x40000 ≤ off → off < 0x70000 → regAct s off v = actGraph s off v) ∧
    (0x70000 ≤ off → off < 0xb0000 → regAct s off v = actIssue s off v) ∧
    (0xb0000 ≤ off → off < 0xd0000 → regAct s off v = actSve s off v) ∧
    (0xd0000 ≤ off → off < 0xf0000 → regAct s off v = actSqt s off v) ∧
    (0xf0000 ≤ off → off < 0x110000 → regAct s off v = actXch s off v) ∧
    (0x110000 ≤ off → off < 0x130000 → regAct s off v = actCtx s off v) ∧
    (0x130000 ≤ off → off < 0x150000 → regAct s off v = actObs s off v) ∧
    (0x150000 ≤ off → off < 0x170000 → regAct s off v = actSaf s off v) ∧
    (0x170000 ≤ off → off < 0x200000 → regAct s off v = actDbg s off v) := by
  have hp : rPage = 0x200000 := rfl
  unfold regAct
  rw [h]
  dsimp only
  refine ⟨?_, ?_, ?_, ?_, ?_, ?_, ?_, ?_, ?_, ?_⟩ <;> intro h1 h2 <;> (repeat rw [if_neg (by omega)]) <;> first | rfl | exact if_pos h2

theorem regAct_gst (s : Blk) (v : Word) : regAct s 0x4000c v = gstCmd s v := by
  rw [(regAct_units s v (w1c_none (by decide))).2.1 (by decide) (by decide)]
  unfold actGraph
  exact if_pos rfl

theorem regAct_xt (s : Blk) : regAct s 0xc0010 1 = some (xtLoad s) := by
  rw [(regAct_units s 1 (w1c_none (by decide))).2.2.2.1 (by decide) (by decide)]
  unfold actSve
  rw [if_neg (by decide), if_neg (by decide), if_pos (by decide), if_pos (by decide)]

theorem released (s : Blk) : Released s (gstRelease s) := by
  classical
  have hs : ∀ y : Gen, (y.current || (Store.vals s.tsk.launches).any (fun l => l.pins.contains (y.tid, y.gen))) = true ↔ Stays s y := by
    intro y; unfold Stays; simp [List.any_eq_true]
  have hg : ∀ y : Gen, (!y.current && !(Store.vals s.tsk.launches).any (fun l => l.pins.contains (y.tid, y.gen))) = true ↔ ¬ Stays s y := by
    intro y; rw [← hs, ← Bool.not_or]; simp
  unfold gstRelease
  dsimp only
  split
  · next he =>
    rw [List.isEmpty_iff, List.filter_eq_nil_iff] at he
    have all : ∀ y ∈ s.tsk.gens, Stays s y := fun y hy => Classical.not_not.mp (fun hn => he y hy ((hg y).mpr hn))
    refine ⟨rfl, fun y => ⟨fun hy => ⟨hy, all y hy⟩, fun hy => hy.1⟩, fun i h => ?_, fun i _ => rfl⟩
    obtain ⟨y, hy, hn, _⟩ := h; exact absurd (all y hy) hn
  · have key : ∀ i, (Store.get? (List.filter (fun (p : Nat × Word256) =>
        !(s.tsk.gens.filter (fun y => !y.current && !(Store.vals s.tsk.launches).any (fun l => l.pins.contains (y.tid, y.gen)))).any
          (fun y => decide (y.base ≤ p.1 ∧ p.1 < y.base + y.nrec))) s.tsk.recs) i).getD 0 =
        if ∃ g ∈ s.tsk.gens, ¬ Stays s g ∧ g.base ≤ i ∧ i < g.base + g.nrec then 0 else recAt s i := by
      intro i
      rw [get?_filter s.tsk.recs (fun k =>
        !(s.tsk.gens.filter (fun y => !y.current && !(Store.vals s.tsk.launches).any (fun l => l.pins.contains (y.tid, y.gen)))).any
          (fun y => decide (y.base ≤ k ∧ k < y.base + y.nrec))) i]
      have hc : ((s.tsk.gens.filter (fun y => !y.current && !(Store.vals s.tsk.launches).any (fun l => l.pins.contains (y.tid,
          y.gen)))).any (fun y => decide (y.base ≤ i ∧ i < y.base + y.nrec))) = true ↔
          ∃ g ∈ s.tsk.gens, ¬ Stays s g ∧ g.base ≤ i ∧ i < g.base + g.nrec := by
        rw [List.any_eq_true]
        constructor
        · rintro ⟨y, hy, hd⟩
          rw [List.mem_filter] at hy
          exact ⟨y, hy.1, (hg y).mp hy.2, of_decide_eq_true hd⟩
        · rintro ⟨y, hy, hn, hd⟩
          exact ⟨y, List.mem_filter.mpr ⟨hy, (hg y).mpr hn⟩, decide_eq_true hd⟩
      by_cases hx : ∃ g ∈ s.tsk.gens, ¬ Stays s g ∧ g.base ≤ i ∧ i < g.base + g.nrec
      · rw [if_pos hx, hc.mpr hx]; rfl
      · rw [if_neg hx, if_pos (by rw [Bool.not_eq_true']; exact Bool.eq_false_iff.mpr (fun e => hx (hc.mp e)))]; rfl
    refine ⟨rfl, fun y => ?_, fun i h => (key i).trans (if_pos h), fun i h => (key i).trans (if_neg h)⟩
    show y ∈ s.tsk.gens.filter _ ↔ _
    rw [List.mem_filter, hs]

theorem launchCleared (s : Blk) (i : Nat) (l : Launch) : ∃ v, LaunchCleared s v i l ∧ clearLaunch s i l = gstRelease v := by
  unfold clearLaunch
  dsimp only
  refine ⟨_, ⟨rfl, fun j => ?_, fun j => ?_, ?_, fun j hj => ?_⟩, rfl⟩
  · refine (get?_filter s.tsk.tasks (fun k => !l.slots.contains k) j).trans ?_
    by_cases h : j ∈ l.slots <;> simp [h]; rfl
  · refine (get?_filter s.tsk.joints (fun k => !l.joints.contains k) j).trans ?_
    by_cases h : j ∈ l.joints <;> simp [h]; rfl
  · exact get?_set_same _ _ _
  · exact get?_set_other _ _ hj

theorem launchFreed {s : Blk} {i : Nat} {l : Launch} (h : launchOf s i = some l) : LaunchFreed s (freeLaunch s i) i l := by
  unfold freeLaunch
  rw [h]
  dsimp only
  refine ⟨_, released _, ?_⟩
  cases l.endJoint <;> rfl

/-! ## The build -/

theorem foldl_take_succ {α β : Type} (f : β → α → β) (b : β) (l : List α) (i : Nat) (h : i < l.length) :
    (l.take (i + 1)).foldl f b = f ((l.take i).foldl f b) l[i] := by
  rw [List.take_add_one, List.getElem?_eq_getElem h, List.foldl_append]
  rfl

theorem seqCands_mem (s : Blk) (c : Nat) (p : Nat × SeqEnt) : p ∈ seqCands s c ↔
    p ∈ s.sqt.ents ∧ p.2.ctx = c ∧ p.2.state = .active ∧ p.2.hold = false ∧ p.2.parkReq = false ∧
      p.2.ctxGen = ctxGen s c := by
  unfold seqCands seqsOf
  rw [mem_sortBy, List.mem_filter, List.mem_filter]
  simp only [Bool.and_eq_true, beq_iff_eq, Bool.not_eq_true']
  tauto

theorem seqCands_sorted (s : Blk) (c : Nat) : (seqCands s c).Pairwise (fun p q =>
    let a := p.2.cls * 64 + p.2.level; let b := q.2.cls * 64 + q.2.level; a < b ∨ (a = b ∧
        (p.2.aseq + 2 ^ 32 - (sqtOf s c).aseq) % 2 ^ 32 ≤ (q.2.aseq + 2 ^ 32 - (sqtOf s c).aseq) % 2 ^ 32)) := by
  unfold seqCands
  refine (sortBy_sorted _ (fun a b => by simp only [decide_eq_true_eq]; omega) (fun a b c => by simp only [decide_eq_true_eq]; omega) _).imp ?_
  intro p q h
  simp only [decide_eq_true_eq] at h
  have := Nat.mod_lt (p.2.aseq + 2 ^ 32 - (sqtOf s c).aseq) (show 2 ^ 32 > 0 by decide)
  have := Nat.mod_lt (q.2.aseq + 2 ^ 32 - (sqtOf s c).aseq) (show 2 ^ 32 > 0 by decide)
  dsimp only
  omega

theorem setSqt_same (s : Blk) (c : Nat) (v : SqtCtx) : sqtOf (setSqt s c v) c = v := getD_put_same _ _ _ _

theorem setSqt_other (s : Blk) {c d : Nat} (v : SqtCtx) (h : d ≠ c) : sqtOf (setSqt s c v) d = sqtOf s d := getD_put_other _ _ _ h

theorem filter_range_succ (took : Nat → Bool) (i : Nat) : (List.range (i + 1)).filter took =
    (List.range i).filter took ++ (if took i then [i] else []) := by
  rw [List.range_succ, List.filter_append]
  congr 1
  by_cases h : took i = true <;> simp [h]

theorem aseqFrom_succ (s : Blk) (c n : Nat) : aseqFrom s c (n + 1) = (aseqFrom s c n + 1) % 2 ^ 32 := by
  unfold aseqFrom; split <;> split <;> omega

theorem frame_sqt {s x : Blk} (h : x = { s with sqt := { s.sqt with
    ents := x.sqt.ents, ctxs := x.sqt.ctxs } }) (e : Store SeqEnt) (c : Store SqtCtx) :
    { x with sqt := { x.sqt with ents := e, ctxs := c } } = { s with sqt := { s.sqt with ents := e, ctxs := c } } := by
  generalize x.sqt.ents = a at h
  generalize x.sqt.ctxs = b at h
  subst h; rfl

theorem put_zero (v hi : Nat) : put v hi 0 = v % 2 ^ (hi + 1) := by unfold put; rw [Nat.shiftLeft_zero, Nat.sub_zero]

theorem advance_parks (v : SeqEnt) (M adv : Nat) (a b c : Bool) (hle : adv ≤ v.remain) :
    (let v := if v.pos + adv > M then ({ v with pos := M } : SeqEnt).park 5 else { v with pos := v.pos + adv }
     let v := { v with remain := v.remain - adv }
     if a && b then v.park 1 else if v.remain = 0 then v.park 2 else if a && c then v.park 3 else v) =
    { v with
      pos := min (v.pos + adv) M, remain := v.remain - adv
      prsn := if v.parkReq then v.prsn else if v.pos + adv > M then 5
                    else if a && b then 1 else if v.remain = adv then 2 else if a && c then 3 else v.prsn
      parkReq := v.parkReq || decide (v.pos + adv > M) || (a && (b || c)) || decide (v.remain = adv) } := by
  rw [Bool.and_or_distrib_left]
  generalize (a && b) = x
  generalize (a && c) = y
  unfold SeqEnt.park
  obtain ⟨k1, k2⟩ : (v.parkReq = true ∨ v.parkReq = false) ∧ True := ⟨by cases v.parkReq <;> simp, trivial⟩
  have hz : v.remain - adv = 0 ↔ v.remain = adv := by omega
  by_cases h1 : v.pos + adv > M
  · have hp : min (v.pos + adv) M = M := by omega
    rw [hp]
    rcases k1 with k | k <;> cases x <;> cases y <;> by_cases h2 : v.remain = adv <;> simp [h1, h2, k, hz]
  · have hp : min (v.pos + adv) M = v.pos + adv := by omega
    rw [hp]
    rcases k1 with k | k <;> cases x <;> cases y <;> by_cases h2 : v.remain = adv <;> simp [h1, h2, k, hz]

theorem advance_eq (v : SeqEnt) (tok x adv : Nat) (missing : Bool)
    (hm : missing = (!x.testBit 63 || decide ((x >>> 19) % 2 ^ 44 ≠ 0)))
    (ha : adv = if missing then 0 else min (min (x % 65536) tok) v.remain) :
    v.advance tok x = ({ v with
                  pos := min (v.pos + adv) 0xffffffff, remain := v.remain - adv, hold := v.hold || (x.testBit 63 && x.testBit 18)
                  prsn := if v.parkReq then v.prsn else if v.pos + adv > 0xffffffff then 5
                    else if x.testBit 63 && x.testBit 16 then 1 else if v.remain = adv then 2
                    else if x.testBit 63 && x.testBit 17 then 3 else v.prsn
                  parkReq := v.parkReq || decide (v.pos + adv > 0xffffffff) || (x.testBit 63 && (x.testBit 16 || x.testBit 17)) ||
                    decide (v.remain = adv) }, missing) := by
  have hle : adv ≤ v.remain := by rw [ha]; split <;> omega
  have key := advance_parks v 0xffffffff adv (x.testBit 63) (x.testBit 16) (x.testBit 17) hle
  unfold SeqEnt.advance
  dsimp only at key ⊢
  rw [← hm, ← ha, key]
  generalize (x.testBit 63 && x.testBit 18) = d
  cases d
  · rw [if_neg (by decide), Bool.or_false]
  · rw [if_pos rfl, Bool.or_true]

theorem setScratch_queue (s : Blk) (q n v : Nat) : queueOf (setScratch s q n v) q = wrScratch (queueOf s q) n (BitVec.ofNat 64 v) :=
  getD_put_same _ _ _ _

theorem setScratch_other (s : Blk) {q r : Nat} (n v : Nat) (h : r ≠ q) : queueOf (setScratch s q n v) r = queueOf s r :=
  getD_put_other _ _ _ h

theorem scratch_wr_same (v : Queue) (n : Nat) (x : Word64) : scratch (wrScratch v n x) n = x := getD_put_same _ _ _ _

theorem scratch_wr_other (v : Queue) {n m : Nat} (x : Word64) (h : m ≠ n) : scratch (wrScratch v n x) m = scratch v m :=
  getD_put_other _ _ _ h

theorem wakeBoundary_queue (s : Blk) (q tail : Nat) : queueOf (wakeBoundary s q tail) q =
    if (queueOf s q).wait = .boundary then { queueOf s q with wait := .none, preTail := some tail } else queueOf s q := by
  unfold wakeBoundary queueOf Store.getD
  dsimp only
  rw [get?_modify_same]
  cases Store.get? s.csq.queues q with
  | none => rfl
  | some y => rfl

theorem get?_modify_other {α : Type} (m : Store α) {k j : Nat} (f : α → α) (h : j ≠ k) :
    Store.get? (Store.modify m k f) j = Store.get? m j := by
  unfold Store.modify
  induction m with
  | nil => rfl
  | cons p r ih =>
    obtain ⟨a, v⟩ := p
    rw [List.map_cons]
    by_cases hk : a = k
    · rw [if_pos hk]
      have : a ≠ j := by rw [hk]; exact fun e => h e.symm
      simp only [Store.get?, this, if_false]
      exact ih
    · rw [if_neg hk]
      by_cases hj : a = j
      · simp only [Store.get?, hj, if_true]
      · simp only [Store.get?, hj, if_false]
        exact ih

theorem wakeBoundary_other (s : Blk) {q r : Nat} (tail : Nat) (h : r ≠ q) : queueOf (wakeBoundary s q tail) r = queueOf s r := by
  unfold wakeBoundary queueOf Store.getD
  dsimp only
  rw [get?_modify_other _ _ h]

/-- What the fifth order of a boundary does (R205). -/
structure SteppedOn (s t : Blk) (c n : Nat) : Prop where
  rest : t = { s with sqt := { s.sqt with ctxs := t.sqt.ctxs }, csq := { s.csq with queues := t.csq.queues } }
  own : sqtOf t c = { sqtOf s c with stepCnt := ((sqtOf s c).stepCnt + 1) % 2 ^ 32 }
  others : ∀ d, d ≠ c → sqtOf t d = sqtOf s d
  queues : ∀ d, d ≠ rgf s (bank rSqtSq c) 5 0 → queueOf t d = queueOf s d
  queue : queueOf t (rgf s (bank rSqtSq c) 5 0) =
    wrScratch (wrScratch (queueOf s (rgf s (bank rSqtSq c) 5 0)) 14 (BitVec.ofNat 64 n)) 15 (BitVec.ofNat 64 (residents s c))

theorem steppedOn (s : Blk) (c n : Nat) : SteppedOn s (stepOn s c n) c n := by
  have hr : ∀ y : Blk, y.sqt.ents = s.sqt.ents → residents y c = residents s c := by
    intro y h; unfold residents seqsOf; rw [h]
  unfold stepOn
  dsimp only
  refine ⟨rfl, setSqt_same _ _ _, fun d h => setSqt_other _ _ h, fun d h => ?_, ?_⟩
  · exact (setScratch_other _ _ _ h).trans (setScratch_other _ _ _ h)
  · refine (setScratch_queue _ _ _ _).trans ?_
    rw [hr (setSqt s c _) rfl]
    exact congrArg (fun x => wrScratch x 15 _) (setScratch_queue _ _ _ _)

theorem courseAddr_obs {s t : Blk} (h : Observed s t) (c : Nat) : courseAddr t c = courseAddr s c := by
  have k : ∀ o, o < 0x140000 → unitKey (bank o c) := by intro o ho; unfold unitKey bank; left; omega
  unfold courseAddr rg2
  rw [h.regs _ (k _ (by decide)), h.regs _ (k _ (by decide))]

theorem regAct_sqtstat (s : Blk) : regAct s 0xe0138 1 = some (sqtStatusWrite s (rgf s rSqtCtxSel 7 0) 1) := by
  rw [(regAct_units s 1 (w1c_none (by decide))).2.2.2.2.1 (by decide) (by decide)]
  unfold actSqt
  exact if_pos rfl

theorem courseBuilt (s : Blk) (c : Nat) : ∃ took, CourseBuilt s c (seqCands s c) took (buildCourse s c) := by
  generalize hcs : seqCands s c = cs
  unfold buildCourse
  rw [hcs]
  generalize hme : rgf s (bank rSqtLimits c) 30 16 + 1 = me
  generalize hmt : rgf s (bank rSqtLimits c) 14 0 + 1 = mt
  generalize htb : rgf s (bank rSqtTokBase c) 14 0 = tb
  let F := buildOne c me mt tb
  let y : Nat → Built := fun i => (cs.take i).foldl F { blk := s }
  let K : Nat → Nat := fun i => min (cs.getD i (0, {})).2.chunk (cs.getD i (0, {})).2.remain
  let took : Nat → Bool := fun i => decide ((y i).ents.length < me ∧ (y i).tok + K i ≤ mt)
  have inv : ∀ i, i ≤ cs.length →
      (y i).ents = ((List.range i).filter took).map (fun i => let v := (cs.getD i (0, {})).2; ({
        idx := (cs.getD i (0, {})).1, tokens := min v.chunk v.remain, token := tb + courseSum cs took i
        prio := v.cls * 64 + v.level, pos := v.pos, user := v.user, memBase := v.memBase } : CourseEnt)) ∧
      (y i).tok = courseSum cs took i ∧
      (y i).passed = ((List.range i).filter (fun i => !took i)).length ∧
      (y i).blk = { s with sqt := { s.sqt with ents := (y i).blk.sqt.ents, ctxs := (y i).blk.sqt.ctxs } } ∧
      (y i).blk.sqt.ents = (List.range i).foldl (fun m i => let p := cs.getD i (0, {}); Store.set m p.1
        (if took i then { p.2 with aseq := aseqFrom s c ((List.range i).filter took).length, skips := 0 }
         else { p.2 with skips := min (p.2.skips + 1) 0xffff })) s.sqt.ents ∧
      sqtOf (y i).blk c = { sqtOf s c with aseq := aseqFrom s c ((List.range i).filter took).length } ∧
      (∀ d, d ≠ c → sqtOf (y i).blk d = sqtOf s d) := by
    intro i
    induction i with
    | zero => intro _; exact ⟨rfl, rfl, rfl, rfl, rfl, rfl, fun _ _ => rfl⟩
    | succ i ih =>
      intro hi
      obtain ⟨h1, h2, h3, h4, h5, h6, h7⟩ := ih (by omega)
      have hlen : (y i).ents.length = ((List.range i).filter took).length := by rw [h1, List.length_map]
      have hget : cs.getD i (0, {}) = cs[i]'(by omega) := by
        rw [List.getD_eq_getElem?_getD, List.getElem?_eq_getElem (by omega)]; rfl
      have hy : y (i + 1) = F (y i) cs[i] := foldl_take_succ _ _ _ _ (by omega)
      rw [← hget] at hy
      have hsum : courseSum cs took (i + 1) = courseSum cs took i + (if took i then K i else 0) := by
        unfold courseSum
        rw [filter_range_succ, List.map_append, List.sum_append]
        congr 1
        by_cases ht : took i = true
        · rw [if_pos ht, if_pos ht]; simp [K]
        · rw [if_neg ht, if_neg ht]; rfl
      by_cases ht : took i = true
      · have ht2 := of_decide_eq_true ht
        have hF : F (y i) (cs.getD i (0, {})) = _ := if_pos ht2
        rw [hF] at hy
        have hs : ((List.range (i + 1)).filter took) = (List.range i).filter took ++ [i] := by rw [filter_range_succ, if_pos ht]
        have hn : ((List.range (i + 1)).filter (fun i => !took i)) = (List.range i).filter (fun i => !took i) := by
          rw [filter_range_succ, ht]; simp
        rw [hy, hs, hn, hsum, if_pos ht, List.length_append, List.map_append, List.length_singleton]
        have ha : (sqtOf (y i).blk c).aseq = aseqFrom s c ((List.range i).filter took).length := by rw [h6]
        refine ⟨?_, ?_, h3, ?_, ?_, ?_, fun d hd => ?_⟩
        · show (y i).ents ++ [_] = _
          rw [← h1, List.map_singleton, h2]
        · show (y i).tok + _ = _
          rw [h2]
        · show setSeq (setSqt (y i).blk c _) _ _ = _
          exact frame_sqt h4 _ _
        · rw [List.range_succ, List.foldl_append, ← h5, List.foldl_cons, List.foldl_nil]
          show Store.set _ _ _ = Store.set _ _ _
          rw [if_pos ht, ← ha]; rfl
        · show sqtOf (setSqt (y i).blk c _) c = _
          rw [setSqt_same, aseqFrom_succ, ← ha]
          rw [h6]
        · exact (setSqt_other _ _ hd).trans (h7 d hd)
      · have ht2 : ¬ ((y i).ents.length < me ∧ (y i).tok + K i ≤ mt) := fun h => ht (decide_eq_true h)
        have hF : F (y i) (cs.getD i (0, {})) = _ := if_neg ht2
        rw [hF] at hy
        have hs : ((List.range (i + 1)).filter took) = (List.range i).filter took := by rw [filter_range_succ, if_neg ht, List.append_nil]
        have hn : ((List.range (i + 1)).filter (fun i => !took i)) = (List.range i).filter (fun i => !took i) ++ [i] := by
          rw [filter_range_succ]; simp [ht]
        rw [hy, hs, hn, hsum, if_neg ht, Nat.add_zero]
        refine ⟨h1, h2, ?_, ?_, ?_, h6, h7⟩
        · rw [List.length_append, ← h3]; rfl
        · show setSeq (y i).blk _ _ = _
          exact frame_sqt h4 _ _
        · rw [List.range_succ, List.foldl_append, ← h5, List.foldl_cons, List.foldl_nil]
          show Store.set _ _ _ = Store.set _ _ _
          rw [if_neg ht]
  obtain ⟨h1, h2, h3, h4, h5, h6, h7⟩ := inv cs.length (Nat.le_refl _)
  have hy : y cs.length = cs.foldl F { blk := s } := by show (cs.take cs.length).foldl F _ = _; rw [List.take_length]
  rw [hy] at h1 h2 h3 h4 h5 h6 h7
  refine ⟨took, fun i hi => ?_, ?_, h2, h3, h4, h5, h6, h7⟩
  · obtain ⟨g1, g2, _⟩ := inv i (by omega)
    have hget : cs.getD i (0, {}) = cs[i]'hi := by
      rw [List.getD_eq_getElem?_getD, List.getElem?_eq_getElem (by omega)]; rfl
    rw [hme, hmt, ← g2]
    have : (y i).ents.length = ((List.range i).filter took).length := by rw [g1, List.length_map]
    rw [← this, ← hget]
  · rw [htb]; exact h1

theorem ch_word {ch tail : Nat} (hq : ch < 1024) (ht : tail < 65536) :
    fld (w32 (put ch 25 16 + put tail 15 0)) 25 16 = ch ∧ fld (w32 (put ch 25 16 + put tail 15 0)) 15 0 = tail := by
  rw [put_le (show ch < 2 ^ (25 + 1 - 16) by omega), put_le (show tail < 2 ^ (15 + 1 - 0) by omega)]
  unfold fld w32
  simp only [BitVec.toNat_ofNat, Nat.shiftRight_eq_div_pow]
  omega

theorem actPage_xch (s : Blk) (c o : Nat) (v : Word) (h : 0x400 ≤ o) (h2 : o < 0x600) : actPage s c o v = pageXch s c o v := by
  unfold actPage
  rw [if_neg (by omega), if_neg (by omega), if_pos h2]

theorem chanOf_set (s : Blk) (ch : Nat) (v : Chan) : chanOf (setChan s ch v) ch = v := getD_put_same _ _ _ _

theorem chanOf_other (s : Blk) {ch j : Nat} (v : Chan) (h : j ≠ ch) : chanOf (setChan s ch v) j = chanOf s j := getD_put_other _ _ _ h

theorem ringOf_set (s : Blk) (g : Nat) (v : Ring) : ringOf (setRing s g v) g = v := getD_put_same _ _ _ _

theorem ringOf_other (s : Blk) {g j : Nat} (v : Ring) (h : j ≠ g) : ringOf (setRing s g v) j = ringOf s j := getD_put_other _ _ _ h

theorem chanCtx_set (s : Blk) (ch : Nat) (v : Chan) (j : Nat) : chanCtx (setChan s ch v) j = chanCtx s j := rfl

theorem ringSet (s : Blk) (g : Nat) (w : Ring) : RingSet s (setRing s g w) g w := ⟨rfl, ringOf_set _ _ _, fun _ h => ringOf_other _ _ h⟩

theorem RingSet.again {s t : Blk} {g : Nat} {w : Ring} (h : RingSet s t g w) (x : Ring) : RingSet s (setRing t g x) g x := by
  refine ⟨?_, ringOf_set _ _ _, fun j hj => (ringOf_other _ _ hj).trans (h.others j hj)⟩
  have := h.rest
  unfold setRing; rw [this]

theorem ringBecomes {s t : Blk} {g : Nat} {w : Ring} (h : RingSet s t g w) : RingBecomes s (writePtr t g) g w := by
  unfold writePtr
  dsimp only
  rw [h.ring]
  refine ⟨fun hb => ?_, fun hb => ?_⟩
  · rw [if_pos hb]; exact h.again _
  · rw [if_neg (by rw [hb]; decide)]
    exact ⟨_, h.again _, rfl⟩

theorem byte_fits (a : Nat) : a % 64 + (leBytes 1 n).length ≤ 64 := by rw [leBytes_length]; omega

theorem statusAsked (s : Blk) (ch slot status : Nat) :
    StatusAsked s (writeStatus s ch slot status) ch slot status := by
  unfold StatusAsked writeStatus
  dsimp only
  refine ⟨setChan s ch ((chanOf s ch).modRec slot (fun r => { r with phase := .status, status, left := 1 })), rfl,
      fun j hj => chanOf_other _ _ hj, chanOf_set _ _ _, ?_⟩
  rw [chanCtx_set]
  exact memWrite_asked _ _ _ _ _ _ _ _ (by simp [leBytes]) (by rw [leBytes_length]; omega)

theorem Observed.chan {s t : Blk} (h : Observed s t) (ch : Nat) : chanOf t ch = chanOf s ch := by rw [h.rest]; rfl

theorem find?_filter {α : Type} (l : List α) (p q : α → Bool) (h : ∀ x, q x = true → p x = true) : (l.filter p).find? q = l.find? q := by
  induction l with
  | nil => rfl
  | cons x r ih =>
    by_cases hp : p x = true
    · rw [List.filter_cons_of_pos hp, List.find?_cons, List.find?_cons, ih]
    · rw [List.filter_cons_of_neg hp, List.find?_cons, ih]
      have : q x = false := by cases hq : q x; rfl; exact absurd (h x hq) hp
      rw [this]

theorem Observed.chanCtx {s t : Blk} (h : Observed s t) (ch : Nat) : chanCtx t ch = chanCtx s ch := by
  have hw := h.words
  unfold Machine.chanCtx grantOf
  unfold unitWords at hw
  have key : ∀ (x : Store Word), x.find? (fun p => p.1 % 0x1000000 == rXchSchs && decide (fld p.2 13 0 ≤ ch ∧
      ch < fld p.2 13 0 + fld p.2 30 16)) =
      (x.filter (fun p => decide (unitKey p.1))).find? (fun p => p.1 % 0x1000000 == rXchSchs && decide (fld p.2 13 0 ≤ ch ∧
          ch < fld p.2 13 0 + fld p.2 30 16)) := by
    intro x
    refine (find?_filter _ _ _ ?_).symm
    intro p hp
    rw [Bool.and_eq_true, beq_iff_eq] at hp
    have h1 := hp.1
    refine decide_eq_true (Or.inl ?_)
    rw [h1]; decide
  rw [key, hw, ← key]

/-- A record is refused, whatever was observed before. -/
theorem recordRefused {s t : Blk} {c ch : Nat} (ht : Observed s t) (r : SendRec) (code : Nat) (fault : Bool) :
    RecordRefused s (push (refuseRec t c ch r.slot (code, fault)) [.chanPump ch]) c ch r code fault := by
  unfold refuseRec localStatus
  dsimp only
  exact ⟨t, _, _, ht, rfl, ⟨_, Observed.evN _ _ _ _, statusAsked _ _ _ _⟩, rfl⟩

theorem frontReady {v : Chan} {older : List SendRec} {r : SendRec} (h : v.recs = older ++ [r]) (hp : r.phase = .ready) :
    v.front = some (r, older.getLast?) := by
  unfold Chan.front
  rw [h, List.reverse_append]
  show (if r.phase = .ready then some (r, older.reverse.head?) else none) = _
  rw [if_pos hp, List.head?_reverse]

theorem afterStatus_iff (older : List SendRec) : afterStatus older.getLast? = true ↔ (older = [] ∨ ∃ p, older.getLast? = some p ∧
    p.phase = .done) := by
  unfold afterStatus
  cases h : older.getLast? with
  | none => simp [List.getLast?_eq_none_iff.mp h]
  | some p =>
    have : older ≠ [] := by rintro rfl; simp at h
    simp [this]

theorem Observed.peerFenced {s t : Blk} (h : Observed s t) (d : Nat) : peerFenced t d = peerFenced s d := by
  have hw := h.words
  unfold Machine.peerFenced
  unfold unitWords at hw
  have key : ∀ (x : Store Word), x.any (fun p => p.1 % 0x1000000 == rPeerEnt && entFences p.2 d) =
      (x.filter (fun p => decide (unitKey p.1))).any (fun p => p.1 % 0x1000000 == rPeerEnt && entFences p.2 d) := by
    intro x
    rw [List.any_filter]
    congr 1
    funext p
    by_cases hp : p.1 % 0x1000000 = rPeerEnt
    · have : unitKey p.1 := Or.inl (by rw [hp]; decide)
      simp [this]
    · simp [hp]
  rw [key, hw, ← key]

theorem sendCmd_ready {s : Blk} {ch c : Nat} {older : List SendRec} {r : SendRec} (hc : chanCtx s ch = some c)
    (hfr : (chanOf s ch).front = some (r, older.getLast?)) :
    sendCmd s ch = if (r.op ≠ 1 || (chanOf s ch).fault || decide ((chanOf s ch).unanswered ≥ 8)) = true then s
        else match sendCheck s c r with
        | some p => push (refuseRec s c ch r.slot p) [.chanPump ch]
        | none => push (setChan s ch { (chanOf s ch).modRec r.slot (fun x => { x with phase := .offered, lines := [] }) with
            mseq := ((chanOf s ch).mseq + 1) % 2 ^ 32 })
            [.fabReq (sendReq s c ch (chanOf s ch) r), .chanPump ch] := by
  unfold sendCmd
  dsimp only
  rw [hc, hfr]
  rfl

theorem allocCmd_ready {s : Blk} {ch c : Nat} {older : List SendRec} {r : SendRec} (hc : chanCtx s ch = some c)
    (hfr : (chanOf s ch).front = some (r, older.getLast?)) :
    allocCmd s ch = if (r.op ≠ 2 || (chanOf s ch).fault || !afterStatus older.getLast?) = true then s
        else match sendCheck (ev s 0x11e c) c r with
        | some p => push (refuseRec (ev s 0x11e c) c ch r.slot p) [.chanPump ch]
        | none => if rg2 (ev s 0x11e c) (rPools + 0x10 * r.pool) (rPools + 0x10 * r.pool + 4) = 0 then
            push (localStatus (ev s 0x11e c) ch r.slot kPoolEmpty) [.chanPump ch]
          else push (memRead (setChan (ev s 0x11e c) ch ((chanOf s ch).modRec r.slot (fun x => { x with phase := .aw, left := 1 })))
            (rg2 (ev s 0x11e c) (rPools + 0x10 * r.pool) (rPools + 0x10 * r.pool + 4)) 0 (some c) uXch ch
            (.allocRead ch (chanOf s ch).epoch r.slot)) [.chanPump ch] := by
  unfold allocCmd
  dsimp only
  rewrite [hc, hfr]
  rfl

theorem freeCmd_ready {s : Blk} {ch c : Nat} {older : List SendRec} {r : SendRec} (hc : chanCtx s ch = some c)
    (hfr : (chanOf s ch).front = some (r, older.getLast?)) :
    freeCmd s ch = if (r.op ≠ 3 || (chanOf s ch).fault || !afterStatus older.getLast?) = true then s
        else match sendCheck (ev s 0x11f c) c r with
        | some p => push (refuseRec (ev s 0x11f c) c ch r.slot p) [.chanPump ch]
        | none => push (memWrite (setChan (ev s 0x11f c) ch ((chanOf s ch).modRec r.slot (fun x => { x with phase := .aw, left := 1 })))
            (rg2 (ev s 0x11f c) (rPools + 0x10 * r.pool + 8) (rPools + 0x10 * r.pool + 12)) (leBytes 8 r.addr) 1 (some c) uXch ch
            (.freeWrite ch (chanOf s ch).epoch r.slot)) [.chanPump ch] := by
  unfold freeCmd
  dsimp only
  rewrite [hc, hfr]
  rfl

theorem resume_en (s : Blk) (ch : Nat) : (chanOf (chanResume s ch) ch).en = (chanOf s ch).en := by
  have hw : ∀ (t : Blk) (a : Nat) (bs : List Byte) (q : Nat) (c : Option Nat) (u i : Nat) (o : MemOwner),
      chanOf (memWrite t a bs q c u i o) ch = chanOf t ch := by
    intro t a bs q c u i o
    rw [(Asked.memWrite t a bs q c u i o).rest]; rfl
  unfold chanResume
  dsimp only
  rw [chanOf_set]
  show (chanOf (forEach _ _ _) ch).en = _
  have : ∀ (l : List SendRec) (t : Blk), (chanOf t ch).en = (chanOf s ch).en → (chanOf (forEach l t (fun s r =>
    if r.left ≠ 0 then s
    else if r.phase = .status then writeStatus s ch r.slot r.status
    else if r.phase = .aw then writeHandle s ch r.slot r.handle
    else s)) ch).en = (chanOf s ch).en := by
    intro l
    unfold forEach
    induction l with
    | nil => intro t h; exact h
    | cons r l ih =>
      intro t h
      rw [List.foldl_cons]
      refine ih _ ?_
      split
      · exact h
      · split
        · unfold writeStatus; dsimp only; rw [hw, chanOf_set]; exact h
        · split
          · unfold writeHandle; dsimp only; rw [hw, chanOf_set]; exact h
          · exact h
  refine this _ _ ?_
  rw [chanOf_set]

/-- The cases of a write of XCH_SCFG (R284). -/
theorem chanCfg_cases (s : Blk) (page ch : Nat) (w : Word) :
    let x := chanOf s ch
    let bad := chanCtx s ch ≠ some page ∨ fld w 4 0 < 4 ∨ 16 < fld w 4 0 ∨ (x.en = true ∧ (bitAt w 30 ≠ x.reply ∨ fld w 4 0 ≠ x.log2)) ∨
      (x.en = true ∧ bitAt w 31 = false ∧ x.underWay = true)
    let y := if (bitAt w 29 && x.fault) = true then chanResume s ch else s
    (bad → chanCfg s page ch w = none) ∧
    (¬ bad → chanCfg s page ch w = some (
      if (bitAt w 31 && !x.en) = true then setChan y ch { chanOf y ch with
          reply := bitAt w 30, log2 := fld w 4 0, en := true, head := 0, tail := 0, next := 0, mseq := 0, recs := [], epoch :=
              (chanOf y ch).epoch + 1 }
      else if (!bitAt w 31 && x.en) = true then setChan y ch { chanOf y ch with
          reply := bitAt w 30, log2 := fld w 4 0, en := false, recs := [], epoch := (chanOf y ch).epoch + 1 }
      else setChan y ch { chanOf y ch with reply := bitAt w 30, log2 := fld w 4 0 })) := by
  intro x bad y
  have hen : (chanOf y ch).en = x.en := by
    show (chanOf (if (bitAt w 29 && x.fault) = true then chanResume s ch else s) ch).en = _
    split
    · exact resume_en s ch
    · rfl
  have hb : (decide (chanCtx s ch ≠ some page) || decide (fld w 4 0 < 4) || decide (fld w 4 0 > 16) ||
      (x.en && (decide (bitAt w 30 ≠ x.reply) || decide (fld w 4 0 ≠ x.log2))) ||
      (x.en && !bitAt w 31 && x.underWay)) = true ↔ bad := by
    simp only [Bool.or_eq_true, Bool.and_eq_true, decide_eq_true_eq, Bool.not_eq_true']
    show _ ↔ (_ ∨ _ ∨ _ ∨ _ ∨ _)
    tauto
  refine ⟨fun h => ?_, fun h => ?_⟩
  · unfold chanCfg; dsimp only; exact if_pos (hb.mpr h)
  · unfold chanCfg; dsimp only
    refine (if_neg (fun e => h (hb.mp e))).trans ?_
    show some (if (bitAt w 31 && !(chanOf y ch).en) = true then _ else if (!bitAt w 31 && (chanOf y ch).en) = true then _ else _) = _
    rw [hen]

theorem scfg_word (x : Chan) : let u := w32 (scfgWord { x with fault := true })
    fld u 4 0 = x.log2 % 32 ∧ bitAt u 29 = true ∧ bitAt u 30 = x.reply ∧ bitAt u 31 = x.en := by
  intro u
  have hu : u.toNat = b2n x.en * 2 ^ 31 + b2n x.reply * 2 ^ 30 + 2 ^ 29 + x.log2 % 32 := by
    show (BitVec.ofNat 32 (scfgWord { x with fault := true })).toNat = _
    have : scfgWord { x with fault := true } = b2n x.en * 2 ^ 31 + b2n x.reply * 2 ^ 30 + 2 ^ 29 + x.log2 % 32 := by
      unfold scfgWord put
      simp only [Nat.shiftLeft_eq]
      cases x.en <;> cases x.reply <;> simp [b2n]
    rw [this, BitVec.toNat_ofNat, Nat.mod_eq_of_lt]
    have : x.log2 % 32 < 32 := Nat.mod_lt _ (by decide)
    cases x.en <;> cases x.reply <;> simp only [b2n] <;> simp <;> omega
  have hb : ∀ k, bitAt u k = decide (u.toNat / 2 ^ k % 2 = 1) := by
    intro k; unfold bitAt; rw [BitVec.getLsbD, Nat.testBit_eq_decide_div_mod_eq]
  have hl : x.log2 % 32 < 32 := Nat.mod_lt _ (by decide)
  refine ⟨?_, ?_, ?_, ?_⟩
  · unfold fld; rw [hu, Nat.shiftRight_zero]
    omega
  · rw [hb, hu]
    cases x.en <;> cases x.reply <;> simp only [b2n] <;> simp <;> omega
  · rw [hb, hu]
    cases x.en <;> cases x.reply <;> simp only [b2n] <;> simp <;> omega
  · rw [hb, hu]
    cases x.en <;> cases x.reply <;> simp only [b2n] <;> simp <;> omega

theorem get?_of_mem {α : Type} (m : Store α) {p : Nat × α} (h : p ∈ m) : (Store.get? m p.1).isSome = true := by
  induction m with
  | nil => exact absurd h (by simp)
  | cons x r ih =>
    obtain ⟨a, v⟩ := x
    simp only [Store.get?]
    split
    · rfl
    · rename_i hn
      rcases List.mem_cons.mp h with rfl | h
      · exact absurd rfl hn
      · exact ih h

theorem openRing_closed {s : Blk} {g c : Nat} {bound : Option Nat} (hc : ringCtx s g = some c) (hb : ∀ l, bound = some l →
    (launchOf s l).isSome = true)
    (_h : (ringOf s g).state ≠ .opened) (k : Nat) (hk : ∀ l, bound = some l → k = l + 1) (hk0 : bound = none → k = 0)
    (hm : openRing s g bound = ringPump (setRing s g { ringOf s g with openHeld := some k }) g) :
    let v := ringOf s g
    (v.places ≠ [] → RingSet s (openRing s g bound) g { v with openHeld := some k }) ∧
    (v.places = [] → RingBecomes s (openRing s g bound) g { v with
        state := .opened, rgen := if (v.rgen + 1) % 256 = 0 then 1 else v.rgen + 1, resv := 0, wptr := 0, rptr := 0, badOnce := false
        bound, openHeld := none, ctx := c }) := by
  intro v
  have hr := ringSet s g { v with openHeld := some k }
  rw [hm]
  unfold ringPump
  dsimp only
  rw [hr.ring]
  dsimp only
  refine ⟨fun hp => ?_, fun hp => ?_⟩
  · rw [if_neg (by simpa using hp)]
    exact hr
  · rw [if_pos (by rw [hp]; rfl)]
    have hl : (if (decide (k ≠ 0) && (launchOf (setRing s g { v with
        openHeld := some k }) (k - 1)).isSome) = true then some (k - 1) else none) = bound := by
      rcases hbd : bound with _ | l
      · simp [hk0 hbd]
      · have := hb l hbd
        have hk := hk l hbd
        have e2 : launchOf (setRing s g { v with openHeld := some k }) (k - 1) = launchOf s l := by
          show launchOf s (k - 1) = _; rw [hk]; rfl
        rw [e2, this, hk]
        simp
    rw [hl]
    unfold openNow
    dsimp only
    refine ringBecomes ?_
    rw [hr.ring]
    have e3 : ringCtx (setRing s g { v with openHeld := some k }) g = some c := hc
    rw [e3]
    exact hr.again _

theorem pool_lt (r : SendRec) : r.pool < 16 := by
  unfold SendRec.pool SendRec.flags leAt
  generalize hl : (r.bytes.drop 6).take 1 = l
  have hlen : l.length ≤ 1 := by rw [← hl, List.length_take]; omega
  match l, hlen with
  | [], _ => decide
  | [b], _ =>
    have := b.isLt
    simp only [ofLe]
    omega

theorem sendCheck_cases (s : Blk) (c : Nat) (r : SendRec) :
    (4096 < r.len → sendCheck s c r = some (kTooLong, false)) ∧
    (r.op = 1 → r.len ≤ 4096 → r.malformed = true ∨ (r.isHandle = true ∧ (slotOf s c).handles = 0) →
      sendCheck s c r = some (kAck, true)) ∧
    (r.op = 1 → r.len ≤ 4096 → r.malformed = false → r.isHandle = false ∨ ¬ (slotOf s c).handles = 0 →
      sendCheck s c r = if peerFenced s r.dstDie then some (kPeerFenced, false) else none) ∧
    (r.op = 2 → r.len ≤ 4096 → sendCheck s c r = if r.malformed then some (kAck, true) else none) ∧
    (r.op = 3 → r.len ≤ 4096 → sendCheck s c r = if r.malformed = true ∨ (slotOf s c).handles = 0 then some (kAck, true) else none) := by
  unfold sendCheck
  refine ⟨fun h => if_pos h, fun h h2 h3 => ?_, fun h h2 h3 h4 => ?_, fun h h2 => ?_, fun h h2 => ?_⟩
  · rw [if_neg (by omega)]
    rcases h3 with h3 | h3
    · simp [h3]
    · split
      · rfl
      · rw [if_pos (by simp [h, h3])]
  · rw [if_neg (by omega), if_neg (by simp [h, h3]), if_neg (by rcases h4 with h4 | h4 <;> simp [h, h4])]
    simp [h]
  · rw [if_neg (by omega)]; simp [h]
  · rw [if_neg (by omega)]; cases hm : r.malformed <;> simp [h]

theorem SlotMoves.same {s t : Blk} {c : Nat} {v : CtxSlot} (h : SlotMoves s t c v) (w : CtxSlot) : SlotMoves s (setSlot t c w) c w := by
  refine ⟨?_, slotOf_setSlot_same _ _ _, fun d hd => (slotOf_setSlot_other _ _ hd).trans (h.others d hd), fun k hk => h.regs k hk⟩
  have := h.rest
  generalize t.regs = a at this
  generalize t.obs = b at this
  generalize t.dbg = d at this
  generalize t.ctx.slots = e at this
  subst this
  rfl

theorem slotMoves_set (s : Blk) (c : Nat) (w : CtxSlot) : SlotMoves s (setSlot s c w) c w :=
  ⟨rfl, slotOf_setSlot_same _ _ _, fun _ hd => slotOf_setSlot_other _ _ hd, fun _ _ => rfl⟩

theorem SlotMoves.observed {s t u : Blk} {c : Nat} {v : CtxSlot} (h : SlotMoves s t c v) (o : Observed t u) : SlotMoves s u c v := by
  have hc : u.ctx = t.ctx := by rw [o.rest]
  refine ⟨?_, (slotOf_congr hc c).trans h.slot, fun d hd => (slotOf_congr hc d).trans (h.others d hd),
      fun k hk => (o.regs k hk).trans (h.regs k hk)⟩
  have h1 := o.rest
  have h2 := h.rest
  have h3 : u.ctx.slots = t.ctx.slots := by rw [hc]
  rw [h3]
  generalize u.regs = a at h1 ⊢
  generalize u.obs = b at h1 ⊢
  generalize u.dbg = d at h1 ⊢
  generalize t.regs = a' at h2
  generalize t.obs = b' at h2
  generalize t.dbg = d' at h2
  generalize t.ctx.slots = e at h2 ⊢
  subst h2
  exact h1

theorem SlotMoves.st {s t : Blk} {c : Nat} {v : CtxSlot} (h : SlotMoves s t c v) (st : CtxState) :
    SlotMoves s (setCtxSt t c st) c { v with state := st } := by
  unfold setCtxSt
  dsimp only
  have := (h.same { slotOf t c with state := st }).observed (Observed.trace _ 0xe (some c)
    (put (slotOf t c).state.num 127 124 + put st.num 123 120 + put (slotOf t c).gen 119 112 + put (slotOf t c).code 111 104))
  rw [h.slot] at this ⊢
  exact this

theorem slotMoves_st (s : Blk) (c : Nat) (st : CtxState) : SlotMoves s (setCtxSt s c st) c { slotOf s c with state := st } := by
  unfold setCtxSt
  dsimp only
  exact (slotMoves_set s c _).observed (Observed.trace _ _ _ _)

theorem boardAsked (s : Blk) (c : Nat) (run : Bool) : BoardAsked s (boardWrite s c run) c run := by
  unfold BoardAsked boardWrite boardBase
  dsimp only
  refine ⟨fun h => ?_, fun h1 h2 => ⟨_, rfl, ?_⟩⟩
  · rw [if_pos (by simpa using h)]
  · rw [if_neg (by simp [h1, h2])]
    have : ctxGen (setSlot s c { slotOf s c with boardBusy := (slotOf s c).boardBusy + 1 }) c = ctxGen s c := by
      unfold ctxGen; rw [slotOf_setSlot_same]
    rw [this]
    rfl

theorem opens (s : Blk) (c : Nat) : Opens s (openWork s c) c := by
  unfold openWork
  dsimp only
  have h := ((slotMoves_set s c { slotOf s c with gen := if ctxGen s c = 0 then 1 else ctxGen s c, code := 0, rpend := false }).st .opening)
  have hs := h.slot
  generalize setCtxSt _ c .opening = x at h hs ⊢
  rw [hs]
  have h2 := h.same { slotOf s c with
      state := .opening, gen := if ctxGen s c = 0 then 1 else ctxGen s c, code := 0, rpend := false, leaseEnd := none, tick := 0, rotor := 0
      tcc := 0, front := none, frontAt := none, frontStalled := false, lseq := 0, tickOpen := false, decided := 0, replay := false }
  generalize hy : setSlot x c _ = y at h2 ⊢
  refine ⟨y, _, ?_, rfl, ?_⟩
  · convert h2 using 1
  · have hq : y.sqt = s.sqt := by rw [h2.rest]
    have : setSqt y c { sqtOf y c with stepCnt := 0, aseq := 0, course := none, nbuilt := 0 } =
      { y with sqt := { s.sqt with ctxs := Store.put {} s.sqt.ctxs c { sqtOf s c with
      stepCnt := 0, aseq := 0, course := none, nbuilt := 0 } } } := by
      unfold setSqt sqtOf; rw [hq]
    rw [← this]
    exact boardAsked _ _ _

theorem fenceable_iff (s : Blk) (c : Nat) : fenceable s c = true ↔ Fenceable s c := by
  unfold fenceable Fenceable; simp [or_assoc]

theorem becomeOpen_eq (s : Blk) (c : Nat) : becomeOpen s c = push (setCtxSt s c .opened) (openWakes s c) := rfl

theorem drained_iff (s : Blk) (c : Nat) : drained s c = true ↔ Drained s c := by
  unfold drained tearing
  simp only [Bool.and_eq_true, Bool.not_eq_true', Bool.or_eq_true, beq_iff_eq, List.any_eq_false, List.isEmpty_iff, seqsOf,
    List.filter_eq_nil_iff, Bool.or_eq_false_iff, beq_eq_false_iff_ne]
  constructor
  · rintro ⟨⟨⟨⟨⟨⟨h1, h2⟩, h3⟩, h4⟩, h5⟩, h6⟩, h7⟩
    refine ⟨fun p hp => by simpa using h1 p hp, fun p hp => by simpa using h2 p hp, h3, h4, fun p hp hc => ?_, fun ht p hp => ?_, h7⟩
    · have := h5 p hp; simpa [hc] using this
    · rcases h6 with ⟨⟨a, b⟩, d⟩ | h6
      · rcases ht with ht | ht | ht
        · exact absurd ht a
        · exact absurd ht b
        · simp [ht] at d
      · simpa using h6 p hp
  · rintro ⟨h1, h2, h3, h4, h5, h6, h7⟩
    refine ⟨⟨⟨⟨⟨⟨fun p hp => by simpa using h1 p hp, fun p hp => by simpa using h2 p hp⟩, h3⟩, h4⟩, fun p hp => ?_⟩, ?_⟩, h7⟩
    · by_cases hc : p.2.ctx = c
      · simp [hc, h5 p hp hc]
      · simp [hc]
    · by_cases ht : ctxSt s c = .closing ∨ ctxSt s c = .pendingReuse ∨ (slotOf s c).rpend = true
      · exact Or.inr fun p hp => by simpa using h6 ht p hp
      · left
        simp only [not_or, Bool.not_eq_true] at ht
        exact ⟨⟨ht.1, ht.2.1⟩, ht.2.2⟩

theorem replayOn_none (b : Blk) (c : Nat) (hf : ∀ r ∈ b.ctx.ovf, r.ctx ≠ c) (hw : b.ctx.ovfWait = []) :
    ∃ t, t = setSlot (pushBack b ((Store.keys b.csq.queues).map Work.cplPump)) c { slotOf b c with replay := false, code := 0 } ∧
      replayOn b c = becomeOpen (if (slotOf b c).leaseEnd.isNone then startLease t c else t) c := by
  have hnone (x : Blk) (hx : x.ctx.ovf = b.ctx.ovf) : nextReplay x c = none := by
    unfold nextReplay; rw [hx, List.find?_eq_none]; intro r hr; simp [hf r hr]
  have hfl : b.ctx.ovf.filter (fun r => r.ctx ≠ c) = b.ctx.ovf := by
    rw [List.filter_eq_self]; intro r hr; simp [hf r hr]
  have he : ({ b with ctx := { b.ctx with ovf := b.ctx.ovf.filter (fun r => r.ctx ≠ c) } } : Blk) = b := by rw [hfl]
  have hfill : ovfFill b = pushBack b ((Store.keys b.csq.queues).map Work.cplPump) := by
    unfold ovfFill
    dsimp only
    rw [hw, List.take_nil, List.foldl_nil]
  refine ⟨_, rfl, ?_⟩
  unfold replayOn
  rw [hnone b rfl]
  dsimp only
  rw [he, hfill]
  rw [hnone (pushBack b _) rfl]
  dsimp only
  rw [slotOf_setSlot_same]
  rfl

theorem orBits_slot (s : Blk) (k m c : Nat) : slotOf (orBits s k m) c = slotOf s c := rfl

theorem startLease_slot (s : Blk) (c d : Nat) : slotOf (startLease s c) d =
    if d = c then { slotOf s c with leaseEnd := leaseFrom s c } else slotOf s d := by
  by_cases h : d = c
  · subst h; rw [if_pos rfl]; exact slotOf_setSlot_same _ _ _
  · rw [if_neg h]; exact slotOf_setSlot_other _ _ h

theorem startLease_rest (s : Blk) (c : Nat) : startLease s c = { s with ctx := { s.ctx with slots := (startLease s c).ctx.slots } } := rfl

theorem renewAll (l : List Nat) : ∀ s : Blk,
    (forEach l s startLease) = { s with ctx := { s.ctx with slots := (forEach l s startLease).ctx.slots } } ∧
    ∀ d, slotOf (forEach l s startLease) d = if d ∈ l then { slotOf s d with leaseEnd := leaseFrom s d } else slotOf s d := by
  induction l with
  | nil => intro s; exact ⟨rfl, fun d => by simp [forEach]⟩
  | cons a l ih =>
    intro s
    obtain ⟨h1, h2⟩ := ih (startLease s a)
    have e : forEach (a :: l) s startLease = forEach l (startLease s a) startLease := rfl
    rw [e]
    refine ⟨h1, fun d => ?_⟩
    rw [h2 d, startLease_slot]
    have hl : ∀ d, leaseFrom (startLease s a) d = leaseFrom s d := fun _ => rfl
    rw [hl]
    by_cases h : d = a
    · subst h; by_cases h' : d ∈ l <;> simp [h']
    · by_cases h' : d ∈ l <;> simp [h', h]

theorem tickKey_lt_iff (a b : TickKey) : a.lt b = true ↔ a.cls < b.cls ∨ (a.cls = b.cls ∧ (a.level < b.level ∨ (a.level = b.level ∧
    (a.seq < b.seq ∨ (a.seq = b.seq ∧ a.party < b.party))))) := by
  unfold TickKey.lt; simp

theorem leastItem_least (l : List (TickKey × TickItem)) (h : l ≠ []) :
    ∃ p ∈ l, (∀ x ∈ l, x.1.lt p.1 = false) ∧ leastItem l = some p.2 := by
  cases l with
  | nil => exact absurd rfl h
  | cons x r =>
    have key : ∀ (r : List (TickKey × TickItem)) (x : TickKey × TickItem),
        let p := r.foldl (fun b y => if y.1.lt b.1 then y else b) x
        p ∈ x :: r ∧ ∀ y ∈ x :: r, y.1.lt p.1 = false := by
      intro r
      induction r with
      | nil =>
        intro x
        refine ⟨List.mem_singleton.2 rfl, fun y hy => ?_⟩
        rw [List.mem_singleton.1 hy, List.foldl_nil, Bool.eq_false_iff, Ne, tickKey_lt_iff]
        omega
      | cons z r ih =>
        intro x
        rw [List.foldl_cons]
        obtain ⟨h1, h2⟩ := ih (if z.1.lt x.1 then z else x)
        dsimp only at h1 h2 ⊢
        generalize r.foldl _ _ = p at h1 h2 ⊢
        refine ⟨?_, fun y hy => ?_⟩
        · rcases List.mem_cons.1 h1 with h1 | h1
          · rw [h1]; split <;> simp
          · simp [h1]
        · have ha := h2 _ (List.mem_cons_self ..)
          have hb : ∀ y ∈ r, y.1.lt p.1 = false := fun y hy => h2 y (List.mem_cons_of_mem _ hy)
          rcases List.mem_cons.1 hy with hy | hy
          · subst hy
            by_cases hz : z.1.lt y.1 = true
            · rw [if_pos hz] at ha
              rw [Bool.eq_false_iff, Ne, tickKey_lt_iff] at ha ⊢
              rw [tickKey_lt_iff] at hz
              omega
            · rwa [if_neg hz] at ha
          · rcases List.mem_cons.1 hy with hy | hy
            · subst hy
              by_cases hz : y.1.lt x.1 = true
              · rwa [if_pos hz] at ha
              · rw [if_neg hz] at ha
                rw [Bool.eq_false_iff, Ne, tickKey_lt_iff] at ha ⊢
                rw [tickKey_lt_iff] at hz
                omega
            · exact hb y hy
    obtain ⟨h1, h2⟩ := key r x
    exact ⟨_, h1, h2, rfl⟩

theorem minDue (l : List Owed) : ∀ x : Nat, (l.map (·.due)).foldl min x ≤ x ∧ (∀ o ∈ l, (l.map (·.due)).foldl min x ≤ o.due) ∧
    ((l.map (·.due)).foldl min x = x ∨ ∃ o ∈ l, o.due = (l.map (·.due)).foldl min x) := by
  induction l with
  | nil => exact fun x => ⟨le_refl _, fun _ h => absurd h (List.not_mem_nil), Or.inl rfl⟩
  | cons a l ih =>
    intro x
    obtain ⟨h1, h2, h3⟩ := ih (min x a.due)
    have e : ((a :: l).map (·.due)).foldl min x = (l.map (·.due)).foldl min (min x a.due) := rfl
    rw [e]
    generalize (l.map (·.due)).foldl min (min x a.due) = m at *
    refine ⟨by omega, fun o ho => ?_, ?_⟩
    · rcases List.mem_cons.1 ho with rfl | ho
      · omega
      · exact h2 o ho
    · rcases h3 with h3 | ⟨o, ho, h3⟩
      · by_cases h : x ≤ a.due
        · left; omega
        · right; exact ⟨a, List.mem_cons_self .., by omega⟩
      · exact Or.inr ⟨o, List.mem_cons_of_mem _ ho, h3⟩

theorem bufReg_eq (b o : Nat) : bufReg b o = 0x140a00 + 64 * b + o := rfl

theorem cntReg_eq (n : Nat) : cntReg n = 0x140000 + 32 * n := rfl

theorem bufOf_setBuf (s : Blk) (b : Nat) (v : TBuf) (d : Nat) : bufOf (setBuf s b v) d = if d = b then v else bufOf s d := by
  by_cases h : d = b
  · subst h; rw [if_pos rfl]; exact getD_put_same _ _ _ _
  · rw [if_neg h]; exact getD_put_other _ _ _ h

theorem bufOf_obs {s t : Blk} (h : t.obs.bufs = s.obs.bufs) (d : Nat) : bufOf t d = bufOf s d := by unfold bufOf; rw [h]

theorem loseRecs_buf (s : Blk) (b : Nat) (l : List Word256) (d : Nat) : bufOf (loseRecs s b l) d =
    if d = b then { bufOf s b with
        lossRun := if bufDrain s b then growLoss (bufOf s b).lossRun l else (bufOf s b).lossRun } else bufOf s d := by
  unfold loseRecs
  by_cases h : (bufDrain s b && !l.isEmpty) = true
  · rw [if_pos h]
    dsimp only
    have hb : (evRaw (bumpN (setBuf s b { bufOf s b with lossRun := growLoss (bufOf s b).lossRun l }) (bufReg b 0x1c) l.length)
      (0x140 + b) none l.length).obs.bufs = (setBuf s b { bufOf s b with lossRun := growLoss (bufOf s b).lossRun l }).obs.bufs := by
      unfold evRaw bumpN; split <;> rfl
    rw [bufOf_obs hb, bufOf_setBuf]
    rw [Bool.and_eq_true] at h
    rw [if_pos h.1]
  · rw [if_neg h]
    by_cases hd : d = b
    · subst hd
      rw [if_pos rfl]
      by_cases h2 : bufDrain s d = true
      · rw [if_pos h2]
        rw [h2, Bool.true_and, Bool.not_eq_true', Bool.not_eq_false, List.isEmpty_iff] at h
        rw [h]; rfl
      · rw [if_neg h2]
    · rw [if_neg hd]

theorem loseRecs_rg (s : Blk) (b : Nat) (l : List Word256) {k : Nat} (hk : k ≠ bufReg b 0x1c) : rg (loseRecs s b l) k = rg s k := by
  unfold loseRecs
  split
  · dsimp only
    have : rg (bumpN (setBuf s b { bufOf s b with lossRun := growLoss (bufOf s b).lossRun l }) (bufReg b 0x1c) l.length) k = rg s k := by
      unfold bumpN
      split
      · rfl
      · exact (onlyReg_wr _ _ _).others k hk
    exact this
  · rfl

/-- What a trigger leaves in a buffer (R353). -/
def triggered (x : TBuf) (drain : Bool) (w : Word256) : TBuf :=
  { x with recs := x.recs.drop (x.recs.length - 1535) ++ [w], state := .post, postLeft := 512
           lossRun := if drain then growLoss x.lossRun (x.recs.take (x.recs.length - 1535)) else x.lossRun }

theorem trigBuf_buf (s : Blk) (b : Nat) (w : Word256) (d : Nat) : bufOf (trigBuf s b w) d =
    if d = b then triggered (bufOf s b) (bufDrain s b) w else bufOf s d := by
  unfold trigBuf
  dsimp only
  rw [bufOf_setBuf, loseRecs_buf, if_pos rfl, loseRecs_buf]
  by_cases h : d = b
  · rw [if_pos h, if_pos h]; rfl
  · rw [if_neg h, if_neg h, if_neg h]

theorem trigBuf_rg (s : Blk) (b : Nat) (w : Word256) {k : Nat} (hk : k ≠ bufReg b 0x1c) : rg (trigBuf s b w) k = rg s k := by
  unfold trigBuf
  exact loseRecs_rg s b _ hk

theorem trigBufs_all (w : Word256) (l : List Nat) (hl : l.Nodup) (h4 : ∀ b ∈ l, b < 4) : ∀ s : Blk,
    (∀ d, bufOf (forEach l s (fun s b => trigBuf s b w)) d =
      if d ∈ l then triggered (bufOf s d) (bufDrain s d) w else bufOf s d) ∧
    (∀ k, (∀ b, b < 4 → k ≠ bufReg b 0x1c) → rg (forEach l s (fun s b => trigBuf s b w)) k = rg s k) := by
  induction l with
  | nil => intro s; exact ⟨fun d => by simp [forEach], fun _ _ => rfl⟩
  | cons a l ih =>
    intro s
    obtain ⟨h1, h2⟩ := ih (List.nodup_cons.1 hl).2 (fun b hb => h4 b (List.mem_cons_of_mem _ hb)) (trigBuf s a w)
    have e : forEach (a :: l) s (fun s b => trigBuf s b w) = forEach l (trigBuf s a w) (fun s b => trigBuf s b w) := rfl
    have ha4 := h4 a (List.mem_cons_self ..)
    rw [e]
    refine ⟨fun d => ?_, fun k hk => (h2 k hk).trans (trigBuf_rg s a w (hk a ha4))⟩
    rw [h1 d, trigBuf_buf]
    have hdr (d : Nat) (hd : d < 4) : bufDrain (trigBuf s a w) d = bufDrain s d := by
      unfold bufDrain rgb rgw
      rw [trigBuf_rg]
      rw [bufReg_eq, bufReg_eq]; omega
    by_cases hd : d = a
    · subst hd
      rw [if_neg (List.nodup_cons.1 hl).1, if_pos rfl, if_pos (List.mem_cons_self ..)]
    · by_cases hm : d ∈ l
      · rw [if_pos hm, if_neg hd, if_pos (List.mem_cons_of_mem _ hm), hdr d (h4 d (List.mem_cons_of_mem _ hm))]
      · rw [if_neg hm, if_neg hd, if_neg (by rw [List.mem_cons, not_or]; exact ⟨hd, hm⟩)]

theorem blotAskRaw_bufs (s : Blk) (r : BlotReq) : (blotAskRaw s r).obs.bufs = s.obs.bufs ∧
    ∀ k, k ≠ rDbgDrop → k ≠ rDbgIrq → rg (blotAskRaw s r) k = rg s k := by
  have hd : (evRaw (orBits (bump s rDbgDrop) rDbgIrq 2) 0x14c none 1).obs.bufs = s.obs.bufs ∧
      ∀ k, k ≠ rDbgDrop → k ≠ rDbgIrq → rg (evRaw (orBits (bump s rDbgDrop) rDbgIrq 2) 0x14c none 1) k = rg s k :=
    ⟨rfl, fun k h1 h2 => ((onlyReg_wr _ _ _).others k h2).trans ((onlyReg_wr _ _ _).others k h1)⟩
  unfold blotAskRaw
  dsimp only
  split
  · exact hd
  · split
    · exact ⟨rfl, fun _ _ _ => rfl⟩
    · split
      · exact ⟨rfl, fun _ _ _ => rfl⟩
      · exact hd

theorem blotAutoRaw_bufs (s : Blk) (b x y z : Nat) : (blotAutoRaw s b x y z).obs.bufs = s.obs.bufs ∧
    ∀ k, k ≠ rDbgDrop → k ≠ rDbgIrq → rg (blotAutoRaw s b x y z) k = rg s k := by
  unfold blotAutoRaw
  split
  · exact blotAskRaw_bufs _ _
  · exact ⟨rfl, fun _ _ _ => rfl⟩

theorem trigRec (s : Blk) : mkRec s 0x10 none (put 0 127 124 + put 0 123 116) =
    BitVec.ofNat 256 (put (now s) 63 0 + put 0x10 71 64 + put (b2n (!s.time.usable)) 82 82) := by
  unfold mkRec
  have : put (put 0 127 124 + put 0 123 116) 255 128 = 0 := by decide
  simp only [this, Nat.add_zero]

theorem lcfg_again (r : Nat) (h : r < 2 ^ 32) : (r &&& (0xffffffff ^^^ 0x8000000f)) |||
    ((w32 ((r &&& 0x8000000f) ||| 0x40000000)).toNat &&& 0x8000000f) = r := by
  have hb : ∀ o : BitVec 32, (o &&& 0x7ffffff0#32) ||| (((o &&& 0x8000000f#32) ||| 0x40000000#32) &&& 0x8000000f#32) = o := by
    intro o
    apply BitVec.eq_of_getLsbD_eq
    intro i hi
    simp only [BitVec.getLsbD_and, BitVec.getLsbD_or]
    interval_cases i <;> simp
  have := congrArg BitVec.toNat (hb (BitVec.ofNat 32 r))
  simp only [BitVec.toNat_or, BitVec.toNat_and, BitVec.toNat_ofNat, Nat.mod_eq_of_lt h] at this
  unfold w32
  rw [BitVec.toNat_ofNat, Nat.mod_eq_of_lt]
  · exact this
  · exact Nat.or_lt_two_pow (lt_of_le_of_lt Nat.and_le_left h) (by decide)

theorem lcfg_word (r : Nat) (h : r < 2 ^ 32) : let u := w32 ((r &&& 0x8000000f) ||| 0x40000000)
    fld u 3 0 = fld (w32 r) 3 0 ∧ bitAt u 30 = true ∧ bitAt u 31 = bitAt (w32 r) 31 := by
  intro u
  refine ⟨?_, ?_, ?_⟩
  · show fld (w32 ((r &&& 0x8000000f) ||| 0x40000000)) 3 0 = _
    unfold fld w32
    rw [BitVec.toNat_ofNat, BitVec.toNat_ofNat, Nat.mod_eq_of_lt (Nat.or_lt_two_pow (lt_of_le_of_lt Nat.and_le_left h) (by decide)),
      Nat.mod_eq_of_lt h, Nat.shiftRight_zero, Nat.shiftRight_zero, Nat.or_mod_two_pow, Nat.and_mod_two_pow]
    rw [show (0x40000000 % 2 ^ (3 + 1 - 0) : Nat) = 0 from rfl, Nat.or_zero, show (0x8000000f % 2 ^ (3 + 1 - 0) : Nat) = 2 ^ 4 - 1 from rfl,
      Nat.and_two_pow_sub_one_eq_mod, Nat.mod_mod]
  · show bitAt (w32 ((r &&& 0x8000000f) ||| 0x40000000)) 30 = true
    unfold bitAt w32; simp
  · show bitAt (w32 ((r &&& 0x8000000f) ||| 0x40000000)) 31 = bitAt (w32 r) 31
    unfold bitAt w32; simp

theorem logged_saf (s : Blk) (code d : Nat) (al : Bool) : Logged s (safFault s uSaf code d al) uSaf (faultEnt s uSaf code none d al) :=
  logged s uSaf uSaf code none d al

theorem sum_eq (l : List Nat) : sum l = l.sum := by
  unfold sum
  rw [List.sum_eq_foldl]

theorem pow_sum_lt : ∀ (n : Nat) (l : List Nat), l.Nodup → (∀ x ∈ l, x < n) → (l.map (fun b => 2 ^ b)).sum < 2 ^ n := by
  intro n
  induction n with
  | zero =>
    intro l _ h
    cases l with
    | nil => decide
    | cons a r => exact absurd (h a (List.mem_cons_self ..)) (by omega)
  | succ n ih =>
    intro l hn h
    by_cases hm : n ∈ l
    · have hp := List.perm_cons_erase hm
      have hs := (hp.map (fun b => 2 ^ b)).sum_eq
      rw [hs, List.map_cons, List.sum_cons]
      have := ih (l.erase n) (hn.erase n) (fun x hx => by
        have hx' := List.mem_of_mem_erase hx
        have : x ≠ n := by rintro rfl; exact (hn.not_mem_erase) hx
        have := h x hx'
        omega)
      rw [pow_succ]; omega
    · have := ih l hn (fun x hx => by
        have h1 := h x hx
        have : x ≠ n := by rintro rfl; exact hm hx
        omega)
      rw [pow_succ]; omega

end Sys2Proof.Machine
end

