-- ==== Sys2Proof/Laws/Startup.lean ====
section
/-! SUPPORT. Readiness: what BLK_READY is, and what its rise changes. -/
namespace Sys2Proof.Machine

theorem readyNow_cfg (s t : Blk) (h : s.cfg = t.cfg) : readyNow s = readyNow t := by
  unfold readyNow srstDrains readyMask inited cfgEnded; rw [h]

theorem ready_release (s : Blk) (h1 : s.cfg.low = false) (h2 : s.cfg.srst = false) (h3 : s.cfg.ready = 0)
    (h4 : s.cfg.phase = .off) (h5 : s.cfg.inits = allInits) : readyNow s = 3 := by
  unfold readyNow srstDrains readyMask inited cfgEnded
  rw [h1, h2, h3, h4, h5]
  simp only [Bool.false_and]
  decide

theorem refresh_rise (s : Blk) (n : Nat) (h : readyNow s = n) (hn : n ≠ s.cfg.ready) :
    refreshReady s = { s with cfg := { s.cfg with ready := n }, regs := (orBits s rCfgIrq 1).regs, saf := { s.saf with
        monitor := s.saf.monitor || n.testBit 3 } } := by
  unfold refreshReady
  simp only [h]
  rw [if_neg hn]
  unfold modCfg
  rw [orBits_blk, orBits_regs_congr (b := s) (t := _) rfl rfl]
  rfl

theorem cfgStart_eq (s : Blk) (h : s.cfg.op = none) : cfgStart s = { s with cfg := { s.cfg with
    phase := .sfdp, op := some { op := 0x5a, addr := 0, aw := false, dummy := 8, len := 8 } } } := by
  unfold cfgStart nvmRead modCfg
  rw [h]; rfl

theorem readyNow_low (s : Blk) (h : s.cfg.low = false) (f : Nat) (hf : s.cfg.ready.testBit f = true) : (readyNow s).testBit f = true := by
  unfold readyNow; rw [h]; simp only [Bool.false_eq_true, ↓reduceIte]
  split
  · exact hf
  · rw [Nat.testBit_or, hf]; rfl

theorem refreshReady_eq (s : Blk) : ∃ r m,
    refreshReady s = { s with cfg := { s.cfg with ready := readyNow s }, regs := r, saf := { s.saf with monitor := m } } ∧
    (∀ k, k ≠ rCfgIrq → rg (refreshReady s) k = rg s k) := by
  by_cases h : readyNow s = s.cfg.ready
  · refine ⟨s.regs, s.saf.monitor, ?_, ?_⟩
    · unfold refreshReady; simp only []; rw [if_pos h]
      simp only [h]
    · unfold refreshReady; simp only []; rw [if_pos h]; intro k _; rfl
  · refine ⟨_, _, refresh_rise s _ rfl h, ?_⟩
    intro k hk
    rw [refresh_rise s _ rfl h]
    refine Eq.trans ?_ (rg_wr_other s (rg s rCfgIrq ||| 1) hk)
    unfold rg regUnlisted; rfl

theorem refresh_cfg (s : Blk) : (refreshReady s).cfg = { s.cfg with ready := readyNow s } := by
  obtain ⟨r, m, e, _⟩ := refreshReady_eq s
  rw [e]

/-! ## Soft reset -/

theorem forEach_wr (f : Nat → Nat) (xs : List Nat) (b : Blk) :
    forEach xs b (fun t k => wr t k (f k)) = { b with regs := (forEach xs b (fun t k => wr t k (f k))).regs } ∧
    ∀ j, rg (forEach xs b (fun t k => wr t k (f k))) j = if j ∈ xs then f j % 2 ^ 32 else rg b j := by
  unfold forEach
  induction xs generalizing b with
  | nil => exact ⟨rfl, fun j => by simp⟩
  | cons x r ih =>
    obtain ⟨h1, h2⟩ := ih (wr b x (f x))
    refine ⟨h1, fun j => ?_⟩
    rw [List.foldl_cons, h2 j]
    by_cases hj : j ∈ r
    · simp [hj]
    · by_cases hx : j = x
      · subst hx; simp [hj]
      · simp [hj, hx, rg_wr_other _ _ hx]

theorem saf_release (k : Nat) (h1 : 0x160000 ≤ k) (h2 : k < 0x170000) (h3 : k ≠ rAuditCfg) : regRelease k = regDefault k := by
  have e : k % 0x1000000 = k := Nat.mod_eq_of_lt (by omega)
  unfold regRelease
  simp only [e]
  rw [if_neg (by have : rSet = 0xc0100 := rfl; omega)]
  have : releaseTable.find? (fun p => p.1 == k) = none := by
    rw [List.find?_eq_none]
    intro p hp
    have all : ∀ p ∈ releaseTable, p.1 < 0x160000 ∨ 0x170000 ≤ p.1 ∨ p.1 = rAuditCfg := by decide
    have := all p hp
    simp only [beq_iff_eq]
    rintro rfl
    rcases this with h | h | h <;> omega
  rw [this]

theorem peer_release' (k : Nat) (e : k % 0x1000000 = rPeerEnt) : regRelease k = 0 ∧ regDefault k = 0 := by
  constructor
  · unfold regRelease regDefault; simp only [e]; decide
  · unfold regDefault; simp only [e]; decide

theorem peer_release (c : Nat) : regRelease (bank rPeerEnt c) = 0 ∧ regDefault (bank rPeerEnt c) = 0 :=
  peer_release' _ (bank_mod _ _ (by decide))

theorem fold_slots (f : Nat → CtxSlot) (m : List (Nat × CtxSlot)) (acc : Store CtxSlot) (c : Nat) :
    Store.getD (m.foldl (fun a p => Store.put {} a p.1 (f p.1)) acc) c {} = if c ∈ m.map Prod.fst then f c else Store.getD acc c {} := by
  induction m generalizing acc with
  | nil => rfl
  | cons p r ih =>
    obtain ⟨k, v⟩ := p
    rw [List.foldl_cons, ih]
    by_cases hc : c ∈ r.map Prod.fst
    · simp [hc]
    · by_cases hk : c = k
      · subst hk; simp
      · rw [if_neg hc, getD_put_other _ _ _ hk, if_neg]; simp only [List.map_cons, List.mem_cons, not_or]; exact ⟨hk, hc⟩

theorem get?_none (m : Store CtxSlot) (c : Nat) (h : c ∉ m.map Prod.fst) : Store.get? m c = none := by
  induction m with
  | nil => rfl
  | cons p r ih =>
    obtain ⟨k, v⟩ := p
    simp only [List.map_cons, List.mem_cons, not_or] at h
    unfold Store.get?
    rw [if_neg (Ne.symm h.1)]
    exact ih h.2

end Sys2Proof.Machine
end

