-- ==== Sys2Proof/Tests/Slice0.lean ====
section
/-! SUPPORT. Tests, each about one command on a small state, and witnesses: for every statement of Obligations.lean that has
hypotheses, concrete operands and states that meet the hypotheses of each of its clauses, at the ends of their ranges where they have
any. Expected values are worked out by hand from the rules named. -/
namespace Sys2Proof.Tests
open Sys2Proof Sys2Proof.Machine

-- The kernel checks these one after the other: many small evaluations at once would each hold a thread.
set_option Elab.async false

/-! ## Small states -/

/-- A good access with privilege. -/
abbrev ok : Access := ⟨true, true, []⟩
/-- A good access without it. -/
abbrev user : Access := ⟨false, true, []⟩
/-- A block that is up, at 1 ms, with context 0 open, and the first open choices given. -/
abbrev up : Blk :=
  { cfg := { low := false, ready := 0xffff, pb := true, dieValid := true, die := 5 }
    time := { last := 1000000, seen := true, usable := true }
    ctx := { slots := [(0, { state := .opened, gen := 1 })] }
    free := { oracle := [0, 1, 2, 3, 4, 5, 6, 7] } }
/-- A state with a block, no test in progress, and no command waiting. -/
abbrev st (b : Blk) : State := ⟨b, {}, []⟩
/-- A block with a register word written. -/
abbrev reg (b : Blk) (k v : Nat) : Blk := { b with regs := Store.set b.regs k (BitVec.ofNat 32 v) }
/-- A block with context 0 in a state. -/
abbrev slot (b : Blk) (v : CtxSlot) : Blk := { b with ctx := { b.ctx with slots := [(0, v)] } }
/-- A command word with fields at their lowest bits. -/
abbrev cmd (op : Nat) (f : List (Nat × Nat)) : Word256 := BitVec.ofNat 256 (f.foldl (fun a p => a + p.2 <<< p.1) op)
/-- Queue 0 running, with a word at its PC. -/
abbrev queue (v : Queue) (w : Word256) : Queue := { v with state := .run, tail := 1, buf := [(0, BitVec.ofNat 512 w.toNat)] }
/-- A block whose queue 0 is about to run a word. -/
abbrev nib (b : Blk) (v : Queue) (w : Word256) : Blk := { b with csq := { b.csq with queues := [(0, queue v w)] } }
/-- The block after a command; as it was where the command stops. -/
def after (c : Instr) (b : Blk) : Blk :=
  match exec c (st b) with
  | .next t => t.blk
  | _ => b

/-- `Served` as a check. -/
def served (b : Blk) (off : Nat) (a : Access) : Bool :=
  fnReady b 0 && a.parityOk && a.priv && decide (off < 0x400000) && (regPlain b off).isSome && fnReady b (unitFn (unitOf off)) &&
    b.ports.diag.isNone
theorem of_served {b : Blk} {off : Nat} {a : Access} (h : served b off a = true) : Served b off a := by
  simp only [served, Bool.and_eq_true, decide_eq_true_eq, Option.isNone_iff_eq_none] at h
  exact ⟨h.1.1.1.1.1.1, h.1.1.1.1.1.2, .inl h.1.1.1.1.2, h.1.1.1.2, h.1.1.2, h.1.2, h.2⟩

/-! ## Commands that cannot be offered -/

abbrev hdr : FHdr :=
  { src := 6, dst := 5, epoch := 0, pseq := 0, rqid := 0, sync := true, srcGen := 1, srcCtx := 0, dstGen := 1, dstCtx := 0, ltag := 7
    chk := .ok }
abbrev amh : AmHdr := { rgen := 1, ring := 0, handle := false, handler := 0, len := 1, sch := 0, mseq := 0, user := 0 }

theorem test_wf_ports : ([.handshakeViolation (.rip 16), .handshakeViolation (.rcp 16), .timeSample (2 ^ 64) true true,
    .throttleCeiling 256 true, .dispatchDecision [256], .dispatchAck 16 false, .completionWord 16 0 0 true [],
    .completionWord 0 256 0 true [], .completionWord 0 0 0 true [256], .candidateRecord 16 0 0 true [],
    .candidateRecord 0 256 0 true [], .candidateRecord 0 0 0 true [256], .enqueueRequest 16 0 0 true [], .enqueueRequest 0 256 0 true [],
    .enqueueRequest 0 0 0 true [256], .rcpReservedKind 16 0 3 0 true, .rcpReservedKind 0 256 3 0 true,
    .rcpReservedKind 0 0 2 0 true, .memoryResponse 1024 0 0 true true [], .memoryResponse 0 8 0 true true [],
    .memoryResponse 0 0 0 true true [256], .delayRelease [256], .launchEnd 0 [256]] : List Instr).all
    (fun c => !c.wf) = true := by decide +kernel

theorem test_wf_headers : ([{ hdr with src := 2 ^ 21 }, { hdr with dst := 2 ^ 21 }, { hdr with epoch := 2 }, { hdr with pseq := 2 ^ 16 },
    { hdr with rqid := 2 ^ 16 }, { hdr with srcGen := 256 }, { hdr with srcCtx := 256 }, { hdr with dstGen := 256 },
    { hdr with dstCtx := 256 }, { hdr with ltag := 2 ^ 32 }, { hdr with rsv := 2 ^ 13 },
        { hdr with waiting := [256] }] : List FHdr).all (fun h => !h.wf && !(Instr.arrive h 0 0 false).wf &&
      !(Instr.closeRequest h 0 0 0).wf && !(Instr.cand h 0 false true []).wf && !(Instr.tally h true 0 0 0 []).wf &&
      !(Instr.assign h 0 0 0 [0]).wf && !(Instr.stage h 0 0 0).wf && !(Instr.cancelRequest h 0 0 0).wf && !(Instr.amReq h amh [0]).wf &&
      !(Instr.amRpl h amh [0]).wf && !(Instr.fabricReservedType h 3).wf) = true ∧ hdr.wf = true := by decide +kernel

theorem test_wf_messages : ([.arrive hdr 4096 0 false, .arrive hdr 0 4096 false, .closeRequest hdr (2 ^ 24) 0 0, .closeRequest hdr 0 4096 0,
    .closeRequest hdr 0 0 4096, .cand hdr 4096 false false [], .cand hdr 0 false false (List.replicate 33 0), .tally hdr true 256 0 0 [],
    .tally hdr true 0 4096 0 [], .tally hdr true 0 0 4096 [], .tally hdr true 0 0 0 (List.replicate 33 (0, 0)),
    .tally hdr true 0 0 0 [(2 ^ 16, 0)], .tally hdr true 0 0 0 [(0, 2 ^ 24)], .assign hdr (2 ^ 16) 0 0 [0], .assign hdr 0 256 0 [0],
    .assign hdr 0 0 4096 [0], .assign hdr 0 0 0 [], .assign hdr 0 0 0 (List.replicate 33 0), .stage hdr (2 ^ 16) 0 0, .stage hdr 0 4096 0,
    .stage hdr 0 0 4096, .cancelRequest hdr (2 ^ 16) 0 0, .cancelRequest hdr 0 4096 0, .cancelRequest hdr 0 0 4096, .amReq hdr amh [],
    .amRpl hdr amh [], .fabricReservedType hdr 64, .fabricReservedType hdr 0x10] : List Instr).all (fun c => !c.wf) = true ∧
    ([{ amh with rgen := 256 }, { amh with ring := 2 ^ 14 }, { amh with handler := 2 ^ 16 }, { amh with sch := 2 ^ 16 },
      { amh with mseq := 2 ^ 32 }, { amh with user := 2 ^ 64 }] : List AmHdr).all (fun m => !(Instr.amReq hdr m [0]).wf) = true ∧
    ({ amh with len := 2 ^ 16 } : AmHdr).wf = false ∧ (Instr.amReq hdr amh [0]).wf = true := by decide +kernel

theorem test_wf_indices : ([.orderHoldExpiry (2 ^ 21) 0, .orderHoldExpiry 0 (2 ^ 16), .answer (2 ^ 21) 0 0 true 1 [],
    .answer 0 (2 ^ 16) 0 true 1 [], .answer 0 0 16 true 1 [], .answer 0 0 0 true 1 [256], .replyTimerExpiry 4096 [],
        .replyTimerExpiry 0 [256], .epochNotice 2, .taskOverrun (2 ^ 17),
    .sieveRunTimeout 1024, .seqAdvance 256, .csqDb 256 0 0 ok, .csqDb 0 64 0 ok, .csqDb 0 0 (2 ^ 16) ok, .queueEnable 64 0 ok,
    .queueDisable 64 0 ok, .retry 64 ok, .skip 64 ok, .flush 64 ok, .completionHeadWrite 256 0 ok, .install 4096 ok, .uninstall 4096 ok,
    .noticeHeadWrite 256 0 ok, .xchSdb 256 0 0 ok, .xchSdb 0 1024 0 ok, .xchSdb 0 0 (2 ^ 16) ok, .send 1024, .alloc 1024, .freeHandle 1024,
    .channelEnable 256 0 ok, .channelFaultClear 256 ok, .openRing 256 ok, .openBound 256 ok, .ringClose 256 ok, .openingDone 256,
    .drainComplete 256, .quiesceExpiry 256, .closeReleaseDone 256, .leaseExpiry 256, .ruledTick 256, .frontStallExpiry 256,
    .counterConfig 64 0 ok, .counterClear 64 ok, .counterReadClear 2 ok, .arm 4 ok, .bufferEnable 4 0 ok, .bufferFaultClear 4 ok,
    .traceFlushExpiry 4, .diagWindowRead 0x3ffffc ok .good, .diagWindowRead 0x400002 ok .good, .registerWrite (2 ^ 24) 0 ok,
    .registerWrite 1 0 ok, .loHalfRead 3 ok, .qmMbistDone (2 ^ 16) 0, .qmMbistDone 0 (2 ^ 32), .waitTimeout 64, .sleepWake 64,
    .illegalOpcode 64, .wsBypass 32, .ctxFence { ok with waiting := [256] }] : List Instr).all (fun c => !c.wf) = true := by decide +kernel

theorem test_wf_nib : ([Instr.cmdNop, .cmdSet, .cmdAdd, .cmdGet, .cmdLoad, .cmdStore, .cmdBr, .cmdLoop, .cmdCall, .cmdRet, .cmdSleep,
    .cmdBrk, .cmdLatch, .cmdAudit, .cmdHello, .cmdAdopt] : List (Nat → Instr)).all (fun c => !(c 64).wf && (c 63).wf) = true ∧
    ([@Instr.cmdLaunch, @Instr.cmdWait, @Instr.cmdSignal, @Instr.cmdClose, @Instr.cmdJalloc, @Instr.cmdJfree, @Instr.cmdCancel,
      @Instr.cmdPatch, @Instr.cmdSpill, @Instr.cmdRefill, @Instr.cmdFence] :
      List (Nat → List Nat → Instr)).all (fun c => !(c 64 []).wf && !(c 63 [256]).wf && (c 63 [255]).wf) = true := by decide +kernel

/-! ## Commands, one step each -/

/-- R69: a sample is the value in use; one that is lower than the last is not, and sets BLK_PORT_FAULT.TIME. -/
theorem test_time : (after (.timeSample 1000001 true true) up).time.last = 1000001 ∧
    (let b := after (.timeSample 999999 true true) up; b.time.last = 1000000 ∧ b.time.usable = false ∧ rg b rPortFault = 0x20) := by
  decide +kernel

/-- R14: CSQ_PULSE_PERIOD takes 64 to 1,000 and refuses 63 (R254). -/
theorem test_range : rg (after (.registerWrite 0x20004 64 ok) up) 0x20004 = 64 ∧
    (after (.registerWrite 0x20004 63 ok) up).ports.rgpStatus = rgpRefused := by decide +kernel

/-- R231: ADD wraps. S3 := S1 + OPA, with S1 the greatest word. -/
theorem test_add_wraps : scratch (queueOf (after (.cmdAdd 0)
    (nib up { scratch := [(1, BitVec.ofNat 64 (2 ^ 64 - 1))] } (cmd oAdd [(12, 3), (16, 1), (64, 5)]))) 0) 3 = 4 := by decide +kernel

/-- R234: RET at depth 0 halts with fault 0x31; R229: NOP retires and frees its slot. -/
theorem test_ret_and_nop : (queueOf (after (.cmdRet 0) (nib up {} (cmd oRet []))) 0).state = .halted ∧
    (queueOf (after (.cmdNop 0) (nib up {} (cmd oNop []))) 0).head = 1 := by decide +kernel

/-- R235: a LOOP that ends at 1 leaves 0 and goes on in line. -/
theorem test_loop_ends : (let v := queueOf (after (.cmdLoop 0) (nib up { scratch := [(2, 1)], stack := [32] }
    (cmd oLoop [(16, 2), (64, 2 ^ 64 - 32)]))) 0; scratch v 2 = 0 ∧ v.pc = 32) := by decide +kernel

/-- R382: SAF_ALARM_TEST raises the TEST cause. -/
theorem test_alarm : rg (after (.raiseTest ok) up) rAlarmCause = 0x100 := by decide +kernel

/-- R271: an answer with a code past 10 is no answer; with a fitting one nothing waits, so it is late. -/
theorem test_answer : rg (after (.answer 6 0 0 true 1 []) up) rLateAnswer = 1 := by decide +kernel

/-- R266, R271: an ARRIVE from a fenced generation is answered NK_GONE. -/
theorem test_gone : (after (.arrive { hdr with dstGen := 2 } 0 0 false) up).ports.fpo = some { dst := 6, rqid := 0, code := kGone } := by
  decide +kernel

/-- R306: CTX_CLOSE of an OPEN slot drains it to be free; CTX_OPEN of it is refused. -/
theorem test_close : ctxSt (after (.ctxClose ok) up) 0 = .closing ∧ (after (.ctxOpen ok) up).ports.rgpStatus = rgpRefused := by
  decide +kernel

/-- R437: a test is taken only while NRST_BLOCK is low. -/
theorem test_wrapper : (match exec (.qmMbist true) State.reset with | .next t => t.tap.running | _ => false) = true ∧
    (match exec (.qmMbist true) (st up) with | .next t => t.tap.wir | _ => .scan) = .bypass := by decide +kernel

/-! ## Witnesses: the machine and the Register Port -/

theorem witness_StepTakesFront : ({ st up with pending := [.coldReset, .pulse] } : State).pending = .coldReset :: [.pulse] := rfl
theorem witness_EmptyQueueIdles : (st up).pending = [] := rfl
theorem witness_QueueAndWrapperFrame : ∃ t u v, exec .pulse (st up) = .next t ∧ ofWrapper .pulse = false ∧
    exec (.wsBypass 0) (st up) = .next u ∧ ofWrapper (.wsBypass 0) = true ∧ exec (.coldResetRelease 0) State.reset = .next v ∧
    ofWrapper (.coldResetRelease 0) = false := ⟨_, _, _, rfl, rfl, rfl, rfl, rfl, rfl⟩
theorem witness_OnlySamplesMoveTime : ∃ t, movesTime .pulse = false ∧ exec .pulse (st up) = .next t := ⟨_, rfl, rfl⟩
theorem inv_up : Inv { st up with pending := [.pulse] } :=
  ⟨.inr ⟨by decide +kernel, by decide, by decide, fun _ => rfl, fun _ => rfl⟩,
    ⟨(by decide), by decide, by decide, .inl rfl⟩, by decide⟩
theorem witness_EveryStepKeepsInv : ∃ s t, Inv s ∧ step s = .next t := ⟨_, _, inv_up, rfl⟩
theorem ruledLive_free (b : Blk) (h : b.ctx.slots = []) (c : Nat) : ruledLive b c = false := by
  simp [ruledLive, ctxSt, slotOf, h, Store.getD, Store.get?]
theorem witness_QuietBlockStands : Quiet { up with ctx := {} } :=
  ⟨rfl, rfl, rfl, rfl, ⟨rfl, rfl⟩, rfl, rfl, rfl, ruledLive_free _ rfl, rfl, ⟨rfl, rfl⟩, rfl⟩

/-- R63 to R65: the ends of the ranges that each clause names. -/
theorem witness_PortTurnsWritesAway : fnReady up 0 = true ∧ (⟨true, false, []⟩ : Access).parityOk = false ∧ user.priv = false ∧
    (∀ off ∈ [0, 0x1ffffc], off < 0x200000) ∧ (∀ off ∈ [0x300000, 0xfffffc], 0x300000 ≤ off) ∧
    (∀ off ∈ [0x400000, 0xfffffc], 0x400000 ≤ off ∧ off < 0x1000000) ∧ 0x30000 < 0x400000 ∧ regPlain up 0x30000 = none := by
  decide +kernel
theorem witness_UnreadyUnitRefusesWrites : let b := { up with cfg := { up.cfg with ready := 0xdfff } }
    fnReady b 0 = true ∧ (regPlain b 0x20004).isSome = true ∧ fnReady b (unitFn (unitOf 0x20004)) = false := by decide +kernel
theorem served_plain : plainRegs.all (fun p => served up p.1 ok) = true := by decide +kernel
theorem witness_PlainRegistersStore : ∀ p ∈ plainRegs, Served up p.1 ok :=
  fun p h => of_served (List.all_eq_true.mp served_plain p h)
theorem served_ranged : rangedRegs.all (fun p => served up p.1 ok) = true := by decide +kernel
/-- Every register of the list has values at both ends of its range, and one outside. -/
theorem witness_RangedRegistersStoreOrRefuse : (∀ p ∈ rangedRegs, Served up p.1 ok) ∧ (rangedRegs.all (fun p =>
    let x := fun n => fld (BitVec.ofNat 32 (n <<< p.2.2.2.1)) p.2.2.1 p.2.2.2.1
    x p.2.2.2.2.1 == p.2.2.2.2.1 && x p.2.2.2.2.2 == p.2.2.2.2.2 &&
      (decide (x 0 < p.2.2.2.2.1) || decide (p.2.2.2.2.2 < x (2 ^ (p.2.2.1 + 1 - p.2.2.2.1) - 1)))) = true) ∧
    Served up rC0Resv ok ∧ rC0Resv ∈ rangedRegs.map Prod.fst :=
  ⟨fun p h => of_served (List.all_eq_true.mp served_ranged p h), by decide +kernel, of_served (by decide +kernel), by decide +kernel⟩
theorem served_w1c : ([0x114, 0x1002c, 0x20028, 0x5002c, 0xa0058, 0xe001c, 0x10002c, 0x12012c, 0x140928, 0x160098, 0x180030, rCtxStatus,
    rAlarmCause, rRegionFail] : List Nat).all (fun k => served up k ok) = true := by decide +kernel
theorem witness_WrittenOnesClear : ∀ k ∈ [0x114, 0x1002c, 0x20028, 0x5002c, 0xa0058, 0xe001c, 0x10002c, 0x12012c, 0x140928, 0x160098,
    0x180030, rCtxStatus, rAlarmCause, rRegionFail], Served up k ok :=
  fun k h => of_served (List.all_eq_true.mp served_w1c k h)
/-- An RC register, a _LO of a pair, a plain register, and the offsets that need no privilege. -/
theorem witness_ReadsAnswerFixAndClear : (regRead up rDbBad).isSome = true ∧ isRc rDbBad = true ∧ (regRead up 0x120).isSome = true ∧
    loPair 0x120 = true ∧ isRc 0x120 = false ∧ (regRead up 0).isSome = true ∧ loPair 0 = false ∧ (regRead up 0x200004).isSome = true ∧
    (regRead up 0xfc).isSome = false ∧ fnReady up 0 = true := by decide +kernel
/-- The Task Table, whose 131,072 entries of 64 bytes end at 0xbfffff: its first and last word, and the first place past it (R424). -/
theorem witness_WindowReadsShowWords : let b := reg up rDiagSel 2
    fnReady b 0 = true ∧ b.ports.diag = none ∧ diagPlace b (0x400000 - 0x400000) = some (0, 0) ∧
    diagPlace b (0xbffffc - 0x400000) = some (131071, 15) ∧ diagPlace b (0xc00000 - 0x400000) = none ∧
    diagInit (diagStore b) ∉ b.cfg.inits ∧ diagPlace up (0xfffffc - 0x400000) = none := by decide +kernel

/-! ## Witnesses: resets, start-up, time -/

theorem witness_ColdResetAndRelease : State.reset.blk.cfg = {} := rfl
/-- A step of the start-up, and an operation that has failed `n` times. -/
abbrev starting (n : Nat) : Blk := { cfg := { low := false, phase := .sfdp, inits := [.graph], ready := 3
                                              op := some { op := 0x5a, addr := 0, aw := false, dummy := 8, len := 8, fails := n } } }
theorem witness_StartUpGoesOn : (starting 0).cfg.low = false ∧ InitStore.graph ∈ (starting 0).cfg.inits ∧ (starting 0).ports.diag = none ∧
    (∀ n ∈ [0, 2, 3], ∃ o, (starting n).cfg.op = some o ∧ o.fails = n ∧ (starting n).cfg.phase ≠ .off ∧ nvmBytes o [] false = none) ∧
    (∃ o, (starting 0).cfg.op = some o ∧ nvmBytes o [(0, true), (0, true)] false = some (List.replicate 8 0)) ∧
    leAt (List.replicate 8 0) 0 4 ≠ 0x50444653 ∧
    (let b : Blk := { cfg := { low := false, phase := .verified } }
     b.cfg.phase = .verified ∧ b.cfg.inits = [] ∧ settingsOf b.cfg.image = []) := by
  refine ⟨rfl, by decide, rfl, ?_, ⟨_, rfl, by decide +kernel⟩, by decide +kernel, rfl, rfl, by decide +kernel⟩
  intro n h
  refine ⟨_, rfl, rfl, by simp, ?_⟩
  simp [nvmBytes]
/-- In the middle of a soft reset, at the last moment of its drain. -/
abbrev soft : Blk := { up with cfg := { up.cfg with ready := 15, srst := true, srstAt := some 900000 } }
theorem witness_SoftResetBeginsAndEnds : Served up 0x10020 ok ∧ up.cfg.srst = false ∧ soft.cfg.srst = true ∧
    soft.cfg.srstAt = some 900000 ∧ soft.time.usable = true ∧ now soft = 900000 + rgf soft rSrstDrain 15 0 * 1000 ∧ soft.mem.out = [] ∧
    soft.mem.mq = none ∧ soft.mem.waitq = [] ∧ soft.cfg.op = none ∧ softKeeps 0x160000 = true ∧ softKeeps 0x20004 = false :=
  ⟨of_served (by decide +kernel), by decide +kernel⟩
theorem witness_SoftResetRefuses : Served { up with cfg := { up.cfg with srst := true } } 0x10020 ok := of_served (by decide +kernel)
/-- The 63rd and the 64th bad sample, one too low, and one equal to the last. -/
theorem witness_SamplesAreJudged : fnReady up 1 = true ∧ up.time.seen = true ∧ 999999 % 2 ^ 64 < up.time.last ∧
    up.time.last ≤ 1000000 % 2 ^ 64 ∧ ({ up.time with bad := 63 } : TimeS).bad = 63 ∧ ({ up.time with bad := 62 } : TimeS).bad ≠ 63 ∧
    ({} : TimeS).seen = false ∧ ¬ (sameCount up 1000000 = 1024 ∧ up.time.same ≠ 1024) ∧ up.time.usable = true := by decide +kernel
/-- A token that is due this very nanosecond. -/
theorem witness_CeilingAndTokens : fnReady up 9 = true ∧ soft.cfg.srst = true ∧
    (let b := { up with iss := { up.iss with ceil := 100, gainAt := 999999, gained := 0 } }
     b.iss.ceil ≠ 255 ∧ (now b + 1 - b.iss.gainAt) * 100 ≥ 125 * (b.iss.gained + 1)) ∧
    (let b := { up with iss := { up.iss with ceil := 0, gainAt := 0, gained := 31999 } }
     b.iss.ceil = 0 ∧ rgf b rThrFloor 7 0 = 4 ∧ now b - b.iss.gainAt = 125 * (b.iss.gained + 1) / 4) := by decide +kernel
theorem witness_AlarmsRise : Served up 0x160008 ok ∧ up.cfg.low = false ∧
    ({ up with saf := { up.saf with monitor := true } } : Blk).saf.monitor = true := ⟨of_served (by decide +kernel), rfl, rfl⟩

/-! ## Witnesses: issue, the region ports, the wrapper -/

abbrev task : Task := { state := .ready, cls := 1, level := 2, eng := 3, engMode := 1, kernel := 9 }
abbrev ready1 : Blk := { up with tsk := { up.tsk with tasks := [(4, task)] } }
theorem witness_DispatchIssuesTheTask : fnReady up 9 = true ∧ nextDispatch up = none ∧ (nextDispatch ready1).isSome = true ∧
    (nextDispatch { up with tsk := { up.tsk with tasks := [(4, { task with bound := some 3 })] } }).isSome = true := by decide +kernel
theorem witness_NextDispatchIsFirstThatCan : ∃ p, nextDispatch ready1 = some p ∧ placeTo ready1 task ≠ none ∧ task.state = .ready ∧
    tokensOk ready1 task.cls = true ∧ ctxDispatches ready1 task.ctx = true ∧ brkHolds ready1 task.ctx = false := by
  have h : (nextDispatch ready1).isSome = true := by decide +kernel
  obtain ⟨p, hp⟩ := Option.isSome_iff_exists.mp h
  exact ⟨p, hp, by decide +kernel, rfl, by decide +kernel, by decide +kernel, by decide +kernel⟩
abbrev offered (n : Nat) : Blk :=
  { up with tsk := { up.tsk with tasks := [(4, { task with state := .issued, issuedEng := 3 })] }
            ports := { up.ports with rip := [(0, { slot := 4, engine := 3, word := 0, errs := n })] } }
theorem witness_RegionPortsAnswer : (∀ n ∈ [0, 2], ∃ o t, Store.get? (offered n).ports.rip 0 = some o ∧ o.errs < 3 ∧ o.writtenOff = false ∧
    taskOf (offered n) o.slot = some t ∧ t.state = .issued ∧ ctxSt (offered n) t.ctx = .opened) ∧
    (let b := { offered 3 with tsk := {} }
     b.cfg.low = false ∧ b.tsk.tasks = [] ∧ regionOut b 0 = false ∧ ∃ o, Store.get? b.ports.rip 0 = some o ∧ 3 ≤ o.errs) := by
  refine ⟨?_, rfl, rfl, by decide +kernel, _, rfl, by decide⟩
  simp only [List.mem_cons, List.not_mem_nil, or_false, forall_eq_or_imp, forall_eq]
  exact ⟨⟨_, _, rfl, by decide, rfl, rfl, rfl, by decide +kernel⟩, ⟨_, _, rfl, by decide, rfl, rfl, rfl, by decide +kernel⟩⟩
/-- A command of each function, and the block while none is ready. -/
theorem witness_UnreadyFunctionsTakeNothing : ([(.timeSample 0 true true, 1), (.memoryResponse 0 0 0 true true [], 2), (.traceDrainLine, 6),
    (.delayRelease [], 8), (.tokenGain, 9), (.sieveRunTimeout 0, 10), (.send 0, 11), (.ruledTick 0, 12), (.cmdNop 0, 13), (.courseBuild,
        14),
    (.trigger ok, 0)] : List (Instr × Nat)).all (fun p => needs p.1 == some p.2 && !fnReady {} p.2) = true := by decide +kernel
theorem witness_WrapperSelectsAndTests : (st up).blk.cfg.low = false ∧ State.reset.blk.cfg.low = true ∧ WrapperOk State.reset.tap ∧
    (2 ^ 16 - 1 < 2 ^ 16 ∧ 2 ^ 32 - 1 < 2 ^ 32) := ⟨rfl, rfl, ⟨by decide, by decide, by decide, .inl rfl⟩, by decide⟩

/-! ## A launch with a sieve and an expander

One template, number 1, generation 1: node 0 a KERNEL with a gate joint, node 1 the SIEVE, node 2 the EXPERT node of set 0 whose source
is node 0 and whose stage node is node 3, and node 3 a KERNEL without a gate. Launch 0 of context 0 has LTAG 7. -/

abbrev word (f : List (Nat × Nat)) : Word256 := BitVec.ofNat 256 (f.foldl (fun a p => a + p.2 <<< p.1) 0)
abbrev launch0 : Launch :=
  { ctx := 0, ctxGen := 1, ltag := 7, argBase := 0x1000, tid := 1, tgen := 1, pins := [(1, 1)]
    members := [{ scope := topScope, node := 0, slot := 4, joint := some 10 }], resv := [{ scope := topScope, slot := 5, joint := 11 }]
    slots := [4, 5], joints := [10, 11], endJoint := none, queue := 0, rank := 0 }
abbrev source : Task :=
  { state := .issued, issuedEng := 3, cls := 1, ctx := 0, ctxGen := 1, launch := 0, ltag := 7, scope := topScope, node := 0, tid := 1
    tgen := 1, gjoint := some 10 }
abbrev run0 : Run :=
  { uid := 1, ctx := 0, ctxGen := 1, launch := 0, ltag := 7, scope := topScope, set := 0, layer := 0, expNode := 2, closeNode := 0
    home := 0, mode := 0, share := 8 }
abbrev scope0 : XScope := { uid := 2, ctx := 0, ctxGen := 1, launch := 0, scope := topScope, node := 2, set := 0, layer := 0 }
/-- A joint that waits for `n` arrivals. -/
abbrev joint (n : Nat) (wt : Waiter) : Joint := { a := { w := { count := n } }, b := { w := { count := n } }, waiter := wt, ctx := 0 }
abbrev full : Blk := reg (reg (reg (reg { up with
    tsk := { up.tsk with
      gens := [{ tid := 1, gen := 1, base := 0, nrec := 5, current := true, image := 0 }]
      recs := [(0, word [(0, 1), (32, 4)]), (1, word [(0, 1), (12, 1), (16, 1)]), (2, word [(0, 2)]),
        (3, word [(0, 3), (192 + 16, 0), (192 + 28, 3), (192 + 40, 1)]), (4, word [(0, 1)])]
      tasks := [(4, source)], launches := [(0, launch0)], joints := [(10, joint 1 (.task 4))] }
    sve := { up.sve with runs := [(0, run0)], scopes := [(0, scope0)], xt := [(0, 1)] } }
  (setReg 0 8) 1) (setReg 0 0x10) 1) (bank rDieId 0) (2 ^ 31 + 6)) (setReg 0 0) 0x200000

theorem sound_hdr {b : Blk} {h : FHdr} (hx : fnReady b 11 = true) (hs : b.cfg.srst = false) (hc : h.chk = .ok)
    (hr : h.rsv = 0) (hd : h.dst = ownDie b) :
    Sound b h := ⟨hx, hs, hc, hr, hd⟩
/-- The first request of a die is in its turn. -/
theorem inTurn_first {b : Blk} {h : FHdr} (hp : h.pseq < 2 ^ 16) (he : b.xch.pairsIn = []) (hh : b.xch.hold = []) : InTurn b h :=
  ⟨hp, fun p e => by rw [he] at e; exact absurd e (by simp [Store.get?]), hh⟩
theorem taken_full : Sound full hdr ∧ InTurn full hdr ∧ Welcome full hdr :=
  ⟨⟨by decide +kernel, rfl, rfl, rfl, rfl⟩, inTurn_first (by decide) rfl rfl, ⟨by decide +kernel, by decide +kernel,
      .inl (by decide +kernel)⟩⟩

/-! ## Witnesses: requests -/

/-- Every check, every reason, at a header that differs in one field. -/
theorem witness_RequestsAreChecked : request (.arrive hdr 0 0 false) = some (hdr, 1, some (.arrive 0 0 false)) ∧
    request (.fabricReservedType hdr 3) = some (hdr, 3, none) ∧ fnReady up 11 = true ∧ soft.cfg.srst = true ∧
    ({ hdr with chk := .untrusted } : FHdr).chk = .untrusted ∧ ({ hdr with chk := .parity true } : FHdr).chk = .parity true ∧
    ({ hdr with dst := 6 } : FHdr).dst ≠ ownDie up ∧ hdr.dst = ownDie up ∧ hdr.dst = ownDie soft ∧ up.cfg.srst = false := by decide +kernel
theorem witness_RequestsAreRefused : Sound up hdr ∧ InTurn up hdr ∧
    peerFenced (reg up (bank rPeerEnt 0) (2 ^ 31 + 6)) hdr.src = true ∧ peerFenced up hdr.src = false ∧
    ({ hdr with dstGen := 2 } : FHdr).dstGen ≠ ctxGen up hdr.dstCtx ∧ hdr.dstGen = ctxGen up hdr.dstCtx ∧
    ctxSt (slot up { state := .faulted, gen := 1 }) 0 = .faulted ∧ hdr.dstGen = ctxGen (slot up { state := .faulted, gen := 1 }) 0 :=
  ⟨⟨by decide +kernel, rfl, rfl, rfl, rfl⟩, inTurn_first (by decide) rfl rfl, by decide +kernel⟩
theorem witness_NamedRequestsReachTheirJoints : Sound full hdr ∧ InTurn full hdr ∧ Welcome full hdr ∧
    liveLaunch full 0 7 = some (0, launch0) ∧ (∃ n, scopeNode full launch0 topScope 0 = some n ∧ isGate n = true) ∧
    membersAt launch0 topScope 0 ≠ [] ∧ prunedLate full launch0 6 topScope 0 = false ∧ liveLaunch full 0 8 = none ∧
    full.tsk.early.length < 4096 ∧
    4096 ≤ ({ full with tsk := { full.tsk with
        early := List.replicate 4096 ⟨0, 8, 0, 0, none, false, 0, 0, false⟩ } } : Blk).tsk.early.length :=
  ⟨taken_full.1, taken_full.2.1, taken_full.2.2, by decide +kernel, ⟨_, rfl, by decide +kernel⟩, by decide +kernel, by decide +kernel,
    by decide +kernel, by decide, Nat.le_of_eq (List.length_replicate ..).symm⟩
theorem witness_SieveTakesCandidates : runAt full 0 7 topScope = some (0, run0) ∧ Store.get? full.sve.runs 0 = some run0 ∧ run0.set < 16 ∧
    run0.phase = .intake ∧ (rangeDies full 0 0x10).any (fun e => e.die == hdr.src) = true ∧ run0.marked.contains hdr.src = false ∧
    run0.share ≠ 0 ∧ setStage full 0 = false ∧ recFits full run0 0 = true ∧ (setV full 0 (crScore 0)).isSome = true ∧
    ({ run0 with phase := .fanout } : Run).phase ≠ .intake ∧ runAt full 0 8 topScope = none ∧ liveLaunch full 0 8 = none := by
  decide +kernel
/-- An expert with its task, one with none, and one staged; the last place of a list, of SVE_XL_LINES lines. -/
abbrev xtask : XTask := { expert := 0, slot := some 5, homes := [(0, 1)], placed := 8 * (xlLines full - 1) - 1 }
theorem witness_ExpanderTakesRequests : liveLaunch full hdr.dstCtx hdr.ltag = some (0, launch0) ∧
    (∃ n, xNode full launch0 topScope 2 = some n ∧ (homeList full n).any (fun p => p.1 == 0) = true ∧ xpStage n = some 3) ∧
    launch0.xdone.contains topScope = false ∧ scopeAt full 0 topScope = some (0, scope0) ∧ Store.get? full.sve.scopes 0 = some scope0 ∧
    scope0.released = true ∧ (rowsUsed full).length ≤ 8192 ∧ isRuled full 0 = false ∧ xtask.placed < 8 * (xlLines full - 1) ∧
    (let x := { scope0 with opened := true, tasks := [xtask] }
     x.tasks.find? (fun k => k.expert == 0 && k.homes.any (fun p => p.1 == 0)) = some xtask ∧
       x.tasks.find? (fun k => k.expert == 0) = some xtask ∧ x.tasks.any (fun k => k.expert == 0) = true ∧
       x.tasks.any (fun k => k.expert == 1) = false) ∧
    scope0.staged.any (fun p => p.1 == 1) = false ∧ (scopeNode full launch0 topScope 3).isSome = true ∧
    launchOf full 0 = some launch0 ∧ (takeResv full 0 topScope).isSome = true ∧
    (let x := { scope0 with staged := [(1, 4)] }
     x.staged.find? (fun p => p.1 == 1) = some (1, 4) ∧ x.staged.find? (fun p => p.1 == 0) = none) ∧
    (taskOf { full with tsk := { full.tsk with tasks := [(4, { source with state := .waiting })] } } 4).map (·.state) = some .waiting :=
  ⟨by decide +kernel, ⟨_, rfl, by decide +kernel, by decide +kernel⟩, by decide +kernel⟩
/-- Ring 0 is granted to context 0, open, with 4 handlers. -/
abbrev ring0 : Ring := { state := .opened, rgen := 1, ready := true, hcount := 4, base := 0x10000, ptrAddr := 0x20000 }
abbrev ringed : Blk := { reg up (bank rXchRings 0) 0x40000 with xch := { up.xch with rings := [(0, ring0)] } }
theorem witness_MessagesArePlaced : (Sound ringed hdr ∧ InTurn ringed hdr ∧ Welcome ringed hdr) ∧ ringCtx ringed 0 = some 0 ∧
    ringOf ringed 0 = ring0 ∧ ring0.rgen = amh.rgen ∧ false = ring0.reply ∧ 3 < ring0.hcount ∧ ring0.hcount ≤ 4 ∧ true ≠ ring0.reply ∧
    ringCtx ringed 3 = some 0 ∧ ringCtx ringed 4 ≠ some 0 ∧ ({ amh with rgen := 2 } : AmHdr).rgen ≠ ring0.rgen :=
  ⟨⟨⟨by decide +kernel, rfl, rfl, rfl, rfl⟩, inTurn_first (by decide) rfl rfl, ⟨by decide +kernel, by decide +kernel,
      .inl (by decide +kernel)⟩⟩,
    by decide +kernel⟩

/-! ## Witnesses: tasks, the regions' words, the Memory Port -/

abbrev holding (k : Task) : Blk := { full with tsk := { full.tsk with tasks := [(4, k)] } }
theorem taskOf_holding (k : Task) : taskOf (holding k) 4 = some k := rfl
abbrev deadJoint : Joint :=
  { a := { w := { deadSeen := true, fired := true } }, b := { w := { deadSeen := true, fired := true } }, waiter := .task 4, ctx := 0 }
/-- Every transition; the gate of a node with DEADP 0 and of one with DEADP 1; the last free delay entry and none. -/
theorem witness_TasksMoveAsR100Says : (∀ k, taskOf (holding k) 4 = some k) ∧ eligible full source ≠ [] ∧ source.kind ≠ .null ∧
    eligible { full with cfg := { full.cfg with mask := [0xffff] } } { source with engMode := 1, eng := 0 } = [] ∧
        source.noEngine = false ∧ isRuled full 0 = false ∧
    source.state ≠ .waiting ∧ jointDead full 10 = false ∧ source.gjoint = some 10 ∧
    (let b := { full with tsk := { full.tsk with joints := [(10, deadJoint)] } }
     jointDead b 10 = true ∧ (taskNode b source).map nDeadp = some false ∧
       (taskNode { b with tsk := { b.tsk with recs := Store.set b.tsk.recs 1 (word [(0, 1), (11, 1)]) } } source).map nDeadp = some true) ∧
    source.delay = 0 ∧ full.iss.dly.length < 16384 ∧ 16384 ≤ (List.replicate 16384 (⟨0, 0, 0, 1, 0, 0⟩ : DlyEntry)).length :=
  ⟨taskOf_holding, by decide +kernel, by decide, by decide +kernel, rfl, by decide +kernel, by decide, by decide +kernel, rfl,
    by decide +kernel, rfl, by decide, Nat.le_of_eq (List.length_replicate ..).symm⟩
/-- The third and the fourth failed word in a row from one engine. -/
theorem witness_RegionWordsAreChecked : regionWord (.completionWord 15 255 0 false []) = some (15, 255, false) ∧
    regionWord (.rcpReservedKind 0 0 3 0 true) = some (0, 0, true) ∧ fnReady up 9 = true ∧ up.cfg.srst = false ∧
    regionOut (reg up rRegionFail 0x8000) 15 = true ∧ regionOut up 15 = false ∧ 2 + 1 < 4 ∧ 4 ≤ 3 + 1 ∧
    Store.getD ({ up.ports with rcpFails := [(0xfff, 3)] } : Ports).rcpFails (15 * 256 + 255) 0 = 3 ∧
    engMasked { up with cfg := { up.cfg with mask := [1] } } 0 = true ∧ engMasked up 0 = false := by decide +kernel
theorem listens_full : Listens full 0 3 := ⟨by decide +kernel, rfl, by decide, by decide, by decide +kernel, by decide +kernel⟩
/-- A completion word of slot 4 for a task of class 1, with a STATUS. -/
abbrev done (status : Nat) : Word64 := BitVec.ofNat 64 (1 <<< 48 + 4 <<< 23 + 1 <<< 21 + status <<< 19)
theorem witness_CompletionsEndTasks : Listens full 0 3 ∧ (∀ n ∈ [0, 1, 2], cwMatch full 3 (done n) = some source ∧
    cwSlot (done n) = 4 ∧ cwCls (done n) = source.cls ∧ cwStatus (done n) = n) ∧ (∀ o ∈ full.ctx.owed, o.what ≠ .completion 4) ∧
    cwMatch up 3 (done 0) = none ∧ up.iss.purge.find? (purgeMatch 3 (done 0)) = none ∧ occ up 3 1 = 0 ∧
    occ { up with iss := { up.iss with occ := [(13, 1)] } } 3 1 ≠ 0 ∧ Store.get? up.tsk.held 4 = none ∧
    ([⟨3, 4, 0, 0, 1, 1⟩] : List HeldWord).find? (purgeMatch 3 (done 0)) = some ⟨3, 4, 0, 0, 1, 1⟩ :=
  ⟨listens_full, by decide +kernel⟩
theorem one_slot : ∃ i, (takeSlots full 1).1 = some [i] := by
  have h : (takeSlots full 1).1.map List.length = some 1 := by decide +kernel
  match hm : (takeSlots full 1).1, h with
  | some [i], _ => exact ⟨i, rfl⟩
theorem witness_EnginesSendRecordsAndEnqueue : Listens full 0 3 ∧ taskOf full (crSlot (done 0)) = none ∧
    (let w : Word64 := BitVec.ofNat 64 (4 <<< 47)
     taskOf full (crSlot w) = some source ∧ source.kind = .kernel ∧ source.state = .issued ∧ source.issuedEng = 3 ∧
       (setV full 0 (crScore w)).isSome = true ∧ crExpert w < setNexp full 0 ∧ (srcOf full 0 topScope).ended = false ∧
       ((launchOf full 0).bind (fun l => expertNode full l topScope)).map (fun p => (xpSrc p.2, xpSet p.2, scopeHomes full p.2)) =
         some (0, 0, [0]) ∧ crTok w >>> setHshift full 0 = 0 ∧ (dieEnt full 0).die ≠ ownDie full ∧
       (List.replicate 30 w).length < 31) ∧
    (let w : Word64 := BitVec.ofNat 64 (4 <<< 47 + 3 <<< 27 + 0xfff <<< 15)
     taskOf full (fld w 63 47) = some source ∧ stampOf full (fld w 63 47) = fld w 46 39 ∧ rgb full (bank rOrdMode 0) 2 = false ∧
       rgb (reg full (bank rOrdMode 0) 4) (bank rOrdMode 0) 2 = true ∧ (∀ o ∈ full.ctx.owed, o.what ≠ .completion (fld w 63 47)) ∧
       (scopeNode full launch0 topScope (fld w 38 27)).map nKind = some 1 ∧ (topImg full launch0).isSome = true ∧ fld w 10 0 = 0 ∧
       (∃ i, (takeSlots full 1).1 = some [i]) ∧ ctxUsed full 0 < ctxQuota full 0 ∧
       (∃ top nd, topImg full launch0 = some top ∧ scopeNode full launch0 topScope 3 = some nd ∧
         argOf top launch0 topScope nd + fld w 26 11 * 0x40 < 2 ^ 52)) := by
  refine ⟨listens_full, ?_, ⟨?_, ?_, ?_, ?_, ?_, ?_, ?_, ?_, ?_, ?h, ?_, _, _, rfl, rfl, ?_⟩⟩
  case h => exact one_slot
  all_goals decide +kernel
abbrev mreq (n : Nat) (w : Bool) (o : MemOwner) : MemReq :=
  { write := w, addr := 0, first := 0, be := 0, data := 0, qos := 0, ctx := some 0, unit := uCsq, index := 0, owner := o, fails := n }
abbrev tagged (r : MemReq) : Blk := { up with mem := { up.mem with out := [(1023, r)] } }
/-- A read and a write, one whose context let it go, and the last repeat but one and the last. -/
theorem witness_MemoryPortTransfers : up.cfg.low = false ∧ up.mem.mq = none ∧ fnReady up 2 = true ∧ up.cfg.srst = false ∧
    Store.get? up.mem.out 1023 = none ∧ (∀ n ∈ [2, 3], ∀ w ∈ [false, true],
      Store.get? (tagged (mreq n w (.csqLoad 0 0))).mem.out 1023 = some (mreq n w (.csqLoad 0 0))) ∧
    (mreq 2 false (.csqLoad 0 0)).owner ≠ .orphaned ∧ (mreq 2 false (.csqLoad 0 0)).serial = none ∧
    (mreq 0 false .orphaned).owner = .orphaned := by decide +kernel

/-! ## Witnesses: the fabric, time, joints -/

abbrev freq : FReq :=
    { dst := 6, dstCtx := 0, dstGen := 1, srcCtx := 0, srcGen := 1, ltag := 7, body := .arrive 0 0 false, owner := .signal 0 0 }
abbrev oent (p : OutPhase) : OutEntry := { req := freq, stamp := 1, pseq := 0, sync := true, phase := p, deadline := 1000000 }
abbrev sent (e : OutEntry) : Blk := { up with xch := { up.xch with out := [(4095, e)] } }
theorem witness_AnswersEndRequests : 0x1fff < 2 ^ 16 ∧ 10 < 16 ∧ fnReady up 11 = true ∧ 0x1fff % 4096 = 4095 ∧
    Store.get? (sent (oent .waiting)).xch.out 4095 = some (oent .waiting) ∧ (oent .waiting).stamp = 0x1fff / 4096 ∧
    (oent .waiting).req.srcGen = ctxGen up 0 ∧ (oent .waiting).req.orphan = false ∧
    ({ freq with orphan := true } : FReq).orphan = true ∧ Store.get? up.xch.out 4095 = none ∧ (oent .waiting).parityTries < 3 ∧
    (oent .waiting).deadline ≤ now up ∧ now up < ({ oent .waiting with deadline := 1000001 } : OutEntry).deadline ∧
    (oent .again).phase ≠ .waiting ∧ up.time.usable = true := by decide +kernel
theorem witness_FabricKeepsOrderAndFlow : fnReady up 11 = true ∧ up.cfg.low = false ∧ up.time.usable = true ∧
    (∀ d ∈ [1000000, 1000001], let h : HeldMsg := ⟨⟨hdr, .arrive 0 0 false⟩, d⟩
      heldAt { up with xch := { up.xch with hold := [h] } } 6 0 = some h) ∧ 1000000 ≤ now up ∧ now up < 1000001 ∧
    ({ up.xch with winEnd := some 1000000 } : Xch).winEnd = some 1000000 ∧ 1 % 2 ≠ up.xch.epoch ∧ 0 % 2 = up.xch.epoch ∧
    Store.get? (sent (oent .offering)).xch.out 4095 = some (oent .offering) ∧ 1 ≤ 1 ∧ 1 < 2 ∧
    ({ up.xch with retries := [⟨.localMsg freq, 0, 1000000⟩, ⟨.fabric freq, 0, 1000001⟩] } : Xch).retries[0]? =
      some ⟨.localMsg freq, 0, 1000000⟩ ∧ peerFenced up freq.dst = false := by decide +kernel
/-- The last nanosecond before each time, and the first at it. -/
theorem witness_TimeReleasesAndExpires : fnReady up 8 = true ∧ fnReady up 9 = true ∧ fnReady up 10 = true ∧ up.time.usable = true ∧
    (let b := { holding { source with state := .delayed } with iss := { up.iss with dly := [⟨0, 4, 2, 1, 0, 1000000⟩] } }
     (∃ d ∈ b.iss.dly, d.release ≤ now b) ∧ taskOf b 4 = some { source with state := .delayed } ∧ ruledLive b 0 = false) ∧
    now up < (⟨0, 4, 2, 1, 0, 1000001⟩ : DlyEntry).release ∧ rgf up rEarlyTtl 15 0 = 1000 ∧ 0 + 1000 * 1000 ≤ now up ∧
    now up < 1 + 1000 * 1000 ∧
    (let b := reg (holding { source with issuedAt := 499999 }) (rOverrun + 4) 500
     rgf b (rOverrun + 4 * source.cls) 19 0 = 500 ∧ 499999 + 500 * 1000 < now b ∧ now b ≤ 500000 + 500 * 1000 ∧ source.overrun = false) ∧
    rgf full rRunTimeout 19 0 = 1000 ∧ Store.get? full.sve.runs 0 = some run0 ∧ isRuled (reg full (bank rOrdMode 0) 1) 0 = true := by
  refine ⟨by decide +kernel, by decide +kernel, by decide +kernel, rfl, ⟨⟨_, .head _, by decide⟩, rfl, by decide +kernel⟩, by decide,
    by decide +kernel⟩
abbrev gated (w : JWord) (wt : Waiter) : Blk :=
    { up with tsk := { up.tsk with joints := [(10, { a := { w }, b := { w }, waiter := wt, ctx := 0 })] } }
/-- An arrival at an open joint, full or not, a closed one before its last and at it, and a fired one; a close at, above, and below the
count, at the greatest target and past it. -/
theorem witness_JointsCountAsR103Says : (∀ w ∈ [({ isOpen := true, count := 0xffffff } : JWord), { isOpen := true, count := 0xfffffe },
    { count := 2 }, { count := 1 }, { fired := true }, { isOpen := true, count := 3 }],
      (jointOf (gated w (.queue 0)) 10).map (·.read) = some (.good w false)) ∧
    (∀ x, jointOf (gated { isOpen := true, count := 3 } (.queue 0)) 10 = some x →
      2 + closeAdd up 10 x < 3 ∧ 3 + closeAdd up 10 x = 3 ∧ 3 < 0xffffff + closeAdd up 10 x ∧ 0xffffff < 0x1000000 + closeAdd up 10 x) := by
  refine ⟨by decide +kernel, fun x h => ?_⟩
  cases h
  decide
theorem witness_JointFaultsFenceTheWaiter :
    (∃ x, jointOf (gated {} (.queue 0)) 10 = some x ∧ x.waiter = .queue 0) ∧
    (∃ x, jointOf full 10 = some x ∧ x.waiter = .task 4) ∧ awayAt full 10 = none ∧ gatedTask full 10 4 = some source ∧
    source.state ≠ .waiting ∧ gatedTask (holding { source with state := .ready }) 10 4 = some { source with state := .ready } ∧
    ({ w := {} } : JCopy).w ≠ ({ w := { fired := true } } : JCopy).w ∧ ({ w := {}, parityOk := false } : JCopy).parityOk = false ∧
    0xff < 256 ∧ 10 < 2 ^ 18 :=
  ⟨⟨_, rfl, rfl⟩, ⟨_, rfl, rfl⟩, by decide +kernel⟩

/-! ## Witnesses: the Nib -/

/-- `Begins` as a check, where no breakpoint is in force. -/
def begins (b : Blk) (q : Nat) (w : Word256) : Bool :=
  fnReady b 13 && decide (issueWord b q = some w) && !brkHolds b (sqCtx b q) && !(queueOf b q).stepArm &&
    (brkHit b q (queueOf b q) w).isNone && (frontCheck b q w).isNone
theorem of_begins {b : Blk} {q : Nat} {w : Word256} (h : begins b q w = true) : Begins b q w := by
  simp only [begins, Bool.and_eq_true, decide_eq_true_eq, Bool.not_eq_true', Option.isNone_iff_eq_none] at h
  obtain ⟨⟨⟨⟨⟨h1, h2⟩, h3⟩, h4⟩, h5⟩, h6⟩ := h
  exact ⟨h1, h2, .inr ⟨fun h => by rw [h3] at h; exact absurd h (by decide), h4, h5⟩, h6⟩
/-- Queue 0 is privileged. -/
abbrev priv : Blk := reg up (sqReg 0 0) 0x40000404
/-- Each word of a list begins on queue 0 in its state, and is as a check says. -/
def allBegin (b : Blk) (l : List (Queue × Word256)) (p : Queue → Word256 → Bool) : Bool :=
  l.all (fun x => begins (nib b x.1 x.2) 0 x.2 && p (queue x.1 x.2) x.2)
theorem of_allBegin {b : Blk} {l : List (Queue × Word256)} {p : Queue → Word256 → Bool} (h : allBegin b l p = true) :
    ∀ x ∈ l, Begins (nib b x.1 x.2) 0 x.2 ∧ p (queue x.1 x.2) x.2 = true := fun x hx => by
  have := List.all_eq_true.mp h x hx
  rw [Bool.and_eq_true] at this
  exact ⟨of_begins this.1, this.2⟩

theorem witness_ScratchCommandsRetire : (∀ x ∈ [(({} : Queue), cmd oNop []), ({}, cmd oSet [(12, 3), (64, 2 ^ 64 - 1)]),
    ({}, cmd oAdd [(12, 3), (16, 1), (64, 1)])], Begins (nib up x.1 x.2) 0 x.2 ∧ ([oNop, oSet, oAdd].contains (cOp x.2)) = true) ∧
    (∀ x ∈ [(({} : Queue), cmd oGet [(32, 0)]), ({}, cmd oGet [(32, 1)]), ({}, cmd oGet [(32, 2)]), ({}, cmd oGet [(32, 3)]),
      ({}, cmd oGet [(32, 4)])], Begins (nib up x.1 x.2) 0 x.2 ∧ (cOp x.2 == oGet && decide (immF x.2 3 0 ≤ 4)) = true) :=
  ⟨of_allBegin (p := fun _ w => [oNop, oSet, oAdd].contains (cOp w)) (by decide +kernel),
    of_allBegin (p := fun _ w => cOp w == oGet && decide (immF w 3 0 ≤ 4)) (by decide +kernel)⟩

abbrev back : Nat × Nat := (64, 2 ^ 64 - 32)
/-- Branches at depth 0 and in a called block, forward, backward, and to themselves, at the limit of backward branches and past it; LOOP on
0, 1 and 2; CALL at depths 0, 3 and 4; RET at depths 0 and 1. -/
theorem witness_FlowCommandsMoveThePc : ∀ x ∈ [(({} : Queue), cmd oBr []), ({ stack := [32] }, cmd oBr [(64, 32)]),
    ({ stack := [32] }, cmd oBr [back]), ({ stack := [32] }, cmd oBr []), ({ stack := [32], backj := 0xfffff }, cmd oBr [back]),
    ({ stack := [32], backj := 0x100000 }, cmd oBr [back]), ({}, cmd oBr [(32, 3), (16, 1), (20, 1)]),
    ({ scratch := [(1, 2)] }, cmd oBr [(32, 0x11), (16, 1), (128, 2)]), ({}, cmd oLoop [(16, 1), back]),
    ({ scratch := [(1, 1)] }, cmd oLoop [(16, 1), back]), ({ scratch := [(1, 2)] }, cmd oLoop [(16, 1), back]),
    ({ scratch := [(1, 2)], stack := [32] }, cmd oLoop [(16, 1), back]), ({}, cmd oCall [(64, 0x2000)]),
    ({ stack := [1, 2, 3] }, cmd oCall [(64, 0x2000)]), ({ stack := [1, 2, 3, 4] }, cmd oCall [(64, 0x2000)]), ({}, cmd oRet []),
    ({ stack := [32] }, cmd oRet [])], Begins (nib up x.1 x.2) 0 x.2 ∧ ([oBr, oLoop, oCall, oRet].contains (cOp x.2)) = true :=
  of_allBegin (p := fun _ w => [oBr, oLoop, oCall, oRet].contains (cOp w)) (by decide +kernel)
theorem witness_FlowLimits : rg up rLoopMax = 0x100000 ∧ ¬ rg up rLoopMax < 0xfffff + 1 ∧ rg up rLoopMax < 0x100000 + 1 ∧
    offOf (cmd oBr [(64, 32)]) > 0 ∧ offOf (cmd oBr []) ≤ 0 ∧ offOf (cmd oBr [back]) ≤ 0 ∧ brCond 0 0 0 = true ∧ brCond 3 0 0 = false ∧
    brCond 1 2 2 = true ∧ immF (cmd oBr [(32, 0x11)]) 4 4 = 1 := by decide +kernel

/-- A block whose queue 0 may use joint 10, fired or not, and joint 11, an end joint. -/
abbrev jointed (fired : Bool) : Blk := { up with tsk := { up.tsk with
  joints := [(10, { a := { w := { fired, count := 1 } }, b := { w := { fired, count := 1 } }, waiter := .queue 0, ctx := 0 })]
  launches := [(0, { launch0 with endJoint := some 11 })] } }
theorem witness_JointCommandsWaitAndAllocate : (∀ f, ∀ x ∈ [(({ scratch := [(1, 10)], joints := [10] } : Queue), cmd oWait [(16, 1)]),
    ({ scratch := [(1, 10)], joints := [10] }, cmd oWait [(16, 1), (128, 0xfffff)]), ({ scratch := [(1, 10)] }, cmd oWait [(16, 1)]),
    ({ scratch := [(1, 10)], joints := [10] }, cmd oJfree [(16, 1)]), ({ scratch := [(1, 11)], joints := [11] }, cmd oJfree [(16, 1)]),
    ({ scratch := [(1, 10)] }, cmd oJfree [(16, 1)]), ({ joints := List.range 15 }, cmd oJalloc [(12, 1), (128, 1)]),
    ({ joints := List.range 16 }, cmd oJalloc [(12, 1), (152, 1)])],
      Begins (nib (jointed f) x.1 x.2) 0 x.2 ∧ ([oWait, oJfree, oJalloc].contains (cOp x.2)) = true) ∧
    jointFired (jointed true) 10 = true ∧ jointFired (jointed false) 10 = false ∧ isEndJoint (jointed true) 11 = true ∧
    isEndJoint (jointed true) 10 = false ∧ runTotal up.tsk.freeJoints ≠ 0 ∧
        runTotal ({ up.tsk with freeJoints := [] } : Tsk).freeJoints = 0 :=
  ⟨fun f => of_allBegin (p := fun _ w => [oWait, oJfree, oJalloc].contains (cOp w)) (by cases f <;> decide +kernel), by decide +kernel⟩

/-- Targets of SIGNAL and CLOSE: a joint of the queue, a joint of another, a node of this die, and of another. -/
abbrev targets (op : Nat) : List (Queue × Word256) :=
  [({ joints := [10] }, cmd op [(128, 10), (146, 1)]), ({}, cmd op [(128, 10), (146, 1)]), ({}, cmd op [(32, 7), (114, 0xffe)]),
   ({}, cmd op [(32, 7), (114, 0xffe), (126, 1), (81, 6), (65, 1)])]
theorem witness_SignalsSleepsAndBreaks : (∀ x ∈ targets oSignal ++ targets oClose ++ [(({} : Queue), cmd oSleep [(64, 1)]), ({},
    cmd oBrk [])],
    Begins (nib up x.1 x.2) 0 x.2 ∧ ([oSignal, oClose, oSleep, oBrk].contains (cOp x.2)) = true) ∧ ruledLive up 0 = false ∧
    up.csq.brkHit = false :=
  ⟨of_allBegin (p := fun _ w => [oSignal, oClose, oSleep, oBrk].contains (cOp w)) (by decide +kernel), by decide +kernel⟩
theorem witness_MemoryCommandsAskAndWait : (∀ x ∈ [(({} : Queue), cmd oLoad [(12, 1), (64, 2 ^ 52 - 8)]), ({}, cmd oStore [(16, 1), (64,
    8)]),
    ({}, cmd oPatch [(64, 64), (116, 1), (32, 2)]), ({}, cmd oLatch []), ({}, cmd oLatch [(64, 64)])],
    Begins (nib priv x.1 x.2) 0 x.2 ∧ ([oLoad, oStore, oPatch, oLatch].contains (cOp x.2)) = true) ∧ gstBusy priv = false ∧
    gstBusy { priv with tsk := { priv.tsk with job := some ⟨none, 0, 0, 2, 0, 1, [], none⟩ } } = true :=
  ⟨of_allBegin (p := fun _ w => [oLoad, oStore, oPatch, oLatch].contains (cOp w)) (by decide +kernel), by decide +kernel⟩
/-- LTAG 7 is live, LTAG 8 is not; the launch may be spilled once its task is done, and refilled once it is spilled. -/
abbrev plainT : Blk := { full with tsk := { full.tsk with recs := [(0, word [(0, 1), (32, 1)]), (1, word [(0, 1)])]
                                                          tasks := [(4, { source with state := .waiting })] } }
theorem witness_LaunchCommandsAct : (∀ x ∈ [(({} : Queue), cmd oSpill [(32, 7), (64, 64)]), ({}, cmd oSpill [(32, 8), (64, 64)]),
    ({}, cmd oRefill [(32, 7)]), ({}, cmd oRefill [(32, 8)]), ({}, cmd oLaunch [(32, 8), (116, 1)]), ({}, cmd oLaunch [(32, 7), (116, 1)]),
    ({}, cmd oLaunch [(32, 8), (116, 1), (128, 10), (146, 1)]), ({}, cmd oCancel [(32, 7), (88, 1)]), ({}, cmd oCancel [(32, 8)])],
    Begins (nib plainT x.1 x.2) 0 x.2 ∧ ([oSpill, oRefill, oLaunch, oCancel].contains (cOp x.2)) = true) ∧
    liveLaunch plainT 0 7 = some (0, launch0) ∧ liveLaunch plainT 0 8 = none ∧ spillBad plainT launch0 = false ∧
        spillBad full launch0 = true ∧
    launch0.spill ≠ .spilled ∧ launch0.spill = .live ∧
    (let a := launchArgs plainT 0 (cmd oLaunch [(32, 8), (116, 1)])
     endJointOk plainT 0 a = true ∧ a.course = false ∧ armWaits plainT a = false ∧ launchRefusal plainT a = none ∧
       launchRefusal { plainT with tsk := { plainT.tsk with freeSlots := [] } } a = some 0x53) ∧
    (let a := launchArgs plainT 0 (cmd oLaunch [(32, 7), (116, 1)]); launchRefusal plainT a = some 0x31) ∧
    endJointOk plainT 0 (launchArgs plainT 0 (cmd oLaunch [(32, 8), (116, 1), (128, 10), (146, 1)])) = false ∧
    (let b := reg plainT (bank rSqtCfg 0) 0x80000000
     let a := launchArgs b 0 (cmd oLaunch [(32, 8), (116, 1), (149, 1)])
     endJointOk b 0 a = true ∧ a.course = true ∧ ctxChecks b a = true ∧ (sqtOf b 0).course = none) :=
  ⟨of_allBegin (p := fun _ w => [oSpill, oRefill, oLaunch, oCancel].contains (cOp w)) (by decide +kernel), by decide +kernel⟩
theorem witness_MachineCommandsAct : (∀ x ∈ [(({} : Queue), cmd oFence [(32, 0), (40, 1)]), ({}, cmd oFence [(32, 0), (40, 2)]),
    ({}, cmd oFence [(32, 1), (40, 1), (48, 1)]), ({}, cmd oFence [(32, 255)]), ({}, cmd oAudit []), ({}, cmd oAudit [(32, 0x7f)]),
    ({}, cmd oHello [(32, 0x30000)]), ({}, cmd oHello [(32, 0x30001)]), ({}, cmd oHello [(32, 0x30002)]), ({}, cmd oAdopt [(32, 1), (40,
        1)])],
    Begins (nib priv x.1 x.2) 0 x.2 ∧ ([oFence, oAudit, oHello, oAdopt].contains (cOp x.2)) = true) ∧ ctxSt priv 0 = .opened ∧
    ctxGen priv 0 = 1 ∧ fenceable priv 0 = true ∧ ctxSt priv 255 = .free ∧ sqCtx priv 0 = 0 ∧
        fenceable (slot priv { state := .draining }) 0 = false ∧
    ctxSt (slot priv { state := .orphaned }) 0 = .orphaned ∧ compatible 0x30000 blkVersion = true ∧ compatible 0x30001 blkVersion = true ∧
    compatible 0x30002 blkVersion = false :=
  ⟨of_allBegin (p := fun _ w => [oFence, oAudit, oHello, oAdopt].contains (cOp w)) (by decide +kernel), by decide +kernel⟩
/-- A word that is next, at each of the checks of R228 in turn; and a queue that has none. -/
theorem isNext_of {b : Blk} {q : Nat} {w : Word256} (h1 : fnReady b 13 = true) (h2 : issueWord b q = some w)
    (h3 : brkHolds b (sqCtx b q) = false) (h4 : (queueOf b q).stepArm = false) (h5 : brkHit b q (queueOf b q) w = none) : IsNext b q w :=
  ⟨h1, h2, .inr ⟨fun h => by rw [h3] at h; exact absurd h (by decide), h4, h5⟩⟩
abbrev shut (b : Blk) : Blk := { b with cfg := { b.cfg with ready := 0x7fff } }
theorem witness_ChecksHaltTheQueue : IsNext (nib up {} (cmd 0x7f [])) 0 (cmd 0x7f []) ∧ opKnown (cOp (cmd 0x7f [])) = false ∧
    IsNext (nib (shut up) {} (cmd oSet [])) 0 (cmd oSet []) ∧ fnReady (nib (shut up) {} (cmd oSet [])) 15 = false ∧
    IsNext (nib up {} (cmd oAudit [])) 0 (cmd oAudit []) ∧ privOp (cmd oAudit []) 0 = true ∧ sqPriv up 0 = false ∧ fnReady up 15 = true ∧
    IsNext (nib up {} (cmd oNop [(64, 1)])) 0 (cmd oNop [(64, 1)]) ∧ operandsOk (cmd oNop [(64, 1)]) = false ∧ issueWord up 0 = none ∧
    (∀ c ∈ [Instr.cmdNop 0, .cmdAudit 0], (nibRow c).isSome = true) := by
  refine ⟨isNext_of ?_ ?_ ?_ ?_ ?_, ?_, isNext_of ?_ ?_ ?_ ?_ ?_, ?_, isNext_of ?_ ?_ ?_ ?_ ?_, ?_, ?_, ?_, isNext_of ?_ ?_ ?_ ?_ ?_, ?_,
      ?_, ?_⟩ <;>
    decide +kernel

/-- A WAIT and a SLEEP whose times are this nanosecond and the next; a Pulse of an active block and of one that has just become
inactive; a PC sample that is due, with the queue that it shows. -/
theorem witness_QueuesPassTheirTime : fnReady up 13 = true ∧ up.time.usable = true ∧ ruledLive up 0 = false ∧
    (∀ d ∈ [1000000, 1000001],
        (queueOf { up with csq := { up.csq with queues := [(0, { state := .wait, deadline := some d, cur := some 0 })] } }
      0).deadline = some d) ∧ 1000000 ≤ now up ∧ now up < 1000001 ∧
    (Store.vals (nib up {} 0).csq.queues).any (fun v => v.state == .run) = true ∧ ({ up.csq with active := true } : Csq).active = true ∧
    (Store.vals up.csq.queues).any (fun v => v.state == .run) = false ∧ up.csq.active = false ∧
    (let b := reg { nib up {} 0 with csq := { (nib up {} 0).csq with pcsNext := 63 } } rPcsCfg 0x8000000a
     rgb b rPcsCfg 31 = true ∧ b.csq.pcsAt + 2 ^ rgf b rPcsCfg 4 0 ≤ now b ∧ (queueOf b ((63 + 1) % 64)).state ≠ .disabled ∧
       (∀ i < 1, (queueOf b ((63 + i) % 64)).state = .disabled)) ∧ rgb up rPcsCfg 31 = false := by decide +kernel
/-- The last queue, the greatest TAIL that fits and the least that does not; a queue that is DISABLED, IDLE, running and HALTED. -/
abbrev qup (v : Queue) : Blk := reg { up with csq := { up.csq with queues := [(63, v)] } } (sqReg 63 0) 0x80000404
theorem served_queues : served up (pageReg 0 0) ok && served up (sqReg 63 0) ok && served up (sqReg 63 0x24) ok && served up 0x20144 ok &&
    served up (pageReg 255 0x10) ok = true := by decide +kernel
theorem witness_QueuesAreControlled : Served up (pageReg 0 0) ok ∧ Served up (sqReg 63 0) ok ∧ Served up (sqReg 63 0x24) ok ∧
    Served up 0x20144 ok ∧ Served up (pageReg 255 0x10) ok ∧ sqCtx up 63 = 0 ∧ sqSize up 63 = 16 ∧ 15 < sqSize up 63 ∧ sqSize up 63 ≤ 16 ∧
    sqCtx up 63 ≠ 1 ∧ rgb up (sqReg 63 0) 31 = false ∧ rgb (qup {}) (sqReg 63 0) 31 = true ∧
    (fld (0x404 : Word) 4 0 = 4 ∧ fld (0x404 : Word) 12 8 = 4 ∧ fld (0x1010 : Word) 4 0 = 16 ∧ ¬ 4 ≤ fld (0x403 : Word) 4 0) ∧
    (0x404 : Word).toNat &&& 0x70ff1f1f = rg (qup {}) (sqReg 63 0) &&& 0x70ff1f1f ∧
    (0x405 : Word).toNat &&& 0x70ff1f1f ≠ rg (qup {}) (sqReg 63 0) &&& 0x70ff1f1f ∧
    (∀ x ∈ [QState.idle, .run, .halted], (queueOf (qup { state := x }) 63).state = x) ∧ ctxOpen up 63 = true ∧
    ctxOpen (slot up { state := .faulted }) 63 = false ∧ up.csq.brkHit = false := by
  have h := served_queues
  simp only [Bool.and_eq_true] at h
  obtain ⟨⟨⟨⟨h1, h2⟩, h3⟩, h4⟩, h5⟩ := h
  exact ⟨of_served h1, of_served h2, of_served h3, of_served h4, of_served h5, by decide +kernel⟩

/-! ## Witnesses: stores, courses, channels, contexts -/

abbrev gst (n : Nat) : Blk := reg up rGstRecs n
abbrev busy : Blk := { up with tsk := { up.tsk with job := some ⟨none, 0, 0, 2, 0, 1, [], none⟩ } }
abbrev packed : Blk := { up with tsk := { up.tsk with gens := [⟨9, 1, 0, 393215, true, 0⟩] } }
/-- Images of 1, 2, 8,193 and 8,194 records; a full Graph Store; a template that has a generation; a busy store; and an Expert Table load to
the last entry, past it, into a span in use, and while one runs. -/
theorem witness_StoresAreLoaded : (served up 0x4000c ok && served up 0xc0010 ok) = true ∧ up.tsk.job = none ∧ curGen up 1 = none ∧
    busy.tsk.job.isSome = true ∧ (∃ x, curGen full 1 = some x) ∧ (∀ n ∈ [1, 2, 8193, 8194], rgf (gst n) rGstRecs 13 0 = n) ∧
    (resident up 1).length < 8 ∧ findGen up 1 1 = none ∧ (findGen full 1 1).isSome = true ∧ (∃ r ∈ gstFree (gst 8193), 8193 ≤ r.2) ∧
    (∀ r ∈ gstFree packed, r.2 < 2) ∧ up.sve.xtJob = none ∧
    (let b := reg (reg up rXtFirst 262143) rXtCount 1; rgf b rXtFirst 17 0 + rgf b rXtCount 18 0 ≤ 262144 ∧ xtLive b = []) ∧
    (let b := reg (reg up rXtFirst 262143) rXtCount 2; 262144 < rgf b rXtFirst 17 0 + rgf b rXtCount 18 0) ∧
    (let b := reg (reg full rXtFirst 0) rXtCount 1; ∃ r ∈ xtLive b, rgf b rXtFirst 17 0 < r.1 + r.2 ∧ r.1 < 0 + rgf b rXtCount 18 0) := by
  refine ⟨?_, rfl, ?_, rfl, ⟨_, rfl⟩, ?_, ?_, ?_, ?_, ?_, ?_, rfl, ?_, ?_, ?_⟩ <;> decide +kernel
abbrev seq0 : SeqEnt := { agent := 1, remain := 4, chunk := 2, ctx := 0, ctxGen := 1 }
abbrev course0 : List CourseEnt := [{ idx := 0, tokens := 2, token := 0, prio := 0, pos := 0, user := 0, memBase := 0 }]
abbrev bound0 : Boundary := { ctx := 0, launch := some 0, pre := none, phase := .restores }
/-- A boundary in each phase that the rows name; a course launch that waits to advance. -/
abbrev stepped (p : Boundary) (l : Launch) : Blk :=
  { full with sqt := { full.sqt with ents := [(0, seq0)], bounds := [p] }, tsk := { full.tsk with launches := [(0, l)] }
              sve := {} }
abbrev ended0 : Blk := { holding { source with state := .done } with sve := {} }
theorem served_seq : served up 0xe0138 ok && served up (pageReg 255 0x20c) ok = true := by decide +kernel
theorem witness_LaunchesEndAndCoursesAreBuilt : fnReady up 8 = true ∧ fnReady up 14 = true ∧
    (launchOf ended0 0 = some launch0 ∧ launchDue ended0 0 launch0 = true ∧ launchDue full 0 launch0 = false ∧ ruledLive ended0 0 = false ∧
      launch0.course = none) ∧
    (let b := stepped bound0 launch0
     b.sqt.bounds = [bound0] ∧ buildDue b bound0 = true ∧ ctxSt b 0 = .opened ∧ ctxSt (slot b { state := .orphaned }) 0 ≠ .opened ∧
       buildDue b { bound0 with phase := .requests } = false) ∧
    (let x := { bound0 with phase := .writing, course := course0 }
     x.phase = .writing ∧ x.writes = 0 ∧ x.failed = false ∧ x.build = true ∧ ({ x with writes := 1 } : Boundary).writes ≠ 0 ∧
       launchOf (stepped x launch0) 0 = some launch0 ∧ ({ x with launch := none, pre := some 0 } : Boundary).pre = some 0) ∧
    (let l := { launch0 with course := some course0, advWait := true }
     courseLaunch (stepped bound0 l) 0 = some (0, l) ∧ l.resLeft = 0 ∧ l.resBad = false ∧ courseLaunch full 0 = none ∧
       ({ l with resBad := true } : Launch).resBad = true ∧
       (seqAt (stepped bound0 l) 0).map (fun v => (v.ctx, v.state)) = some (0, .active) ∧
       (resultOf [(0, BitVec.ofNat 512 (2 ^ 255 + 2 ^ 192))] 0).testBit 63 = true) ∧
    Served up 0xe0138 ok ∧ Served up (pageReg 255 0x20c) ok ∧ (sqtOf up 0).reqFault = false ∧
    (sqtOf { up with sqt := { up.sqt with ctxs := [(0, { reqFault := true })] } } 0).reqFault = true := by
  have h := served_seq
  rw [Bool.and_eq_true] at h
  refine ⟨?_, ?_, ?_, ?_, ?_, ?_, of_served h.1, of_served h.2, ?_⟩ <;> decide +kernel
/-- Channels 0 to 3 and rings 0 to 3 are granted to context 0. A record with an OP, a LEN and FLAGS. -/
abbrev granted (b : Blk) : Blk := reg (reg b (bank rXchSchs 0) 0x40000) (bank rXchRings 0) 0x40000
abbrev srec (op len flags : Nat) : SendRec :=
  { slot := 0, phase := .ready, bytes := leBytes 4 op ++ leBytes 2 len ++ leBytes 1 flags ++ leBytes 1 1 ++ leBytes 4 6 ++ List.replicate 20 0 }
abbrev chan (r : SendRec) : Blk := { granted up with xch := { up.xch with chans := [(3, { en := true, tail := 1, recs := [r] })] } }
theorem served_xch : served up (pageReg 0 0x400) ok && served up (pageReg 0 0x408) ok && served up (pageReg 0 0x430) ok = true := by
  decide +kernel
/-- The last channel and ring granted and the first that are not; a doorbell at the last slot and past it; the greatest LEN and one more. -/
theorem witness_ChannelsAndRingsMove : Served up (pageReg 0 0x400) ok ∧ Served up (pageReg 0 0x408) ok ∧ Served up (pageReg 0 0x430) ok ∧
    fnReady up 11 = true ∧ chanCtx (granted up) 3 = some 0 ∧ chanCtx (granted up) 4 = none ∧ ringCtx (granted up) 3 = some 0 ∧
    ringCtx (granted up) 4 = none ∧ (chanOf (chan (srec 1 0 0)) 3).en = true ∧ 15 < 2 ^ (chanOf up 3).log2 ∧ 2 ^ (chanOf up 3).log2 ≤ 16 ∧
    (∀ n ∈ [0, 4096, 4097], (srec 1 n 0).op = 1 ∧ (srec 1 n 0).len = n ∧ (srec 1 n 0).malformed = false ∧ (srec 1 n 0).isHandle = false) ∧
    (srec 1 0 2).malformed = true ∧ (srec 1 0 1).isHandle = true ∧ (slotOf up 0).handles = 0 ∧
    ({ slotOf up 0 with handles := 1 } : CtxSlot).handles ≠ 0 ∧ (chanOf (chan (srec 1 0 0)) 3).unanswered < 8 ∧
    peerFenced up (srec 1 0 0).dstDie = false ∧ peerFenced (reg up (bank rPeerEnt 0) (2 ^ 31 + 6)) (srec 1 0 0).dstDie = true ∧
    (srec 2 0 0).op = 2 ∧ (srec 2 0 0).malformed = false ∧ rg2 up rPools (rPools + 4) = 0 ∧ rg2 (reg up rPools 64) rPools (rPools + 4) ≠ 0 ∧
    (srec 3 0 0).op = 3 ∧ (srec 3 0 2).malformed = true ∧ (srec 0 0 0).op ≠ 1 ∧ rgf (granted up) (pageReg 0 0x418) 13 0 = 0 ∧
    (ringOf ringed 0).state = .opened ∧ (ringOf up 0).state ≠ .opened ∧ (ringOf up 0).places = [] ∧
    ({ ring0 with places := [⟨16, 1, 0, 1, 0⟩] } : Ring).places ≠ [] ∧ liveLaunch full 0 7 = some (0, launch0) ∧
        liveLaunch up 0 0 = none := by
  have h := served_xch
  simp only [Bool.and_eq_true] at h
  exact ⟨of_served h.1.1, of_served h.1.2, of_served h.2, by decide +kernel⟩
theorem drained (b : Blk) (h1 : b.tsk.tasks = []) (h2 : b.tsk.held = []) (h3 : memBusy b 0 = 0) (h4 : fabBusy b 0 = 0) (h5 : b.xch.rings = [])
    (h6 : b.sqt.ents = []) (h7 : (slotOf b 0).boardBusy = 0) : Drained b 0 :=
  ⟨by simp [h1], by simp [h2], h3, h4, by simp [h5], by simp [h6], h7⟩
theorem served_ctx : served up 0x120008 ok && served up 0x120100 ok && served up rPeerEnt ok && served up rOrdMode ok && served up 0x120824 ok =
    true := by decide +kernel
/-- A slot in each state; a drain that is complete, and one that is not, at its bound and a nanosecond before it; a lease that ends now and
one that ends next. -/
theorem witness_ContextsOpenDrainAndClose : Served up 0x120008 ok ∧ Served up 0x120100 ok ∧ Served up rPeerEnt ok ∧ fnReady up 12 = true ∧
    (∀ v ∈ [CtxState.free, .opening, .opened, .draining, .quiesced, .orphaned, .faulted, .closing, .pendingReuse],
      ctxSt (slot up { state := v }) 0 = v) ∧ rgf up rCtxSel 7 0 < rgf up rCfgLimits 8 0 ∧ rgf up rCfgLimits 8 0 = 256 ∧ Fenceable up 0 ∧
    Drained (slot up { state := .draining }) 0 ∧ ¬ Drained (slot full { state := .draining }) 0 ∧
    (let b := slot full { state := .draining, fenceAt := 900000 }; (slotOf b 0).fenceAt + rgf b (bank rQuiesce 0) 15 0 * 1000 ≤ now b) ∧
    (let b := slot full { state := .draining, fenceAt := 900001 }; now b < (slotOf b 0).fenceAt + rgf b (bank rQuiesce 0) 15 0 * 1000) ∧
    isStrict up 0 = false ∧ isStrict (reg up rStrict 1) 0 = true ∧ (1000000 ≤ now up ∧ now up < 1000001) ∧
    (bitAt (0x100 : Word) 16 = false ∧ fld (0x100 : Word) 7 0 = 0 ∧ fld (0x100 : Word) 15 8 = ctxGen up 0 ∧
        fld (0x200 : Word) 15 8 ≠ ctxGen up 0 ∧
      bitAt (0x10000 : Word) 16 = true ∧ fld (0x10000 : Word) 7 0 = 0 ∧ fld (0x10001 : Word) 7 0 ≠ 0) ∧
    rgw up (bank rPeerEnt 0) ≠ 0x80000006#32 ∧ rgw (reg up (bank rPeerEnt 0) 0x80000006) (bank rPeerEnt 0) = 0x80000006#32 := by
  have h := served_ctx
  simp only [Bool.and_eq_true] at h
  refine ⟨of_served h.1.1.1.1, of_served h.1.1.1.2, of_served h.1.1.2, by decide +kernel, by decide +kernel, by decide +kernel,
    by decide +kernel, .inl (by decide +kernel), drained _ rfl rfl (by decide +kernel) (by decide +kernel) rfl rfl (by decide +kernel), ?_,
    by decide +kernel⟩
  intro d
  exact absurd rfl (d.tasks (4, source) (.head _))
abbrev ruled (b : Blk) : Blk := reg b (bank rOrdMode 0) 1
/-- A mode that can be set, RULED 1 and 0, a reserved one, and a launch that holds it; a tick that is open, one that opens, and one that
waits for what is owed; an idle context with and without a front. -/
theorem witness_RuledContextsTakeTheirTicks : (served up rOrdMode ok && served up 0x120824 ok) = true ∧ fnReady up 12 = true ∧
    (fld (0 : Word) 1 0 = 0 ∧ fld (1 : Word) 1 0 = 1 ∧ 1 < fld (2 : Word) 1 0) ∧ Store.vals up.tsk.launches = [] ∧ up.csq.queues = [] ∧
    (Store.vals full.tsk.launches).any (fun l => l.ctx == 0) = true ∧ courseLaunch up 0 = none ∧ ruledLive up 0 = false ∧
    ruledLive (ruled up) 0 = true ∧ (slotOf (slot up { state := .opened, tickOpen := true }) 0).tickOpen = true ∧
    ctxIdle (ruled up) 0 = true ∧ frontOf (ruled up) 0 = none ∧
    (let b := ruled { ready1 with tsk := { ready1.tsk with tasks := [(4, task)] } }
     ctxIdle b 0 = false ∧ hasWork b 0 = true ∧ (tickItems b 0 1).isEmpty = false) ∧
    (let b := { ruled up with ctx := { up.ctx with owed := [{ ctx := 0, due := 5, what := .completion 4 }] } }
     ctxIdle b 0 = false ∧ hasWork b 0 = false ∧ (tickItems b 0 5).isEmpty = true) := by decide +kernel

/-! ## Witnesses: observation and safety -/

theorem served_obs : (List.range 4).all (fun b => served up (bufReg b 0) ok && served up (bufReg b 4) ok && served up (bufReg b 8) ok) &&
    served up (cntReg 0) ok && served up (cntReg 63) ok && served up (cntReg 63 + 0x14) ok && served up 0x140918 ok && served up rLcfg ok =
    true := by decide +kernel
abbrev buf0 (x : TBuf) (cfg : Nat) : Blk := reg { up with obs := { up.obs with bufs := [(0, x)] } } (bufReg 0 0) cfg
/-- The last source and the first past it; ring sizes at both ends and outside; a buffer that is OFF, ARMED and empty, and holding one,
1,535 and 1,536 records; a line that is paced. -/
theorem witness_CountersAndBuffersObserve : rgf up rTrigCfg 31 29 ≠ 3 ∧ fnReady up 6 = true ∧
    (fld (0x14d0000 : Word) 24 16 < 0x150 ∧ 0x150 ≤ fld (0x1500000 : Word) 24 16 ∧ srcNone 0x14d = true ∧ srcNone 1 = false) ∧
    (∀ n ∈ [12, 30], ¬ fld (BitVec.ofNat 32 n) 4 0 < 12 ∧ ¬ 30 < fld (BitVec.ofNat 32 n) 4 0) ∧
    (fld (11 : Word) 4 0 < 12 ∧ 30 < fld (31 : Word) 4 0) ∧ (bufOf up 0).state = .off ∧
    (bufOf (buf0 { state := .armed } 0xa000000c) 0).state = .armed ∧ rgb (buf0 {} 0xa000000c) (bufReg 0 0) 29 = true ∧
    rgb (buf0 {} 0xc000000c) (bufReg 0 0) 30 = true ∧ ({ recs := [0] } : TBuf).recs ≠ [] ∧ 1535 - 1535 = 0 ∧ 1536 - 1535 = 1 ∧
    (2 ≤ fld (2 : Word) 3 0 ∧ fld (12 : Word) 3 0 ≤ 12 ∧ fld (1 : Word) 3 0 < 2 ∧ 12 < fld (13 : Word) 3 0) ∧
    (let b := buf0 { state := .armed, recs := [1, 2] } 0xc000000c
     b.time.usable = true ∧ b.obs.spaceAt ≤ now b ∧ b.obs.tags < 16 ∧ b.cfg.srst = false ∧
       ((List.range 4).map (fun i => (b.obs.drainNext + i) % 4)).find? (drainReady b) = some 0 ∧ drainStream (bufOf b 0) = [1, 2] ∧
       (∀ j ∈ b.obs.latch, j.lines = [])) ∧
    (let b := buf0 { state := .armed, recs := [1] } 0xc000000c
     drainStream (bufOf b 0) = [1] ∧ bufDrain b 0 = true ∧ (bufOf b 0).fault = false ∧ drainFull b 0 = false ∧
       recTime 1 + rgf b rTrcFlush 15 0 * 1000 ≤ now b) ∧
    ({ id := 0, ctx := 0, queue := none, addr := 64, lines := [0], left := 1 } : LatchJob).lines = [0] := by decide +kernel
theorem served_dbg : served up 0x180000 ok && served up 0x160068 ok = true := by decide +kernel
abbrev blots (p : BlotPhase) : Blk := reg { up with dbg := { up.dbg with phase := p } } rDbgCfg 0x80001001
abbrev watch (at_ : Nat) : Blk :=
  { up with saf := { up.saf with monitor := true, pulseArmedAt := some at_, armedAt := some at_ } }
/-- The Blotter in each phase; the first and the last place of a pass and the one past it; a pass and the watchdogs at their last moment
in time and the first past it; an audit that is due, with its books in order. -/
theorem witness_BlotsAndChecksAreMade : (served up 0x180000 ok && served up 0x160068 ok) = true ∧ fnReady up 5 = true ∧
    soft.cfg.srst = true ∧
    rgb up rDbgCfg 31 = false ∧ rgb (blots .idle) rDbgCfg 31 = true ∧
    (∀ p ∈ [BlotPhase.idle, .asked, .scan 0, .found 0, .body 0, .head 0], (blots p).dbg.phase = p) ∧
    rgf up rDbgSpace 15 0 = 0 ∧ ({ up.dbg with req := some ⟨2, false, 0, 0⟩ } : Dbg).req = some ⟨2, false, 0, 0⟩ ∧
    rgf up rLogSel 12 4 = 0 ∧ up.cfg.low = false ∧ (sweepPlace sweepMap 0).isSome = true ∧
        (sweepPlace sweepMap (sweepTotal - 1)).isSome = true ∧
    sweepPlace sweepMap sweepTotal = none ∧ up.cfg.inits = [] ∧
    (let b := reg (watch 0) rSweep 1000; ¬ b.saf.sweepAt + rgf b rSweep 10 0 * 1000 < now b ∧ 0 + rgf b rSweep 10 0 * 1000 < 1000001) ∧
    (let b := reg (watch 990000) rWdog 10
     rgf b rWdog 4 0 * 1000 = 10000 ∧ max 990000 b.saf.pulseAt + 10000 ≤ now b ∧ max 990000 b.saf.dispatchAt + 10000 ≤ now b ∧
       now b < max 990001 b.saf.pulseAt + 10000) ∧ (rg up rAlarmCause).testBit 1 = false ∧
    (let b := reg up rAuditCfg 0x1007e
     fnReady b 3 = true ∧ rgf b rAuditCfg 31 16 = 1 ∧ b.saf.auditAt + 1 * 1000000 ≤ now b ∧ rgf b rAuditCfg 7 0 = 0x7e ∧
       (∀ p ∈ b.mem.out, tagOld b p.2 = false)) ∧
    (∀ i < 7, (0x7e : Nat).testBit i = true → book up i = none) ∧
        book { up with tsk := { up.tsk with freeSlots := [] } } 1 ≠ none := by decide +kernel

/-! ## Witnesses of further clauses -/

/-- A write, a read and a window read while an earlier one is held; the first and the last place of the window, written with and
without privilege. -/
theorem witness_PortTurnsWritesAway_held : ({ up with ports := { up.ports with diag := some (2, .good) } } : Blk).ports.diag ≠ none ∧
    up.ports.diag = none ∧ ok.parityOk = true ∧ user.parityOk = true ∧
    (∀ off ∈ [0x400000, 0xfffffc], 0x400000 ≤ off ∧ off < 0x1000000) ∧ (0x3ffffc < 0x400000 ∧ 0x300000 ≤ 0x3ffffc) := by decide +kernel
/-- No word on offer; one that is written off, and one whose task is gone, at their first and third error; a pair in service at its
fourth error, with its task and without, and at a violation on either port. -/
theorem witness_RegionPortsAnswer_pairs : Store.get? up.ports.rip 0 = none ∧
    (∀ n ∈ [0, 2], (Store.get? (offered n).ports.rip 0).map (fun o => decide (o.errs < 3) && o.slot == 4) = some true ∧
      taskOf { offered n with tsk := {} } 4 = none) ∧
    ({ slot := 4, engine := 3, word := 0, writtenOff := true } : RipOffer).writtenOff = true ∧
    (Store.get? (offered 3).ports.rip 0).map (fun o => decide (3 ≤ o.errs) && !o.writtenOff) = some true ∧
    regionOut (offered 3) 0 = false ∧ (offered 3).tsk.tasks ≠ [] ∧ regionOut up 15 = false ∧
    (∀ v ∈ [CtxState.orphaned, .faulted], ctxSt (slot (offered 0) { state := v }) 0 = v) := by decide +kernel
/-- The codes on both sides of those that select an instruction, and a wrapper that drives the pins. -/
theorem witness_WrapperSelectsAndTests_codes : (∀ c ∈ [0, 3, 15, 21, 31], c ∉ [1, 2, 0x10, 0x11, 0x12, 0x13, 0x14]) ∧
    (st up).tap.wir ≠ .extest ∧ ({ st up with tap := { wir := .extest, boundary := BitVec.ofNat 8527 1 } } : State).tap.wir = .extest ∧
    ({ running := true } : Wrapper).running = true := by decide +kernel
/-- A message not laid out as its type, one with reserved header bits set at both ends of their range, and one for this die while it
is soft-resetting. -/
theorem witness_RequestsAreChecked_more : ({ hdr with chk := .layout } : FHdr).chk = .layout ∧
    (∀ n ∈ [1, 2 ^ 13 - 1], ({ hdr with rsv := n } : FHdr).rsv ≠ 0) ∧ hdr.rsv = 0 ∧ hdr.chk = .ok ∧ soft.cfg.srst = true ∧
    Store.get? up.xch.pairsIn hdr.src = none ∧
    Store.get? ({ up.xch with pairsIn := [(6, ⟨65535, false, 0⟩)] } : Xch).pairsIn hdr.src = some ⟨65535, false, 0⟩ := by decide +kernel
theorem witness_RequestsAreRefused_states : ∀ v ∈ [CtxState.free, .opening, .draining, .quiesced, .faulted, .closing, .pendingReuse],
    ctxSt (slot up { state := v, gen := 1 }) hdr.dstCtx = v ∧ hdr.dstGen = ctxGen (slot up { state := v, gen := 1 }) hdr.dstCtx ∧
      peerFenced (slot up { state := v, gen := 1 }) hdr.src = false := by decide +kernel
/-- An expert that a TALLY names and that has no task; a scope of a ruled context that is not released. -/
theorem witness_ExpanderTakesRequests_more : isRuled (reg full (bank rOrdMode 0) 1) 0 = true ∧ launch0.xrel.contains topScope = false ∧
    scope0.tasks.find? (fun k => k.expert == 0 && k.homes.any (fun p => p.1 == 0)) = none ∧
    scope0.staged.find? (fun p => p.1 == 0) = none := by decide +kernel
/-- A ring of 1,024 bytes that is READY and one that is not: a message that fills it, one past that, one with room after a skip, one
without, and one longer than a ring of 32 bytes. -/
theorem witness_MessagesArePlaced_room : ring0.ready = true ∧ ({ ring0 with ready := false } : Ring).ready = false ∧
    (∀ n ∈ [0, 992], 32 + 32 * ((n + 31) / 32) ≤ 2 ^ ring0.log2 - 0) ∧ 2 ^ ring0.log2 < 32 + 32 * ((993 + 31) / 32) ∧
    (let v : Ring := { ring0 with resv := 1000, rptr := 1000 }
     let off := v.resv % 2 ^ v.log2
     let len := 32 + 32 * ((1 + 31) / 32)
     len > 2 ^ v.log2 - off ∧ 0 + (2 ^ v.log2 - off) + len ≤ 2 ^ v.log2) ∧
    (let v : Ring := { ring0 with resv := 1000, rptr := 2 ^ 32 - 24 }
     2 ^ v.log2 < (v.resv + 2 ^ 32 - v.rptr) % 2 ^ 32 + 24 + 64) ∧
    2 ^ ({ ring0 with log2 := 5 } : Ring).log2 < 32 + 32 * ((1 + 31) / 32) ∧
        ({ amh with handle := true, len := 8 } : AmHdr).handle = true := by
  decide +kernel
/-- A pair that is out of service, with a purge record for the word and with none; a word whose slot's held word has another stamp; a
word with no STATUS error and non-zero reserved bits. -/
theorem witness_CompletionsAndPurges : (let h : HeldWord := ⟨3, 4, 0, 0, 1, 1⟩
    ([h].find? (purgeMatch 3 (done 0)) = some h ∧ ([] : List HeldWord).find? (purgeMatch 3 (done 0)) = none) ∧
    (∀ n ∈ [0, 1, 2], cwStatus (done n) = n) ∧ h.istamp = cwStamp (done 0) ∧
        ({ h with istamp := 1 } : HeldWord).istamp ≠ cwStamp (done 0)) ∧
    regionOut (reg up rRegionFail 1) 0 = true ∧ cwMatch up 3 (done 0) = none ∧
    occ { up with iss := { up.iss with occ := [(13, 1)] } } 3 1 ≠ 0 := by decide +kernel
/-- The stream of scope 0 to its home, with none of its records and with 30 waiting. -/
abbrev stream0 (n : Nat) : Stream :=
  { uid := 3, launch := 0, scope := topScope, ctx := 0, ctxGen := 1, ltag := 7, ent := 0, recs := List.replicate n 0 }
theorem witness_EnginesSendRecords_stream : ∀ n ∈ [0, 30],
    let b := { full with sve := { full.sve with streams := [stream0 n] } }
    b.sve.streams.find? (fun y => y.launch == 0 && y.scope == topScope && y.ent == 0) = some (stream0 n) ∧
      (stream0 n).recs.length < 31 ∧ (srcOf b 0 topScope).ended = false ∧ Listens b 0 3 := by
  intro n h
  refine ⟨rfl, ?_, rfl, listens_full.iss, rfl, by decide, by decide, listens_full.pair, listens_full.mask⟩
  revert n
  decide
/-- A tag that is retired, and responses of each kind: good, with an error, of a status that is no answer, with bad control and with bad
data. -/
theorem witness_MemoryPortTransfers_responses : Store.get? ({ up.mem with retired := [7] } : MemPort).out 7 = none ∧
    (∀ st ∈ [2, 3, 5, 6, 7], st ≠ 0 ∧ st ≠ 1 ∧ st ≠ 4 ∧ st < 8) ∧ (mreq 0 true .ignored).write = true ∧
        (mreq 3 false .ignored).write = false ∧
    3 ≤ (mreq 3 false .ignored).fails ∧ (mreq 0 true .ignored).ctx = some 0 := by decide +kernel
/-- Answers of one flit and of two, with codes at the ends of each clause, to a request of the context's own generation, of one that is
gone, and of one that a force has let go; the third parity failure and the fourth. -/
theorem witness_AnswersEndRequests_codes : (∀ k ∈ [kAck, kRingFull, kTimeout, kBadHandler], k ≤ 10 ∧ k < 16) ∧ 15 > 10 ∧ (1 < 2 ∧ 1 ≤ 1) ∧
    kParity ≤ 10 ∧ kParity ≠ kGap ∧ ({ oent .waiting with parityTries := 2 } : OutEntry).parityTries < 3 ∧
    3 ≤ ({ oent .waiting with parityTries := 3 } : OutEntry).parityTries ∧ ({ freq with srcGen := 2 } : FReq).srcGen ≠ ctxGen up 0 ∧
    ({ freq with orphan := true } : FReq).srcGen = ctxGen up 0 ∧ (oent .waiting).req.orphan = false := by decide +kernel
/-- The first flit of two and the last, with its header, on FQO; an answer on FPO. -/
theorem witness_FabricKeepsOrderAndFlow_flits : (∀ n ∈ [1, 2],
    let b := { sent (oent .offering) with ports := { up.ports with fqo := some (4095, n), fpo := some ⟨6, 1, kGone⟩ } }
    b.ports.fqo = some (4095, n) ∧ Store.get? b.xch.out 4095 = some (oent .offering) ∧ b.ports.fpo = some ⟨6, 1,
        kGone⟩) := by decide +kernel

/-- Context 0 is ruled, and its tick runs. -/
abbrev ticking : Blk := let b := ruled up; { b with ctx := { b.ctx with inTick := some 0 } }
/-- A queue that may pass its breakpoint; a break that is in force; targets of a ruled context. -/
theorem witness_SignalsSleepsAndBreaks_ruled : (∀ x ∈ targets oSignal ++ targets oClose,
    Begins (nib ticking x.1 x.2) 0 x.2 ∧ ([oSignal, oClose].contains (cOp x.2)) = true) ∧ ruledLive ticking 0 = true ∧
    (∀ x ∈ [(({ passBrk := true } : Queue), cmd oBrk []), ({}, cmd oBrk [])],
      Begins (nib { up with csq := { up.csq with brkHit := true } } x.1 x.2) 0 x.2 ∧ (cOp x.2 == oBrk) = true) :=
  ⟨of_allBegin (p := fun _ w => [oSignal, oClose].contains (cOp w)) (by decide +kernel), by decide +kernel,
    of_allBegin (p := fun _ w => cOp w == oBrk) (by decide +kernel)⟩
/-- A spilled launch with room for its return, without its quota, and without slots; an arm that waits for the Expert Table. -/
theorem witness_LaunchCommandsAct_more :
    (let l := { launch0 with spill := .spilled, spillN := 1 }
     l.spill = .spilled ∧ ctxUsed plainT 0 + l.spillN ≤ ctxQuota plainT 0 ∧ fits8 plainT.tsk.freeSlots l.spillN = true ∧
       (takeSlots plainT l.spillN).1.isSome = true ∧ fits8 ([] : List (Nat × Nat)) l.spillN = false) ∧
    ctxQuota (reg plainT (bank rTskQuota 0) 1) 0 < ctxUsed plainT 0 + 2 ∧ cancelSet plainT launch0 (cmd oCancel [(32, 7), (88,
        1)]) = [4] := by
  decide +kernel
/-- An audit in progress; a token that fits an orphaned slot, and one that does not. -/
theorem witness_MachineCommandsAct_more : priv.saf.auditRun = none ∧
    ({ priv.saf with auditRun := some ⟨1, []⟩ } : Saf).auditRun ≠ none ∧ immF (cmd oAudit [(32, 0x7f)]) 7 0 ≠ 0 ∧
    immF (cmd oAudit []) 7 0 = 0 ∧ ({ state := .orphaned, gen := 1, token := 5 } : CtxSlot).token = opaF (cmd oAdopt [(64, 5)]) 31 0 ∧
    opaF (cmd oAdopt [(64, 6)]) 31 0 ≠ 5 := by decide +kernel
/-- A doorbell of a ruled context at a queue that stands still and at one that runs. -/
theorem witness_QueuesAreControlled_ruled : ruledLive (ruled up) 0 = true ∧ ruledLive up 0 = false ∧
    (queueOf (qup { state := .idle }) 63).state = .idle ∧ (queueOf (qup { state := .run }) 63).state ≠ .idle := by decide +kernel
/-- A load of no entry and of one. -/
theorem witness_StoresAreLoaded_empty : (∀ n ∈ [0, 1], rgf (reg (reg up rXtFirst 262143) rXtCount n) rXtCount 18 0 = n) ∧
    262143 + 1 ≤ 262144 := by decide +kernel
/-- An advance in a FAULTED context, and one whose RESULT words were lost; a boundary ahead of a first course, whose queue waits. -/
theorem witness_LaunchesEndAndCoursesAreBuilt_more :
    (let l := { launch0 with course := some course0, advWait := true }
     let b := stepped bound0 l
     ctxSt (slot b { state := .faulted, gen := 1 }) 0 = .faulted ∧ ctxSt b 0 ≠ .faulted ∧
         ({ l with resBad := true } : Launch).resBad = true ∧
       courseLaunch (slot b { state := .faulted, gen := 1 }) 0 = some (0, l)) ∧
    (let x := { bound0 with launch := none, pre := some 0, phase := .writing }
     x.launch = none ∧ x.pre = some 0 ∧ x.phase = .writing ∧ x.writes = 0 ∧ ({ wait := .boundary } : Queue).wait = .boundary) := by
  decide +kernel
/-- An enabled channel with a record offered, with one whose handle is under way, and with none. -/
theorem witness_ChannelsAndRingsMove_more : (∀ p ∈ [SendPhase.offered, .aw], ({ srec 1 0 0 with phase := p } : SendRec).phase = p) ∧
    (chanOf (chan (srec 1 0 0)) 3).recs.all (fun r => r.phase != .offered && r.phase != .aw) = true ∧
    (∀ op ∈ [2, 3], (srec op 4097 0).op = op ∧ 4096 < (srec op 4097 0).len) := by decide +kernel
/-- A slot that opens with its entries settled and with one that is not; a drain that is torn down; a slot with its records replayed, with
one to replay, and at RESUME with nothing left; a strict slot that a fault of memory has stopped. -/
theorem witness_ContextsOpenDrainAndClose_more : (∀ p ∈ up.sqt.ents, p.2.ctx ≠ 0) ∧
    (∃ p ∈ ({ up.sqt with ents := [(0, seq0)] } : Sqt).ents, p.2.ctx = 0) ∧
    (∀ v ∈ [CtxState.closing, .pendingReuse], v = .closing ∨ v = .pendingReuse) ∧ ({ replay := true } : CtxSlot).replay = true ∧
    (let r : OvfRec := ⟨0, 0, 0, 0, [], 0, false⟩
     [r].find? (fun r => r.ctx == 0 && !r.replaying) = some r) ∧ up.ctx.ovf = [] ∧ up.ctx.ovfWait = [] ∧
    ({ code := 0x10 } : CtxSlot).code = 0x10 ∧ ({ code := 0x20 } : CtxSlot).code ≠ 0x10 := by
  refine ⟨by simp, ⟨_, .head _, rfl⟩, ?_⟩
  decide +kernel
/-- A break in force for context 0 and not. -/
theorem witness_RuledContextsTakeTheirTicks_break : brkHolds up 0 = false ∧
    brkHolds { up with csq := { up.csq with brkHit := true, brkMode := true, brkCtx := 0 } } 0 = true := by decide +kernel
/-- An audit that goes on and none; a pass of a word that has not changed since the cut and of one that has; a loss of the Pulse before
its alarm and after it. -/
theorem witness_BlotsAndChecksAreMade_more : up.saf.auditRun = none ∧
    ({ up.saf with auditRun := some ⟨1, []⟩ } : Saf).auditRun = some ⟨1, []⟩ ∧ ({ up.saf with pulseLost := true } : Saf).pulseLost = true ∧
    (rg (reg up rAlarmCause 2) rAlarmCause).testBit 1 = true ∧
    (∀ x ∈ [entBytes up 7 0, []], let e : SnapEnt := { sec := 7, key := 0, val := [], seen := x }
     ({ up.dbg with snap := [e] } : Dbg).snap[0]? = some e ∧ (entBytes up 7 0 = e.seen ∨ x = [])) ∧
    (sweepPlace sweepMap (0 % sweepTotal)).isSome = true := by decide +kernel

end Sys2Proof.Tests
end

/-! Proofs. Every command answers (O3); the Register Port: refused writes (O10), the registers that store (O11, O12), status bits (O13)
and reads (O14). -/
namespace Sys2Proof.Machine

/-! ## Every command answers a next state -/

/-- A scan answers: it is turned away to WS_BYPASS, or overwrites the block (R438). -/
theorem qmScan_answers (s : State) : ∃ t, execQmScan s = .next t := by
  unfold execQmScan
  split
  · exact ⟨_, rfl⟩
  · exact ⟨_, rfl⟩

/-- A self-test answers: it is turned away, started, or only selected (R438). -/
theorem qmMbist_answers (start : Bool) (s : State) : ∃ t, execQmMbist s start = .next t := by
  unfold execQmMbist
  split
  · exact ⟨_, rfl⟩
  · split
    · exact ⟨_, rfl⟩
    · exact ⟨_, rfl⟩

/-- Every command of the wrapper answers (R437, R438). -/
theorem wrapperCmd_answers {c : Instr} (hw : ofWrapper c = true) (s : State) : ∃ t, exec c s = .next t := by
  cases c with
  | wsBypass code => exact ⟨_, exec_wsBypass code s⟩
  | wsExtest pins => exact ⟨_, exec_wsExtest pins s⟩
  | wsPreload bits => exact ⟨_, exec_wsPreload bits s⟩
  | qmScan => exact qmScan_answers s
  | qmMbist start => exact qmMbist_answers start s
  | qmMbistDone st row => exact ⟨_, exec_qmMbistDone st row s⟩
  | qmMbistRes => exact ⟨_, exec_qmMbistRes s⟩
  | qmDlymon => exact ⟨_, exec_qmDlymon s⟩
  | qmId => exact ⟨_, exec_qmId s⟩
  | wrapperReset => exact ⟨_, exec_wrapperReset s⟩
  | _ => exact Bool.noConfusion hw

/-- Every command that may move wall time answers (R69, R76, R438). -/
theorem timeCmd_answers {c : Instr} (ht : movesTime c = true) (s : State) : ∃ t, exec c s = .next t := by
  cases c with
  | timeSample val valid parityOk => exact ⟨_, exec_timeSample _ _ _ s⟩
  | coldReset => exact ⟨_, exec_coldReset s⟩
  | coldResetRelease keyhash => exact ⟨_, exec_coldResetRelease _ s⟩
  | softResetDrainExpiry => exact ⟨_, exec_softResetDrainExpiry s⟩
  | qmScan => exact qmScan_answers s
  | qmMbist start => exact qmMbist_answers start s
  | _ => exact Bool.noConfusion ht

/-- Settles O3, the model's reading (assumption 7): a command of the wrapper or of wall time answers by its own row; every other is an update behind a gate (`exec_acts`). -/
theorem noCommandStops : Obligations.NoCommandStops := by
  intro c s
  cases hw : ofWrapper c with
  | true => exact wrapperCmd_answers hw s
  | false =>
    cases ht : movesTime c with
    | true => exact timeCmd_answers ht s
    | false =>
      obtain ⟨serves, f, h⟩ := exec_acts c s hw ht
      exact ⟨_, h⟩

/-! ## Writes that are refused -/

/-- A write that the port did not perform contends with nobody. -/
theorem grantedWrite_unperformed {t : Blk} (h : t.ports.rgpStatus ≠ rgpOk) (b : Blk) (a : Access) (off : Nat) :
    grantedWrite b a off t = t := by
  unfold grantedWrite
  split
  · exact if_neg fun k => h k.2
  · rfl

theorem rgpStatus_refuseWrite (b : Blk) (off : Nat) (v : Word) (a : Access) :
    (refuseWrite b off v a).ports.rgpStatus = rgpRefused := rfl

/-- A write to a mapped register of a function that is not ready is refused by the port itself (R408). -/
theorem busWrite_unready {b : Blk} {off : Nat} {a : Access} (hreg : fnReady b 0 = true) (halone : b.ports.diag = none)
    (hpar : a.parityOk = true) (hpriv : a.priv = true) (hlow : off < 0x400000) (hmap : (regPlain b off).isSome = true)
    (hunit : fnReady b (unitFn (unitOf off)) = false) (v : Word) : busWrite b a off v = refuseWrite b off v a := by
  have hmap' : (regPlain b off).isNone = false := by rw [← Option.not_isSome, hmap]; rfl
  unfold busWrite
  simp [hreg, halone, hpar, hpriv, hmap', hunit, Nat.not_le.mpr hlow]

/-- Settles O10: the port refuses such a write itself, before the unit sees it. -/
theorem unreadyUnitRefusesWrites : Obligations.UnreadyUnitRefusesWrites := by
  intro off v a s hreg halone hpar hpriv hlow hmap hunit
  refine ⟨refuseWrite s.blk off v a, ?_, refusal _ _ _ _ hlow⟩
  have hne : (refuseWrite s.blk off v a).ports.rgpStatus ≠ rgpOk := by rw [rgpStatus_refuseWrite]; decide
  rw [exec_registerWrite]; unfold busCmd ready
  rw [act_serves hreg, busWrite_unready hreg halone hpar hpriv hlow hmap hunit, grantedWrite_unperformed hne]

/-! ## Registers that store -/

/-- The table of plain registers names stored words with their RW bits, none of them in a context page and none CTX_CTL. -/
theorem plainRegs_stored : ∀ p ∈ plainRegs, storedMask p.1 = some p.2 ∧ p.2 < 2 ^ 32 ∧ p.1 < 0x200000 ∧ p.1 ≠ 0x120008 := by
  decide

/-- So does the table of ranged registers. -/
theorem rangedRegs_stored : ∀ p ∈ rangedRegs, storedMask p.1 = some p.2.1 ∧ p.2.1 < 2 ^ 32 ∧ p.1 < 0x200000 ∧ p.1 ≠ 0x120008 := by
  decide

/-- A write of a plain register only stores. -/
theorem regAct_plain {p : Nat × Nat} (hp : p ∈ plainRegs) (s : Blk) (v : Word) : regAct s p.1 v = some (storeReg s p.1 v) := by
  unfold plainRegs at hp
  fin_cases hp <;> rfl

/-- Settles O11, by the table of plain registers: each of their writes is a store (`regAct_plain`). -/
theorem plainRegistersStore : Obligations.PlainRegistersStore := by
  intro p hp v a s h
  obtain ⟨hm, hlt, hlow, hne⟩ := plainRegs_stored p hp
  exact writes_bus (exec_registerWrite _ _ _ _) h (regAct_plain hp s.blk v) (storeReg_only s.blk p.1 p.2 v hm hlt)
    (asksFor_low hlow hne)

/-- A write of a ranged register stores where the field lies in its range, and is refused otherwise. -/
theorem regAct_ranged {p : Nat × Nat × Nat × Nat × Nat × Nat} (hp : p ∈ rangedRegs) (s : Blk) (v : Word) :
    ∃ ok, regAct s p.1 v = allow ok (storeReg s p.1 v) ∧
      (ok = true ↔ p.2.2.2.2.1 ≤ fld v p.2.2.1 p.2.2.2.1 ∧ fld v p.2.2.1 p.2.2.2.1 ≤ p.2.2.2.2.2) := by
  -- Where a range ends with its field, the model checks the other bound alone.
  have h16 := fld_lt v 15 0
  have h20 := fld_lt v 19 0
  unfold rangedRegs at hp
  fin_cases hp
  all_goals
    refine ⟨_, rfl, ?_⟩
    simp only [inRange, decide_eq_true_eq] <;> omega

/-- ISS_C0_RESV has a command of its own, which is the same write (R132). -/
theorem exec_rangedWrite {c : Instr} {off : Nat} {v : Word} {a : Access}
    (hc : c = .registerWrite off v a ∨ (off = rC0Resv ∧ c = .c0ResvWrite v a)) (s : State) : exec c s = busCmd off v a s := by
  rcases hc with rfl | ⟨rfl, rfl⟩
  · exact exec_registerWrite _ _ _ _
  · exact exec_c0ResvWrite _ _ _

/-- Settles O12, by the table of ranged registers: each of their writes is a store behind the range (`regAct_ranged`). -/
theorem rangedRegistersStoreOrRefuse : Obligations.RangedRegistersStoreOrRefuse := by
  intro p hp v a s c h hc
  have hexec := exec_rangedWrite hc s
  obtain ⟨hm, hlt, hlow, hne⟩ := rangedRegs_stored p hp
  obtain ⟨ok, hact, hok⟩ := regAct_ranged hp s.blk v
  refine ⟨fun hin => ?_, fun hout => ?_⟩
  · have w : regAct s.blk p.1 v = some (storeReg s.blk p.1 v) := by rw [hact, hok.mpr hin]; rfl
    exact writes_bus hexec h w (storeReg_only s.blk p.1 p.2.1 v hm hlt) (asksFor_low hlow hne)
  · have w : regAct s.blk p.1 v = none := by
      have hno : ok = false := Bool.eq_false_iff.mpr fun hyes => by have hin := hok.mp hyes; omega
      rw [hact, hno]; rfl
    exact refuses_bus hexec h w (.inl hlow)

/-! ## Status bits that a written 1 clears -/

/-- A write of a status register clears the bits of its mask that are written as 1. -/
theorem regAct_w1c {off m : Nat} (h : w1cMask off = some m) (s : Blk) (v : Word) :
    regAct s off v = some (w1cAct s off (v.toNat &&& m)) := by
  unfold regAct; rw [h]

/-- Clearing bits of any status register but BLK_REGION_FAIL and SAF_ALARM_CAUSE does nothing else. -/
theorem w1cAct_other {off : Nat} (hr : off ≠ rRegionFail) (ha : off ≠ rAlarmCause) (s : Blk) (m : Nat) :
    w1cAct s off m = clrBits s off m := by
  unfold w1cAct; simp [beq_eq_false_iff_ne.mpr hr, ha, forEach]

/-- Clearing SELF ends the output fault (R383); the other causes only fall. -/
theorem w1cAct_alarm (s : Blk) (m : Nat) : w1cAct s rAlarmCause m =
    clrBits { s with saf := { s.saf with selfBad := s.saf.selfBad && !m.testBit 7 } } rAlarmCause m := by
  have hr : (rAlarmCause == rRegionFail) = false := rfl
  unfold w1cAct
  cases m.testBit 7 <;> simp [hr, forEach]

/-- The purge records of the port pairs listed go, and nothing else changes. -/
theorem forEach_regionReturns (ns : List Nat) (s : Blk) : forEach ns s regionReturns =
    { s with iss := { s.iss with purge := s.iss.purge.filter (fun h => decide (h.engine / 256 ∉ ns)) } } := by
  unfold forEach
  induction ns generalizing s with
  | nil => simp
  | cons n r ih =>
    rw [List.foldl_cons, ih]
    simp [regionReturns, List.filter_filter, Bool.and_comm]

/-- The port pairs whose bit of BLK_REGION_FAIL a mask clears. -/
def returnedPairs (s : Blk) (m : Nat) : List Nat := (List.range 16).filter (fun n => m.testBit n && regionOut s n)

theorem mem_returnedPairs (s : Blk) (v : Word) (n : Nat) :
    n ∈ returnedPairs s (v.toNat &&& 0xffff) ↔ n < 16 ∧ v.toNat.testBit n = true ∧ regionOut s n = true := by
  have h : n < 16 → Nat.testBit 0xffff n = true := fun hn => by
    rw [show (0xffff : Nat) = 2 ^ 16 - 1 from rfl, Nat.testBit_two_pow_sub_one]; exact decide_eq_true hn
  unfold returnedPairs
  simp only [List.mem_filter, List.mem_range, Bool.and_eq_true, Nat.testBit_and]
  exact ⟨fun ⟨hn, ⟨hv, _⟩, ho⟩ => ⟨hn, hv, ho⟩, fun ⟨hn, hv, ho⟩ => ⟨hn, ⟨hv, h hn⟩, ho⟩⟩

/-- Clearing bits of BLK_REGION_FAIL returns its port pairs to service, whose purge records go (R375). -/
theorem w1cAct_region (s : Blk) (m : Nat) :
    w1cAct s rRegionFail m = forEach (returnedPairs s m) (clrBits s rRegionFail m) regionReturns := by
  unfold w1cAct returnedPairs
  simp

theorem and_mask_lt (v : Word) {m : Nat} (h : m < 2 ^ 32) : v.toNat &&& m < 2 ^ 32 := Nat.lt_of_le_of_lt Nat.and_le_right h

/-- Each row of the table of status registers is found by its offset, which is none of the context pages and not CTX_CTL. -/
theorem w1cTable_rows : ∀ p ∈ w1cTable, w1cMask p.1 = some p.2 ∧ p.2 < 2 ^ 32 ∧ p.1 < 0x200000 ∧ p.1 ≠ 0x120008 := by
  decide

/-- A write of a status register whose bits only fall. -/
theorem statusWrite_clears {p : Nat × Nat} (hp : p ∈ w1cTable) (hr : p.1 ≠ rRegionFail) (ha : p.1 ≠ rAlarmCause) (v : Word) (a : Access)
    (s : State) (h : Served s.blk p.1 a) :
    Writes (.registerWrite p.1 v a) s (fun t => OnlyReg s.blk t p.1 (rg s.blk p.1 &&& (0xffffffff - (v.toNat &&& p.2)))) := by
  obtain ⟨hm, hlt, hlow, hne⟩ := w1cTable_rows p hp
  have w : regAct s.blk p.1 v = some (clrBits s.blk p.1 (v.toNat &&& p.2)) := by rw [regAct_w1c hm, w1cAct_other hr ha]
  exact writes_bus (exec_registerWrite _ _ _ _) h w (onlyReg_clr _ _ _ (and_mask_lt v hlt)) (asksFor_low hlow hne)

/-- CTX_STATUS.BOARD_FAULT is cleared alone. -/
theorem boardFaultClear_clears (a : Access) (s : State) (h : Served s.blk rCtxStatus a) :
    Writes (.boardFaultClear a) s (fun t => OnlyReg s.blk t rCtxStatus (rg s.blk rCtxStatus &&& 0x7fffffff)) := by
  have w : regAct s.blk rCtxStatus 0x80000000#32 = some (clrBits s.blk rCtxStatus (2 ^ 31)) := rfl
  exact writes_bus (exec_boardFaultClear _ _) h w (onlyReg_clr _ _ _ (by decide))

/-- The causes written as 1 fall, and SELF takes the output fault with it (R383). -/
theorem alarmCauseClear_clears (v : Word) (a : Access) (s : State) (h : Served s.blk rAlarmCause a) :
    Writes (.alarmCauseClear v a) s (fun t =>
      t = { s.blk with regs := t.regs, saf := { s.blk.saf with selfBad := s.blk.saf.selfBad && !bitAt v 7 } } ∧
      rg t rAlarmCause = (rg s.blk rAlarmCause &&& (0xffffffff - (v.toNat &&& 0x1ff))) ∧
      ∀ j, j ≠ rAlarmCause → rg t j = rg s.blk j) := by
  have hself : (v.toNat &&& 0x1ff).testBit 7 = bitAt v 7 := by
    rw [Nat.testBit_and]; exact Bool.and_true _
  have w := regAct_w1c (show w1cMask rAlarmCause = some 0x1ff from rfl) s.blk v
  rw [w1cAct_alarm, hself] at w
  refine writes_bus (exec_alarmCauseClear _ _ _) h w ?_
  obtain ⟨hrest, hvalue, hothers⟩ := onlyReg_clr { s.blk with saf := { s.blk.saf with selfBad := s.blk.saf.selfBad && !bitAt v 7 } }
    rAlarmCause (v.toNat &&& 0x1ff) (and_mask_lt v (by decide))
  exact ⟨hrest, hvalue, hothers⟩

/-- The bits written as 1 fall, and the purge records of the port pairs that return to service go (R375). -/
theorem regionReturn_clears (v : Word) (a : Access) (s : State) (h : Served s.blk rRegionFail a) :
    Writes (.regionReturn v a) s (fun t =>
      t = { s.blk with regs := t.regs, iss := { s.blk.iss with purge := t.iss.purge } } ∧
      rg t rRegionFail = (rg s.blk rRegionFail &&& (0xffffffff - (v.toNat &&& 0xffff))) ∧
      (∀ j, j ≠ rRegionFail → rg t j = rg s.blk j) ∧
      ∀ h, h ∈ t.iss.purge ↔ h ∈ s.blk.iss.purge ∧ ¬ (h.engine / 256 < 16 ∧ v.toNat.testBit (h.engine / 256) = true ∧
        regionOut s.blk (h.engine / 256) = true)) := by
  have w := regAct_w1c (show w1cMask rRegionFail = some 0xffff from rfl) s.blk v
  rw [w1cAct_region, forEach_regionReturns] at w
  refine writes_bus (exec_regionReturn _ _ _) h w ?_
  obtain ⟨-, hvalue, hothers⟩ := onlyReg_clr s.blk rRegionFail (v.toNat &&& 0xffff) (and_mask_lt v (by decide))
  refine ⟨rfl, hvalue, hothers, fun x => ?_⟩
  simp only [List.mem_filter, decide_eq_true_eq, mem_returnedPairs, clrBits_iss]

/-- Settles O13, register by register: most only lose bits, SAF_ALARM_CAUSE and BLK_REGION_FAIL do more. -/
theorem writtenOnesClear : Obligations.WrittenOnesClear := by
  refine ⟨fun p hp v a s h => ?_, boardFaultClear_clears, alarmCauseClear_clears, regionReturn_clears⟩
  have hrow : p ∈ w1cTable ∧ p.1 ≠ rRegionFail ∧ p.1 ≠ rAlarmCause := by fin_cases hp <;> decide
  obtain ⟨hp, hr, ha⟩ := hrow
  exact statusWrite_clears hp hr ha v a s h

/-! ## Reads -/

/-- A read that passes the port's checks at a mapped offset answers OK and has its effect (R63 to R65). -/
theorem readReg_ok {b : Blk} {off v : Nat} {a : Access} (hreg : fnReady b 0 = true) (halone : b.ports.diag = none)
    (hpar : a.parityOk = true) (hpriv : a.priv = true ∨ unprivOk off false = true) (hread : regRead b off = some v) :
    readReg b off a = rgpEnd (regReadEffect b off) rgpOk (w32 v) := by
  have hp : (!a.priv && !unprivOk off false) = false := by rcases hpriv with e | e <;> simp [e]
  unfold readReg
  rw [hreg, halone, hpar, hp, hread]
  rfl

/-- The block after what a read does to the _HI words of pairs (R80). -/
def fixHi (s : Blk) (off : Nat) : Blk :=
  { s with hi := if loPair off then Store.set s.hi (off + 4) (w32 ((regPlain s (off + 4)).getD 0)) else Store.erase s.hi off }

theorem regReadEffect_eq (s : Blk) (off : Nat) : regReadEffect s off = if isRc off then wr (fixHi s off) off 0 else fixHi s off := by
  unfold regReadEffect fixHi
  cases loPair off <;> rfl

theorem rg_fixHi (s : Blk) (off k : Nat) : rg (fixHi s off) k = rg s k := rg_congr rfl rfl k

/-- A read leaves all but the register words and the fixed _HI words. -/
theorem regReadEffect_rest (s : Blk) (off : Nat) :
    regReadEffect s off = { s with regs := (regReadEffect s off).regs, hi := (regReadEffect s off).hi } := by
  rw [regReadEffect_eq]
  split <;> rfl

theorem regReadEffect_hi (s : Blk) (off : Nat) : (regReadEffect s off).hi = (fixHi s off).hi := by
  rw [regReadEffect_eq]
  split <;> rfl

/-- An RC register reads 0 once it has been read (R11). -/
theorem rg_regReadEffect_rc {off : Nat} (h : isRc off = true) (s : Blk) : rg (regReadEffect s off) off = 0 := by
  rw [regReadEffect_eq, if_pos h]
  exact rg_wr_same _ _ _

theorem rg_regReadEffect_other {off k : Nat} (h : isRc off = false ∨ k ≠ off) (s : Blk) : rg (regReadEffect s off) k = rg s k := by
  rw [regReadEffect_eq]
  split
  · rename_i hrc
    have hk : k ≠ off := h.resolve_left (by rw [hrc]; exact Bool.noConfusion)
    rw [rg_wr_other _ _ hk, rg_fixHi]
  · exact rg_fixHi s off k

/-- A read of the _LO of a pair fixes its _HI, and no other (R80). -/
theorem fixHi_lo {off : Nat} (h : loPair off = true) (s : Blk) :
    Store.get? (fixHi s off).hi (off + 4) = some (w32 ((regPlain s (off + 4)).getD 0)) ∧
    ∀ k, k ≠ off + 4 → Store.get? (fixHi s off).hi k = Store.get? s.hi k := by
  unfold fixHi
  rw [if_pos h]
  exact ⟨get?_set_same _ _ _, fun k hk => get?_set_other _ _ hk⟩

/-- Any other read gives up what had been fixed for its own offset, and nothing else (R80). -/
theorem fixHi_other {off : Nat} (h : loPair off = false) (s : Blk) :
    Store.get? (fixHi s off).hi off = none ∧ ∀ k, k ≠ off → Store.get? (fixHi s off).hi k = Store.get? s.hi k := by
  unfold fixHi
  rw [if_neg (Bool.eq_false_iff.mp h)]
  exact ⟨get?_erase_same _ _, fun k hk => get?_erase_other _ hk⟩

/-- A read of a half of a pair and one of a counter are one command (R80, R11). -/
theorem exec_read {c : Instr} {off : Nat} {a : Access} (hc : c = .loHalfRead off a ∨ c = .counterReadClear off a) (s : State) :
    exec c s = readCmd off a s := by
  rcases hc with rfl | rfl
  · exact exec_loHalfRead _ _ _
  · exact exec_counterReadClear _ _ _

/-- A read below the diagnostic window, as a command. -/
theorem readCmd_ok {s : State} {off v : Nat} {a : Access} (hreg : fnReady s.blk 0 = true) (halone : s.blk.ports.diag = none)
    (hpar : a.parityOk = true) (hpriv : a.priv = true ∨ unprivOk off false = true) (hlow : off < 0x400000)
    (hread : regRead s.blk off = some v) :
    readCmd off a s = .next (s.finish (rgpEnd (regReadEffect s.blk off) rgpOk (w32 v))) := by
  unfold readCmd ready
  rw [act_serves hreg, if_neg (Nat.not_le.mpr hlow), readReg_ok hreg halone hpar hpriv hread]

/-- The offsets that an unprivileged read reaches (R64). -/
theorem unprivOk_read {off : Nat} (h : off < 0x100 ∨ (0x200000 ≤ off ∧ off < 0x300000)) : unprivOk off false = true := by
  unfold unprivOk
  rcases h with h | h <;> simp [h]

/-- Settles O14, by what a read does to the register words and to the fixed _HI words (`regReadEffect_eq`). -/
theorem readsAnswerFixAndClear : Obligations.ReadsAnswerFixAndClear := by
  intro c off v a s hc hreg halone hpar hpriv hlow hread
  refine ⟨rgpEnd (regReadEffect s.blk off) rgpOk (w32 v), ?_, ?_, rg_regReadEffect_rc (s := s.blk), fun k hk => ?_, fun hlo => ?_,
    fun hlo => ?_⟩
  · rw [exec_read hc]
    exact readCmd_ok hreg halone hpar (hpriv.imp id unprivOk_read) hlow hread
  · unfold rgpEnd
    rw [regReadEffect_rest]
  · exact rg_regReadEffect_other hk s.blk
  · rw [rgpEnd_hi, regReadEffect_hi]
    exact fixHi_lo hlo s.blk
  · rw [rgpEnd_hi, regReadEffect_hi]
    exact fixHi_other hlo s.blk

end Sys2Proof.Machine

/-! Proofs. The stores (O54): what INSTALL, UNINSTALL and the load of the Expert Table answer, check by check. -/
namespace Sys2Proof.Machine

/-! ## Lines asked for -/

/-- Line after line of an image is asked for, in their order, with addresses within 2^52 (R50). -/
theorem forEach_memRead_lines (s : Blk) (n addr unit : Nat) (o : Nat → MemOwner) :
    forEach (List.range n) s (fun s k => memRead s ((addr + 64 * k) % 2 ^ 52) 0 none unit 0 (o k)) =
      { s with mem := { s.mem with waitq := s.mem.waitq ++ (List.range n).map (fun k => (none, ({
        write := false, addr := (addr + 64 * k) % 2 ^ 52 / 64 * 64, first := (addr + 64 * k) % 2 ^ 52, be := 0, data := 0, qos := 0
        ctx := none, unit, index := 0, owner := o k } : MemReq))) } } := by
  rw [List.range_eq_range']
  exact reads_waitq (fun k => (addr + 64 * k) % 2 ^ 52) n unit 0 o 0 s

/-! ## The checks of an INSTALL (R441) -/

section
variable {s : Blk} {tid addr n : Nat}

theorem gstBegin_current {x : Gen} (hcur : curGen s tid = some x) :
    gstBegin s none tid addr n none = (some 4, gstStatus s false 4 0) := by
  unfold gstBegin
  simp [hcur]

variable (hcur : curGen s tid = none)
include hcur

theorem gstBegin_full (hfull : 8 ≤ (resident s tid).length ∨ (findGen s tid 1).isSome = true) :
    gstBegin s none tid addr n none = (some 2, gstStatus s false 2 0) := by
  unfold gstBegin
  simp [hcur, hfull]

variable (hroom : (resident s tid).length < 8) (hnew : findGen s tid 1 = none)
include hroom hnew

theorem gstBegin_badSize (hn : n < 2 ∨ 8193 < n) :
    gstBegin s none tid addr n none = (some 3, gstStatus (wr s rGstBadRec 0) false 3 0) := by
  have hsize : n ≤ 1 ∨ 8193 < n := by omega
  unfold gstBegin
  simp [hcur, hnew, hsize, Nat.not_le.mpr hroom]

variable (hlo : 2 ≤ n) (hhi : n ≤ 8193)
include hlo hhi

theorem gstBegin_noRun (hfree : ∀ r ∈ gstFree s, r.2 < n) :
    gstBegin s none tid addr n none = (some 1, gstStatus s false 1 0) := by
  have hplaces : placesFor (gstFree s) n = 0 := (placesFor_zero _ _).mpr hfree
  unfold gstBegin
  simp [hcur, hroom, hnew, hplaces, Nat.not_lt.mpr hlo, Nat.not_lt.mpr hhi]

/-- An INSTALL that passes its checks takes a run within a free one, whichever the free value names, and asks for every line. -/
theorem gstBegin_run (hfree : ∃ r ∈ gstFree s, n ≤ r.2) :
    ∃ base f, (∃ r ∈ gstFree s, r.1 ≤ base ∧ base + n ≤ r.1 + r.2) ∧
      (gstBegin s none tid addr n none).2 =
        forEach (List.range ((n + 1) / 2))
          (gstStatus { s with
            tsk := { s.tsk with job := some { patch := none, tid, base, nrec := n, addr, left := (n + 1) / 2, lines := [], ctx := none } }
            free := f } true 0 (rgf s rGstStatus 15 0))
          (fun s k => memRead s ((addr + 64 * k) % 2 ^ 52) 0 none uGst 0 (.gstLine k)) := by
  have hplaces : placesFor (gstFree s) n ≠ 0 := fun h0 => by
    obtain ⟨r, hr, hle⟩ := hfree
    exact absurd ((placesFor_zero _ _).mp h0 r hr) (Nat.not_lt.mpr hle)
  obtain ⟨hlt, f, hf⟩ := choose_lt s _ (Nat.pos_of_ne_zero hplaces)
  obtain ⟨base, hbase, hrun⟩ := placeAt_fits (gstFree s) n _ (by omega) hlt
  have hkeep : gstFree { s with free := f } = gstFree s := rfl
  refine ⟨base, f, hrun, ?_⟩
  unfold gstBegin
  simp only [hcur, hnew, hf, hplaces, hkeep, hbase, Nat.not_le.mpr hroom, Nat.not_lt.mpr hlo, Nat.not_lt.mpr hhi,
    Option.isNone_none, Option.isSome_none, Option.getD_some, Option.getD_none, Bool.and_false, Bool.false_and, Bool.or_false,
    Bool.false_eq_true, decide_false, if_false]
  rfl
end

/-! ## GST_CMD -/

section
variable {tid : Nat} {a : Access} {s : State} {P : Blk → Prop}

/-- While an operation runs, either command is answered with code 7 (R90, R441). -/
theorem gst_writes_busy {c : Instr} (hc : c ∈ [Instr.install tid a, .uninstall tid a]) (ht : tid < 4096)
    (h : Served s.blk 0x4000c a) (hbusy : s.blk.tsk.job.isSome = true)
    (hp : P (gstStatus s.blk true 7 (rgf s.blk rGstStatus 15 0))) : Writes c s P := by
  have act : ∀ op, (op = 1 ∨ op = 2) → regAct s.blk 0x4000c (w32 (put op 29 28 + put tid 11 0)) =
      some (gstStatus s.blk true 7 (rgf s.blk rGstStatus 15 0)) := by
    intro op ho
    rw [regAct_gst]; unfold gstCmd gstBusy
    rw [(gst_word (by omega) ht).2, hbusy]
    rcases ho with rfl | rfl <;> rfl
  rcases List.mem_pair.mp hc with rfl | rfl
  · exact writes_bus (exec_install _ _ _) h (act 1 (.inl rfl)) hp
  · exact writes_bus (exec_uninstall _ _ _) h (act 2 (.inr rfl)) hp

theorem install_writes (ht : tid < 4096) (h : Served s.blk 0x4000c a) (hidle : s.blk.tsk.job = none)
    (hp : P (gstBegin s.blk none tid (rg2 s.blk rGstAddrLo rGstAddrHi) (rgf s.blk rGstRecs 13 0) none).2) :
    Writes (.install tid a) s P := by
  refine writes_bus (exec_install _ _ _) h ?_ hp
  obtain ⟨htid, hop⟩ := gst_word (op := 1) (by decide) ht
  rw [regAct_gst]; unfold gstCmd gstBusy
  rw [htid, hop, hidle]; rfl

theorem uninstall_writes (ht : tid < 4096) (h : Served s.blk 0x4000c a) (hidle : s.blk.tsk.job = none)
    (hp : P (gstUninstall s.blk tid)) : Writes (.uninstall tid a) s P := by
  refine writes_bus (exec_uninstall _ _ _) h ?_ hp
  obtain ⟨htid, hop⟩ := gst_word (op := 2) (by decide) ht
  rw [regAct_gst]; unfold gstCmd gstBusy
  rw [htid, hop, hidle]; rfl
end

theorem gstUninstall_absent {s : Blk} {tid : Nat} (h : curGen s tid = none) : gstUninstall s tid = gstStatus s false 5 0 := by
  unfold gstUninstall
  rw [h]

theorem gstUninstall_current {s : Blk} {tid : Nat} {x : Gen} (h : curGen s tid = some x) :
    gstUninstall s tid = gstStatus (gstRelease { s with
      tsk := { s.tsk with gens := s.tsk.gens.map (fun y => if y.tid = tid then { y with current := false } else y) } })
      false 0 x.gen := by
  unfold gstUninstall
  rw [h]

/-! ## The checks of a load of the Expert Table (R162) -/

/-- A span of entries is in use where it meets that of a run or of an open scope. -/
theorem any_spansMeet {s : Blk} {first n : Nat} :
    (xtLive s).any (spansMeet (first, n)) = true ↔ ∃ r ∈ xtLive s, first < r.1 + r.2 ∧ r.1 < first + n := by
  simp [List.any_eq_true, spansMeet]

section
variable {s : Blk}

theorem xtLoad_busy (h : s.sve.xtJob.isSome = true) : xtLoad s = xtStatus s true 5 := by
  unfold xtLoad
  rw [if_pos h]

theorem xtLoad_pastEnd (hidle : s.sve.xtJob = none) (h : 262144 < rgf s rXtFirst 17 0 + rgf s rXtCount 18 0) :
    xtLoad s = xtStatus s false 1 := by
  unfold xtLoad
  simp [hidle, h]

variable (hidle : s.sve.xtJob = none) (hfits : rgf s rXtFirst 17 0 + rgf s rXtCount 18 0 ≤ 262144)
include hidle hfits

theorem xtLoad_inUse (h : (xtLive s).any (spansMeet (rgf s rXtFirst 17 0, rgf s rXtCount 18 0)) = true) :
    xtLoad s = xtStatus s false 2 := by
  unfold xtLoad
  simp only [hidle, h, Nat.not_lt.mpr hfits, Option.isSome_none, Bool.false_eq_true, if_false, if_true]

theorem xtLoad_empty (h : (xtLive s).any (spansMeet (rgf s rXtFirst 17 0, rgf s rXtCount 18 0)) = false)
    (h0 : rgf s rXtCount 18 0 = 0) : xtLoad s = xtStatus s false 0 := by
  have hlines : cdiv (rgf s rXtCount 18 0) 8 = 0 := by rw [h0]; rfl
  unfold xtLoad
  simp only [hidle, h, hlines, Nat.not_lt.mpr hfits, Option.isSome_none, Bool.false_eq_true, if_false, if_true]

theorem xtLoad_begins (h : (xtLive s).any (spansMeet (rgf s rXtFirst 17 0, rgf s rXtCount 18 0)) = false)
    (h0 : rgf s rXtCount 18 0 ≠ 0) :
    xtLoad s = forEach (List.range ((rgf s rXtCount 18 0 + 7) / 8))
      (xtStatus { s with sve := { s.sve with
        xtJob := some (rgf s rXtFirst 17 0, rgf s rXtCount 18 0, (rgf s rXtCount 18 0 + 7) / 8, []), xtFailed := false } } true 0)
      (fun t k => memRead t ((rg2 s rXtAddrLo rXtAddrHi + 64 * k) % 2 ^ 52) 0 none uSve 0 (.xtLine k)) := by
  have hlines : cdiv (rgf s rXtCount 18 0) 8 = (rgf s rXtCount 18 0 + 7) / 8 := rfl
  have hsome : (rgf s rXtCount 18 0 + 7) / 8 ≠ 0 := by omega
  unfold xtLoad
  simp only [hidle, h, hlines, hsome, Nat.not_lt.mpr hfits, Option.isSome_none, Bool.false_eq_true, if_false]
end

/-- XT_LOAD is `xtLoad`. -/
theorem xtLoad_writes {a : Access} {s : State} {P : Blk → Prop} (h : Served s.blk 0xc0010 a) (hp : P (xtLoad s.blk)) :
    Writes (.xtLoad a) s P :=
  writes_bus (exec_xtLoad _ _) h (regAct_xt s.blk) hp

/-- Settles O54: each check of the three commands answers by the equation of its own branch; the status words are `gstStatus_only` and
`xtStatus_only`, the generations let go `released`, and the lines asked for `forEach_memRead_lines`. -/
theorem storesAreLoaded : Obligations.StoresAreLoaded := by
  unfold Obligations.StoresAreLoaded
  intro Says Reads
  refine ⟨fun tid a s ht h => ?_, fun a s h => ?_⟩
  · intro g n addr
    refine ⟨fun c hc hbusy => gst_writes_busy hc ht h hbusy (gstStatus_only _ _ _ _), fun hidle x hx => ⟨?_, ?_⟩,
      fun hidle hcur => ⟨?_, fun hfull => ?_, fun hroom hnew => ⟨fun hn => ?_, fun hlo hhi hfree => ?_, fun hlo hhi hfree => ?_⟩⟩⟩
    · refine install_writes ht h hidle ?_
      rw [gstBegin_current hx]
      exact gstStatus_only _ _ _ _
    · refine uninstall_writes ht h hidle ?_
      rw [gstUninstall_current hx]
      exact ⟨_, gstStatus_only _ _ _ _, released _⟩
    · refine uninstall_writes ht h hidle ?_
      rw [gstUninstall_absent hcur]
      exact gstStatus_only _ _ _ _
    · refine install_writes ht h hidle ?_
      rw [gstBegin_full hcur hfull]
      exact gstStatus_only _ _ _ _
    · refine install_writes ht h hidle ?_
      rw [gstBegin_badSize hcur hroom hnew hn]
      exact ⟨_, onlyReg_wr _ _ _, gstStatus_only _ _ _ _⟩
    · refine install_writes ht h hidle ?_
      rw [gstBegin_noRun hcur hroom hnew hlo hhi hfree]
      exact gstStatus_only _ _ _ _
    · obtain ⟨base, f, hrun, hbegin⟩ := gstBegin_run hcur hroom hnew hlo hhi hfree
      refine install_writes ht h hidle ?_
      rw [hbegin, forEach_memRead_lines]
      exact ⟨base, _, _, hrun, rfl, gstStatus_only _ _ _ _, rfl⟩
  · intro first n used
    have hfreeSpan : ¬ used → (xtLive s.blk).any (spansMeet (first, n)) = false := fun hno =>
      Bool.eq_false_iff.mpr (hno ∘ any_spansMeet.mp)
    refine ⟨fun hbusy => ?_, fun hidle => ⟨fun hpast => ?_, fun hfits hused => ?_, fun hfits hno h0 => ?_, fun hfits hno h0 => ?_⟩⟩
      <;> refine xtLoad_writes h ?_
    · rw [xtLoad_busy hbusy]
      exact xtStatus_only _ _ _
    · rw [xtLoad_pastEnd hidle hpast]
      exact xtStatus_only _ _ _
    · rw [xtLoad_inUse hidle hfits (any_spansMeet.mpr hused)]
      exact xtStatus_only _ _ _
    · rw [xtLoad_empty hidle hfits (hfreeSpan hno) h0]
      exact xtStatus_only _ _ _
    · rw [xtLoad_begins hidle hfits (hfreeSpan hno) h0, forEach_memRead_lines]
      exact ⟨_, xtStatus_only _ _ _, rfl⟩

end Sys2Proof.Machine

/-! Proofs. Wall time, the wrapper and the waiting commands (O5, O6, O7). -/
namespace Sys2Proof.Machine

/-! ## What commands leave of wall time, the wrapper and the queue -/

/-- An update behind a gate leaves the queue, the wrapper and wall time alone. -/
theorem act_frame {serves : Bool} {f : Blk → Blk} {s t : State} (h : act serves f s = .next t) :
    t.pending = s.pending ∧ t.tap = s.tap ∧ t.blk.time = s.blk.time := by
  rcases act_cases serves f s with ⟨-, e⟩ | ⟨-, e⟩
  · obtain rfl : s.finish (f s.blk) = t := by simpa using e.symm.trans h
    exact ⟨finish_pending _ _, finish_tap _ _, finish_time _ _⟩
  · obtain rfl : s = t := by simpa using e.symm.trans h
    exact ⟨rfl, rfl, rfl⟩

/-- A change of the wrapper is all that its command does. -/
theorem tapCmd_next {f : Wrapper → Wrapper} {s t : State} (h : tapCmd f s = .next t) : t = { s with tap := f s.tap } := by
  exact (Host.Outcome.next.inj h).symm

/-- A scan is turned away to WS_BYPASS, or overwrites the block (R438). -/
theorem qmScan_cases {s t : State} (h : execQmScan s = .next t) :
    t = { s with tap := s.tap.toBypass } ∨
    t = overwritten s.tick.1 s.tick.2 (fun w => { w with wir := .scan, out := Config.scanOut s.tick.1 }) := by
  unfold execQmScan at h
  split at h
  · exact .inl (tapCmd_next h)
  · exact .inr (Host.Outcome.next.inj h).symm

/-- A self-test is turned away to WS_BYPASS, overwrites the block, or is only selected (R438). -/
theorem qmMbist_cases {start : Bool} {s t : State} (h : execQmMbist s start = .next t) :
    t = { s with tap := s.tap.toBypass } ∨ t = { s with tap := { s.tap with wir := .mbist } } ∨
    t = overwritten s.tick.1 s.tick.2 (fun w =>
      { w with wir := .mbist, running := true, doneBit := false, failStore := 0, failRow := 0 }) := by
  unfold execQmMbist at h
  split at h
  · exact .inl (tapCmd_next h)
  · split at h
    · exact .inr (.inr (Host.Outcome.next.inj h).symm)
    · exact .inr (.inl (tapCmd_next h))

/-- The delay monitors' counts are captured, and a free value is drawn (R437). -/
theorem qmDlymon_next {s t : State} (h : execQmDlymon s = .next t) :
    t = { s.tick.2 with tap := { s.tap with wir := .dlymon, counts := (List.range 16).map (Config.delayCount s.tick.1) } } :=
  (Host.Outcome.next.inj h).symm

/-- A command of the wrapper that is no test leaves wall time alone (R437). -/
theorem wrapperCmd_time {c : Instr} {s t : State} (hw : ofWrapper c = true) (ht : movesTime c = false) (h : exec c s = .next t) :
    t.blk.time = s.blk.time := by
  cases c with
  | wsBypass code => rw [exec_wsBypass] at h; rw [tapCmd_next h]
  | wsExtest pins => rw [exec_wsExtest] at h; rw [tapCmd_next h]
  | wsPreload bits => rw [exec_wsPreload] at h; rw [tapCmd_next h]
  | qmMbistDone st row => rw [exec_qmMbistDone] at h; rw [tapCmd_next h]
  | qmMbistRes => rw [exec_qmMbistRes] at h; rw [tapCmd_next h]
  | qmDlymon => rw [exec_qmDlymon] at h; rw [qmDlymon_next h]; rfl
  | qmId => rw [exec_qmId] at h; rw [tapCmd_next h]
  | wrapperReset => rw [exec_wrapperReset] at h; rw [tapCmd_next h]
  | qmScan | qmMbist start => exact Bool.noConfusion ht
  | _ => exact Bool.noConfusion hw

/-- Settles O5: a command of the wrapper changes the wrapper; any other is an update behind a gate, whose end restores wall time
(`State.finish`). -/
theorem onlySamplesMoveTime : Obligations.OnlySamplesMoveTime := by
  intro c s t ht h
  cases hw : ofWrapper c with
  | true => exact wrapperCmd_time hw ht h
  | false =>
    obtain ⟨serves, f, e⟩ := exec_acts c s hw ht
    exact (act_frame (e.symm.trans h)).2.2

/-! ## The invariant -/

/-- The invariant speaks of the queue, the wrapper and wall time alone. -/
theorem Inv.of_eq {s t : State} (hi : Inv s) (hp : t.pending = s.pending) (hw : t.tap = s.tap) (ht : t.blk.time = s.blk.time) : Inv t where
  time := by rw [hw, ht]; exact hi.time
  wrapper := by rw [hw]; exact hi.wrapper
  pending := by rw [hp]; exact hi.pending

/-- A change of the wrapper that keeps it in order, and keeps the mark of a test, keeps the invariant. -/
theorem Inv.of_tap {s t : State} (hi : Inv s) (hp : t.pending = s.pending) (ht : t.blk.time = s.blk.time)
    (hd : t.tap.dirty = s.tap.dirty) (hw : WrapperOk t.tap) : Inv t where
  time := by rw [hd, ht]; exact hi.time
  wrapper := hw
  pending := by rw [hp]; exact hi.pending

/-- The wrapper with WS_BYPASS selected is in order. -/
theorem WrapperOk.toBypass {w : Wrapper} (h : WrapperOk w) : WrapperOk w.toBypass := ⟨h.running, h.store, h.row, h.counts⟩

/-- A test that overwrites the block marks it, so that nothing is said of its wall time (R438). -/
theorem Inv.overwritten {s : State} {f : Wrapper → Wrapper} (hi : Inv s) (hw : WrapperOk { f s.tap with dirty := true }) :
    Inv (Machine.overwritten s.tick.1 s.tick.2 f) where
  time := .inl rfl
  wrapper := hw
  pending := hi.pending

/-- A scan keeps the invariant. -/
theorem Inv.qmScan {s t : State} (hi : Inv s) (h : execQmScan s = .next t) : Inv t := by
  have w := hi.wrapper
  rcases qmScan_cases h with rfl | rfl
  · exact hi.of_tap rfl rfl rfl w.toBypass
  · exact hi.overwritten ⟨w.running, w.store, w.row, w.counts⟩

/-- A self-test keeps the invariant: one that has just been started is not done, and shows no failure (R438). -/
theorem Inv.qmMbist {start : Bool} {s t : State} (hi : Inv s) (h : execQmMbist s start = .next t) : Inv t := by
  have w := hi.wrapper
  rcases qmMbist_cases h with rfl | rfl | rfl
  · exact hi.of_tap rfl rfl rfl w.toBypass
  · exact hi.of_tap rfl rfl rfl ⟨w.running, w.store, w.row, w.counts⟩
  · exact hi.overwritten ⟨fun _ => rfl, Nat.two_pow_pos _, Nat.two_pow_pos _, w.counts⟩

/-- The end of a self-test shows its result in its fields, and the test no longer runs (R438). -/
theorem WrapperOk.done {w : Wrapper} (h : WrapperOk w) (st row : Nat) :
    WrapperOk (if w.running then { w with running := false, doneBit := true, failStore := st % 2 ^ 16, failRow := row % 2 ^ 32 } else w) := by
  split
  · exact ⟨fun k => Bool.noConfusion k, Nat.mod_lt _ (by decide), Nat.mod_lt _ (by decide), h.counts⟩
  · exact h

/-- Every command of the wrapper keeps the invariant. -/
theorem Inv.wrapperCmd {c : Instr} {s t : State} (hi : Inv s) (hw : ofWrapper c = true) (h : exec c s = .next t) : Inv t := by
  have w := hi.wrapper
  cases c with
  | wsBypass code =>
    rw [exec_wsBypass] at h; rw [tapCmd_next h]
    refine hi.of_tap rfl rfl ?_ ?_ <;> dsimp only <;> split
    · rfl
    · rfl
    · exact w.toBypass
    · exact w
  | wsExtest pins => rw [exec_wsExtest] at h; rw [tapCmd_next h]; exact hi.of_tap rfl rfl rfl ⟨w.running, w.store, w.row, w.counts⟩
  | wsPreload bits => rw [exec_wsPreload] at h; rw [tapCmd_next h]; exact hi.of_tap rfl rfl rfl ⟨w.running, w.store, w.row, w.counts⟩
  | qmScan => exact hi.qmScan h
  | qmMbist start => exact hi.qmMbist h
  | qmMbistDone st row =>
    rw [exec_qmMbistDone] at h; rw [tapCmd_next h]
    refine hi.of_tap rfl rfl ?_ (w.done st row)
    dsimp only; split <;> rfl
  | qmMbistRes => rw [exec_qmMbistRes] at h; rw [tapCmd_next h]; exact hi.of_tap rfl rfl rfl ⟨w.running, w.store, w.row, w.counts⟩
  | qmDlymon =>
    rw [exec_qmDlymon] at h; rw [qmDlymon_next h]
    exact hi.of_tap rfl rfl rfl ⟨w.running, w.store, w.row, .inr (by simp)⟩
  | qmId => rw [exec_qmId] at h; rw [tapCmd_next h]; exact hi.of_tap rfl rfl rfl ⟨w.running, w.store, w.row, w.counts⟩
  | wrapperReset =>
    rw [exec_wrapperReset] at h; rw [tapCmd_next h]
    exact hi.of_tap rfl rfl rfl ⟨fun _ => rfl, Nat.two_pow_pos _, Nat.two_pow_pos _, .inl rfl⟩
  | _ => exact Bool.noConfusion hw

/-! ## Wall time -/

/-- Wall time as it stands before a first sample. -/
theorem TimeOk.initial : TimeOk {} := ⟨by decide, by decide, by decide, Bool.noConfusion, Bool.noConfusion⟩

/-- A bad sample moves wall time alone: the value in use stays, but is not usable (R69). -/
theorem badSample_time (b : Blk) :
    (badSample b).time = { b.time with usable := false, bad := min (b.time.bad + 1) 64, same := 0 } := by
  unfold badSample safFault
  dsimp only
  split
  · rw [raiseAlarm_time, logFault_time, ev0_time]; rfl
  · rw [ev0_time]; rfl

/-- A good sample is the value in use from then on (R69). -/
theorem goodSample_time (b : Blk) (v : Nat) :
    (goodSample b v).time = { last := v, seen := true, usable := true, bad := 0, same := sameCount b v } := by
  unfold goodSample safFault
  dsimp only
  split
  · exact logFault_time _ _ _ _ _ _ _
  · rfl

/-- The count of equal samples stops at its limit (R69). -/
theorem sameCount_le (b : Blk) (v : Nat) : sameCount b v ≤ 1024 := by
  unfold sameCount
  split
  · decide
  · split
    · exact Nat.min_le_right _ _
    · decide

/-- A sample keeps wall time in order. -/
theorem TimeOk.sample {b : Blk} (h : TimeOk b.time) (v : Nat) (ok par : Bool) : TimeOk (timeSample b v ok par).time := by
  unfold timeSample
  split
  · exact h
  · dsimp only
    split
    · rw [badSample_time]
      exact ⟨h.last, Nat.min_le_right _ _, Nat.zero_le _, Bool.noConfusion, Bool.noConfusion⟩
    · rw [goodSample_time]
      exact ⟨Nat.mod_lt _ (by decide), Nat.zero_le _, sameCount_le _ _, fun _ => rfl, fun _ => rfl⟩

@[simp] theorem refreshReady_time (b : Blk) : (refreshReady b).time = b.time := by
  obtain ⟨r, m, e, -⟩ := refreshReady_eq b
  rw [e]

@[simp] theorem cfgStart_time (b : Blk) : (cfgStart b).time = b.time := by
  unfold cfgStart
  split <;> rfl

/-- The start-up leaves wall time alone (R397). -/
theorem coldRelease_time (b : Blk) (k : BitVec 384) : (coldRelease b k).time = b.time := by
  unfold coldRelease
  split
  · rw [cfgStart_time, refreshReady_time]; rfl
  · rfl

@[simp] theorem abandonFault_time (b : Blk) (r : MemReq) (tag st : Nat) : (abandonFault b r tag st).time = b.time := by
  unfold abandonFault
  split
  · exact (Steady.ctxFault _ _ _ _ _).time
  · exact logFault_time _ _ _ _ _ _ _

/-- Old tags are retired without touching wall time (R389, R414). -/
theorem srstRetire_time (b : Blk) : (srstRetire b).time = b.time := by
  unfold srstRetire
  refine forEach_keeps (P := fun t => t.time = b.time) _ _ (fun t p _ ht => ?_) b rfl
  exact (abandonFault_time _ _ _ _).trans ht

/-- Wall time starts anew where the stores are reinitialised (R414). -/
theorem softReinit_time (b : Blk) : (softReinit b).time = {} := by
  unfold softReinit
  dsimp only
  rw [cfgStart_time, (forEach_wr (rg b) _ _).1]
  rfl

/-- The end of a soft reset's drain leaves wall time alone, or starts it anew. -/
theorem srstExpiry_time (b : Blk) : (srstExpiry b).time = b.time ∨ (srstExpiry b).time = {} := by
  unfold srstExpiry
  split
  · exact .inl rfl
  · split
    · dsimp only
      split
      · exact .inr (softReinit_time _)
      · exact .inl (srstRetire_time _)
    · exact .inl rfl

/-- A command that moves wall time and leaves the queue and the wrapper alone keeps the invariant where it keeps wall time in order. -/
theorem Inv.finishTime {s : State} {b : Blk} (hi : Inv s) (ht : TimeOk s.blk.time → TimeOk b.time) : Inv (s.finishTime b) where
  time := by rw [finishTime_tap, finishTime_time]; exact hi.time.imp id ht
  wrapper := by rw [finishTime_tap]; exact hi.wrapper
  pending := by rw [finishTime_pending]; exact hi.pending

/-- Every command that may move wall time keeps the invariant (R69, R76, R438). -/
theorem Inv.timeCmd {c : Instr} {s t : State} (hi : Inv s) (hc : movesTime c = true) (h : exec c s = .next t) : Inv t := by
  cases c with
  | timeSample v ok par =>
    rw [exec_timeSample] at h
    rw [← Host.Outcome.next.inj h]
    split
    · exact hi.finishTime (fun k => k.sample v ok par)
    · exact hi
  | coldReset =>
    rw [exec_coldReset] at h
    rw [← Host.Outcome.next.inj h]
    exact ⟨.inr .initial, ⟨hi.wrapper.running, hi.wrapper.store, hi.wrapper.row, hi.wrapper.counts⟩, hi.pending⟩
  | coldResetRelease key =>
    rw [exec_coldResetRelease] at h
    rw [← Host.Outcome.next.inj h]
    exact hi.finishTime (fun k => by rw [coldRelease_time]; exact k)
  | softResetDrainExpiry =>
    rw [exec_softResetDrainExpiry] at h
    rw [← Host.Outcome.next.inj h]
    split
    · refine hi.finishTime (fun k => ?_)
      rcases srstExpiry_time s.blk with e | e <;> rw [e]
      · exact k
      · exact .initial
    · exact hi
  | qmScan => exact hi.qmScan h
  | qmMbist start => exact hi.qmMbist h
  | _ => exact Bool.noConfusion hc

/-- Every command keeps the invariant. -/
theorem Inv.exec {c : Instr} {s t : State} (hi : Inv s) (h : Machine.exec c s = .next t) : Inv t := by
  cases hw : ofWrapper c with
  | true => exact hi.wrapperCmd hw h
  | false =>
    cases ht : movesTime c with
    | true => exact hi.timeCmd ht h
    | false =>
      obtain ⟨serves, f, e⟩ := exec_acts c s hw ht
      obtain ⟨hp, htap, htime⟩ := act_frame (e.symm.trans h)
      exact hi.of_eq hp htap htime

/-- Settles O6: a step drops the front of the queue, and every command keeps the invariant (`Inv.exec`). -/
theorem everyStepKeepsInv : Obligations.EveryStepKeepsInv := by
  intro s t hi h
  unfold step at h
  split at h
  · exact Host.Outcome.next.inj h ▸ hi
  · next c r hp =>
    have hr : Inv { s with pending := r } := ⟨hi.time, hi.wrapper, fun x hx => hi.pending x (by rw [hp]; exact .tail _ hx)⟩
    exact hr.exec h

/-- Settles O7: before a first sample nothing is usable, the wrapper is at rest, and no command waits. -/
theorem resetHasInv : Obligations.ResetHasInv :=
  ⟨.inr .initial, ⟨fun _ => rfl, Nat.two_pow_pos _, Nat.two_pow_pos _, .inl rfl⟩, fun _ h => nomatch h⟩

end Sys2Proof.Machine

/-! Proofs. The Register Port: writes that it turns away (O9), reads of the diagnostic window (O15). -/
namespace Sys2Proof.Machine

/-! ## Writes turned away -/

/-- A write command whose access the port ends without performing it. -/
theorem registerWrite_ends {s : State} {off : Nat} {v : Word} {a : Access} {st : Nat} (hreg : fnReady s.blk 0 = true)
    (hw : busWrite s.blk a off v = rgpEnd s.blk st 0) (hst : st ≠ rgpOk) :
    Updates (.registerWrite off v a) s (fun b => b = rgpEnd s.blk st 0) :=
  updates_act (exec_registerWrite off v a s) hreg
    (by rw [hw]; exact grantedWrite_unperformed (t := rgpEnd s.blk st 0) hst s.blk a off)

/-- While an earlier access is held, a write waits (R65). -/
theorem grantedWrite_held {b : Blk} (h : b.ports.diag ≠ none) (a : Access) (off : Nat) (v : Word) :
    grantedWrite b a off (busWrite b a off v) = b := by
  have hw : busWrite b a off v = b := by
    unfold busWrite
    rw [if_pos (by simp [Option.isSome_iff_ne_none, h])]
  unfold grantedWrite
  split
  · rw [if_neg (fun k => h k.1), hw]
  · exact hw

/-- While an earlier access is held, a read below the window waits (R65). -/
theorem readReg_held {b : Blk} (h : b.ports.diag ≠ none) (off : Nat) (a : Access) : readReg b off a = b := by
  unfold readReg
  rw [if_pos (by simp [Option.isSome_iff_ne_none, h])]

/-- While an earlier access is held, a read of the window waits (R65). -/
theorem diagRead_held {b : Blk} (h : b.ports.diag ≠ none) (off : Nat) (a : Access) (f : Finding) : diagRead b off a f = b := by
  unfold diagRead
  rw [if_pos (by simp [Option.isSome_iff_ne_none, h])]

section
variable {b : Blk} {off : Nat} {a : Access} (hreg : fnReady b 0 = true) (hfree : b.ports.diag = none) (v : Word)
include hreg hfree

theorem busWrite_badParity (hpar : a.parityOk = false) : busWrite b a off v = rgpEnd b rgpParity 0 := by
  unfold busWrite
  simp [hreg, hfree, hpar]

theorem busWrite_window (hpar : a.parityOk = true) (hlo : 0x400000 ≤ off) (hhi : off < 0x1000000) :
    busWrite b a off v = rgpEnd b rgpRefused 0 := by
  unfold busWrite
  simp [hreg, hfree, hpar, hlo, hhi]

theorem busWrite_unprivileged (hpar : a.parityOk = true) (hpriv : a.priv = false) (hpage : off < 0x200000 ∨ 0x300000 ≤ off)
    (hwin : off < 0x400000 ∨ 0x1000000 ≤ off) : busWrite b a off v = rgpEnd b rgpPriv 0 := by
  have hw : (decide (0x400000 ≤ off) && decide (off < 0x1000000)) = false := by
    rcases hwin with h | h
    · simp [Nat.not_le.mpr h]
    · simp [Nat.not_lt.mpr h]
  have hu : unprivOk off true = false := by
    unfold unprivOk
    rcases hpage with h | h
    · simp [show ¬ rPage ≤ off from Nat.not_le.mpr h]
    · simp [Nat.not_lt.mpr h]
  unfold busWrite
  simp [hreg, hfree, hpar, hpriv, hw, hu]

theorem busWrite_unmapped (hpar : a.parityOk = true) (hpriv : a.priv = true) (hlow : off < 0x400000) (hmap : regPlain b off = none) :
    busWrite b a off v = rgpEnd b rgpNotMapped 0 := by
  unfold busWrite
  simp [hreg, hfree, hpar, hpriv, hmap, Nat.not_le.mpr hlow]
end

/-- Settles O9: each check of the port ends the access by itself; a write into the window answers REFUSED with or without privilege, the
model's choice (assumption 36). -/
theorem portTurnsWritesAway : Obligations.PortTurnsWritesAway := by
  intro off v a s hreg
  refine ⟨fun hheld => ⟨?_, ?_, fun f => ?_⟩, fun hfree hpar => ?_, fun hfree hpar hpriv hpage hwin => ?_,
    fun hfree hpar hlo hhi => ?_, fun hfree hpar hpriv hlow hmap => ?_⟩
  · exact updates_act (exec_registerWrite off v a s) hreg (grantedWrite_held hheld a off v)
  · refine updates_act (exec_loHalfRead off a s) hreg ?_
    split
    · exact diagRead_held hheld off a .good
    · exact readReg_held hheld off a
  · exact updates_act (exec_diagWindowRead off a f s) hreg (diagRead_held hheld off a f)
  · exact registerWrite_ends hreg (busWrite_badParity hreg hfree v hpar) (by decide)
  · exact registerWrite_ends hreg (busWrite_unprivileged hreg hfree v hpar hpriv hpage hwin) (by decide)
  · exact registerWrite_ends hreg (busWrite_window hreg hfree v hpar hlo hhi) (by decide)
  · exact registerWrite_ends hreg (busWrite_unmapped hreg hfree v hpar hpriv hlow hmap) (by decide)

/-! ## Reads of the diagnostic window -/

/-- With no access held, a window read that passes the port's checks reads its word. -/
theorem diagRead_passes {b : Blk} {off : Nat} {a : Access} (hreg : fnReady b 0 = true) (hpar : a.parityOk = true)
    (hfree : b.ports.diag = none) (hlo : 0x400000 ≤ off) (hhi : off < 0x1000000) (hpriv : a.priv = true) (f : Finding) :
    diagRead b off a f = diagDo b (off - 0x400000) f := by
  unfold diagRead
  simp [hreg, hpar, hfree, hpriv, Nat.not_lt.mpr hlo, Nat.not_le.mpr hhi]

/-- A window read without privilege is turned away (R63). -/
theorem diagRead_unprivileged {b : Blk} {off : Nat} {a : Access} (hreg : fnReady b 0 = true) (hpar : a.parityOk = true)
    (hfree : b.ports.diag = none) (hlo : 0x400000 ≤ off) (hpriv : a.priv = false) (f : Finding) :
    diagRead b off a f = rgpEnd b rgpPriv 0 := by
  unfold diagRead
  simp [hreg, hpar, hfree, hpriv, Nat.not_lt.mpr hlo]

/-- A block on which no access is held. -/
theorem free_diag {b : Blk} (h : b.ports.diag = none) : { b with ports := { b.ports with diag := none } } = b := by
  rw [← h]

/-- Past the last entry of the store shown nothing stands (R425). -/
theorem diagDo_past {b : Blk} {off : Nat} (hfree : b.ports.diag = none) (hp : diagPlace b off = none) (f : Finding) :
    diagDo b off f = rgpEnd b rgpNotMapped 0 := by
  unfold diagDo
  rw [free_diag hfree]
  simp only [hp]

/-- The good word of an initialised store is returned (R425). -/
theorem diagDo_good {b : Blk} {off e w : Nat} (hfree : b.ports.diag = none) (hp : diagPlace b off = some (e, w))
    (hi : diagInit (diagStore b) ∉ b.cfg.inits) : diagDo b off .good = rgpEnd b rgpOk (w32 (diagWord b e w)) := by
  unfold diagDo
  rw [free_diag hfree]
  simp [hp, hi]

/-- Settles O15: the checks of the port, then the place that the offset names in the store shown. -/
theorem windowReadsShowWords : Obligations.WindowReadsShowWords := by
  intro off a s hreg hpar hfree hlo hhi
  refine ⟨fun hpriv => ?_, fun hpriv hp => ?_, fun hpriv e w hp hi => ?_⟩ <;>
    refine updates_act (exec_diagWindowRead off a .good s) hreg ?_
  · exact diagRead_unprivileged hreg hpar hfree hlo hpriv .good
  · exact (diagRead_passes hreg hpar hfree hlo hhi hpriv .good).trans (diagDo_past hfree hp .good)
  · exact (diagRead_passes hreg hpar hfree hlo hhi hpriv .good).trans (diagDo_good hfree hp hi)

end Sys2Proof.Machine

/-! Proofs. Resets and start-up (O16, O17). -/
namespace Sys2Proof.Machine

/-! ## The cold reset and its release -/

/-- Everything of a cold reset's block is at its cold-reset value but what it takes from the pins and the free values (R74). -/
theorem coldReset_pins (s : Blk) : drives (coldReset s) .fqi = [0, 1] ∧ drives (coldReset s) .irq = [0] ∧
    drives (coldReset s) .mq = [0, 0, 0, 0, 0, 0, 0, 0, 0] := by
  refine ⟨rfl, ?_, rfl⟩
  have hr : ∀ k, rg (coldReset s) k = rg {} k := fun k => rg_only rfl rfl k
  have hen : rg ({} : Blk) rIrqEn = 0 := by decide
  unfold drives
  dsimp only
  unfold irqOut
  rw [hr rIrqEn, hen, Nat.and_zero]

/-- The rise of NRST_BLOCK: REG and TIME are ready at once, and the SFDP header is asked for (R397, R398, R407). -/
theorem coldRelease_eq {s : Blk} (h : s.cfg = {}) (k : BitVec 384) :
    coldRelease s k = { s with
      cfg := { low := false, phase := .sfdp, op := some { op := 0x5a, addr := 0, aw := false, dummy := 8, len := 8 },
               keyhash := k, inits := allInits, ready := 3 }
      regs := (orBits s rCfgIrq 1).regs } := by
  obtain ⟨cfg, _⟩ := s
  obtain rfl : cfg = {} := h
  unfold coldRelease
  rw [if_pos rfl, refresh_rise _ 3 (ready_release _ rfl rfl rfl rfl rfl) (show 3 ≠ 0 by decide), cfgStart_eq _ rfl,
    orBits_regs_congr (b := _) rfl rfl]
  simp only [modCfg, show Nat.testBit 3 3 = false from rfl, Bool.or_false]
  rfl

/-- Settles O16: the cold reset by its definition and its pins, the release by `coldRelease_eq`. -/
theorem coldResetAndRelease : Obligations.ColdResetAndRelease := by
  intro s k
  refine ⟨exec_coldReset s, fun t ht => ?_, fun hcfg => ⟨_, exec_coldResetRelease k s, ?_, ?_⟩⟩
  · rw [exec_coldReset] at ht
    rw [← Host.Outcome.next.inj ht]
    exact coldReset_pins s.blk
  · rw [coldRelease_eq hcfg]
  · rw [coldRelease_eq hcfg]
    exact onlyReg_or s.blk rCfgIrq 1 (by decide)

/-! ## Initialisers -/

/-- The end of an initialiser, where no window read waits for it: its store leaves the list, and BLK_READY follows (R397, R407). -/
theorem storeInitDone_eq {s : Blk} {i : InitStore} (hlow : s.cfg.low = false) (hi : i ∈ s.cfg.inits) (hd : s.ports.diag = none) :
    storeInitDone s i = refreshReady (modCfg s (fun g => { g with inits := g.inits.filter (fun x => x ≠ i) })) := by
  unfold storeInitDone
  rw [if_neg (by simp [hlow, hi])]
  obtain ⟨r, m, e, -⟩ := refreshReady_eq (modCfg s (fun g => { g with inits := g.inits.filter (fun x => x ≠ i) }))
  unfold diagResume
  rw [e]
  simp only [modCfg, hd]

/-! ## Operations of the flash -/

/-- An operation that fails and may be repeated is offered again (R67). -/
theorem nvmDone_again {s : Blk} {o : NvmOp} {beats : List (Word × Bool)} {derr : Bool} (hop : s.cfg.op = some o)
    (hph : s.cfg.phase ≠ .off) (hbad : nvmBytes o beats derr = none) (hf : o.fails < 3) :
    nvmDone s beats derr = { orBits s rPortFault 0x10 with cfg := { s.cfg with op := some { o with fails := o.fails + 1 } } } := by
  unfold nvmDone
  simp only [hop, hbad]
  rw [orBits_cfg, if_neg hph, if_pos hf]
  rfl

/-- The third repeat that fails ends the load (R67, R404). -/
theorem nvmDone_fails {s : Blk} {o : NvmOp} {beats : List (Word × Bool)} {derr : Bool} (hop : s.cfg.op = some o)
    (hph : s.cfg.phase ≠ .off) (hbad : nvmBytes o beats derr = none) (hf : 3 ≤ o.fails) :
    nvmDone s beats derr = cfgFail (orBits s rPortFault 0x10) (0x64, 1, o.addr, 0) o.addr := by
  unfold nvmDone
  simp only [hop, hbad]
  rw [orBits_cfg, if_neg hph, if_neg (Nat.not_lt.mpr hf)]

/-- An SFDP header without its signature: the reference header is read by 0x03 (R398, R399). -/
theorem nvmDone_noSfdp {s : Blk} {o : NvmOp} {beats : List (Word × Bool)} {bs : List Byte} (hop : s.cfg.op = some o)
    (hph : s.cfg.phase = .sfdp) (hok : nvmBytes o beats false = some bs) (hsig : leAt bs 0 4 ≠ 0x50444653) :
    nvmDone s beats false = { s with cfg := { s.cfg with
      phase := .ref, op := some { op := 0x03, addr := 0, aw := false, dummy := 0, len := 64 } } } := by
  unfold nvmDone
  simp only [hop, hok]
  unfold nvmTake
  simp only [modCfg, hph, if_neg hsig]
  rfl

/-- What a failed load leaves of the configuration function (R404, R405). -/
theorem cfgFail_cfg (s : Blk) (f : CfgFault) (addr : Nat) :
    (cfgFail s f addr).cfg.phase = .failed ∧ (cfgFail s f addr).cfg.code = f.1 ∧ (cfgFail s f addr).cfg.op = none ∧
    (cfgFail s f addr).cfg.pb = true := by
  unfold cfgFail
  dsimp only
  rw [refresh_cfg]
  exact ⟨rfl, rfl, rfl, rfl⟩

@[simp] theorem refreshReady_logs (b : Blk) : (refreshReady b).saf.logs = b.saf.logs := by
  obtain ⟨r, m, e, -⟩ := refreshReady_eq b
  rw [e]

/-- A failed load is recorded in the log of the configuration function (R404). -/
theorem cfgFail_log (s : Blk) (f : CfgFault) (addr : Nat) : logOf (cfgFail s f addr) uCfg =
    (logOf s uCfg).add 15 (faultEnt s uCfg f.1 none (mkDetail (put f.2.1 63 56 + put f.2.2.1 31 0) f.2.2.2 addr) false) := by
  unfold cfgFail
  dsimp only
  have h : ∀ b : Blk, logOf (refreshReady b) uCfg = logOf b uCfg := fun b => by unfold logOf; rw [refreshReady_logs]
  rw [h]
  exact (logged s uCfg uCfg f.1 none _ false).entry

/-! ## The image is applied -/

/-- Applying the image ends the configuration function (R405). -/
theorem applyImage_phase (s : Blk) : (applyImage s).cfg.phase = .done := by
  unfold applyImage
  dsimp only
  rw [refresh_cfg]
  rfl

theorem applyLimits_cfg (img : List Byte) (s : Blk) : (applyLimits img s).cfg = s.cfg := by
  unfold applyLimits
  split <;> rfl

theorem applyMask_cfg (img : List Byte) (s : Blk) : ∃ m, (applyMask img s).cfg = { s.cfg with mask := m } := by
  unfold applyMask
  split
  · exact ⟨_, rfl⟩
  · exact ⟨_, rfl⟩

theorem applyIdentity_cfg (img : List Byte) (s : Blk) : ∃ d v, (applyIdentity img s).cfg = { s.cfg with die := d, dieValid := v } := by
  unfold applyIdentity
  split
  · exact ⟨_, _, rfl⟩
  · exact ⟨_, _, rfl⟩

/-- With the image applied and every store initialised, all but HIF is ready (R407). -/
theorem readyNow_done {s : Blk} (hlow : s.cfg.low = false) (hs : s.cfg.srst = false) (hph : s.cfg.phase = .done) (hi : s.cfg.inits = []) :
    readyNow s = s.cfg.ready ||| 0x7fff := by
  unfold readyNow srstDrains readyMask inited cfgEnded
  rw [hlow, hs, hph, hi]
  rfl

/-- An image without settings leaves the release defaults, and every function but HIF ready (R405, R407). -/
theorem applyImage_plain {s : Blk} (hlow : s.cfg.low = false) (hi : s.cfg.inits = []) (hset : settingsOf s.cfg.image = []) :
    (applyImage s).cfg.ready = s.cfg.ready ||| 0x7fff ∧ (applyImage s).cfg.pb = true := by
  obtain ⟨d, v, hid⟩ := applyIdentity_cfg s.cfg.image (releaseDefaults s)
  obtain ⟨m, hm⟩ := applyMask_cfg s.cfg.image (applyIdentity s.cfg.image (releaseDefaults s))
  have hl := applyLimits_cfg s.cfg.image (applyMask s.cfg.image (applyIdentity s.cfg.image (releaseDefaults s)))
  rw [hm, hid] at hl
  unfold applyImage forEach
  dsimp only
  rw [hset, List.foldl_nil, refresh_cfg, readyNow_done]
  · dsimp only [modCfg]
    rw [hl]
    exact ⟨rfl, rfl⟩
  · dsimp only [modCfg]
    rw [hl]
    exact hlow
  · rfl
  · rfl
  · dsimp only [modCfg]
    rw [hl]
    exact hi

/-- The image is applied once it is verified and every store is initialised (R405). -/
theorem pbApply_applies {s : Blk} (hph : s.cfg.phase = .verified) (hi : s.cfg.inits = []) : pbApply s = applyImage s := by
  unfold pbApply
  rw [if_pos (by simp [hph, hi])]

/-- Out of cold reset. -/
theorem awake_of {s : State} (h : s.blk.cfg.low = false) : awake s = true := by
  unfold awake
  rw [h]
  rfl

/-- Settles O17: initialisers by what BLK_READY can do (`refreshReady_eq`), flash operations by what comes of each, the image by what it
leaves of the configuration function. That each failing operation sets BLK_PORT_FAULT.NVM, and that fault 0x64 carries the address, is the
model's choice (assumption 34). -/
theorem startUpGoesOn : Obligations.StartUpGoesOn := by
  refine ⟨fun i s hlow hi hd => ?_, fun beats derr o s hlow hop hph hbad => ⟨fun hf => ?_, fun hf => ?_⟩,
    fun s bs beats o hlow hop hph hok hsig => ?_, fun s hlow hph hi => ?_⟩
  · refine updates_act (exec_storeInitDone i s) (awake_of hlow) ?_
    dsimp only
    rw [storeInitDone_eq hlow hi hd]
    obtain ⟨r, m, e, hrg⟩ := refreshReady_eq (modCfg s.blk (fun g => { g with inits := g.inits.filter (fun x => x ≠ i) }))
    refine ⟨by rw [e]; rfl, fun f hf => ?_, by rw [e]; rfl, fun k hk => (hrg k hk).trans (rg_only rfl rfl k)⟩
    unfold fnReady
    rw [refresh_cfg]
    refine readyNow_low _ ?_ f ?_
    · exact hlow
    · exact hf
  · refine updates_act (exec_nvmOperationDone beats derr s) (awake_of hlow) ?_
    rw [nvmDone_again hop hph hbad hf]
    exact ⟨rfl, onlyReg_or s.blk rPortFault 0x10 (by decide)⟩
  · refine updates_act (exec_nvmOperationDone beats derr s) (awake_of hlow) ?_
    rw [nvmDone_fails hop hph hbad hf]
    obtain ⟨h1, h2, h3, h4⟩ := cfgFail_cfg (orBits s.blk rPortFault 0x10) (0x64, 1, o.addr, 0) o.addr
    refine ⟨h1, h2, h3, h4, (cfgFail_log _ _ _).trans ?_⟩
    rw [show put 1 63 56 + put o.addr 31 0 = 2 ^ 56 + o.addr % 2 ^ 32 by simp [put]]
    rfl
  · exact updates_act (exec_nvmOperationDone beats false s) (awake_of hlow) (nvmDone_noSfdp hop hph hok hsig)
  · refine updates_act (exec_pbApply s) (awake_of hlow) ?_
    rw [pbApply_applies hph hi]
    exact ⟨applyImage_phase s.blk, applyImage_plain hlow hi⟩

end Sys2Proof.Machine

/-! Proofs. Time samples (O19), the throttle (O20), alarms (O21), the region ports (O24), functions that are not ready (O25). -/
namespace Sys2Proof.Machine

/-! ## Samples of the Time Port -/

/-- A sample that cannot be used (R69). -/
theorem sampleBad_iff {t : TimeS} {w : Nat} {ok par : Bool} :
    sampleBad t w ok par = true ↔ par = false ∨ ok = false ∨ (t.seen = true ∧ w < t.last) := by
  unfold sampleBad
  cases par <;> cases ok <;> simp

/-- A block whose value of the Time Port is not usable any more (R69). -/
def unusable (b : Blk) : Blk := { b with time := { b.time with usable := false, bad := min (b.time.bad + 1) 64, same := 0 } }

/-- A bad sample sets BLK_PORT_FAULT.TIME and is counted (R69, R379). -/
def badCounted (b : Blk) : Blk := ev0 (orBits (unusable b) rPortFault 0x20) 0x133

theorem badCounted_portFault (b : Blk) : rg (badCounted b) rPortFault = rg b rPortFault ||| 0x20 :=
  ((Observed.ev0 _ _).regs _ (by decide)).trans ((onlyReg_or (unusable b) rPortFault 0x20 (by decide)).value)

theorem badCounted_rg (b : Blk) {k : Nat} (hk : unitKey k) (hne : k ≠ rPortFault) : rg (badCounted b) k = rg b k :=
  ((Observed.ev0 _ _).regs _ hk).trans ((onlyReg_or (unusable b) rPortFault 0x20 (by decide)).others _ hne)

theorem badCounted_saf (b : Blk) : (badCounted b).saf = b.saf := (Observed.ev0 _ _).saf

theorem badCounted_now (b : Blk) : now (badCounted b) = now b := by
  unfold now badCounted
  rw [ev0_time]
  rfl

/-- A bad sample that is not the 64th in a row raises no alarm (R69). -/
theorem badSample_few {b : Blk} (h : b.time.bad ≠ 63) : badSample b = badCounted b := by
  unfold badSample
  dsimp only
  rw [if_neg h]
  rfl

/-- The 64th bad sample in a row raises the TIME alarm with fault 0x43 (R69). -/
theorem badSample_alarm {b : Blk} (h : b.time.bad = 63) : badSample b =
    raiseAlarm (safFault (badCounted b) uSaf 0x43 (timeDetail (badCounted b) (now (badCounted b))) true) aTime 0x43 0 := by
  unfold badSample
  dsimp only
  rw [if_pos h]
  rfl

/-- Every bad sample sets BLK_PORT_FAULT.TIME (R69). -/
theorem badSample_portFault (b : Blk) : rg (badSample b) rPortFault = rg b rPortFault ||| 0x20 := by
  by_cases h : b.time.bad = 63
  · rw [badSample_alarm h, (raised _ aTime 0x43 0 (by decide)).regs _ (by decide) (by decide) (by decide), safFault,
      (logged _ _ _ _ _ _ _).regs _ (by decide) (by decide) (by decide), badCounted_portFault]
  · rw [badSample_few h, badCounted_portFault]

/-- Details that fit their columns stand as they are (R392). -/
theorem mkDetail_eq {x y : Nat} (hx : x < 2 ^ 64) (hy : y < 2 ^ 32) (z : Nat) : mkDetail x y z = x + y * 2 ^ 64 + put z 127 96 := by
  unfold mkDetail
  rw [put_le (v := x) (hi := 63) (lo := 0) hx, put_le (v := y) (hi := 95) (lo := 64) hy]
  simp

/-- The entry and the alarm of the 64th bad sample (R69, R382, R392). -/
theorem badSample_alarmed {b : Blk} (h : b.time.bad = 63) :
    rg (badSample b) rAlarmCause = rg b rAlarmCause ||| 2 ^ 3 ∧
    logOf (badSample b) uSaf = (logOf b uSaf).add 15
      (faultEnt b uSaf 0x43 none (mkDetail b.time.last (b.time.last % 2 ^ 32) 0) true) := by
  rw [badSample_alarm h]
  constructor
  · rw [(raised _ aTime 0x43 0 (by decide)).cause, safFault, (logged _ _ _ _ _ _ _).regs _ (by decide) (by decide) (by decide),
      badCounted_rg b (by decide) (by decide)]
  · rw [logOf_congr (raiseAlarm_saf _ _ _ _), safFault, (logged _ _ _ _ _ _ _).entry, logOf_congr (badCounted_saf b)]
    unfold timeDetail faultEnt
    rw [badCounted_now]
    rfl

/-- A good sample that follows a usable one, and does not end the count of equal ones, moves wall time alone (R69). -/
theorem goodSample_steady {b : Blk} {w : Nat} (hseen : b.time.seen = true) (huse : b.time.usable = true)
    (hst : ¬ (sameCount b w = 1024 ∧ b.time.same ≠ 1024)) :
    goodSample b w = { b with time := { last := w, seen := true, usable := true, bad := 0, same := sameCount b w } } := by
  unfold goodSample
  simp only [hseen, huse, Bool.not_true, Bool.false_eq_true, ↓reduceIte]
  rw [if_neg (by simpa using hst)]

/-- Settles O19: what becomes of a sample is decided by `sampleBad`; the 64th bad one in a row raises the alarm. -/
theorem samplesAreJudged : Obligations.SamplesAreJudged := by
  intro v ok par s hready w t
  have hb : ∀ b, timeSample s.blk v ok par = b → exec (.timeSample v ok par) s = .next (s.finishTime b) := by
    rintro b rfl
    rw [exec_timeSample]
    unfold ready
    rw [if_pos hready]
  have hs : timeSample s.blk v ok par = if sampleBad t w ok par then badSample s.blk else goodSample s.blk w := by
    unfold timeSample
    simp only [hready]
    rfl
  refine ⟨fun hbad => ⟨badSample s.blk, hb _ (by rw [hs, if_pos (sampleBad_iff.mpr hbad)]), badSample_time s.blk,
      badSample_portFault s.blk, fun h => ?_, badSample_alarmed⟩,
    fun hpar hok hmono => ⟨goodSample s.blk w, hb _ ?_, goodSample_time s.blk w, fun hseen huse hst => ?_⟩⟩
  · rw [badSample_few h]
    exact ⟨badCounted_rg _ (by decide) (by decide), badCounted_saf _⟩
  · rw [hs, if_neg]
    rw [sampleBad_iff]
    rintro (h | h | ⟨hseen, hlt⟩)
    · exact Bool.noConfusion (hpar.symm.trans h)
    · exact Bool.noConfusion (hok.symm.trans h)
    · rcases hmono with h | h
      · exact Bool.noConfusion (hseen.symm.trans h)
      · exact Nat.not_lt.mpr h hlt
  · rw [goodSample_steady hseen huse hst]

/-! ## The throttle -/

/-- The gains that are due, as R146 counts them. -/
theorem gainsDue_eq (b : Blk) : gainsDue b = if b.iss.ceil = 255 ∨ b.time.usable = false then 0 else
    (now b - b.iss.gainAt) * (if b.iss.ceil = 0 then rgf b rThrFloor 7 0 else b.iss.ceil) / 125 - b.iss.gained := by
  unfold gainsDue ceilV
  simp

/-- A new ceiling sets the bucket (R73, R146, R147). -/
theorem newCeiling_eq (b : Blk) (v : Nat) : newCeiling b v = { b with iss := { b.iss with
    ceil := v, gainAt := now b, gained := 0, tokWait := (newCeiling b v).iss.tokWait
    tokens := if v = 255 then rgf b rThrBurst 6 0 else min (b.iss.tokens + gainsDue b) (rgf b rThrBurst 6 0) } } := rfl

/-- A gain of one token (R146). -/
theorem gainToken_eq (b : Blk) : gainToken b = { b with iss := { b.iss with
    tokens := min (b.iss.tokens + 1) (rgf b rThrBurst 6 0), gained := b.iss.gained + 1, tokWait := (gainToken b).iss.tokWait } } := rfl

/-- A gain is due once the time since the last ceiling holds one more (R146). -/
theorem gainDue_of {b : Blk} (hc : b.iss.ceil ≠ 255) (hu : b.time.usable = true)
    (h : (now b - b.iss.gainAt) * (if b.iss.ceil = 0 then rgf b rThrFloor 7 0 else b.iss.ceil) ≥ 125 * (b.iss.gained + 1)) :
    gainDue b = true := by
  unfold gainDue ceilV
  simpa [hc, hu] using h

/-- Settles O20. That a new ceiling starts the accrual anew, and that an unusable stretch gains nothing, is the model's choice
(assumption 38). -/
theorem ceilingAndTokens : Obligations.CeilingAndTokens := by
  refine ⟨fun v s hv hr => ?_, fun s hr hc hu hg => ?_⟩
  · have hr' : answers s 9 = true := by
      unfold answers
      rcases hr with h | h <;> simp [h]
    constructor
    · refine updates_act (exec_throttleCeiling v true s) hr' ?_
      dsimp only [takeCeiling]
      rw [if_pos rfl, Nat.mod_eq_of_lt hv, ← gainsDue_eq]
      exact newCeiling_eq s.blk v
    · exact updates_act (exec_throttleCeiling v false s) hr' ⟨_, onlyReg_or s.blk rPortFault 0x40 (by decide), Observed.ev0 _ _⟩
  · refine updates_act (exec_tokenGain s) hr ?_
    rw [if_pos (gainDue_of hc hu hg)]
    exact gainToken_eq s.blk

/-! ## Alarms -/

/-- The self-check fails while the pair is monitored (R383). -/
theorem selfCheck_eq {b : Blk} (h : b.saf.monitor = true) : selfCheck b =
    raiseAlarm (safFault { b with saf := { b.saf with selfBad := true } } uSaf 0x24 31 true) aSelf 0x24 0 := by
  unfold selfCheck
  rw [h]
  rfl

/-- The place of a port in a handshake fault's DETAIL (R392). -/
theorem portDetail_eq {bit ch : Nat} (hb : bit < 32) (hc : ch < 2 ^ 16) : mkDetail (put bit 4 0) (put ch 15 0) 0 = bit + ch * 2 ^ 64 := by
  rw [put_le (v := bit) (hi := 4) (lo := 0) hb, put_le (v := ch) (hi := 15) (lo := 0) hc, mkDetail_eq (by omega) (by omega)]
  simp [put]

/-- What every handshake violation does first: the port's bit is set, and fault 0x45 is logged (R40, R379). -/
def violationLogged (b : Blk) (bit ch : Nat) : Blk :=
  safFault (ev0 (orBits b rPortFault (2 ^ bit)) 0x132) uSaf 0x45 (mkDetail (put bit 4 0) (put ch 15 0) 0) (decide (bit < 3))

theorem violation_logged (b : Blk) {bit ch : Nat} (hb : bit < 32) (hc : ch < 2 ^ 16) :
    ∃ t u, OnlyReg b t rPortFault (rg b rPortFault ||| 2 ^ bit) ∧ Observed t u ∧
      Logged u (violationLogged b bit ch) uSaf (faultEnt u uSaf 0x45 none (bit + ch * 2 ^ 64) (decide (bit < 3))) := by
  refine ⟨_, _, onlyReg_or b rPortFault (2 ^ bit) (Nat.pow_lt_pow_right (by decide) hb), Observed.ev0 _ 0x132, ?_⟩
  rw [← portDetail_eq hb hc]
  exact logged _ _ _ _ _ _ _

/-- A violation on a Memory or Fabric Port raises the alarm (R379). -/
theorem handshake_raises {s : State} {p : PortName} {bit ch : Nat} (hlow : s.blk.cfg.low = false)
    (h : handshake s.blk p = if s.blk.cfg.low then s.blk else raiseAlarm (violationLogged s.blk bit ch) aPort 0x45 0)
    (hb : bit < 3) (hc : ch < 2 ^ 16) : Updates (.handshakeViolation p) s (fun b => ∃ t u w,
      OnlyReg s.blk t rPortFault (rg s.blk rPortFault ||| 2 ^ bit) ∧ Observed t u ∧
      Logged u w uSaf (faultEnt u uSaf 0x45 none (bit + ch * 2 ^ 64) true) ∧ Raised w b 4) := by
  refine updates_act (exec_handshakeViolation p s) (awake_of hlow) ?_
  rw [h, if_neg (by simp [hlow])]
  obtain ⟨t, u, ht, hu, hw⟩ := violation_logged s.blk (bit := bit) (ch := ch) (by omega) hc
  rw [decide_eq_true hb] at hw
  exact ⟨t, u, _, ht, hu, hw, raised _ aPort 0x45 0 (by decide)⟩

/-- A violation on the Register, NVM or Throttle Port is logged alone (assumption 33 for the last). -/
theorem handshake_logs {s : State} {p : PortName} {bit : Nat} (hlow : s.blk.cfg.low = false)
    (h : handshake s.blk p = if s.blk.cfg.low then s.blk else violationLogged s.blk bit 0) (h3 : 3 ≤ bit) (hb : bit < 32) :
    Updates (.handshakeViolation p) s (fun b => ∃ t u, OnlyReg s.blk t rPortFault (rg s.blk rPortFault ||| 2 ^ bit) ∧ Observed t u ∧
      Logged u b uSaf (faultEnt u uSaf 0x45 none bit false)) := by
  refine updates_act (exec_handshakeViolation p s) (awake_of hlow) ?_
  rw [h, if_neg (by simp [hlow])]
  obtain ⟨t, u, ht, hu, hw⟩ := violation_logged s.blk (bit := bit) (ch := 0) hb (by decide)
  rw [decide_eq_false (Nat.not_lt.mpr h3), Nat.zero_mul, Nat.add_zero] at hw
  exact ⟨t, u, ht, hu, hw⟩

/-- A write of 1 to SAF_ALARM_TEST raises the alarm (R382). -/
theorem regAct_alarmTest (b : Blk) : regAct b 0x160008 1 = some (raiseAlarm b aTest 0 0) := rfl

/-- Settles O21: each by the one lemma of what raising an alarm does (`raised`). The port numbers of the entries are the model's choice
(assumption 33). -/
theorem alarmsRise : Obligations.AlarmsRise := by
  refine ⟨fun a s h => ?_, fun s hlow hm => ?_, fun s hlow => ⟨?_, ?_⟩⟩
  · exact writes_bus (exec_raiseTest a s) h (regAct_alarmTest s.blk) (raised s.blk aTest 0 0 (by decide))
  · refine updates_act (exec_selfCheckFail s) (awake_of hlow) ?_
    rw [selfCheck_eq hm]
    exact ⟨_, logged _ uSaf uSaf 0x24 none 31 true, raised _ aSelf 0x24 0 (by decide)⟩
  · simp only [List.forall_mem_cons, List.not_mem_nil, false_implies, implies_true, and_true]
    exact ⟨handshake_raises hlow rfl (by decide) (by decide), handshake_raises hlow rfl (by decide) (by decide),
      handshake_raises hlow rfl (by decide) (by decide), handshake_raises hlow rfl (by decide) (by decide),
      handshake_raises hlow rfl (by decide) (by decide), handshake_raises hlow rfl (by decide) (by decide),
      handshake_raises hlow rfl (by decide) (by decide)⟩
  · simp only [List.forall_mem_cons, List.not_mem_nil, false_implies, implies_true, and_true]
    exact ⟨handshake_logs hlow rfl (by decide) (by decide), handshake_logs hlow rfl (by decide) (by decide),
      handshake_logs hlow rfl (by decide) (by decide)⟩

end Sys2Proof.Machine

/-! Proofs. The region ports (O24) and functions that are not ready (O25). -/
namespace Sys2Proof.Machine

/-! ## Acknowledgements of dispatch words -/

/-- The word on a region's port ends its transfer (R47). -/
def wordGone (s : Blk) (n : Nat) : Blk := { s with ports := { s.ports with rip := Store.erase s.ports.rip n } }

theorem ripAck_idle {s : Blk} {n : Nat} (h : Store.get? s.ports.rip n = none) (err : Bool) : ripAck s n err = s := by
  unfold ripAck
  simp only [h]

section
variable {s : Blk} {n : Nat} {o : RipOffer} (h : Store.get? s.ports.rip n = some o)
include h

theorem ripAck_taken : ripAck s n false = wordGone s n := by
  unfold ripAck
  simp only [h]
  rfl

theorem ripAck_writtenOff (hw : o.writtenOff = true) : ripAck s n true = wordGone s n := by
  unfold ripAck
  simp only [h, hw]
  rfl

theorem ripAck_noTask (hw : o.writtenOff = false) (he : o.errs < 3) (ht : taskOf s o.slot = none) : ripAck s n true = wordGone s n := by
  unfold ripAck
  simp only [h, hw, ht]
  rw [if_neg (by decide), if_neg (Nat.not_le.mpr he)]
  rfl

theorem ripAck_again {t : Task} (ht : taskOf s o.slot = some t) (hi : t.state = .issued)
    (hc : ctxSt s t.ctx = .opened ∨ ctxSt s t.ctx = .orphaned ∨ ctxSt s t.ctx = .faulted) (hw : o.writtenOff = false)
    (he : o.errs < 3) : ripAck s n true = { s with ports := { s.ports with
      rip := Store.set s.ports.rip n { o with errs := o.errs + 1, word := dispatchWord s o.slot t o.engine } } } := by
  have hd : (t.state == .issued && ctxDispatches s t.ctx || ctxSt s t.ctx == .faulted && t.state == .issued) = true := by
    unfold ctxDispatches
    rcases hc with h | h | h <;> simp [hi, h]
  unfold ripAck
  simp only [h, hw, ht]
  rw [if_neg (by decide), if_neg (Nat.not_le.mpr he), if_pos hd]

theorem ripAck_fourth (hw : o.writtenOff = false) (he : 3 ≤ o.errs) : ripAck s n true = regionGoesOut (wordGone s n) n 0 := by
  unfold ripAck
  simp only [h, hw]
  rw [if_neg (by decide), if_pos he]
  rfl
end

/-- A violation on a region's port raises the alarm, and the pair leaves service (R375, R379). -/
theorem handshake_region {s : State} {p : PortName} {n : Nat} (hlow : s.blk.cfg.low = false) (hn : n < 16) (hp : p = .rip n ∨ p = .rcp n)
    (hin : regionOut s.blk n = false) :
    Updates (.handshakeViolation p) s (fun b => ∃ t u v w, OnlyReg s.blk t rPortFault (rg s.blk rPortFault ||| 1) ∧ Observed t u ∧
      Logged u v uSaf (faultEnt u uSaf 0x45 none (n * 2 ^ 64) true) ∧ Raised v w 4 ∧ PairGone w b n 2) := by
  have heq : handshake s.blk p = regionGoesOut (raiseAlarm (violationLogged s.blk 0 n) aPort 0x45 0) n 2 := by
    have hm : ∀ b, regionGoesOut b (n % 16) 2 = regionGoesOut b n 2 := fun b => by rw [Nat.mod_eq_of_lt hn]
    unfold handshake
    rw [if_neg (by simp [hlow])]
    rcases hp with rfl | rfl <;> exact hm _
  obtain ⟨t, u, ht, hu, hv⟩ := violation_logged s.blk (bit := 0) (ch := n) (by decide) (by omega)
  rw [Nat.zero_add] at hv
  have hw := raised (violationLogged s.blk 0 n) aPort 0x45 0 (by decide)
  refine updates_act (exec_handshakeViolation p s) (awake_of hlow) ?_
  rw [heq]
  refine ⟨t, u, _, _, ht, hu, hv, hw, pair_gone 2 ?_ hn⟩
  have hk : rg (raiseAlarm (violationLogged s.blk 0 n) aPort 0x45 0) rRegionFail = rg s.blk rRegionFail := by
    rw [hw.regs _ (by decide) (by decide) (by decide), hv.regs _ (by decide) (by decide) (by decide), hu.regs _ (by decide),
      ht.others _ (by decide)]
  unfold regionOut rgb rgw at hin ⊢
  rw [hk]
  exact hin

/-- Settles O24: an answer by the branch of `ripAck` that it takes, a violation by `handshake_region`. That a word of a fenced context
ends with its transfer is the model's choice (assumption 18). -/
theorem regionPortsAnswer : Obligations.RegionPortsAnswer := by
  intro n s hlow hn gone
  have ack : ∀ {err t}, ripAck s.blk n err = t → exec (.dispatchAck n err) s = .next (s.finish t) := by
    rintro err t rfl
    rw [exec_dispatchAck, act_serves (awake_of hlow)]
  refine ⟨fun err h => ack (ripAck_idle h err), fun o h => ack (ripAck_taken h), fun o h hend => ack ?_,
    fun o t h ht hi hc hw he => ⟨_, ack (ripAck_again h ht hi hc hw he), rfl⟩,
    fun o h hw he hin => ⟨_, ack (ripAck_fourth h hw he), pair_gone 0 hin hn⟩, fun p hp hin => ?_⟩
  · cases hw : o.writtenOff with
    | true => exact ripAck_writtenOff h hw
    | false =>
      rcases hend with hw' | ⟨he, ht⟩
      · exact Bool.noConfusion (hw.symm.trans hw')
      · exact ripAck_noTask h hw he ht
  · exact handshake_region hlow hn (by simpa using hp) hin

/-! ## Functions that are not ready -/

/-- A command that a function must be ready for is an update behind that function's gate, but for a sample, which moves wall time. -/
theorem exec_needs {c : Instr} {f : Nat} (h : needs c = some f) (s : State) :
    (∃ v ok par, c = .timeSample v ok par ∧ f = 1) ∨ ∃ g, exec c s = act (ready s f) g s := by
  unfold needs at h
  split at h
  case h_1 => exact .inl ⟨_, _, _, rfl, (Option.some.inj h).symm⟩
  case h_113 => exact nomatch h
  all_goals
    obtain rfl := Option.some.inj h
    simp only [exec_memoryResponse, exec_traceDrainLine, exec_traceFlushExpiry, exec_earlyArrivalExpiry, exec_delayRelease, exec_launchEnd,
      exec_tokenGain, exec_dispatchDecision, exec_taskOverrun, exec_sieveRunTimeout, exec_orderHoldExpiry, exec_orderWindowClose,
      exec_replyTimerExpiry, exec_retryOffer, exec_send, exec_alloc, exec_freeHandle, exec_openingDone, exec_drainComplete,
      exec_quiesceExpiry, exec_closeReleaseDone, exec_leaseExpiry, exec_ruledTick, exec_frontStallExpiry, exec_cmdNop,
      exec_cmdLaunch, exec_cmdWait, exec_cmdSignal, exec_cmdClose, exec_cmdJalloc, exec_cmdJfree, exec_cmdCancel, exec_cmdSet,
      exec_cmdAdd, exec_cmdGet, exec_cmdLoad, exec_cmdStore, exec_cmdBr, exec_cmdLoop, exec_cmdCall, exec_cmdRet, exec_cmdSleep,
      exec_cmdBrk, exec_cmdPatch, exec_cmdSpill, exec_cmdRefill, exec_cmdLatch, exec_cmdFence, exec_cmdAudit, exec_cmdHello,
      exec_cmdAdopt, exec_illegalOpcode, exec_waitTimeout, exec_sleepWake, exec_pulse, exec_pcSample, exec_courseBuild,
      exec_boundaryEnd, exec_seqAdvance, exec_softrst, exec_csqDb, exec_queueEnable, exec_queueDisable, exec_retry, exec_skip,
      exec_flush, exec_resume, exec_stepBrk, exec_completionHeadWrite, exec_install, exec_uninstall, exec_xtLoad,
      exec_c0ResvWrite, exec_regionReturn, exec_reqFaultClear, exec_noticeHeadWrite, exec_xchSdb, exec_channelEnable,
      exec_channelFaultClear, exec_openRing, exec_openBound, exec_ringClose, exec_ctxOpen, exec_ctxFence, exec_ctxReset,
      exec_ctxClose, exec_ctxResume, exec_ctxRenew, exec_peerFence, exec_peerUnfence, exec_boardFaultClear, exec_ordModeWrite,
      exec_stepLoad, exec_tccClear, exec_counterConfig, exec_counterClear, exec_counterReadClear, exec_trigger, exec_arm,
      exec_bufferEnable, exec_bufferFaultClear, exec_latchRingEnable, exec_latchFaultClear, exec_blot, exec_snap, exec_raiseTest,
      exec_alarmCauseClear, exec_logClear, exec_diagWindowRead, exec_registerWrite, exec_loHalfRead]
    exact .inr ⟨_, rfl⟩

/-- Settles O25: a command waits behind the gate of its function (`exec_needs`), and so does a sample. -/
theorem unreadyFunctionsTakeNothing : Obligations.UnreadyFunctionsTakeNothing := by
  intro c f s hneed hready
  rcases exec_needs hneed s with ⟨v, ok, par, rfl, rfl⟩ | ⟨g, hg⟩
  · refine (exec_timeSample v ok par s).trans ?_
    unfold ready
    rw [if_neg (by simp [hready])]
  · exact hg.trans (act_waits hready g s)

end Sys2Proof.Machine

/-! Proofs. Requests of the fabric before their contexts see them (O27). -/
namespace Sys2Proof.Machine

/-- After an answer of NK_PARITY the pair of a known die waits for the repeat (R276). -/
theorem parityGap_known {s : Blk} {src : Nat} {p : PairIn} (h : Store.get? s.xch.pairsIn src = some p) (pseq : Nat) (ok : Bool) :
    ∃ p', Store.get? (parityGap s src pseq ok).xch.pairsIn src = some p' ∧ p'.expected = p.expected % 65536 ∧ p'.gap = true := by
  unfold parityGap
  simp only [h]
  exact ⟨_, setPairIn_get _ _ _ _, rfl, rfl⟩

/-- A PSEQ that cannot be trusted opens no pair (R276). -/
theorem parityGap_unknown {s : Blk} {src : Nat} (h : Store.get? s.xch.pairsIn src = none) (pseq : Nat) : parityGap s src pseq false = s := by
  unfold parityGap
  simp only [h]
  rfl

/-- The port takes a message: when the Exchange is ready, and in a soft reset (R76). -/
theorem answers_of {s : State} {f : Nat} (h : fnReady s.blk f = true ∨ s.blk.cfg.srst = true) : answers s f = true := by
  unfold answers
  rcases h with h | h <;> simp [h]

/-- The block once the flits of a request have been counted (R340). -/
def flitsSeen (s : Blk) (body : Option FBody) : Blk := evN s 0x116 none (nFl body)

theorem flitsSeen_observed (s : Blk) (body : Option FBody) : Observed s (flitsSeen s body) := Observed.evN _ _ _ _

theorem Observed.ownDie {s t : Blk} (h : Observed s t) : ownDie t = ownDie s := by unfold Machine.ownDie; rw [h.rest]

theorem Observed.srst {s t : Blk} (h : Observed s t) : t.cfg.srst = s.cfg.srst := by rw [h.rest]

section
variable {s : Blk} {h : FHdr} (ty : Nat) (body : Option FBody) (hrsv : h.rsv = 0) (hchk : h.chk = .ok ∨ h.chk = .layout)
include hrsv hchk

/-- A request for another die is dropped (R57). -/
theorem inbound_otherDie (hdie : h.dst ≠ ownDie s) : inbound s h ty body = ev0 (flitsSeen s body) 0x11c := by
  rw [inbound_else _ _ _ _ hrsv hchk]
  dsimp only
  rw [(Observed.evN s 0x116 none (nFl body)).ownDie, if_pos hdie]
  rfl

/-- During a soft reset a request is answered NK_CTX_FENCED (R76). -/
theorem inbound_softReset (hdie : h.dst = ownDie s) (hsoft : s.cfg.srst = true) :
    inbound s h ty body = giveAnswer (flitsSeen s body) h.src h.rqid ty kCtxFenced h.dstCtx := by
  rw [inbound_else _ _ _ _ hrsv hchk]
  dsimp only
  rw [(Observed.evN s 0x116 none (nFl body)).ownDie, (Observed.evN s 0x116 none (nFl body)).srst, if_neg (not_not_intro hdie),
    if_pos hsoft]
  rfl

/-- A request of a reserved TYPE is counted and answered NK_BAD_HANDLER (R266). -/
theorem inbound_reservedType (hdie : h.dst = ownDie s) (hsoft : s.cfg.srst = false) :
    inbound s h ty none = giveAnswer (ev0 (bump (flitsSeen s none) rBadType) 0x111) h.src h.rqid ty kBadHandler h.dstCtx := by
  rw [inbound_else _ _ _ _ hrsv hchk]
  dsimp only
  rw [(Observed.evN s 0x116 none (nFl none)).ownDie, (Observed.evN s 0x116 none (nFl none)).srst, if_neg (not_not_intro hdie),
    if_neg (by simp [hsoft])]
  rfl
end

/-- A request that is not laid out as its type is answered NK_PARITY (R266). -/
theorem inbound_layout {s : Blk} {h : FHdr} (ty : Nat) {body : Option FBody} (hrsv : h.rsv = 0) (hchk : h.chk = .layout)
    (hdie : h.dst = ownDie s) (hsoft : s.cfg.srst = false) (hbody : body ≠ none) : inbound s h ty body =
      giveAnswer (parityGap (flitsSeen s body) h.src h.pseq true) h.src h.rqid ty kParity h.dstCtx := by
  obtain ⟨b, rfl⟩ := Option.ne_none_iff_exists'.mp hbody
  rw [inbound_else _ _ _ _ hrsv (.inr hchk)]
  dsimp only
  rw [(Observed.evN s 0x116 none (nFl (some b))).ownDie, (Observed.evN s 0x116 none (nFl (some b))).srst, if_neg (not_not_intro hdie),
    if_neg (by simp [hsoft]), if_pos hchk]
  rfl

/-- A request that fails parity, has reserved bits set, or is not laid out as its type, is answered NK_PARITY (R57, R60, R266). -/
theorem inbound_failsCheck {s : Blk} {h : FHdr} (ty : Nat) {body : Option FBody} {ok : Bool}
    (hfail : h.chk = .parity ok ∨ (ok = true ∧ h.rsv ≠ 0 ∧ (h.chk = .ok ∨ h.chk = .layout)) ∨
      (ok = true ∧ h.rsv = 0 ∧ h.chk = .layout ∧ h.dst = ownDie s ∧ s.cfg.srst = false ∧ body ≠ none)) :
    inbound s h ty body = giveAnswer (parityGap (flitsSeen s body) h.src h.pseq ok) h.src h.rqid ty kParity h.dstCtx := by
  rcases hfail with hpar | ⟨rfl, hrsv, hchk⟩ | ⟨rfl, hrsv, hchk, hdie, hsoft, hbody⟩
  · exact inbound_parity s h ty body ok hpar
  · exact inbound_reserved s h ty body hrsv hchk
  · exact inbound_layout ty hrsv hchk hdie hsoft hbody

/-- Settles O27: each check by the branch of `inbound` that it takes; what is answered by `answers_give`. -/
theorem requestsAreChecked : Obligations.RequestsAreChecked := by
  intro c s h ty body hc hready
  have upd : ∀ {P : Blk → Prop}, P (inbound s.blk h ty body) → Updates c s P := updates_act (exec_request hc s) (answers_of hready)
  have hseen := flitsSeen_observed s.blk body
  refine ⟨fun hchk => upd ?_, fun ok hfail => upd ?_, fun hrsv hchk hdie => upd ?_, fun hrsv hchk hdie hsoft => upd ?_,
    fun hrsv hchk hdie hsoft hbody => upd ?_⟩
  · rw [inbound_untrusted _ _ _ _ hchk]
    rw [← hseen.regs rPortFault (by decide)]
    exact ⟨_, hseen, onlyReg_or (flitsSeen s.blk body) rPortFault 4 (by decide)⟩
  · rw [inbound_failsCheck ty hfail]
    refine ⟨_, _, hseen, parityGap_eq _ h.src h.pseq ok, fun p hp => parityGap_known hp h.pseq ok, fun hp hok => ?_,
      answers_give _ _ _ _ _ _⟩
    rw [hok]
    exact parityGap_unknown hp h.pseq
  · rw [inbound_otherDie ty body hrsv hchk hdie]
    exact hseen.trans (Observed.ev0 _ _)
  · rw [inbound_softReset ty body hrsv hchk hdie hsoft]
    exact ⟨_, hseen, answers_give _ _ _ _ _ _⟩
  · subst hbody
    rw [inbound_reservedType ty hrsv hchk hdie hsoft]
    exact ⟨_, _, _, hseen, counted_bump _ _, Observed.ev0 _ _, answers_give _ _ _ _ _ _⟩

end Sys2Proof.Machine

/-! Proofs. What is checked of a word of a region before its kind (O34). -/
namespace Sys2Proof.Machine

/-- Setting a sender's count of failed words goes along with observation. -/
theorem Observed.setFails {s t : Blk} (h : Observed s t) (e k : Nat) : Observed (setFails s e k) (setFails t e k) where
  rest := by unfold Machine.setFails; rw [h.rest]
  regs := h.regs
  words := h.words

/-- With its pair out of service a word is answered 10 (R48). -/
theorem rcpCheck_out {s : Blk} {n : Nat} (h : regionOut s n = true) (src : Nat) (ok : Bool) :
    rcpCheck s n src ok = (.discard, rcpDiscard s n) := by
  unfold rcpCheck
  dsimp only
  rw [if_pos (by simp [h])]

section
variable {s : Blk} {n : Nat} (hsoft : s.cfg.srst = false) (hin : regionOut s n = false) (src : Nat)
include hsoft hin

/-- A word with bad parity is answered 01, and counted for its sender (R48). -/
theorem rcpCheck_badParity (h : Store.getD s.ports.rcpFails (n * 256 + src) 0 + 1 < 4) : rcpCheck s n src false =
    (.again, setFails (ev0 (setRcpErr s n 1) (0x41 + n)) (n * 256 + src) (Store.getD s.ports.rcpFails (n * 256 + src) 0 + 1)) := by
  unfold rcpCheck
  dsimp only
  rw [if_neg (by simp [hsoft, hin]), if_pos (by rfl), if_neg (Nat.not_le.mpr h)]

/-- The fourth word in a row with bad parity takes the pair out of service (R375). -/
theorem rcpCheck_fourth (h : 4 ≤ Store.getD s.ports.rcpFails (n * 256 + src) 0 + 1) : rcpCheck s n src false =
    (.again, regionGoesOut (setFails (ev0 (setRcpErr s n 1) (0x41 + n)) (n * 256 + src) 0) n 1) := by
  unfold rcpCheck
  dsimp only
  rw [if_neg (by simp [hsoft, hin]), if_pos (by rfl), if_pos h]

/-- A word from a masked engine is answered 10 (R48). -/
theorem rcpCheck_masked (h : engMasked s (n * 256 + src) = true) :
    rcpCheck s n src true = (.discard, rcpDiscard (setFails s (n * 256 + src) 0) n) := by
  have hm : engMasked (setFails s (n * 256 + src) 0) (n * 256 + src) = true := h
  unfold rcpCheck
  dsimp only
  rw [if_neg (by simp [hsoft, hin]), if_neg (by decide), if_pos hm]
end

/-- A word with bad parity: its answer and its sender's count (R48). -/
theorem badParity_observed (s : Blk) (n e k : Nat) :
    Observed (rcpAnswered s n 1 e k) (setFails (ev0 (setRcpErr s n 1) (0x41 + n)) e k) :=
  (Observed.ev0 (setRcpErr s n 1) (0x41 + n)).setFails e k

/-- A word from a masked engine: its answer, and the count of its sender starts anew (R48). -/
theorem masked_observed (s : Blk) (n e : Nat) : Observed (rcpAnswered s n 2 e 0) (rcpDiscard (setFails s e 0) n) :=
  discard_obs (setFails s e 0) n

/-- A purge record is settled by the word that matches it (R317). -/
theorem settlePurge_eq (t : Blk) (e : Nat) (w : Word64) : (settlePurge t e w).getD t =
    { t with iss := { t.iss with purge := match t.iss.purge.find? (purgeMatch e w) with
      | some h => t.iss.purge.erase h
      | none => t.iss.purge } } := by
  unfold settlePurge
  cases t.iss.purge.find? (purgeMatch e w) with
  | none => rfl
  | some h => rfl

/-- A completion word on a pair out of service still settles its purge record (R47). -/
theorem takeCompletion_out {s : Blk} {n : Nat} (h : regionOut s n = true) (src : Nat) (w : Word64) (ok : Bool) (q : List Nat) :
    takeCompletion s n src w ok q = (settlePurge (rcpDiscard s n) (n * 256 + src) w).getD (rcpDiscard s n) := by
  have hout : regionOut (rcpDiscard s n) n = true := ((discard_obs s n).regionOut n).trans h
  unfold takeCompletion
  dsimp only
  rw [rcpCheck_out h]
  dsimp only
  rw [if_pos hout]

/-- A word of the reserved kind is answered 10 and recorded (R48). -/
theorem takeReserved_eq {s : Blk} {n src : Nat} (h : Listens s n src) : takeReserved s n src 3 true =
    unitFault (rcpDiscard (rcpAnswered s n 0 (n * 256 + src) 0) n) uIss 0x31 none ((n * 256 + src) * 2 ^ 64) := by
  have hn := h.port
  have hs := h.eng
  unfold takeReserved
  rw [rcp_take h]
  dsimp only
  rw [if_pos rfl, engDetail 0 _ (by decide) (by omega), Nat.zero_add]

/-- Settles O34: the first check of R48 that a word fails decides its answer (`rcpCheck`), whatever its kind (`not_taken`). -/
theorem regionWordsAreChecked : Obligations.RegionWordsAreChecked := by
  intro c s n src ok hc hn hs hready hsoft e fails
  refine ⟨fun hout => ?_, fun hin hok hfew => ?_, fun hin hok hmany => ?_, fun hin hok hmask => ?_,
    fun kind w hkind hin hok hmask h3 => ?_⟩
  · have hobs := discard_obs s.blk n
    by_cases hw : ∃ w q, c = .completionWord n src w ok q
    · obtain ⟨w, q, rfl⟩ := hw
      refine completion_word hn hs hready ?_
      rw [takeCompletion_out hout]
      refine ⟨_, hobs, fun hne => absurd rfl (hne w q), fun w' q' heq => ?_⟩
      obtain ⟨-, -, rfl, -, -⟩ := Instr.completionWord.inj heq
      exact settlePurge_eq _ _ _
    · have hne : ∀ w q, c ≠ .completionWord n src w ok q := fun w q h => hw ⟨w, q, h⟩
      exact not_taken hc hn hs hready (.inr ⟨rcpCheck_out hout src ok, .inl hne⟩) ⟨_, hobs, fun _ => rfl, fun w q h => absurd h (hne w q)⟩
  · subst hok
    exact not_taken hc hn hs hready (.inl (rcpCheck_badParity hsoft hin src hfew)) (badParity_observed s.blk n e (fails + 1))
  · subst hok
    have hobs := badParity_observed s.blk n e 0
    exact not_taken hc hn hs hready (.inl (rcpCheck_fourth hsoft hin src hmany)) ⟨_, hobs, pair_gone 1 ((hobs.regionOut n).trans hin) hn⟩
  · subst hok
    have hobs := masked_observed s.blk n e
    exact not_taken hc hn hs hready (.inr ⟨rcpCheck_masked hsoft hin src hmask, .inr ((hobs.regionOut n).trans hin)⟩) hobs
  · subst hok h3 hkind
    refine reserved_kind hn hs hready ?_
    rw [takeReserved_eq ⟨hready, hsoft, hn, hs, hin, hmask⟩]
    exact ⟨_, discard_taken s.blk n e, logged _ uIss uIss 0x31 none _ false⟩

end Sys2Proof.Machine

/-! Proofs. Requests and responses of the Memory Port (O37). -/
namespace Sys2Proof.Machine

/-- A freed tag goes along with observation. -/
theorem Observed.freeTag {s t : Blk} (h : Observed s t) (tag : Nat) : Observed (freeTag s tag) (freeTag t tag) where
  rest := by unfold Machine.freeTag; rw [h.rest]
  regs := h.regs
  words := h.words

/-- A request that waits to be offered again goes along with observation. -/
theorem Observed.waits {s t : Blk} (h : Observed s t) (p : Option Nat × MemReq) :
    Observed { s with mem := { s.mem with waitq := s.mem.waitq ++ [p] } } { t with mem := { t.mem with waitq := t.mem.waitq ++ [p] } } where
  rest := by rw [h.rest]
  regs := h.regs
  words := h.words

/-- No response is discarded while no soft reset drains (R76). -/
theorem srstDrains_of_not {s : Blk} (h : s.cfg.srst = false) : srstDrains s = false := by
  unfold srstDrains
  rw [h]
  rfl

/-- A response that comes: its grant is counted, and its status where the control word checks (R297, R340). -/
def responseSeen (s : Blk) (st : Nat) (ctlOk : Bool) (q : List Nat) (r : MemReq) : Blk :=
  if ctlOk then evN (contestedOpt s r.ctx q) (0x120 + st) r.ctx 1 else contestedOpt s r.ctx q

/-- What has been seen of a response is observation after the grant. -/
theorem responseSeen_observed (s : Blk) (st : Nat) (ctlOk : Bool) (q : List Nat) (r : MemReq) :
    Observed (contestedOpt s r.ctx q) (responseSeen s st ctlOk q r) := by
  unfold responseSeen
  split
  · exact Observed.evN _ _ _ _
  · exact Observed.self _

/-- The outcome of a request that no ruled context is owed (R286). -/
theorem memOutcome_free {r : MemReq} (h : r.serial = none) (s : Blk) (d : Option Line) (tag st : Nat) :
    memOutcome s r d tag st = applyMem s r d tag st := by
  unfold memOutcome holdMem
  rw [h]

section
variable {s : Blk} {tag st : Nat} {data : Line} {dataOk ctlOk : Bool} {q : List Nat} {r : MemReq}

/-- A response for a tag that is orphaned frees it, and is counted as late (R316). -/
theorem memTaken_orphaned (h : r.owner = .orphaned) : memTaken s tag st data dataOk ctlOk q r =
    evN (bump (freeTag (responseSeen s st ctlOk q r) tag) rLateMem) 0x13c r.ctx 1 := by
  unfold memTaken
  dsimp only
  rw [if_pos h]
  rfl

variable (ho : r.owner ≠ .orphaned) (hser : r.serial = none)
include ho hser

/-- A response that says OK gives its owner the data (R52). -/
theorem memTaken_ok (hctl : ctlOk = true) (hst : st = 0) (hdata : r.write = true ∨ dataOk = true) :
    memTaken s tag st data dataOk ctlOk q r =
      ownerAnswer (freeTag (responseSeen s st ctlOk q r) tag) r (some (if r.write = true then 0 else data)) tag 0 := by
  have hagain : respAgain r st dataOk ctlOk = false := by
    unfold respAgain
    rcases hdata with h | h <;> simp [hctl, hst, h]
  unfold memTaken
  dsimp only
  rw [if_neg ho, hagain, if_neg (by decide), if_pos hst, memOutcome_free hser]
  rfl

/-- A response that says FAULT gives its owner a fault (R52, R53). -/
theorem memTaken_fault (hctl : ctlOk = true) (hst : st = 1 ∨ st = 4) : memTaken s tag st data dataOk ctlOk q r =
    applyMem (freeTag (responseSeen s st ctlOk q r) tag) r none tag st := by
  have hagain : respAgain r st dataOk ctlOk = false := by
    unfold respAgain respFaults
    rcases hst with h | h <;> simp [hctl, h]
  have h0 : st ≠ 0 := by omega
  unfold memTaken
  dsimp only
  rw [if_neg ho, hagain, if_neg (by decide), if_neg h0, memOutcome_free hser]
  rfl

omit hser in
/-- A response that cannot be used has its request offered again, three times (R54). -/
theorem memTaken_again (hagain : respAgain r st dataOk ctlOk = true) (hf : r.fails < 3) : memTaken s tag st data dataOk ctlOk q r =
    memAgain (responseSeen s st ctlOk q r) tag r (if ctlOk && (r.write || dataOk) then st else 0) := by
  unfold memTaken
  dsimp only
  rw [if_neg ho, if_pos hagain, if_pos hf]
  rfl

/-- After the third repeat the request is abandoned (R54). -/
theorem memTaken_abandoned (hagain : respAgain r st dataOk ctlOk = true) (hf : 3 ≤ r.fails) : memTaken s tag st data dataOk ctlOk q r =
    applyMem (freeTag (responseSeen s st ctlOk q r) tag) r none tag (if ctlOk && (r.write || dataOk) then st else 0) := by
  unfold memTaken
  dsimp only
  rw [if_neg ho, if_pos hagain, if_neg (Nat.not_lt.mpr hf), memOutcome_free hser]
  rfl
end

/-- Which responses are repeated (R52, R54; assumption 28). -/
theorem respAgain_of {r : MemReq} {st : Nat} {dataOk ctlOk : Bool}
    (h : ctlOk = false ∨ (r.write = false ∧ dataOk = false ∧ st = 0) ∨ (st ≠ 0 ∧ st ≠ 1 ∧ st ≠ 4)) :
    respAgain r st dataOk ctlOk = true := by
  unfold respAgain respFaults
  rcases h with h | ⟨hw, hd, hs⟩ | ⟨h0, h1, h4⟩
  · simp [h]
  · simp [hw, hd, hs]
  · simp [h0, h1, h4]

/-- A response for an outstanding tag, as a command. -/
theorem memoryResponse_taken {s : State} {tag st : Nat} {data : Line} {dataOk ctlOk : Bool} {q : List Nat} {r : MemReq} {P : Blk → Prop}
    (htag : tag < 1024) (hst : st < 8) (hready : fnReady s.blk 2 = true) (hsoft : s.blk.cfg.srst = false)
    (hr : Store.get? s.blk.mem.out tag = some r) (h : P (memTaken s.blk tag st data dataOk ctlOk q r)) :
    Updates (.memoryResponse tag st data dataOk ctlOk q) s P := by
  refine updates_act (exec_memoryResponse tag st data dataOk ctlOk q s) hready ?_
  unfold memResponse
  rw [Nat.mod_eq_of_lt htag, Nat.mod_eq_of_lt hst, hready, hr, srstDrains_of_not hsoft]
  exact h

/-- A response that names no outstanding tag, as a command (R55). -/
theorem memoryResponse_stray {s : State} {tag st : Nat} {data : Line} {dataOk ctlOk : Bool} {q : List Nat} {P : Blk → Prop}
    (htag : tag < 1024) (hready : fnReady s.blk 2 = true) (hr : Store.get? s.blk.mem.out tag = none) (h : P (memStray s.blk tag)) :
    Updates (.memoryResponse tag st data dataOk ctlOk q) s P := by
  refine updates_act (exec_memoryResponse tag st data dataOk ctlOk q s) hready ?_
  unfold memResponse
  rw [Nat.mod_eq_of_lt htag, hready, hr]
  exact h

/-- Settles O37: a response by the branch of `memTaken` that its status and its checks give. That a read with bad data parity and the
status of an error ends without a repeat is the model's choice (assumption 28). -/
theorem memoryPortTransfers : Obligations.MemoryPortTransfers := by
  refine ⟨fun s hlow => ⟨fun hmq => ?_, fun t r hmq => ?_⟩, ?_⟩
  · refine updates_act (exec_memoryRequestTaken s) (awake_of hlow) ?_
    unfold memTake
    rw [hmq]
  · refine updates_act (exec_memoryRequestTaken s) (awake_of hlow) ?_
    unfold memTake
    rw [hmq]
  intro tag st data dataOk ctlOk q s htag hst hready hsoft c freed
  have taken : ∀ {r P}, Store.get? s.blk.mem.out tag = some r → P (memTaken s.blk tag st data dataOk ctlOk q r) → Updates c s P :=
    fun hr h => memoryResponse_taken htag hst hready hsoft hr h
  have hx := fun r : MemReq => contendedOpt s.blk r.ctx q
  have ht := fun r : MemReq => (responseSeen_observed s.blk st ctlOk q r).freeTag tag
  refine ⟨fun hr => memoryResponse_stray htag hready hr ⟨_, Observed.ev0 _ 0x130, onlyReg_or _ rPortFault 2 (by decide)⟩,
    fun r hr ho => taken hr ?_, fun r hr ho hser => ⟨fun hctl h0 hdata => taken hr ?_, fun hctl hfault => taken hr ?_, fun hbad => ?_⟩⟩
  · rw [memTaken_orphaned ho]
    exact ⟨_, _, _, hx r, ht r, counted_bump _ _, Observed.evN _ _ _ _⟩
  · rw [memTaken_ok ho hser hctl h0 hdata]
    exact ⟨_, _, hx r, ht r, rfl⟩
  · rw [memTaken_fault ho hser hctl hfault]
    exact ⟨_, _, hx r, ht r, rfl⟩
  · have hagain := respAgain_of hbad
    intro last
    have hlast : (if ctlOk && (r.write || dataOk) then st else 0) = last := by simp [last]
    refine ⟨fun hf => taken hr ?_, fun hf => taken hr ?_⟩
    · rw [memTaken_again ho hagain hf, hlast]
      exact ⟨_, hx r, ((ht r).waits _).trans (Observed.ev0 _ 0x131)⟩
    · rw [memTaken_abandoned ho hser hagain hf, hlast]
      exact ⟨_, _, hx r, ht r, rfl⟩

end Sys2Proof.Machine

/-! Proofs. Answers and reply timers (O38). -/
namespace Sys2Proof.Machine

/-! ## Answers that end nothing -/

/-- An ANSWER of several flits is dropped (R58). -/
theorem inAnswer_long {fl : Nat} (h : 1 < fl) (s : Blk) (rqid code : Nat) (ok : Bool) (q : List Nat) :
    inAnswer s rqid code ok fl q = ev0 (evN s 0x118 none (max 1 fl)) 0x11d := by
  unfold inAnswer
  dsimp only
  rw [if_pos h]

section
variable {s : Blk} {rqid code fl : Nat} {q : List Nat} (hfl : fl ≤ 1)
include hfl

/-- An ANSWER with bad parity sets BLK_PORT_FAULT.FAB (R60). -/
theorem inAnswer_badParity : inAnswer s rqid code false fl q = orBits (evN s 0x118 none (max 1 fl)) rPortFault 4 := by
  unfold inAnswer
  dsimp only
  rw [if_neg (Nat.not_lt.mpr hfl), if_pos (by rfl)]

/-- An ANSWER of a reserved code, or that fits no waiting request, is late (R267, R272; assumption 25). -/
theorem inAnswer_late (hrqid : rqid < 2 ^ 16)
    (h : code > 10 ∨ ∀ e, Store.get? s.xch.out (rqid % 4096) = some e → e.stamp ≠ rqid / 4096 ∨ e.phase ≠ .waiting) :
    inAnswer s rqid code true fl q = lateAnswer (evN s 0x118 none (max 1 fl)) := by
  unfold inAnswer
  dsimp only
  rw [if_neg (Nat.not_lt.mpr hfl), if_neg (by decide)]
  split
  · rfl
  · next hcode =>
    have hx : (evN s 0x118 none (max 1 fl)).xch = s.xch := evN_xch _ _ _ _
    rw [hx]
    split
    · rfl
    · next e he =>
      rw [if_pos]
      rw [Nat.mod_eq_of_lt (show rqid / 4096 < 16 by omega)]
      simpa using h.resolve_left hcode e he

/-- An ANSWER that fits a waiting request is dropped where nobody wants it, and taken otherwise (R272, R273, R279). -/
theorem inAnswer_fits (hrqid : rqid < 2 ^ 16) (hcode : code ≤ 10) {e : OutEntry} (he : Store.get? s.xch.out (rqid % 4096) = some e)
    (hstamp : e.stamp = rqid / 4096) (hph : e.phase = .waiting) :
    ∃ t, Observed s t ∧ inAnswer s rqid code true fl q =
      let x := contested t e.req.srcCtx q
      if answerUnwanted x e.req then dropAnswer x (rqid % 4096) e.req else takeAnswer x (rqid % 4096) code := by
  refine ⟨ev (evN s 0x118 none (max 1 fl)) 0x115 e.req.srcCtx, (Observed.evN _ _ _ _).trans (Observed.ev _ _ _), ?_⟩
  have hx : (evN s 0x118 none (max 1 fl)).xch = s.xch := evN_xch _ _ _ _
  unfold inAnswer
  dsimp only
  rw [if_neg (Nat.not_lt.mpr hfl), if_neg (by decide), if_neg (Nat.not_lt.mpr hcode), hx, he]
  dsimp only
  rw [Nat.mod_eq_of_lt (show rqid / 4096 < 16 by omega), if_neg (by simp [hstamp, hph])]
end

/-- A late answer is counted (R272). -/
theorem lateAnswer_counted (t : Blk) : ∃ u, Counted t u rLateAnswer ∧ Observed u (lateAnswer t) :=
  ⟨_, counted_bump t _, Observed.ev0 _ _⟩

/-! ## Answers taken -/

/-- What an outcome adds for its request's owner is observation and a piece of the cascade (R273). -/
theorem refusalTaken_observed (s : Blk) (r : FReq) (code rqid : Nat) : Observed s (refusalTaken s r code rqid) := by
  unfold refusalTaken traceRefusal
  split
  · exact Observed.ev _ _ _
  · exact (Observed.ev _ _ _).trans (Observed.trace _ _ _ _)

/-- A contended grant leaves the Exchange alone. -/
theorem Contended.xch {s t : Blk} {x : Nat} {ws : List Nat} (h : Contended s t x ws) : t.xch = s.xch := by rw [h.rest]

theorem Observed.xch {s t : Blk} (h : Observed s t) : t.xch = s.xch := by rw [h.rest]

theorem Observed.gen {s t : Blk} (h : Observed s t) (c : Nat) : ctxGen t c = ctxGen s c := by
  unfold ctxGen slotOf
  rw [h.rest]

/-- Whether an answer is wanted still: of the current generation, and not quiesced by force (R279, R316). -/
theorem answerUnwanted_iff {s : Blk} {r : FReq} : answerUnwanted s r = true ↔ r.orphan = true ∨ r.srcGen ≠ ctxGen s r.srcCtx := by
  unfold answerUnwanted
  simp

section
variable {x : Blk} {i code : Nat} {e : OutEntry} (he : Store.get? x.xch.out i = some e)
include he

/-- An answer that decides its request ends it, and its owner has the code (R273). -/
theorem takeAnswer_ends (hp : code ≠ kParity) (hg : code ≠ kGap) :
    ∃ u, Observed (endOut x i) u ∧ takeAnswer x i code = push u [.answered e.req code false] := by
  refine ⟨_, refusalTaken_observed _ e.req code (rqidOf i e), ?_⟩
  unfold takeAnswer outcome
  simp only [he, if_neg hp, if_neg hg]

/-- After NK_PARITY a request is to be offered again, three times (R273). -/
theorem takeAnswer_again (ht : e.parityTries < 3) :
    Observed (setOut x i { e with phase := .again, parityTries := e.parityTries + 1 }) (takeAnswer x i kParity) := by
  unfold takeAnswer
  simp only [he, if_pos ht, ↓reduceIte]
  exact refusalTaken_observed _ _ _ _

/-- After the third repeat NK_PARITY ends its request as timed out, with fault 0x20 (R273). -/
theorem takeAnswer_lost (ht : 3 ≤ e.parityTries) :
    ∃ u, Observed (endOut (pairLost (ctxFault x e.req.srcCtx uXch 0x20 (parityDetail i e)) e.req.dst e.pseq) i) u ∧
      takeAnswer x i kParity = push u [.answered e.req kTimeout false] := by
  refine ⟨_, refusalTaken_observed _ e.req kParity (rqidOf i e), ?_⟩
  unfold takeAnswer outcome
  simp only [he, if_neg (Nat.not_lt.mpr ht), ↓reduceIte]
end

/-- The place of a lost request in its fault's DETAIL (R392). -/
theorem parityDetail_eq {rqid : Nat} {e : OutEntry} (hrqid : rqid < 2 ^ 16) (hstamp : e.stamp = rqid / 4096) :
    parityDetail (rqid % 4096) e =
      mkDetail (0x21 * 2 ^ 56 + e.req.dst % 2 ^ 21) (e.req.body.ty % 64 * 2 ^ 16 + rqid) 0 := by
  have hid : rqidOf (rqid % 4096) e = rqid := by
    unfold rqidOf
    rw [hstamp]
    omega
  have hput : put rqid 15 0 = rqid := by rw [put_le (v := rqid) (hi := 15) (lo := 0) hrqid, Nat.pow_zero, Nat.mul_one]
  unfold parityDetail
  rw [hid, hput]
  simp [put, Nat.shiftLeft_eq]

/-- An answer that nobody wants is counted, as late too where its generation is gone (R279, R316; assumption 25). -/
theorem dropAnswer_counts (x : Blk) (i : Nat) (r : FReq) : ∃ u v y,
    (if r.srcGen = ctxGen x r.srcCtx then u = x else ∃ y, Counted x y rLateAnswer ∧ Observed y u) ∧
    Counted u v rLateFab ∧ Observed v y ∧ dropAnswer x i r = endOut y i := by
  unfold dropAnswer
  by_cases h : r.srcGen = ctxGen x r.srcCtx
  · rw [if_neg (not_not_intro h)]
    exact ⟨x, _, _, by rw [if_pos h], counted_bump _ _, Observed.ev _ _ _, rfl⟩
  · rw [if_pos h]
    exact ⟨_, _, _, by rw [if_neg h]; exact ⟨_, counted_bump _ _, Observed.ev0 _ 0x110⟩, counted_bump _ _, Observed.ev _ _ _, rfl⟩

/-! ## Reply timers -/

/-- A reply timer that has passed ends its request with NK_TIMEOUT (R272). -/
theorem timeoutOut_eq {x : Blk} {i : Nat} {e : OutEntry} (he : Store.get? x.xch.out i = some e) : ∃ t u v,
    Counted x t rTimeouts ∧ Observed t u ∧ Observed (endOut (pairLost u e.req.dst e.pseq) i) v ∧
    timeoutOut x i = push v [.answered e.req kTimeout true] := by
  refine ⟨_, _, _, counted_bump x rTimeouts, Observed.ev _ 0x10a e.req.srcCtx, refusalTaken_observed _ e.req kTimeout (rqidOf i e), ?_⟩
  unfold timeoutOut outcome
  simp only [he]
  rfl

theorem replyExpiry_due {s : Blk} {i : Nat} {e : OutEntry} (he : Store.get? s.xch.out i = some e) (hph : e.phase = .waiting)
    (hu : s.time.usable = true) (hd : e.deadline ≤ now s) (q : List Nat) :
    replyExpiry s i q = timeoutOut (contested s e.req.srcCtx q) i := by
  unfold replyExpiry
  simp [he, hph, hu, hd]

theorem replyExpiry_early {s : Blk} {i : Nat} {e : OutEntry} (he : Store.get? s.xch.out i = some e)
    (h : e.phase ≠ .waiting ∨ s.time.usable = false ∨ now s < e.deadline) (q : List Nat) : replyExpiry s i q = s := by
  unfold replyExpiry
  simp only [he]
  rw [if_neg]
  rcases h with h | h | h
  · simp [h]
  · simp [h]
  · simp [Nat.not_le.mpr h]

/-- Settles O38: an ANSWER by the checks of `inAnswer` in their order, a reply timer by `replyExpiry`. The counters of a reserved code and
of an answer for an old generation are the model's choice (assumption 25). -/
theorem answersEndRequests : Obligations.AnswersEndRequests := by
  intro src rqid code fl q s hrqid hcode hready i c
  have upd : ∀ {ok} {P : Blk → Prop}, P (inAnswer s.blk rqid code ok fl q) → Updates (c ok) s P := by
    intro ok P h
    refine updates_act (exec_answer src rqid code ok fl q s) (answers_of (.inl hready)) ?_
    rw [show rqid % 65536 = rqid from Nat.mod_eq_of_lt hrqid, Nat.mod_eq_of_lt hcode]
    exact h
  refine ⟨fun hfl ok => upd ?_, fun hfl => upd ?_, fun hfl hlate => upd ?_, fun e hfl hc he hstamp hph => ?_,
    fun e he hph hu hd => updates_act (exec_replyTimerExpiry i q s) hready ?_,
    fun e he hearly => updates_act (exec_replyTimerExpiry i q s) hready (replyExpiry_early he hearly q)⟩
  · rw [inAnswer_long hfl]
    exact (Observed.evN _ _ _ _).trans (Observed.ev0 _ _)
  · rw [inAnswer_badParity hfl]
    exact ⟨_, Observed.evN _ _ _ _, onlyReg_or _ rPortFault 4 (by decide)⟩
  · rw [inAnswer_late hfl hrqid hlate]
    obtain ⟨u, hcount, hobs⟩ := lateAnswer_counted (evN s.blk 0x118 none (max 1 fl))
    exact ⟨_, u, Observed.evN _ _ _ _, hcount, hobs⟩
  · obtain ⟨t, ht, heq⟩ := inAnswer_fits (q := q) hfl hrqid hc he hstamp hph
    have hx := contended t e.req.srcCtx q
    have hgen : ctxGen (contested t e.req.srcCtx q) e.req.srcCtx = ctxGen s.blk e.req.srcCtx := (hx.gen _).trans (ht.gen _)
    have hex : Store.get? (contested t e.req.srcCtx q).xch.out i = some e := by rw [hx.xch, ht.xch]; exact he
    refine ⟨fun hun => upd ?_, fun horph hsame => ?_⟩
    · obtain ⟨u, v, y, hlate, hfab, hobs, hdrop⟩ := dropAnswer_counts (contested t e.req.srcCtx q) i e.req
      rw [heq]
      dsimp only
      rw [if_pos (answerUnwanted_iff.mpr (by rw [hgen]; exact hun)), hdrop]
      rw [hgen] at hlate
      exact ⟨t, _, u, v, ht, hx, hlate, hfab, y, hobs, rfl⟩
    · have htake : inAnswer s.blk rqid code true fl q = takeAnswer (contested t e.req.srcCtx q) i code := by
        rw [heq]
        dsimp only
        rw [if_neg]
        rw [answerUnwanted_iff, hgen]
        simp [horph, hsame]
      refine ⟨fun hp hg => upd ?_, fun hp htries => upd ?_, fun hp htries => upd ?_⟩ <;> rw [htake]
      · obtain ⟨u, hobs, hend⟩ := takeAnswer_ends hex hp hg
        exact ⟨t, _, u, ht, hx, hobs, hend⟩
      · rw [hp]
        exact ⟨t, _, ht, hx, takeAnswer_again hex htries⟩
      · rw [hp]
        obtain ⟨u, hobs, hend⟩ := takeAnswer_lost hex htries
        rw [parityDetail_eq hrqid hstamp] at hobs
        exact ⟨t, _, _, u, ht, hx, rfl, hobs, hend⟩
  · rw [replyExpiry_due he hph hu hd]
    have hx := contended s.blk e.req.srcCtx q
    obtain ⟨t, u, v, hcount, hobs, hend, hout⟩ := timeoutOut_eq (x := contested s.blk e.req.srcCtx q) (i := i) (by rw [hx.xch]; exact he)
    exact ⟨_, t, u, v, hx, hcount, hobs, hend, hout⟩

end Sys2Proof.Machine

/-! Proofs. Flow and order on the fabric (O39): what stands at the pins, order holds, the reorder window, repeated offers. -/
namespace Sys2Proof.Machine

/-! ## Parity at the pins -/

/-- An odd number of ones, as a count (R37). -/
theorem oddOnes_eq (w n : Nat) : oddOnes w n = decide ((List.range w).countP (fun i => n.testBit i) % 2 = 1) := by
  unfold oddOnes
  induction w with
  | zero => rfl
  | succ w ih =>
    rw [List.range_succ, List.foldl_append, ih, List.countP_append]
    cases h : n.testBit w
    · simp [h]
    · rcases Nat.mod_two_eq_zero_or_one ((List.range w).countP (fun i => n.testBit i)) with h2 | h2 <;> simp [h, Nat.add_mod, h2]

/-- A number given by its bits: it fits them, and shows each. -/
theorem testBit_sumBits (f : Nat → Bool) (k : Nat) :
    sum ((List.range k).map (fun i => b2n (f i) * 2 ^ i)) < 2 ^ k ∧
    ∀ i < k, (sum ((List.range k).map (fun i => b2n (f i) * 2 ^ i))).testBit i = f i := by
  induction k with
  | zero => exact ⟨Nat.one_pos, fun i h => absurd h (Nat.not_lt_zero i)⟩
  | succ k ih =>
    obtain ⟨hlt, hbit⟩ := ih
    have hb : b2n (f k) ≤ 1 := by unfold b2n; split <;> decide
    have hs : sum ((List.range (k + 1)).map (fun i => b2n (f i) * 2 ^ i)) =
        2 ^ k * b2n (f k) + sum ((List.range k).map (fun i => b2n (f i) * 2 ^ i)) := by
      rw [sum_eq, sum_eq, List.range_succ, List.map_append, List.sum_append]
      simp [Nat.add_comm, Nat.mul_comm]
    rw [hs]
    refine ⟨?_, fun i hi => ?_⟩
    · have := Nat.mul_le_mul_left (2 ^ k) hb
      omega
    · rw [Nat.testBit_two_pow_mul_add _ hlt]
      split
      · next h => exact hbit i h
      · obtain rfl : i = k := by omega
        cases f i <;> simp [b2n]

/-- The parity bits that the block drives make each word of 32 bits even (R37). -/
theorem evenParity_parityBits (k d : Nat) : EvenParity k d (parityBits k d) := by
  intro i hi
  have hbit : (parityBits k d).testBit i = oddOnes 32 (d / 2 ^ (32 * i)) :=
    (testBit_sumBits (fun i => oddOnes 32 (d / 2 ^ (32 * i))) k).2 i hi
  have hcount : (List.range 32).countP (fun j => (d / 2 ^ (32 * i)).testBit j) = (List.range 32).countP (fun j => d.testBit (32 * i + j)) := by
    congr 1
    funext j
    rw [Nat.testBit_div_two_pow, Nat.add_comm]
  rw [hbit, oddOnes_eq, hcount]
  rcases Nat.mod_two_eq_zero_or_one ((List.range 32).countP (fun j => d.testBit (32 * i + j))) with h | h
  · simp [h]
  · simp [h, Nat.add_mod]

/-- The routing header by its fields (R57). -/
theorem hdrWord_eq (src dst ty : Nat) (last : Bool) : hdrWord src dst ty last =
    src % 2 ^ 21 + dst % 2 ^ 21 * 2 ^ 21 + ty % 64 * 2 ^ 42 + if last then 2 ^ 48 else 0 := by
  have hl : put (b2n last) 48 48 = if last then 2 ^ 48 else 0 := by cases last <;> rfl
  unfold hdrWord
  rw [hl]
  simp only [put, Nat.shiftLeft_eq]
  omega

/-- The flit of an answer by its fields (R271). -/
theorem answerFlit_eq (a : Answer) : answerFlit a = a.code % 16 * 2 ^ 92 + a.rqid % 2 ^ 16 * 2 ^ 96 := by
  unfold answerFlit
  simp only [put, Nat.shiftLeft_eq]
  omega

/-- The flit that stands at FQO (R57, R58). -/
theorem drives_fqo {s : Blk} {i n : Nat} {e : OutEntry} (hq : s.ports.fqo = some (i, n)) (he : Store.get? s.xch.out i = some e) :
    drives s .fqo = flitPins (hdrWord (ownDie s) e.req.dst e.req.body.ty (n == 1)) ((flitsOf s i e).getD ((flitsOf s i e).length - n) 0) := by
  unfold drives fqoPins
  simp only [hq, he]

/-- The flit that stands at FPO (R57, R271). -/
theorem drives_fpo {s : Blk} {a : Answer} (h : s.ports.fpo = some a) :
    drives s .fpo = flitPins (hdrWord (ownDie s) a.dst 0x3f true) (answerFlit a) := by
  unfold drives fpoPins
  simp only [h]

/-! ## Order -/

/-- A held request whose time has passed is answered NK_ORDER_GAP (R276). -/
theorem holdExpiry_due {s : Blk} {src pseq : Nat} {h : HeldMsg} (hh : heldAt s src pseq = some h) (hu : s.time.usable = true)
    (hd : h.deadline ≤ now s) : holdExpiry s src pseq = answerGap { s with xch := { s.xch with hold := s.xch.hold.erase h } } h.m := by
  unfold holdExpiry
  simp [hh, hu, hd]

theorem holdExpiry_early {s : Blk} {src pseq : Nat} {h : HeldMsg} (hh : heldAt s src pseq = some h)
    (hd : s.time.usable = false ∨ now s < h.deadline) : holdExpiry s src pseq = s := by
  unfold holdExpiry
  simp only [hh]
  rw [if_neg]
  rcases hd with hd | hd
  · simp [hd]
  · simp [Nat.not_le.mpr hd]

theorem windowClose_due {s : Blk} {e : Nat} (hw : s.xch.winEnd = some e) (hu : s.time.usable = true) (hd : e ≤ now s) :
    windowClose s = { s with xch := { s.xch with winEnd := none } } := by
  unfold windowClose
  simp [hw, hu, hd]

theorem windowClose_early {s : Blk} {e : Nat} (hw : s.xch.winEnd = some e) (hd : s.time.usable = false ∨ now s < e) :
    windowClose s = s := by
  unfold windowClose
  simp only [hw]
  rw [if_neg]
  rcases hd with hd | hd
  · simp [hd]
  · simp [Nat.not_le.mpr hd]

theorem Observed.now {s t : Blk} (h : Observed s t) : now t = now s := by unfold Machine.now; rw [h.rest]

/-- An Exchange that is written goes along with observation. -/
theorem Observed.withXch {s t : Blk} (h : Observed s t) (x : Xch) : Observed { s with xch := x } { t with xch := x } where
  rest := by rw [h.rest]
  regs := h.regs
  words := h.words

/-- Ports that are written go along with observation. -/
theorem Observed.withPorts {s t : Blk} (h : Observed s t) (p : Ports) : Observed { s with ports := p } { t with ports := p } where
  rest := by rw [h.rest]
  regs := h.regs
  words := h.words

theorem Observed.ports {s t : Blk} (h : Observed s t) : t.ports = s.ports := by rw [h.rest]

/-- A notice of the epoch in force changes nothing (R62). -/
theorem takeEpoch_same {s : Blk} {epoch : Nat} (h : epoch % 2 = s.xch.epoch) : Observed s (takeEpoch s epoch) := by
  have ho := Observed.ev0 s 0x11a
  unfold takeEpoch
  dsimp only
  rw [if_pos (by rw [ho.xch]; exact h)]
  exact ho.trans (Observed.ev0 _ _)

/-- A notice of a new epoch opens the reorder window (R276). -/
theorem takeEpoch_new {s : Blk} {epoch : Nat} (h : epoch % 2 ≠ s.xch.epoch) : Observed { s with xch := { s.xch with
    epoch := epoch % 2, winEnd := some (now s + rgf s rOrderWin 9 0 * 1000) } } (takeEpoch s epoch) := by
  have ho := Observed.ev0 s 0x11a
  unfold takeEpoch
  dsimp only
  rw [if_neg (by rw [ho.xch]; exact h), ho.xch, ho.now, rgf_unit ho.regs (by decide)]
  exact ho.withXch _

/-! ## Flits taken -/

/-- A flit that is not the last of its message leaves FQO (R58). -/
theorem fqoTaken_more {s : Blk} {i n : Nat} (hq : s.ports.fqo = some (i, n)) (hn : 1 < n) :
    Observed { s with ports := { s.ports with fqo := some (i, n - 1) } } (fqoTaken s) := by
  have ho := Observed.ev0 s 0x117
  unfold fqoTaken
  simp only [hq]
  rw [if_pos hn, ho.ports]
  exact ho.withPorts _

/-- The last flit of a request starts its reply timer (R272). -/
theorem fqoTaken_last {s : Blk} {i n : Nat} {e : OutEntry} (hq : s.ports.fqo = some (i, n)) (he : Store.get? s.xch.out i = some e)
    (hn : n ≤ 1) : Observed { s with
      ports := { s.ports with fqo := none }
      xch := { s.xch with out := Store.set s.xch.out i { e with
                                   phase := .waiting, since := now s
                                   deadline := now s + rgf s rReplyTimer 9 0 * 1000 } } } (fqoTaken s) := by
  have ho := Observed.ev0 s 0x117
  have hw : ∀ p x, rgf { ev0 s 0x117 with ports := p, xch := x } rReplyTimer 9 0 = rgf s rReplyTimer 9 0 :=
    fun _ _ => rgf_unit ho.regs (by decide) 9 0
  have hnow : ∀ p x, now { ev0 s 0x117 with ports := p, xch := x } = now s := fun _ _ => ho.now
  unfold fqoTaken setOut
  simp only [hq, ho.ports, ho.xch, he]
  rw [if_neg (Nat.not_lt.mpr hn), hw, hnow]
  exact (ho.withPorts { s.ports with fqo := none }).withXch _

/-- The flit of an answer leaves FPO (R58). -/
theorem fpoTaken_observed {s : Blk} {a : Answer} (h : s.ports.fpo = some a) :
    Observed { s with ports := { s.ports with fpo := none } } (fpoTaken s) := by
  unfold fpoTaken
  rw [h]
  exact Observed.ev0 _ _

/-! ## Repeated offers -/

/-- Which dies are fenced depends on the entries of PEER_STATE alone (R326). -/
theorem peerFenced_wr (s : Blk) {k : Nat} (v : Nat) (hk : k % 0x1000000 ≠ rPeerEnt) (d : Nat) : peerFenced (wr s k v) d = peerFenced s d := by
  have key : ∀ b : Blk, peerFenced b d = (b.regs.filter (fun p => p.1 % 0x1000000 == rPeerEnt)).any (fun p => entFences p.2 d) := by
    intro b
    rw [List.any_filter]
    rfl
  rw [key, key]
  congr 1
  exact filter_put (f := fun j => j % 0x1000000 == rPeerEnt) _ s.regs k _ (by simpa using hk)

/-- A repeated offer that is due is counted (R112). -/
def retryTaken (s : Blk) (i : Nat) (t : Retry) : Blk :=
  ev (bump { s with xch := { s.xch with retries := s.xch.retries.eraseIdx i } } rSveRetry) 0xdd t.ctx

theorem retryTaken_counted (s : Blk) (i : Nat) (t : Retry) : ∃ u,
    Counted { s with xch := { s.xch with retries := s.xch.retries.eraseIdx i } } u rSveRetry ∧ Observed u (retryTaken s i t) :=
  ⟨_, counted_bump _ _, Observed.ev _ _ _⟩

theorem peerFenced_retryTaken (s : Blk) (i : Nat) (t : Retry) (d : Nat) : peerFenced (retryTaken s i t) d = peerFenced s d :=
  (peerFenced_words (Observed.ev _ _ _).words d).trans (peerFenced_wr _ _ (by decide) d)

theorem retryOffer_early {s : Blk} {i : Nat} {t : Retry} (h : s.xch.retries[i]? = some t) (hd : s.time.usable = false ∨ now s < t.due) :
    retryOffer s i = s := by
  unfold retryOffer
  simp only [h]
  rw [if_pos]
  rcases hd with hd | hd
  · simp [hd]
  · simp [Nat.not_le.mpr hd]

section
variable {s : Blk} {i : Nat} {t : Retry} (h : s.xch.retries[i]? = some t) (hu : s.time.usable = true) (hd : t.due ≤ now s) {r : FReq}
include h hu hd

/-- A local message is offered again inside the block, as a request that comes (R112). -/
theorem retryOffer_local (hw : t.what = .localMsg r) : retryOffer s i = push (retryTaken s i t) [.fabReq r] := by
  unfold retryOffer
  simp only [h]
  rw [if_neg (by simp [hu, hd]), hw]
  rfl

/-- A request to a die that is not fenced waits for FQO again, before the others (R112). -/
theorem retryOffer_fabric (hw : t.what = .fabric r) (hp : peerFenced s r.dst = false) : retryOffer s i =
    { retryTaken s i t with xch := { (retryTaken s i t).xch with waitq := r :: (retryTaken s i t).xch.waitq } } := by
  have hpr := (peerFenced_retryTaken s i t r.dst).trans hp
  unfold retryTaken at hpr
  unfold retryOffer
  simp only [h]
  rw [if_neg (by simp [hu, hd]), hw]
  dsimp only
  rw [hpr]
  rfl
end

/-- Settles O39, command by command; the flits at the pins by their fields, with the parity bits that make every word even. -/
theorem fabricKeepsOrderAndFlow : Obligations.FabricKeepsOrderAndFlow := by
  intro s hready hlow
  refine ⟨fun src pseq h hh => ⟨fun hu hd => ?_, fun hd => ?_⟩, fun e hw => ⟨fun hu hd => ?_, fun hd => ?_⟩,
    fun epoch => ⟨fun he => ?_, fun he => ?_⟩, fun on => ⟨?_, ?_⟩,
    fun i n e hq he => ⟨fun hn => ?_, fun hn => ?_⟩, fun a ha => ?_,
    fun i n e hq he => ⟨_, _, ?_, evenParity_parityBits _ _, evenParity_parityBits _ _⟩,
    fun a ha => ⟨_, _, ?_, evenParity_parityBits _ _, evenParity_parityBits _ _⟩,
    fun i t ht => ⟨fun hd => ?_, fun hu hd => ⟨fun r hw => ?_, fun r hw hp => ?_⟩⟩⟩
  · refine updates_act (exec_orderHoldExpiry src pseq s) hready ?_
    rw [holdExpiry_due hh hu hd]
    exact answers_give _ _ _ _ _ _
  · exact updates_act (exec_orderHoldExpiry src pseq s) hready (holdExpiry_early hh hd)
  · exact updates_act (exec_orderWindowClose s) hready (windowClose_due hw hu hd)
  · exact updates_act (exec_orderWindowClose s) hready (windowClose_early hw hd)
  · exact updates_act (exec_epochNotice epoch s) (answers_of (.inl hready)) (takeEpoch_same he)
  · exact updates_act (exec_epochNotice epoch s) (answers_of (.inl hready)) (takeEpoch_new he)
  · exact updates_act (exec_fabricXoff .fqo on s) rfl rfl
  · exact updates_act (exec_fabricXoff .fpo on s) rfl rfl
  · exact updates_act (exec_fabricFlitTaken .fqo s) (awake_of hlow) (fqoTaken_more hq hn)
  · exact updates_act (exec_fabricFlitTaken .fqo s) (awake_of hlow) (fqoTaken_last hq he hn)
  · exact updates_act (exec_fabricFlitTaken .fpo s) (awake_of hlow) (fpoTaken_observed ha)
  · rw [drives_fqo hq he, hdrWord_eq]
    simp only [beq_iff_eq]
    rfl
  · rw [drives_fpo ha, hdrWord_eq, answerFlit_eq]
    rfl
  · exact updates_act (exec_retryOffer i s) hready (retryOffer_early ht hd)
  · refine updates_act (exec_retryOffer i s) hready ?_
    obtain ⟨u, hcount, hobs⟩ := retryTaken_counted s.blk i t
    exact ⟨u, _, hcount, hobs, retryOffer_local ht hu hd hw⟩
  · refine updates_act (exec_retryOffer i s) hready ?_
    obtain ⟨u, hcount, hobs⟩ := retryTaken_counted s.blk i t
    exact ⟨u, _, hcount, hobs, retryOffer_fabric ht hu hd hw hp⟩

end Sys2Proof.Machine

/-! Proofs. Arrivals and closes at a joint (O41). -/
namespace Sys2Proof.Machine

/-! ## Arrivals and closes at a joint -/

/-- What counts an arrival before the joint's word is stored (R340). -/
def arrivalSeen (s : Blk) (x : Joint) (dead : Bool) : Blk :=
  if dead then ev (ev s 0x6f x.ctx) 0x70 x.ctx else ev s 0x6f x.ctx

theorem arrivalSeen_observed (s : Blk) (x : Joint) (dead : Bool) : Observed s (arrivalSeen s x dead) := by
  unfold arrivalSeen
  split
  · exact (Observed.ev _ _ _).trans (Observed.ev _ _ _)
  · exact Observed.ev _ _ _

/-- The word of a joint after an arrival that is taken (R103). -/
def arrived (w : JWord) (dead : Bool) : JWord :=
  { (if w.isOpen then { w with count := w.count + 1 } else { w with count := w.count - 1, fired := w.count ≤ 1 }) with
    deadSeen := w.deadSeen || dead }

/-- The word of a joint after a close that is taken, which awaits t arrivals in all (R103). -/
def closed (w : JWord) (t : Nat) : JWord := { w with count := t - w.count, isOpen := false, fired := t == w.count }

theorem arrived_open {w : JWord} (ho : w.isOpen = true) (dead : Bool) :
    arrived w dead = { w with deadSeen := w.deadSeen || dead, count := w.count + 1 } := by
  unfold arrived
  rw [if_pos ho]

theorem arrived_closed {w : JWord} (hf : w.fired = false) (ho : w.isOpen = false) (hc : 1 < w.count) (dead : Bool) :
    arrived w dead = { w with deadSeen := w.deadSeen || dead, count := w.count - 1 } := by
  have hle : decide (w.count ≤ 1) = w.fired := by rw [hf]; exact decide_eq_false (Nat.not_le.mpr hc)
  unfold arrived
  rw [if_neg (Bool.eq_false_iff.mp ho), hle]

theorem arrived_last {w : JWord} (ho : w.isOpen = false) (hc : w.count = 1) (dead : Bool) :
    arrived w dead = { w with deadSeen := w.deadSeen || dead, count := 0, fired := true } := by
  unfold arrived
  rw [if_neg (Bool.eq_false_iff.mp ho), hc]
  rfl

theorem closed_awaits {w : JWord} {t : Nat} (hf : w.fired = false) (hc : w.count < t) :
    closed w t = { w with count := t - w.count, isOpen := false } := by
  have hne : (t == w.count) = w.fired := by rw [hf]; exact beq_eq_false_iff_ne.mpr (Nat.ne_of_gt hc)
  unfold closed
  rw [hne]

theorem closed_complete {w : JWord} {t : Nat} (hc : w.count = t) : closed w t = { w with count := 0, isOpen := false, fired := true } := by
  unfold closed
  rw [hc, Nat.sub_self, beq_self_eq_true]

/-- A word that has not fired is stored, and that is all (R103). -/
theorem storeJoint_holds {w : JWord} (h : w.fired = false) (s : Blk) (j : Nat) (x : Joint) : storeJoint s j x w = putJoint s j w :=
  if_neg (Bool.eq_false_iff.mp h)

/-- A word that has fired fires its joint once it is stored (R103, R104). -/
theorem storeJoint_fires {w : JWord} (h : w.fired = true) (s : Blk) (j : Nat) (x : Joint) :
    storeJoint s j x w = fire (putJoint s j w) j x w := if_pos h

section
variable {s : Blk} {j : Nat} {x : Joint} {w : JWord} (hj : jointOf s j = some x) (hx : x.read = .good w false)

include hx in
/-- Two good copies that agree are read without a repair (R107). -/
theorem jointRead_good : jointRead s j x = (some w, s) := by
  unfold jointRead
  rw [hx]

include hj hx

/-- `arrive` of R103 on two good copies that agree. -/
theorem arrive_good (dead : Bool) : arrive s j dead =
    if w.fired = true then jointFault s j x w 0x51
    else if (w.isOpen && w.count == 0xffffff) = true then jointFault s j x w 0x52
    else storeJoint (arrivalSeen s x dead) j x (arrived w dead) := by
  unfold arrive
  rw [hj]
  dsimp only
  rw [jointRead_good hx]
  rfl

/-- `close` of R103 on two good copies that agree. -/
theorem closeJoint_good (target : Nat) : closeJoint s j target =
    if (!w.isOpen) = true then jointFault s j x w 0x31
    else if target + closeAdd s j x > 0xffffff then jointFault s j x w 0x52
    else if target + closeAdd s j x < w.count then jointFault s j x w 0x51
    else storeJoint (ev s 0x71 x.ctx) j x (closed w (target + closeAdd s j x)) := by
  unfold closeJoint
  rw [hj]
  dsimp only
  rw [jointRead_good hx]
  rfl

/-- An arrival at a joint that has neither fired nor filled its count is taken (R103). -/
theorem arrive_taken (hf : w.fired = false) (hroom : w.isOpen = true → w.count ≠ 0xffffff) (dead : Bool) :
    arrive s j dead = storeJoint (arrivalSeen s x dead) j x (arrived w dead) := by
  have hno : (w.isOpen && w.count == 0xffffff) = false := by
    cases ho : w.isOpen with
    | false => rfl
    | true => exact beq_eq_false_iff_ne.mpr (hroom ho)
  rw [arrive_good hj hx, if_neg (Bool.eq_false_iff.mp hf), if_neg (Bool.eq_false_iff.mp hno)]

/-- A first close whose target is in range and not passed is taken (R103). -/
theorem closeJoint_taken (ho : w.isOpen = true) {target : Nat} (ht : target + closeAdd s j x ≤ 0xffffff)
    (hc : w.count ≤ target + closeAdd s j x) :
    closeJoint s j target = storeJoint (ev s 0x71 x.ctx) j x (closed w (target + closeAdd s j x)) := by
  rw [closeJoint_good hj hx, ho, if_neg (by decide), if_neg (Nat.not_lt.mpr ht), if_neg (Nat.not_lt.mpr hc)]
end

/-- Settles O41: the branches of `arrive_good` and `closeJoint_good`; a word that is stored fires its joint where its count is met. -/
theorem jointsCountAsR103Says : Obligations.JointsCountAsR103Says := by
  intro s j x w hj hx
  have hseen := arrivalSeen_observed s x
  refine ⟨fun dead => ⟨fun hf => ?_, fun hf ho hc => ?_, fun hf ho hc => ⟨_, hseen dead, ?_⟩, fun hf ho hc => ⟨_, hseen dead, ?_⟩,
      fun hf ho hc => ⟨_, hseen dead, ?_⟩⟩,
    fun target => ⟨fun ho => ?_, fun ho ht => ?_, fun ho ht hc => ?_, fun ho hf ht hc => ⟨_, Observed.ev s 0x71 x.ctx, ?_⟩,
      fun ho ht hc => ⟨_, Observed.ev s 0x71 x.ctx, ?_⟩⟩, fun q hq => ?_⟩
  · rw [arrive_good hj hx, if_pos hf]
  · rw [arrive_good hj hx, if_neg (Bool.eq_false_iff.mp hf), ho, hc, if_pos (by rfl)]
  · rw [arrive_taken hj hx hf (fun _ => hc), arrived_open ho]
    exact storeJoint_holds (by exact hf) _ _ _
  · rw [arrive_taken hj hx hf (fun h => absurd h (Bool.eq_false_iff.mp ho)), arrived_closed hf ho hc]
    exact storeJoint_holds (by exact hf) _ _ _
  · rw [arrive_taken hj hx hf (fun h => absurd h (Bool.eq_false_iff.mp ho)), arrived_last ho hc, storeJoint_fires rfl]
  · rw [closeJoint_good hj hx, ho, if_pos (by rfl)]
  · rw [closeJoint_good hj hx, ho, if_neg (by decide), if_pos ht]
  · rw [closeJoint_good hj hx, ho, if_neg (by decide), if_neg (Nat.not_lt.mpr ht), if_pos hc]
  · rw [closeJoint_taken hj hx ho ht (Nat.le_of_lt hc), closed_awaits hf hc]
    exact storeJoint_holds (by exact hf) _ _ _
  · rw [closeJoint_taken hj hx ho ht (Nat.le_of_eq hc), closed_complete hc, storeJoint_fires rfl]
  · unfold closeAdd
    rw [hq]

end Sys2Proof.Machine

/-! Proofs. ARRIVE and CLOSE at a named node (O29). -/
namespace Sys2Proof.Machine

/-! ## What an admitted request finds -/

section
variable {s t : Blk} {h : FHdr} {sc : Option Nat} {ws : List Nat} (e : Entered s t h sc ws)
include e

theorem Entered.liveLaunch (c ltag : Nat) : liveLaunch t c ltag = liveLaunch s c ltag := by rw [e.rest]; rfl

theorem Entered.scopeNode (l : Launch) (scope node : Nat) : scopeNode t l scope node = scopeNode s l scope node := by rw [e.rest]; rfl

theorem Entered.prunedLate (l : Launch) (die scope node : Nat) : prunedLate t l die scope node = prunedLate s l die scope node := by
  rw [e.rest]; rfl

theorem Entered.early : t.tsk.early = s.tsk.early := by rw [e.rest]

theorem Entered.now : now t = now s := by rw [e.rest]; rfl

/-- Whether an event is foreign to a context is as it was. -/
theorem Entered.foreign (c : Nat) : foreignTo t c = foreignTo s c := by
  have htick : t.ctx.inTick = s.ctx.inTick := by rw [e.rest]
  unfold foreignTo
  rw [e.live, htick]
end

/-! ## Requests at a named node -/

/-- The body of an ARRIVE (`cl` none), or of a CLOSE with a target. -/
def namedBody (scope node : Nat) (cl : Option Nat) (dead : Bool) : FBody :=
  match cl with
  | none => .arrive scope node dead
  | some x => .close x scope node

theorem namedBody_scope (scope node : Nat) (cl : Option Nat) (dead : Bool) : (namedBody scope node cl dead).scope? = some scope := by
  cases cl <;> rfl

/-- ARRIVE and CLOSE are requests with such a body. -/
theorem request_named {c : Instr} {h : FHdr} {scope node : Nat} {cl : Option Nat} {dead : Bool}
    (hc : (c = .arrive h scope node dead ∧ cl = none) ∨ (∃ t, c = .closeRequest h t scope node ∧ cl = some t ∧ dead = false)) :
    ∃ ty, request c = some (h, ty, some (namedBody scope node cl dead)) := by
  rcases hc with ⟨rfl, rfl⟩ | ⟨x, rfl, rfl, -⟩ <;> exact ⟨_, rfl⟩

/-- What such a request does at its context is `namedArrive`; a CLOSE brings no dead arrival (R109). -/
theorem takeBody_named (t : Blk) (src c sctx sgen ltag scope node : Nat) {cl : Option Nat} {dead : Bool} (hd : cl ≠ none → dead = false)
    (f : Word256) :
    takeBody t src c sctx sgen ltag f (namedBody scope node cl dead) = namedArrive t src c ltag scope node cl dead f := by
  cases cl with
  | none => rfl
  | some x => rw [hd (by simp)]; rfl

/-- An ARRIVE or CLOSE that is sound, in turn and welcome does what `namedArrive` does. -/
theorem takes_named {c : Instr} {s : State} {h : FHdr} {scope node : Nat} {cl : Option Nat} {dead : Bool} {P : Blk → Blk → Prop}
    {code : Nat}
    (hc : (c = .arrive h scope node dead ∧ cl = none) ∨ (∃ t, c = .closeRequest h t scope node ∧ cl = some t ∧ dead = false))
    (hs : Sound s.blk h) (ht : InTurn s.blk h) (hw : Welcome s.blk h)
    (key : ∀ t f, Entered s.blk t h (some scope) h.waiting →
      ∃ u, namedArrive t h.src h.dstCtx h.ltag scope node cl dead f = (code, u) ∧ u.xch = t.xch ∧ P t u) :
    Takes c s h (some scope) code P := by
  obtain ⟨ty, hreq⟩ := request_named hc
  have hd : cl ≠ none → dead = false := by
    rcases hc with ⟨-, rfl⟩ | ⟨x, -, -, hd⟩
    · exact fun hne => absurd rfl hne
    · exact fun _ => hd
  rw [← namedBody_scope scope node cl dead] at key ⊢
  refine takes_of hreq hs ht hw fun t e => ?_
  obtain ⟨u, hu, hx, hp⟩ := key t _ e
  exact ⟨u, by rw [takeBody_named t _ _ _ _ _ _ _ hd]; exact hu, by rw [hx], hp⟩

/-- Settles O29: a request that is admitted finds what stood before (`Entered`); then `named_live` and `named_early`. -/
theorem namedRequestsReachTheirJoints : Obligations.NamedRequestsReachTheirJoints := by
  intro c s h scope node cl dead hc hs ht hw
  refine ⟨fun i l n hlive hnode hgate hprune => takes_named hc hs ht hw fun t f e => ?_,
    fun hnone hroom => takes_named hc hs ht hw fun t f e => ?_, fun hnone hfull => takes_named hc hs ht hw fun t f e => ?_⟩
  · refine ⟨_, named_live ((e.liveLaunch _ _).trans hlive) ((e.scopeNode _ _ _).trans hnode) hgate
      fun hcl => (e.prunedLate _ _ _ _).trans (hprune hcl), rfl, ?_⟩
    cases cl <;> rfl
  · refine ⟨_, (named_early ((e.liveLaunch _ _).trans hnone)).trans (if_neg ?_), ?_, f, ?_⟩
    · rw [e.early]
      exact Nat.not_le.mpr hroom
    · exact ev_xch _ _ _
    · rw [e.now, e.foreign]
      exact Observed.ev _ _ _
  · refine ⟨t, (named_early ((e.liveLaunch _ _).trans hnone)).trans (if_pos ?_), rfl, rfl⟩
    rw [e.early]
    exact hfull

end Sys2Proof.Machine

/-! Proofs. The transitions of a task (O33). -/
namespace Sys2Proof.Machine

/-! ## A task that becomes READY -/

/-- A task that is written goes along with observation. -/
theorem Observed.setTask {s t : Blk} (h : Observed s t) (slot : Nat) (k : Task) : Observed (setTask s slot k) (setTask t slot k) where
  rest := by unfold Machine.setTask; rw [h.rest]
  regs := h.regs
  words := h.words

theorem setTask_setTask (s : Blk) (slot : Nat) (k l : Task) : setTask (setTask s slot k) slot l = setTask s slot l := by
  unfold setTask
  dsimp only
  rw [set_set]

/-- Whether a context is ruled is no matter of observation. -/
theorem Observed.ruled {s t : Blk} (h : Observed s t) (c : Nat) : isRuled t c = isRuled s c := isRuled_unit h.regs c

/-- A fault leaves a context's ordering mode (R284, R391). -/
theorem isRuled_ctxFault (s : Blk) (c unit code d x : Nat) : isRuled (ctxFault s c unit code d) x = isRuled s x := by
  obtain ⟨hk, hx, hsaf, hctx⟩ := ordKey x
  unfold isRuled rgb rgw
  rw [ctxFault_rg s c unit code d hk hx hsaf hctx]

section
variable {s : Blk} {slot : Nat} {k : Task} (hk : taskOf s slot = some k)
include hk

/-- A NULL task is DONE as it becomes READY (R100). -/
theorem enterReady_null (hn : k.kind = .null) : enterReady s slot = finishTask s slot .done k.dead := by
  unfold enterReady
  simp [hk, hn]

/-- A READY task that an engine may run is no matter of R136. -/
theorem readyTail_engines (he : eligible s k ≠ []) : readyTail s slot = s := by
  have hsome : (eligible s k).isEmpty = false := by simpa using he
  have hno : noEngine s slot = s := by
    unfold noEngine
    simp [hk, hsome]
  unfold readyTail
  simp [hno, hk, hsome]

/-- A READY task of a free context with no engine that may run it is counted and recorded (R136). -/
theorem readyTail_noEngine (he : eligible s k = []) (hst : k.state = .ready) (hfirst : k.noEngine = false)
    (hfree : isRuled s k.ctx = false) : readyTail s slot =
      ctxFault (ev (bump (setTask s slot { k with noEngine := true }) rNoEngine) 0x7b k.ctx) k.ctx uRdy 0x31 (put slot 16 0) := by
  have hno : noEngine s slot =
      ctxFault (ev (bump (setTask s slot { k with noEngine := true }) rNoEngine) 0x7b k.ctx) k.ctx uRdy 0x31 (put slot 16 0) := by
    unfold noEngine
    simp [hk, he, hst, hfirst, put16]
  have htask : taskOf (noEngine s slot) slot = some { k with noEngine := true } := by
    rw [hno]
    unfold taskOf
    rw [ctxFault_tsk, ev_tsk, bump_tsk]
    exact taskOf_set_same _ _ _
  have hruled : isRuled (noEngine s slot) k.ctx = false := by
    have hord : bank rOrdMode k.ctx ≠ rNoEngine := fun e => by
      have hmod := bank_mod rOrdMode k.ctx (by decide)
      rw [e] at hmod
      exact absurd hmod (by decide)
    rw [hno, isRuled_ctxFault, (Observed.ev _ _ _).ruled, ← hfree]
    unfold isRuled rgb rgw
    rw [(counted_bump _ rNoEngine).others _ hord]
    rfl
  unfold readyTail
  simp only [htask, hruled, Bool.false_and, Bool.false_eq_true, if_false]
  exact hno

/-- A task with an engine that it may run on becomes READY, and nothing more (R100). -/
theorem enterReady_engines (hn : k.kind ≠ .null) (he : eligible s k ≠ []) :
    Observed (setTask s slot { k with state := .ready, mark := markNow s k.ctx }) (enterReady s slot) := by
  obtain ⟨u, hu, heq⟩ := enterReady_tail s slot k _ hk hn rfl
  have htask := (hu.taskOf slot).trans (taskOf_set_same _ _ _)
  rw [heq, readyTail_engines htask]
  · exact hu
  · rw [eligible_obs hu]
    exact he

/-- A task with no engine that it may run on becomes READY, is counted, and its context has fault 0x31 (R136). -/
theorem enterReady_noEngine (hn : k.kind ≠ .null) (he : eligible s k = []) (hfirst : k.noEngine = false)
    (hfree : isRuled s k.ctx = false) : ∃ u v w,
      Observed (setTask s slot { k with state := .ready, mark := markNow s k.ctx, noEngine := true }) u ∧
      Counted u v rNoEngine ∧ Observed v w ∧ enterReady s slot = ctxFault w k.ctx uRdy 0x31 (put slot 16 0) := by
  obtain ⟨u, hu, heq⟩ := enterReady_tail s slot k _ hk hn rfl
  have htask := (hu.taskOf slot).trans (taskOf_set_same _ _ _)
  have hset := hu.setTask slot { k with state := .ready, mark := markNow s k.ctx, noEngine := true }
  rw [setTask_setTask] at hset
  have htail := readyTail_noEngine htask ((eligible_obs hu _).trans he) rfl hfirst ((hu.ruled _).trans hfree)
  exact ⟨_, _, _, hset, counted_bump _ _, Observed.ev _ _ _, heq.trans htail⟩

/-! ## Fires and creation -/

/-- A fire concerns a WAITING task alone (R100). -/
theorem gateFires_settled (hst : k.state ≠ .waiting) : gateFires s slot = s := by
  unfold gateFires
  simp [hk, hst]

/-- A dead fire cancels a task whose node says DEADP (R100). -/
theorem gateFires_dead {j : Nat} (hst : k.state = .waiting) (hj : k.gjoint = some j) (hdead : jointDead s j = true)
    (hnode : (taskNode s k).map nDeadp = some true) : gateFires s slot = finishTask s slot .cancelled true := by
  unfold gateFires
  simp [hk, hst, hj, hdead, hnode]

/-- A task without a delay becomes READY as it starts (R100). -/
theorem startTask_now (hd : k.delay = 0) : startTask s slot = enterReady s slot := by
  unfold startTask
  simp [hk, hd]

/-- A task with a delay is to be DELAYED as it starts (R100). -/
theorem startTask_later (hd : 0 < k.delay) : startTask s slot =
    if s.iss.dly.length < 16384 then takeDelay s slot k
    else ev (bump (setTask s slot { k with state := .waiting, dlyWait := true }) rDlyWaits) 0x79 k.ctx := by
  unfold startTask enterDelayed
  simp [hk, hd]

/-- Any other fire starts its task, which keeps whether the fire was dead (R100). -/
theorem gateFires_starts {j : Nat} (hst : k.state = .waiting) (hj : k.gjoint = some j)
    (hgo : jointDead s j = false ∨ (taskNode s k).map nDeadp = some false) :
    gateFires s slot = startTask (setTask s slot { k with dead := jointDead s j }) slot := by
  have hno : (jointDead s j && ((taskNode s k).map nDeadp).getD false) = false := by
    rcases hgo with h | h <;> simp [h]
  unfold gateFires startTask
  simp only [hk, hst, hj, hno, taskOf_set_same, ne_eq, not_true_eq_false, Bool.false_eq_true, if_false]
end

/-- Settles O33: a final state by `ends_finish`, READY by its tail (`enterReady_tail`), a delay by `delayed_take`. -/
theorem tasksMoveAsR100Says : Obligations.TasksMoveAsR100Says := by
  intro s slot k hk
  refine ⟨fun st dead => ends_finish s slot k st dead hk, fun hn => ?_, enterReady_engines hk, enterReady_noEngine hk,
    gateFires_settled hk, fun j hst hj hdead hnode => ?_, fun j => gateFires_starts hk, startTask_now hk, fun hd hroom => ?_,
    fun hd hfull => ?_⟩
  · rw [enterReady_null hk hn]
    exact ends_finish s slot k .done k.dead hk
  · rw [gateFires_dead hk hst hj hdead hnode]
    exact ends_finish s slot k .cancelled true hk
  · rw [startTask_later hk hd, if_pos hroom]
    exact delayed_take s slot k hroom
  · rw [startTask_later hk hd, if_neg (Nat.not_lt.mpr hfull)]
    exact ⟨_, counted_bump _ _, Observed.ev _ _ _⟩

end Sys2Proof.Machine

/-! Proofs. What comes with time (O40). -/
namespace Sys2Proof.Machine

/-! ## Delay entries that are due -/

/-- The order of release is total (R128). -/
theorem dlyBefore_total (s : Blk) (a b : DlyEntry) : dlyBefore s a b = true ∨ dlyBefore s b a = true := by
  unfold dlyBefore
  simp only [Bool.or_eq_true, Bool.and_eq_true, decide_eq_true_eq, beq_iff_eq]
  omega

/-- The order of release is transitive (R128). -/
theorem dlyBefore_trans (s : Blk) (a b c : DlyEntry) (hab : dlyBefore s a b = true) (hbc : dlyBefore s b c = true) :
    dlyBefore s a c = true := by
  unfold dlyBefore at *
  simp only [Bool.or_eq_true, Bool.and_eq_true, decide_eq_true_eq, beq_iff_eq] at *
  omega

/-- An entry that goes before another has no later release time (R128). -/
theorem release_le_of_dlyBefore {s : Blk} {a b : DlyEntry} (h : dlyBefore s a b = true) : a.release ≤ b.release := by
  unfold dlyBefore at h
  simp only [Bool.or_eq_true, Bool.and_eq_true, decide_eq_true_eq, beq_iff_eq] at h
  omega

/-- While no time is usable, or before the first release time, no entry is due (R127). -/
theorem dlyDue_none {s : Blk} (h : s.time.usable = false ∨ ∀ d ∈ s.iss.dly, now s < d.release) : dlyDue s = none := by
  unfold dlyDue
  rcases h with h | h
  · simp [h]
  · have hnil : s.iss.dly.filter (fun d => decide (d.release ≤ now s)) = [] := by
      simpa [List.filter_eq_nil_iff] using h
    rw [hnil]
    split <;> rfl

/-- The entry that is due first has the least release time of those due (R127, R128). -/
theorem dlyDue_least {s : Blk} (hu : s.time.usable = true) (h : ∃ d ∈ s.iss.dly, d.release ≤ now s) :
    ∃ d, dlyDue s = some d ∧ d ∈ s.iss.dly ∧ d.release ≤ now s ∧
      ∀ x ∈ s.iss.dly, x.release ≤ now s → d.release ≤ x.release := by
  have hmem : ∀ x, x ∈ sortBy (dlyBefore s) (s.iss.dly.filter (fun d => decide (d.release ≤ now s))) ↔
      x ∈ s.iss.dly ∧ x.release ≤ now s := fun x => by
    rw [mem_sortBy, List.mem_filter, decide_eq_true_eq]
  have hsorted := sortBy_sorted (dlyBefore s) (dlyBefore_total s) (dlyBefore_trans s)
    (s.iss.dly.filter (fun d => decide (d.release ≤ now s)))
  unfold dlyDue
  rw [hu]
  cases hl : sortBy (dlyBefore s) (s.iss.dly.filter (fun d => decide (d.release ≤ now s))) with
  | nil =>
    obtain ⟨d, hd⟩ := h
    have hin := (hmem d).mpr hd
    rw [hl] at hin
    exact absurd hin List.not_mem_nil
  | cons d r =>
    rw [hl] at hmem hsorted
    obtain ⟨hin, hdue⟩ := (hmem d).mp (List.mem_cons_self ..)
    refine ⟨d, rfl, hin, hdue, fun x hx hxd => ?_⟩
    rcases List.mem_cons.mp ((hmem x).mpr ⟨hx, hxd⟩) with rfl | hxr
    · exact Nat.le_refl _
    · exact release_le_of_dlyBefore ((List.pairwise_cons.mp hsorted).1 x hxr)

/-- A contended grant leaves which contexts take ruled decisions (R297). -/
theorem Contended.ruledLive {s t : Blk} {x : Nat} {ws : List Nat} (h : Contended s t x ws) (c : Nat) : ruledLive t c = ruledLive s c := by
  have hst : ctxSt t c = ctxSt s c := by
    unfold ctxSt
    rw [h.slots c]
    split <;> rfl
  have hrul : isRuled t c = isRuled s c := by rw [h.rest]; rfl
  unfold Machine.ruledLive
  rw [hst, hrul]

theorem Contended.taskOf {s t : Blk} {x : Nat} {ws : List Nat} (h : Contended s t x ws) (j : Nat) : taskOf t j = taskOf s j := by
  rw [h.rest]; rfl

theorem Observed.ruledLive {s t : Blk} (h : Observed s t) (c : Nat) : ruledLive t c = ruledLive s c := by
  have hst : ctxSt t c = ctxSt s c := by rw [h.rest]; rfl
  unfold Machine.ruledLive
  rw [hst, isRuled_unit h.regs]

/-- An entry that is released gives its place back, and the task of a free context becomes READY (R127). -/
theorem dlyRelease_ready {s : Blk} {d : DlyEntry} {k : Task} (hk : taskOf s d.slot = some k) (hfree : ruledLive s k.ctx = false) :
    ∃ t, Observed { s with iss := { s.iss with dly := s.iss.dly.filter (fun x => x.idx ≠ d.idx) } } t ∧
      dlyRelease s d = enterReady (push t [.dlyFill]) d.slot := by
  have hk' : taskOf { s with iss := { s.iss with dly := s.iss.dly.filter (fun x => x.idx ≠ d.idx) } } d.slot = some k := hk
  have ho := Observed.ev { s with iss := { s.iss with dly := s.iss.dly.filter (fun x => x.idx ≠ d.idx) } } 0x78 k.ctx
  refine ⟨_, ho, ?_⟩
  unfold dlyRelease
  dsimp only
  rw [hk']
  exact if_neg (by rw [show ruledLive (push _ _) k.ctx = _ from ho.ruledLive k.ctx]; exact Bool.eq_false_iff.mp hfree)

/-- The release of the entry that is due first, as a command (R127, R297). -/
theorem delayRelease_updates {s : State} {ws : List Nat} {d : DlyEntry} {k : Task} {P : Blk → Prop} (hready : fnReady s.blk 8 = true)
    (hd : dlyDue s.blk = some d) (hk : taskOf s.blk d.slot = some k) (hp : P (dlyRelease (contested s.blk k.ctx ws) d)) :
    Updates (.delayRelease ws) s P := by
  refine updates_act (exec_delayRelease ws s) hready ?_
  rw [hd]
  dsimp only
  rw [hk]
  exact hp

/-! ## Early arrivals, overruns and sieve runs -/

/-- Before its time has passed no early arrival is dropped (R111). -/
theorem expireEarly_none {b : Blk} (h : b.time.usable = false ∨ ∀ e ∈ b.tsk.early, now b < e.born + earlyTtl b) : expireEarly b = b := by
  have hnone : b.tsk.early.find? (fun e => b.time.usable && decide (now b ≥ e.born + earlyTtl b)) = none := by
    rw [List.find?_eq_none]
    intro e he
    rcases h with h | h
    · simp [h]
    · simp [h e he]
  unfold expireEarly
  rw [hnone]

/-- The oldest early arrival is dropped first (R111). -/
theorem expireEarly_oldest {b : Blk} {e : Early} {r : List Early} (hu : b.time.usable = true) (hl : b.tsk.early = e :: r)
    (hd : e.born + earlyTtl b ≤ now b) : expireEarly b =
      ctxFault (ev (bump { b with tsk := { b.tsk with early := r } } rEarlyDrop) 0x76 e.ctx) e.ctx uTsk 0x51 0 := by
  unfold expireEarly
  rw [hl, List.find?_cons_of_pos (by simp [hu, hd])]
  unfold dropEarly
  dsimp only
  rw [hl, List.erase_cons_head]

/-- An overrun is due when its limit has passed, and once (R143). -/
theorem overrunDue_iff {s : Blk} {k : Task} : overrunDue s k = true ↔
    k.state = .issued ∧ k.overrun = false ∧ rgf s (rOverrun + 4 * k.cls) 19 0 * 1000 ≠ 0 ∧ s.time.usable = true ∧
      k.issuedAt + rgf s (rOverrun + 4 * k.cls) 19 0 * 1000 < now s := by
  unfold overrunDue
  simp only [Bool.and_eq_true, beq_iff_eq, Bool.not_eq_true', decide_eq_true_eq, and_assoc, gt_iff_lt]
  have hlimit : rgf s (rOverrun + 4 * k.cls) 19 0 ≠ 0 ↔ rgf s (rOverrun + 4 * k.cls) 19 0 * 1000 ≠ 0 := by omega
  rw [hlimit]

/-- The overrun of a task in its slot (R143). -/
theorem overrunAt_eq {b : Blk} {slot : Nat} {k : Task} (hk : taskOf b slot = some k) :
    overrunAt b slot = if overrunDue b k = true then recordOverrun b slot k else b := by
  unfold overrunAt
  rw [hk]

/-- What ISS_OVERRUN_LAST shows fits its word (R158). -/
theorem overrunWord_lt (c x slot : Nat) : 2 ^ 31 + put c 26 25 + put x 24 17 + put slot 16 0 < 2 ^ 32 := by
  have hc := put_lt_pow c 26 25
  have hx := put_lt_pow x 24 17
  have hs := put_lt_pow slot 16 0
  have hmc : put c 26 25 % 2 ^ 25 = 0 := by unfold put; rw [Nat.shiftLeft_eq]; exact Nat.mul_mod_left _ _
  have hmx : put x 24 17 % 2 ^ 17 = 0 := by unfold put; rw [Nat.shiftLeft_eq]; exact Nat.mul_mod_left _ _
  simp only [Nat.reducePow, Nat.reduceAdd, Nat.reduceSub, Nat.reduceMul] at *
  omega

/-- What recording an overrun shows before the fault (R143). -/
theorem recordOverrun_eq (s : Blk) (slot : Nat) (k : Task) : ∃ t u v,
    OnlyReg (setTask s slot { k with overrun := true }) t rOverrunLast
      (2 ^ 31 + put k.cls 26 25 + put k.ctx 24 17 + put slot 16 0) ∧
    OnlyReg t u rIssIrq (rg t rIssIrq ||| 1) ∧ Observed u v ∧
    recordOverrun s slot k = ctxFault v k.ctx uIss 0x42 (slotDetail slot k.issuedEng) := by
  have hlast := onlyReg_wr (setTask s slot { k with overrun := true }) rOverrunLast
    (2 ^ 31 + put k.cls 26 25 + put k.ctx 24 17 + put slot 16 0)
  rw [Nat.mod_eq_of_lt (overrunWord_lt _ _ _)] at hlast
  exact ⟨_, _, _, hlast, onlyReg_or _ rIssIrq 1 (by decide), Observed.ev _ 0x7e k.ctx, rfl⟩

/-- The timeout of a run in its place (R173). -/
theorem timeoutRun_eq {b : Blk} {run : Nat} {r : Run} (hr : Store.get? b.sve.runs run = some r) :
    timeoutRun b run = if runTimeoutDue b r = true then endIntake (setRun b run { r with timedOut := true }) run else b := by
  unfold timeoutRun
  rw [hr]

/-- The intake of a run is due to end a while after it has started (R173). -/
theorem runTimeoutDue_iff {s : Blk} {r : Run} (hp : r.phase = .intake) : runTimeoutDue s r = true ↔
    s.time.usable = true ∧ ∃ t, r.started = some t ∧ t + rgf s rRunTimeout 19 0 * 1000 ≤ now s := by
  unfold runTimeoutDue
  cases hst : r.started <;> simp [hp]

/-- The count of degraded runs leaves a context's ordering mode (R284). -/
theorem isRuled_degraded (s : Blk) (src c x : Nat) : isRuled (sveCount s rSveDegraded src c 1) x = isRuled s x := by
  have hord : bank rOrdMode x ≠ rSveDegraded := fun e => by
    have hmod := bank_mod rOrdMode x (by decide)
    rw [e] at hmod
    exact absurd hmod (by decide)
  obtain ⟨u, hcount, hobs⟩ := sveCount_parts s rSveDegraded src c
  rw [hobs.ruled]
  unfold isRuled rgb rgw
  rw [hcount.others _ hord]

/-- The intake of a ruled run that has timed out ends with fault 0x5a; the run waits for its release (R173, R290). -/
theorem endIntake_timedOut {s : Blk} {i : Nat} {r : Run} (hr : Store.get? s.sve.runs i = some r) (ht : r.timedOut = true)
    (hruled : isRuled s r.ctx = true) : endIntake s i =
      ctxFault (sveCount (setRun s i { r with phase := .ready }) rSveDegraded 0xd8 r.ctx 1) r.ctx uSve 0x5a
        (mkDetail (put r.ltag 31 0) (put i 9 0 + put (b2n r.deadEnd) 16 16 + 2 ^ 17 + put (b2n r.badDie) 18 18 +
          put (b2n r.laneLost) 19 19) r.admitted) := by
  have hbit : put (b2n true) 17 17 = 2 ^ 17 := by decide
  unfold endIntake
  simp only [hr, ht, Bool.or_true, Bool.true_or, if_true, hbit]
  rw [if_pos]
  rw [isRuled_ctxFault, isRuled_degraded]
  exact hruled

/-- Settles O40: what is due by the tests of R127, R111, R143 and R173, and what it does by the equation of its own branch. -/
theorem timeReleasesAndExpires : Obligations.TimeReleasesAndExpires := by
  refine ⟨fun ws s hready => ⟨fun hnot => ?_, fun hu hdue hall => ?_, fun hnot => ?_, fun e r hu hl hd => ?_⟩,
    fun slot k s hready hk => ⟨fun hst hov hlim hu hd => ?_, fun hnot => ?_⟩,
    fun run r s hready hr hp => ⟨fun t hst hu hd hruled => ?_, fun t hst hu hd => ?_, fun hnot => ?_⟩⟩
  · refine updates_act (exec_delayRelease ws s) hready ?_
    rw [dlyDue_none hnot]
  · obtain ⟨d, hd, hin, hrel, hleast⟩ := dlyDue_least hu hdue
    obtain ⟨k, hk, hfree⟩ := hall d hin
    have hy := contended s.blk k.ctx ws
    obtain ⟨t, ht, heq⟩ := dlyRelease_ready ((hy.taskOf _).trans hk) ((hy.ruledLive _).trans hfree)
    exact delayRelease_updates hready hd hk ⟨d, k, _, t, hin, hrel, hleast, hk, hy, ht, heq⟩
  · exact updates_act (exec_earlyArrivalExpiry s) hready (expireEarly_none hnot)
  · exact updates_act (exec_earlyArrivalExpiry s) hready
      ⟨_, _, counted_bump _ _, Observed.ev _ _ _, expireEarly_oldest hu hl hd⟩
  · refine updates_act (exec_taskOverrun slot s) hready ?_
    rw [overrunAt_eq hk, if_pos (overrunDue_iff.mpr ⟨hst, hov, hlim, hu, hd⟩)]
    exact recordOverrun_eq s.blk slot k
  · refine updates_act (exec_taskOverrun slot s) hready ?_
    rw [overrunAt_eq hk, if_neg]
    rintro hdue
    obtain ⟨hst, hov, hlim, hu, hd⟩ := overrunDue_iff.mp hdue
    rcases hnot with h | h | h | h | h
    · exact h hst
    · exact Bool.noConfusion (hov.symm.trans h)
    · exact hlim h
    · exact Bool.noConfusion (hu.symm.trans h)
    · exact Nat.not_lt.mpr h hd
  · refine updates_act (exec_sieveRunTimeout run s) hready ?_
    rw [timeoutRun_eq hr, if_pos ((runTimeoutDue_iff hp).mpr ⟨hu, t, hst, hd⟩)]
    obtain ⟨x, hcount, hobs⟩ := sveCount_parts
      (setRun (setRun s.blk run { r with timedOut := true }) run { r with timedOut := true, phase := .ready }) rSveDegraded 0xd8 r.ctx
    have hend := endIntake_timedOut (s := setRun s.blk run { r with timedOut := true }) (r := { r with timedOut := true })
      (get?_set_same _ _ _) rfl hruled
    exact ⟨_, x, _, rfl, hcount, hobs, hend⟩
  · refine updates_act (exec_sieveRunTimeout run s) hready ?_
    rw [timeoutRun_eq hr, if_pos ((runTimeoutDue_iff hp).mpr ⟨hu, t, hst, hd⟩)]
  · refine updates_act (exec_sieveRunTimeout run s) hready ?_
    rw [timeoutRun_eq hr, if_neg]
    intro hdue
    obtain ⟨hu, t, hst, hd⟩ := (runTimeoutDue_iff hp).mp hdue
    rcases hnot with h | h | ⟨t', h, hlt⟩
    · exact nomatch hst.symm.trans h
    · exact Bool.noConfusion (hu.symm.trans h)
    · obtain rfl := Option.some.inj (hst.symm.trans h)
      exact Nat.not_lt.mpr hd hlt

end Sys2Proof.Machine

/-! Proofs. Commands of the Nib that signal, sleep and break (O46), and those that ask for memory or a unit (O47). -/
namespace Sys2Proof.Machine

/-! ## SIGNAL and CLOSE -/

/-- An arrival (`close` none) or a close at the joint of index `j`, to be done next. -/
def jointWork (close : Option Nat) (j : Nat) : Work :=
  match close with
  | none => .arrive j false
  | some n => .closeJ j n

/-- A granted queue's request at a node is that of the queue before the grant. -/
theorem nodeReq_frame {s t : Blk} {q : Nat} (g : Granted s t q) (w : Word256) (close : Option Nat) (dst dctx dgen : Nat) :
    nodeReq t q w close dst dctx dgen = nodeReq s q w close dst dctx dgen := by
  rw [nodeReq_granted g]
  rfl

section
variable {t : Blk} {q : Nat} {w : Word256} {close : Option Nat}

/-- A joint that is not the queue's own halts the queue (R230). -/
theorem runUpdate_notOwn (hown : opbB w 18 = true) (hj : opbF w 17 0 ∉ (queueOf t q).joints) :
    runUpdate t q w close = haltCmd t q w 0x31 := by
  have hc : (!(queueOf t q).joints.contains (opbF w 17 0)) = true := by simpa using hj
  unfold runUpdate
  rw [if_pos hown]
  exact if_pos hc

/-- At a joint of the queue's own the arrival or close is done next (R230). -/
theorem runUpdate_own (hown : opbB w 18 = true) (hj : opbF w 17 0 ∈ (queueOf t q).joints) :
    runUpdate t q w close = retireVal (push t [jointWork close (opbF w 17 0)]) q w (some 0) := by
  have hc : ¬ (!(queueOf t q).joints.contains (opbF w 17 0)) = true := by simpa using hj
  unfold runUpdate
  rw [if_pos hown]
  exact if_neg hc

/-- The command waits early, and its request is offered again after a microsecond (R241). -/
def offersAgain (u : Blk) (q : Nat) (w : Word256) (c : Nat) (r : FReq) : Blk :=
  { aside u q w .early with xch := { (aside u q w .early).xch with
      retries := u.xch.retries ++ [{ what := .localMsg r, ctx := c, due := now u + 1000 }] } }

/-- At a node of this die it is applied or held early; where the early list is full it is offered again (R241). -/
theorem runUpdate_here {die : Nat} (hdie : ownDie t = die) (hown : opbB w 18 = false) (hhere : opaF w 63 62 = 0) : ∃ code u flit,
    namedArrive t (ownDie t) (sqCtx t q) (cImm w) (opaF w 61 50) (opaF w 49 38) close (close.isNone && opaF w 0 0 == 1) flit =
      (code, u) ∧
    (code = 0 → runUpdate t q w close = retireVal u q w (some 0)) ∧
    (code ≠ 0 → runUpdate t q w close =
      offersAgain u q w (sqCtx t q) (nodeReq t q w close die (sqCtx t q) (ctxGen t (sqCtx t q)))) := by
  have hno : ¬ opbB w 18 = true := by simp [hown]
  subst hdie
  let r := nodeReq t q w close (ownDie t) (sqCtx t q) (ctxGen t (sqCtx t q))
  cases hna : namedArrive t (ownDie t) (sqCtx t q) (cImm w) (opaF w 61 50) (opaF w 49 38) close (close.isNone && opaF w 0 0 == 1)
    (flit0Of r.ltag (sqCtx t q) r.dstGen (sqCtx t q) r.srcGen 0 0 false r.body) with
  | mk code u =>
    refine ⟨code, u, _, hna, fun h0 => ?_, fun h0 => ?_⟩ <;> unfold runUpdate <;> rw [if_neg hno, if_pos hhere] <;> dsimp only <;>
      rw [hna]
    · subst h0
      rfl
    · cases code with
      | zero => exact absurd rfl h0
      | succ n => rfl

/-- At a node of another die it is a request, which the command waits for (R109). -/
theorem runUpdate_remote (hown : opbB w 18 = false) (hdie : opaF w 63 62 ≠ 0) (hfree : ruledLive t (sqCtx t q) = false) :
    runUpdate t q w close =
      push (aside t q w .remote) [.fabReq (nodeReq t q w close (opaF w 37 17) (opaF w 16 9) (opaF w 8 1))] := by
  have hno : ¬ opbB w 18 = true := by simp [hown]
  unfold runUpdate
  rw [if_neg hno, if_neg hdie]
  dsimp only
  rw [hfree]
  rfl

/-- In a ruled context the answer is owed besides (R286). -/
theorem runUpdate_remote_ruled (hown : opbB w 18 = false) (hdie : opaF w 63 62 ≠ 0) (hruled : ruledLive t (sqCtx t q) = true) :
    runUpdate t q w close =
      push (aside (owe t { ctx := sqCtx t q, due := (slotOf t (sqCtx t q)).tick + 1, party := queueParty t q
                           what := .answer q (queueOf t q).life }) q w .remote)
        [.fabReq (nodeReq t q w close (opaF w 37 17) (opaF w 16 9) (opaF w 8 1))] := by
  have hno : ¬ opbB w 18 = true := by simp [hown]
  unfold runUpdate
  rw [if_neg hno, if_neg hdie]
  dsimp only
  rw [hruled]
  rfl
end

/-- A command that waits keeps all of its queue but what it waits for (R230). -/
theorem aside_granted {s t : Blk} {q : Nat} (g : Granted s t q) (w : Word256) (k : QWait) :
    aside t q w k = setQ t q { queueOf s q with wait := k, cur := some w } := by
  unfold aside modQ
  rw [g.queueOf]

/-- A command that waits for a unit keeps the queue, which passes its breakpoint when it goes on (R247). -/
theorem waitUnit_granted {s t : Blk} {q : Nat} (g : Granted s t q) (k : QWait) :
    waitUnit t q k = setQ t q { queueOf s q with wait := k, passBrk := true } := by
  unfold waitUnit modQ
  rw [g.queueOf]

theorem tick_granted {s t : Blk} {q : Nat} (g : Granted s t q) (c : Nat) : (slotOf t c).tick = (slotOf s c).tick := by
  rw [g.slots c]

theorem queueParty_granted {s t : Blk} {q : Nat} (g : Granted s t q) : queueParty t q = queueParty s q := by
  unfold queueParty
  rw [g.rgf]

/-- What SIGNAL (`close` none) or CLOSE does in its queue (R230, R241). -/
structure ActsOnJoints (cmd : Instr) (s : State) (q : Nat) (w : Word256) (close : Option Nat) : Prop where
  notOwn : opbB w 18 = true → opbF w 17 0 ∉ (queueOf s.blk q).joints → Halts cmd s q w 0x31
  own : opbB w 18 = true → opbF w 17 0 ∈ (queueOf s.blk q).joints →
    Runs cmd s q (fun t b => b = retireVal (push t [jointWork close (opbF w 17 0)]) q w (some 0))
  here : opbB w 18 = false → opaF w 63 62 = 0 → Runs cmd s q (fun t b => ∃ code u flit,
    namedArrive t (ownDie t) (sqCtx s.blk q) (cImm w) (opaF w 61 50) (opaF w 49 38) close (close.isNone && opaF w 0 0 == 1) flit =
      (code, u) ∧
    (code = 0 → b = retireVal u q w (some 0)) ∧
    (code ≠ 0 → b = offersAgain u q w (sqCtx s.blk q)
      (nodeReq s.blk q w close (ownDie s.blk) (sqCtx s.blk q) (ctxGen s.blk (sqCtx s.blk q)))))
  remote : opbB w 18 = false → opaF w 63 62 ≠ 0 → ruledLive s.blk (sqCtx s.blk q) = false → Runs cmd s q (fun t b => b =
    push (setQ t q { queueOf s.blk q with wait := .remote, cur := some w })
      [.fabReq (nodeReq s.blk q w close (opaF w 37 17) (opaF w 16 9) (opaF w 8 1))])
  ruled : opbB w 18 = false → opaF w 63 62 ≠ 0 → ruledLive s.blk (sqCtx s.blk q) = true → Runs cmd s q (fun t b => b =
    push (setQ (owe t { ctx := sqCtx s.blk q, due := (slotOf s.blk (sqCtx s.blk q)).tick + 1, party := queueParty s.blk q
                        what := .answer q (queueOf s.blk q).life }) q { queueOf s.blk q with wait := .remote, cur := some w })
      [.fabReq (nodeReq s.blk q w close (opaF w 37 17) (opaF w 16 9) (opaF w 8 1))])

/-- A command that begins and runs as `runUpdate` acts on joints. -/
theorem actsOnJoints {cmd : Instr} {s : State} {q op : Nat} {w : Word256} {ws : List Nat} {close : Option Nat}
    {run : Blk → Nat → Word256 → Blk} (h : Begins s.blk q w) (hc : exec cmd s = nibCmd q op ws run s) (ho : cOp w = op)
    (hrun : ∀ t, Granted s.blk t q → run t q w = runUpdate t q w close) : ActsOnJoints cmd s q w close := by
  have go : ∀ P : Blk → Blk → Prop, (∀ t, Granted s.blk t q → P t (runUpdate t q w close)) → Runs cmd s q P :=
    fun P hp => runs_nib hc h ho fun t g => by
      rw [hrun t g]
      exact hp t g
  constructor
  case notOwn =>
    exact fun hown hj => go _ fun t g => runUpdate_notOwn hown (by rwa [g.queueOf])
  case own =>
    exact fun hown hj => go _ fun t g => runUpdate_own hown (by rwa [g.queueOf])
  case here =>
    refine fun hown hdie => go _ fun t g => ?_
    have hhere := runUpdate_here (t := t) (q := q) (close := close) g.ownDie hown hdie
    simp only [nodeReq_frame g, g.sqCtx, g.ctxGen] at hhere
    exact hhere
  case remote =>
    refine fun hown hdie hfree => go _ fun t g => ?_
    rw [runUpdate_remote hown hdie (by rwa [g.sqCtx, g.ruledLive]), nodeReq_frame g, aside_granted g]
  case ruled =>
    refine fun hown hdie hruled => go _ fun t g => ?_
    rw [runUpdate_remote_ruled hown hdie (by rwa [g.sqCtx, g.ruledLive]), nodeReq_frame g, g.sqCtx, tick_granted g, queueParty_granted g, g.queueOf]
    unfold aside modQ
    rw [← g.queueOf]
    rfl

/-! ## SLEEP and BRK -/

section
variable {t : Blk} {q : Nat} {w : Word256}

/-- The queues are as they were after an event of observation. -/
theorem queueOf_ev (s : Blk) (src c x : Nat) : queueOf (ev s src c) x = queueOf s x := by
  unfold queueOf
  rw [ev_csq]

/-- A BRK whose break has been resumed does nothing more (R247). -/
theorem runBrk_passed : runBrk t q w true = retireVal t q w none := rfl

/-- A BRK during another break is counted (R247). -/
theorem runBrk_counted (h : t.csq.brkHit = true) : runBrk t q w false = retireVal (bump t rDbBad) q w none := by
  unfold runBrk
  rw [h]
  rfl

/-- Any other BRK breaks; what it shows as comparator and mode is the model's choice. -/
theorem runBrk_breaks (h : t.csq.brkHit = false) : runBrk t q w false = takeBreak t q 0 false := by
  unfold runBrk
  rw [h]
  rfl
end

/-- Settles O46: SIGNAL and CLOSE by `runUpdate`, SLEEP and BRK by their rules. That a BRK's break shows comparator 0 and MODE 0 is the
model's choice (log entry 22): R247 says only that it is a break of its own. -/
theorem signalsSleepsAndBreaks : Obligations.SignalsSleepsAndBreaks := by
  intro q ws w s h
  refine ⟨fun ho => ?_, fun ho => ?_, fun ho => ?_, fun ho => ⟨fun hpass => ?_, fun hpass hhit => ?_, fun hpass hhit => ?_⟩⟩
  · obtain ⟨notOwn, own, here, remote, ruled⟩ := actsOnJoints h (exec_cmdSignal q ws s) ho (fun t g => rfl)
    exact ⟨notOwn, own, here, remote, ruled⟩
  · have hT : ∀ t, Granted s.blk t q → runClose t q w = runUpdate t q w
        (some (if opbB w 19 then (scratch (queueOf s.blk q) (cRa w)).toNat % 2 ^ 24 else opbF w 47 24)) := fun t g => by
      unfold runClose sreg
      rw [g.queueOf]
    obtain ⟨notOwn, own, here, remote, ruled⟩ := actsOnJoints h (exec_cmdClose q ws s) ho hT
    exact ⟨notOwn, own, here, remote, ruled⟩
  · refine runs_nib (exec_cmdSleep q s) h ho fun t g => ⟨_, Observed.ev t 0xcb (sqCtx t q), ?_⟩
    unfold runSleep modQ
    rw [queueOf_ev, g.queueOf, g.now]
  · refine runs_nib' (exec_cmdBrk q s) h ho fun t g => ?_
    rw [hpass]
    exact runBrk_passed
  · refine runs_nib' (exec_cmdBrk q s) h ho fun t g => ⟨bump t rDbBad, ?_, ?_⟩
    · rw [← g.rg]
      exact counted_bump t rDbBad
    · rw [hpass]
      exact runBrk_counted (g.brk.1.trans hhit)
  · refine runs_nib' (exec_cmdBrk q s) h ho fun t g => ⟨orBits t rCsqIrq 2, ?_, ?_⟩
    · rw [← g.rg]
      exact onlyReg_or t rCsqIrq 2 (by decide)
    · rw [hpass, runBrk_breaks (g.brk.1.trans hhit), ← g.queueOf, ← g.sqCtx]
      exact takeBreak_obs t q 0 false

/-! ## LOAD, STORE, PATCH and LATCH -/

section
variable {s t : Blk} {q : Nat} (g : Granted s t q)
include g

/-- LOAD asks for its line (R231). -/
theorem runLoad_granted (w : Word256) : runLoad t q w =
    memReq (setQ t q { queueOf s q with wait := .memory, cur := some w })
      { write := false, addr := cOpa w / 64 * 64, first := cOpa w, be := 0, data := 0, qos := 0, ctx := some (sqCtx s q), unit := uCsq
        index := q, owner := .csqLoad q (queueOf s q).life } := by
  unfold runLoad
  rw [aside_granted g]
  dsimp only
  rw [queueOf_setQ, ← g.sqCtx]
  rfl

/-- STORE asks for its line, with the bytes of S[RA] (R231). -/
theorem runStore_granted (w : Word256) : runStore t q w =
    memWrite (setQ t q { queueOf s q with wait := .memory, cur := some w }) (cOpa w)
      (leBytes 8 (scratch (queueOf s q) (cRa w)).toNat) 1 (some (sqCtx s q)) uCsq q
      (.csqStore q (queueOf s q).life) := by
  unfold runStore sreg
  rw [aside_granted g]
  dsimp only
  rw [queueOf_setQ, ← g.sqCtx]
  rfl

/-- PATCH waits while the Graph Store is busy (R92). -/
theorem runPatch_busy (w : Word256) (hb : gstBusy s = true) :
    runPatch t q w = setQ t q { queueOf s q with wait := .unit, passBrk := true } := by
  have hbusy : gstBusy t = true := by rwa [gstBusy, g.tsk]
  unfold runPatch
  rw [if_pos hbusy, waitUnit_granted g]

/-- A PATCH that finds the Graph Store free begins its load in the queue's name, and ends with the code of a load that ends at once
(R92, R230). -/
theorem runPatch_free (w : Word256) (hb : gstBusy s = false) :
    let begun := gstBegin (setQ t q { queueOf s q with wait := .image, cur := some w }) (some q) (opaF w 63 52) (opaF w 51 0)
      (immF w 13 0) (some (sqCtx s q))
    (begun.1 = none → runPatch t q w = begun.2) ∧ (∀ code, begun.1 = some code → runPatch t q w = patchDone begun.2 q code 0) := by
  intro begun
  have hfree : ¬ gstBusy t = true := by
    rw [gstBusy, g.tsk]
    exact ne_true_of_eq_false hb
  have hrun : runPatch t q w = match begun with
      | (some code, u) => patchDone u q code 0
      | (none, u) => u := by
    unfold runPatch
    rw [if_neg hfree, aside_granted g]
    simp only [begun, ← g.sqCtx]
    rfl
  obtain ⟨code, u⟩ := begun
  rw [hrun]
  exact ⟨fun h => by cases h; rfl, fun x h => by cases h; rfl⟩

/-- LATCH takes its latch, and waits for a record that it writes (R344). -/
theorem runLatch_granted (w : Word256) :
    let u := cmdLatchTake t (sqCtx s q) q (sqPriv s q) (immF w 0 0 == 1) (cOpa w)
    (cOpa w = 0 → runLatch t q w = retireVal u q w none) ∧ (cOpa w ≠ 0 → runLatch t q w = aside u q w .memory) := by
  intro u
  unfold runLatch
  rw [g.sqCtx, g.sqPriv]
  exact ⟨fun h => if_pos h, fun h => if_neg h⟩
end

/-- Settles O47: a STORE's eight bytes are in one line, as its address is that of eight bytes (R231). -/
theorem memoryCommandsAskAndWait : Obligations.MemoryCommandsAskAndWait := by
  intro q ws w s h
  refine ⟨fun ho => ?_, fun ho => ?_, fun ho => ⟨fun hb => ?_, fun hb => ?_⟩, fun ho => ?_⟩
  · refine runs_nib (exec_cmdLoad q s) h ho fun t g => ?_
    rw [runLoad_granted g]
    exact memReq_asked _ _ rfl
  · refine runs_nib (exec_cmdStore q s) h ho fun t g => ?_
    have hal := store_addr (sound_operands h.sound) ho
    have hlen := leBytes_length 8 (scratch (queueOf s.blk q) (cRa w)).toNat
    rw [runStore_granted g]
    have hask := memWrite_asked (setQ t q { queueOf s.blk q with wait := .memory, cur := some w }) (cOpa w)
      (leBytes 8 (scratch (queueOf s.blk q) (cRa w)).toNat) 1 (some (sqCtx s.blk q)) uCsq q (.csqStore q (queueOf s.blk q).life)
      (List.ne_nil_of_length_eq_add_one hlen) (by omega)
    rw [hlen] at hask
    exact hask
  · exact runs_nib (exec_cmdPatch q ws s) h ho fun t g => runPatch_busy g w hb
  · exact runs_nib (exec_cmdPatch q ws s) h ho fun t g => runPatch_free g w hb
  · exact runs_nib (exec_cmdLatch q s) h ho fun t g => ⟨_, rfl, runLatch_granted g w⟩

end Sys2Proof.Machine

/-! Proofs. LAUNCH, CANCEL, SPILL and REFILL (O48). -/
namespace Sys2Proof.Machine

/-- A command of the Nib that begins runs on the block that granted it. -/
theorem exec_begins {c : Instr} {s : State} {q op : Nat} {w : Word256} {ws : List Nat} {run : Blk → Nat → Word256 → Blk}
    (hc : exec c s = nibCmd q op ws run s) (h : Begins s.blk q w) (ho : cOp w = op) :
    ∃ t, Granted s.blk t q ∧ exec c s = .next (s.finish (run t q w)) := by
  obtain ⟨b, hb, t, g, rfl⟩ := runs_nib (P := fun t b => b = run t q w) hc h ho fun t g => rfl
  exact ⟨t, g, hb⟩

section
variable {s t : Blk} {q : Nat} {w : Word256} (g : Granted s t q)
include g

/-! ## SPILL and REFILL -/

theorem runSpill_none (hl : liveLaunch s (sqCtx s q) (cImm w) = none) :
    runSpill t q w = refused t q w 0x31 0x31 (some (cmdDetail t q 0)) := by
  unfold runSpill
  rw [g.sqCtx, g.liveLaunch, hl]

theorem runSpill_some {i : Nat} {l : Launch} (hl : liveLaunch s (sqCtx s q) (cImm w) = some (i, l)) :
    runSpill t q w = if spillBad s l then refused t q w 0x31 0x31 (some (cmdDetail t q 0))
      else spillBegin (setQ t q { queueOf s q with wait := .spill, cur := some w }) i l q (cOpa w) := by
  unfold runSpill
  rw [g.sqCtx, g.liveLaunch, hl, ← g.spillBad, ← aside_granted g]

theorem runRefill_none (hl : liveLaunch s (sqCtx s q) (cImm w) = none) :
    runRefill t q w = refused t q w 0x31 0x31 (some (cmdDetail t q 0)) := by
  unfold runRefill
  rw [g.sqCtx, g.liveLaunch, hl]

theorem runRefill_some {i : Nat} {l : Launch} (hl : liveLaunch s (sqCtx s q) (cImm w) = some (i, l)) :
    runRefill t q w = if l.spill ≠ .spilled then refused t q w 0x31 0x31 (some (cmdDetail t q 0))
      else match refillBegin (setQ t q { queueOf s q with wait := .spill, cur := some w }) i l q l.spillAddr with
        | some u => u
        | none => refused t q w 0x53 0x53 (some (mkDetail (put l.ltag 31 0) (put l.tid 11 0) l.spillN)) := by
  unfold runRefill
  rw [g.sqCtx, g.liveLaunch, hl, ← aside_granted g] <;> rfl

theorem ctxUsed_granted (c : Nat) : ctxUsed t c = ctxUsed s c := by rw [g.rest]; rfl

theorem ctxQuota_granted (c : Nat) : ctxQuota t c = ctxQuota s c := by rw [g.rest]; rfl

/-- A REFILL that is over quota, or that fits in no eight runs of free slots, does not begin (R116). -/
theorem refillBegin_none (v : Queue) (i : Nat) {l : Launch} (addr : Nat)
    (h : ctxQuota s l.ctx < ctxUsed s l.ctx + l.spillN ∨ fits8 s.tsk.freeSlots l.spillN = false) :
    refillBegin (setQ t q v) i l q addr = none := by
  have hbad : (decide (ctxUsed t l.ctx + l.spillN > ctxQuota t l.ctx) || !fits8 t.tsk.freeSlots l.spillN) = true := by
    rw [ctxUsed_granted g, ctxQuota_granted g, g.tsk]
    rcases h with h | h <;> simp [h]
  unfold refillBegin
  exact if_pos hbad

/-- A REFILL within the quota begins where its slots can be taken (R116). -/
theorem refillBegin_some (v : Queue) (i : Nat) {l : Launch} (addr : Nat) (hq : ctxUsed s l.ctx + l.spillN ≤ ctxQuota s l.ctx)
    (hfit : fits8 s.tsk.freeSlots l.spillN = true) (hslots : (takeSlots s l.spillN).1 ≠ none) :
    ∃ u, refillBegin (setQ t q v) i l q addr = some u := by
  have hgood : ¬ (decide (ctxUsed t l.ctx + l.spillN > ctxQuota t l.ctx) || !fits8 t.tsk.freeSlots l.spillN) = true := by
    rw [ctxUsed_granted g, ctxQuota_granted g, g.tsk, hfit]
    simpa using hq
  have htake : (takeSlots (setQ t q v) l.spillN).1 = (takeSlots s l.spillN).1 :=
    takeSlots_parts (t := setQ t q v) g.tsk g.free _
  unfold refillBegin
  rw [if_neg (by exact hgood)]
  cases hx : takeSlots (setQ t q v) l.spillN with
  | mk r u =>
    rw [hx] at htake
    cases r with
    | none => exact absurd htake.symm hslots
    | some slots => exact ⟨_, rfl⟩

/-! ## LAUNCH -/

/-- A LAUNCH whose end joint is not the queue's own, or has fired, halts the queue (R230). -/
theorem runLaunch_badJoint (hj : endJointOk s q (launchArgs s q w) = false) : runLaunch t q w = haltCmd t q w 0x31 := by
  have hbad : (!endJointOk t q (launchArgs t q w)) = true := by rw [g.launchArgs, g.endJointOk, hj]; rfl
  unfold runLaunch
  exact if_pos hbad

/-- What a LAUNCH with a good end joint does (R95, R204, R230). -/
theorem runLaunch_goodJoint (hj : endJointOk s q (launchArgs s q w) = true) : runLaunch t q w =
    if (launchArgs s q w).course && ctxChecks s (launchArgs s q w) && (sqtOf s (sqCtx s q)).course.isNone then
      preBoundary (setQ t q { queueOf s q with wait := .boundary, passBrk := true }) (sqCtx s q) q
    else if armWaits s (launchArgs s q w) then setQ t q { queueOf s q with wait := .unit, passBrk := true }
    else match launchRefusal s (launchArgs s q w) with
      | some code => refused (refuseLaunch t (launchArgs s q w) code) q w code code none
      | none => retireVal (doLaunch t (launchArgs s q w)) q w (some 0) := by
  have hgood : ¬ (!endJointOk t q (launchArgs t q w)) = true := by rw [g.launchArgs, g.endJointOk, hj]; decide
  unfold runLaunch
  refine (if_neg hgood).trans ?_
  rw [g.launchArgs, g.ctxChecks, g.sqtOf, g.armWaits, g.launchRefusal, waitUnit_granted g, waitUnit_granted g] <;> rfl

/-- A course LAUNCH of a context without a course waits for its boundary (R204). -/
theorem runLaunch_boundary (hj : endJointOk s q (launchArgs s q w) = true) (hc : (launchArgs s q w).course = true)
    (hcc : ctxChecks s (launchArgs s q w) = true) (hnone : (sqtOf s (sqCtx s q)).course = none) : runLaunch t q w =
    preBoundary (setQ t q { queueOf s q with wait := .boundary, passBrk := true }) (sqCtx s q) q := by
  rw [runLaunch_goodJoint g hj, hc, hcc, hnone]
  rfl

/-- Any other LAUNCH waits for no boundary (R95, R230). -/
theorem runLaunch_atOnce (hj : endJointOk s q (launchArgs s q w) = true)
    (hor : (launchArgs s q w).course = false ∨ ctxChecks s (launchArgs s q w) = false ∨ (sqtOf s (sqCtx s q)).course ≠ none) :
    runLaunch t q w =
      if armWaits s (launchArgs s q w) then setQ t q { queueOf s q with wait := .unit, passBrk := true }
      else match launchRefusal s (launchArgs s q w) with
        | some code => refused (refuseLaunch t (launchArgs s q w) code) q w code code none
        | none => retireVal (doLaunch t (launchArgs s q w)) q w (some 0) := by
  rw [runLaunch_goodJoint g hj, if_neg]
  intro hall
  simp only [Bool.and_eq_true, Option.isNone_iff_eq_none] at hall
  obtain ⟨⟨hc, hcc⟩, hnone⟩ := hall
  rcases hor with hor | hor | hor
  · exact Bool.noConfusion (hc.symm.trans hor)
  · exact Bool.noConfusion (hcc.symm.trans hor)
  · exact hor hnone

/-! ## CANCEL -/

theorem runCancel_none (hl : liveLaunch s (sqCtx s q) (cImm w) = none) : runCancel t q w = retireVal t q w (some 0) := by
  unfold runCancel
  rw [g.sqCtx, g.liveLaunch, hl]

/-- CANCEL of a launch that is not spilled ends what it names, the least SEQ last, so that its successors are the first work (R230). -/
theorem runCancel_live {i : Nat} {l : Launch} (hl : liveLaunch s (sqCtx s q) (cImm w) = some (i, l)) (hlive : l.spill = .live) :
    runCancel t q w = retireVal (forEach (cancelSet s l w).reverse t (fun s i => finishTask s i .cancelled true)) q w
      (some (BitVec.ofNat 64 (cancelSet s l w).length)) := by
  have haway : ¬ launchAway l = true := by simp [launchAway, hlive]
  unfold runCancel
  rw [g.sqCtx, g.liveLaunch, hl, ← g.cancelSet]
  exact if_neg haway
end

/-- Settles O48. That a REFILL or SPILL of a launch that is not live is refused with 0x31, and a REFILL over quota with 0x53, is the
model's choice (log entry 17), and so is the LAUNCH that waits with its UNIT (log entry 23). A course LAUNCH that the context's checks
refuse goes by FTOL here, where R230 says that it halts. -/
theorem launchCommandsAct : Obligations.LaunchCommandsAct := by
  intro q ws w s h
  refine ⟨fun ho => ⟨fun hl => ?_, fun i l hl => ⟨fun hbad => ?_, fun hbad => ?_⟩⟩,
    fun ho => ⟨fun hl => ?_, fun i l hl => ⟨fun hst => ?_, fun hst hq hfit hslots => ?_, fun hst hno => ?_⟩⟩,
    fun ho => ⟨fun hj => ?_, fun hj hc hcc hnone => ?_, fun hj hor => ⟨fun ha => ?_, fun ha hr => ?_, fun ha code hr => ?_⟩⟩,
    fun ho => ⟨fun hl => ?_, fun i l hl hlive => ?_⟩⟩
  · exact runs_nib (exec_cmdSpill q ws s) h ho fun t g => ⟨_, runSpill_none g hl⟩
  · exact runs_nib (exec_cmdSpill q ws s) h ho fun t g => ⟨_, (runSpill_some g hl).trans (if_pos hbad)⟩
  · obtain ⟨t, g, he⟩ := exec_begins (exec_cmdSpill q ws s) h ho
    rw [runSpill_some g hl, if_neg (ne_true_of_eq_false hbad)] at he
    exact ⟨t, g, he⟩
  · exact runs_nib (exec_cmdRefill q ws s) h ho fun t g => ⟨_, runRefill_none g hl⟩
  · exact runs_nib (exec_cmdRefill q ws s) h ho fun t g => ⟨_, (runRefill_some g hl).trans (if_pos hst)⟩
  · obtain ⟨t, g, he⟩ := exec_begins (exec_cmdRefill q ws s) h ho
    obtain ⟨u, hu⟩ := refillBegin_some g { queueOf s.blk q with wait := .spill, cur := some w } i l.spillAddr hq hfit hslots
    rw [runRefill_some g hl, if_neg (not_not.mpr hst), hu] at he
    exact ⟨t, u, g, hu, he⟩
  · refine runs_nib (exec_cmdRefill q ws s) h ho fun t g => ⟨mkDetail (put l.ltag 31 0) (put l.tid 11 0) l.spillN, ?_⟩
    rw [runRefill_some g hl, if_neg (not_not.mpr hst), refillBegin_none g _ _ _ hno]
  · exact runs_nib (exec_cmdLaunch q ws s) h ho fun t g => runLaunch_badJoint g hj
  · exact runs_nib (exec_cmdLaunch q ws s) h ho fun t g => runLaunch_boundary g hj hc hcc hnone
  · exact runs_nib (exec_cmdLaunch q ws s) h ho fun t g => (runLaunch_atOnce g hj hor).trans (if_pos ha)
  · obtain ⟨t, g, he⟩ := exec_begins (exec_cmdLaunch q ws s) h ho
    rw [runLaunch_atOnce g hj hor, if_neg (ne_true_of_eq_false ha), hr] at he
    exact ⟨t, g, he⟩
  · refine runs_nib (exec_cmdLaunch q ws s) h ho fun t g => ?_
    rw [runLaunch_atOnce g hj hor, if_neg (ne_true_of_eq_false ha), hr]
  · exact runs_nib (exec_cmdCancel q ws s) h ho fun t g => runCancel_none g hl
  · obtain ⟨t, g, he⟩ := exec_begins (exec_cmdCancel q ws s) h ho
    rw [runCancel_live g hl hlive] at he
    exact ⟨t, _, g, rfl, cancelSet_sorted _ _ _, mem_cancelSet _ _ _, he⟩

end Sys2Proof.Machine

/-! Proofs. The end of a launch, and the build, end and advance of a course (O55). -/
namespace Sys2Proof.Machine

theorem freeCtx_of {s : Blk} {c : Nat} (h : ruledLive s c = false) : freeCtx s c = true := by rw [freeCtx, h]; rfl

/-! ## The end of a launch -/

theorem Contended.launchOf {s t : Blk} {x : Nat} {ws : List Nat} (h : Contended s t x ws) (i : Nat) :
    launchOf t i = launchOf s i := by rw [h.rest]; rfl

theorem Contended.launchDue {s t : Blk} {x : Nat} {ws : List Nat} (h : Contended s t x ws) (i : Nat) (l : Launch) :
    launchDue t i l = launchDue s i l := by rw [h.rest]; rfl

/-- A launch that is due ends (R97). -/
theorem launchEnd_due {s : Blk} {i : Nat} {l : Launch} (hl : launchOf s i = some l) (hd : launchDue s i l = true) :
    launchEnd s i =
      let t := clearLaunch (ev (launchLatch s l.ctx true l.ltag l.tid) 0x6a l.ctx) i l
      if l.course.isNone then freeLaunch t i
      else push { t with sqt := { t.sqt with
        bounds := t.sqt.bounds ++ [{ ctx := l.ctx, launch := some i, pre := none, tail := l.reqTail }] } } [.boundaries] := by
  have hno : ¬ (!launchDue s i l) = true := by simp [hd]
  unfold launchEnd
  rw [hl]
  exact if_neg hno

/-- The release of generations leaves the launches (R93). -/
theorem Released.launchOf {s t : Blk} (h : Released s t) (i : Nat) : launchOf t i = launchOf s i := by rw [h.rest]; rfl

/-- The moment of LAUNCH_END: the launch stands, it is due, and its context is not ruled (R97, R292). -/
theorem exec_launchEnd_due {s : State} {i : Nat} {ws : List Nat} {l : Launch} {P : Blk → Prop} (hready : fnReady s.blk 8 = true)
    (hl : launchOf s.blk i = some l) (hd : launchDue s.blk i l = true) (hfree : ruledLive s.blk l.ctx = false)
    (hp : P (launchEnd (contested s.blk l.ctx ws) i)) : Updates (.launchEnd i ws) s P := by
  refine updates_act (exec_launchEnd i ws s) hready ?_
  rw [hl]
  dsimp only
  rw [if_pos (by rw [freeCtx_of hfree, hd]; rfl)]
  exact hp

/-- Before that moment LAUNCH_END changes nothing. -/
theorem exec_launchEnd_early {s : State} {i : Nat} {ws : List Nat} (hready : fnReady s.blk 8 = true)
    (hnot : ∀ l, launchOf s.blk i = some l → launchDue s.blk i l = false ∨ ruledLive s.blk l.ctx = true) :
    Updates (.launchEnd i ws) s (fun b => b = s.blk) := by
  refine updates_act (exec_launchEnd i ws s) hready ?_
  cases hl : launchOf s.blk i with
  | none => rfl
  | some l =>
    refine if_neg ?_
    rcases hnot l hl with h | h <;> simp [freeCtx, h]

/-! ## The build of a course -/

theorem Observed.sqt {s t : Blk} (h : Observed s t) : t.sqt = s.sqt := by rw [h.rest]

theorem Observed.sqtOf {s t : Blk} (h : Observed s t) (c : Nat) : sqtOf t c = sqtOf s c := by
  unfold Machine.sqtOf
  rw [h.sqt]

/-- A phase of the boundary that runs, in a context that is not ruled (R292). -/
theorem boundPhase_free {s : Blk} {x : Boundary} {r : List Boundary} (f : Blk → Blk) (hb : s.sqt.bounds = x :: r)
    (hfree : ruledLive s x.ctx = false) : boundPhase f s = f s := by
  unfold boundPhase boundCtx
  rw [hb]
  exact if_pos (freeCtx_of hfree)

theorem courseBuild_eq {s : Blk} {x : Boundary} {r : List Boundary} (hb : s.sqt.bounds = x :: r) :
    courseBuild s = if buildDue s x then buildBound s x else s := by
  unfold courseBuild
  rw [hb]

theorem boundaryEnd_eq {s : Blk} {x : Boundary} {r : List Boundary} (hb : s.sqt.bounds = x :: r) :
    boundaryEnd s = if boundDue x then endBound s x else s := by
  unfold boundaryEnd
  rw [hb]

/-- In a context that is not OPEN a boundary builds no course (R215). -/
theorem buildBound_shut {s : Blk} {x : Boundary} {r : List Boundary} (hb : s.sqt.bounds = x :: r) (hc : ctxSt s x.ctx ≠ .opened) :
    buildBound s x = { s with sqt := { s.sqt with bounds := { x with phase := .writing, build := false } :: r } } := by
  unfold buildBound setBound
  rw [if_pos hc, hb]
  rfl

/-- The boundary's course: built of its candidates, observed, and written where SQT_CTX_COURSE says (R205 to R207). -/
theorem buildBound_opened {s : Blk} {x : Boundary} {r : List Boundary} (hb : s.sqt.bounds = x :: r) (hc : ctxSt s x.ctx = .opened) :
    ∃ took y u, CourseBuilt s x.ctx (seqCands s x.ctx) took y ∧ Observed y.blk u ∧
      let step := ((sqtOf s x.ctx).stepCnt + b2n x.launch.isSome) % 2 ^ 32
      let bytes := courseBytes step y.tok y.ents
      buildBound s x = memWrite { u with sqt := { u.sqt with
          ctxs := Store.put {} u.sqt.ctxs x.ctx { sqtOf u x.ctx with nbuilt := y.ents.length, course := none }
          bounds := { x with
            phase := .writing, build := true, course := y.ents, passed := y.passed, writes := (bytes.length + 63) / 64 } :: r } }
        (courseAddr s x.ctx) bytes 1 (some x.ctx) uSqt (x.launch.getD 0) (.courseLine x.ctx) := by
  obtain ⟨took, hy⟩ := courseBuilt s x.ctx
  have hn : ¬ ctxSt s x.ctx ≠ .opened := not_not.mpr hc
  unfold buildBound
  rw [if_neg hn]
  dsimp only
  generalize buildCourse s x.ctx = y at hy
  have oz := (Observed.evN y.blk 0xeb (some x.ctx) y.ents.length).trans
    (Observed.evN (evN y.blk 0xeb (some x.ctx) y.ents.length) 0xec (some x.ctx) y.passed)
  generalize evN (evN y.blk 0xeb (some x.ctx) y.ents.length) 0xec (some x.ctx) y.passed = z at oz
  generalize hu : trace z 0xc (some x.ctx) _ = u
  have ou : Observed z u := hu ▸ Observed.trace _ _ _ _
  refine ⟨took, y, u, hy, oz.trans ou, ?_⟩
  have hstep : (sqtOf s x.ctx).stepCnt = (sqtOf u x.ctx).stepCnt := by rw [ou.sqtOf, oz.sqtOf, hy.aseq]
  have haddr : courseAddr s x.ctx = courseAddr u x.ctx := by
    rw [courseAddr_obs (oz.trans ou), hy.rest]
    rfl
  have hbounds : u.sqt.bounds = x :: r := by rw [ou.sqt, oz.sqt, hy.rest, ← hb]
  rw [haddr, hstep, ← ou.sqtOf]
  unfold setBound setSqt
  dsimp only
  rw [hbounds]
  rfl

/-! ## The end of a boundary -/

/-- Whether a boundary that ends leaves its course to the context (R204, R213). -/
def leavesCourse (s : Blk) (x : Boundary) : Bool := x.build && !x.failed && ctxSt s x.ctx == .opened

/-- The boundary is done: it has left the list of boundaries, and its course, if it is good, is the context's (R204). -/
def courseLeft (s : Blk) (x : Boundary) (r : List Boundary) : Blk :=
  setSqt { s with sqt := { s.sqt with bounds := r } } x.ctx
    { sqtOf s x.ctx with course := if leavesCourse s x then some x.course else none }

/-- A boundary that ends with its launch steps the context, and the launch record is freed (R205). -/
theorem endBound_launch {s : Blk} {x : Boundary} {r : List Boundary} {i : Nat} (hb : s.sqt.bounds = x :: r) (hx : x.launch = some i) :
    endBound s x =
      freeLaunch (push (stepOn (courseLeft s x r) x.ctx (if leavesCourse s x then x.course.length else 0)) [.boundaries]) i := by
  have hdrop : s.sqt.bounds.drop 1 = r := by rw [hb]; rfl
  unfold endBound
  rw [hdrop, hx]
  rfl

/-- A boundary without a launch wakes the queue whose LAUNCH waited for it; one without a course leaves 0 in S14 (R204, R213). -/
theorem endBound_pre {s : Blk} {x : Boundary} {r : List Boundary} {q : Nat} (hb : s.sqt.bounds = x :: r) (hx : x.launch = none)
    (hp : x.pre = some q) : endBound s x = push (wakeBoundary (if leavesCourse s x then courseLeft s x r
      else setScratch (courseLeft s x r) (rgf s (bank rSqtSq x.ctx) 5 0) 14 0) q x.tail) [.boundaries] := by
  have hdrop : s.sqt.bounds.drop 1 = r := by rw [hb]; rfl
  unfold endBound
  rw [hdrop, hx, hp]
  rfl

/-- What the end of the boundary `x` changes but in the queues: the list of boundaries, and its context, which was `w` but for its
course (R204). -/
def BoundaryLeft (s : Blk) (x : Boundary) (r : List Boundary) (w : SqtCtx) (u : Blk) : Prop :=
  u = { s with sqt := { s.sqt with ctxs := u.sqt.ctxs, bounds := r }, csq := { s.csq with queues := u.csq.queues } } ∧
  sqtOf u x.ctx = { w with course := if leavesCourse s x then some x.course else none } ∧
  ∀ d, d ≠ x.ctx → sqtOf u d = sqtOf s d

theorem courseLeft_left (s : Blk) (x : Boundary) (r : List Boundary) : BoundaryLeft s x r (sqtOf s x.ctx) (courseLeft s x r) :=
  ⟨rfl, setSqt_same _ _ _, fun _ h => setSqt_other _ _ h⟩

theorem BoundaryLeft.wake {s u : Blk} {x : Boundary} {r : List Boundary} {w : SqtCtx} (h : BoundaryLeft s x r w u) (q tail : Nat) :
    BoundaryLeft s x r w (wakeBoundary u q tail) := by
  obtain ⟨hrest, hown, hothers⟩ := h
  refine ⟨?_, hown, hothers⟩
  conv_lhs => unfold wakeBoundary; rw [hrest]
  rfl

theorem BoundaryLeft.scratch {s u : Blk} {x : Boundary} {r : List Boundary} {w : SqtCtx} (h : BoundaryLeft s x r w u) (q n v : Nat) :
    BoundaryLeft s x r w (setScratch u q n v) := by
  obtain ⟨hrest, hown, hothers⟩ := h
  refine ⟨?_, hown, hothers⟩
  conv_lhs => unfold setScratch; rw [hrest]
  rfl

/-- The step of a context after its boundary's course is left (R205). -/
theorem SteppedOn.left {s u : Blk} {x : Boundary} {r : List Boundary} {n : Nat} (h : SteppedOn (courseLeft s x r) u x.ctx n) :
    BoundaryLeft s x r { sqtOf s x.ctx with stepCnt := ((sqtOf s x.ctx).stepCnt + 1) % 2 ^ 32 } u := by
  obtain ⟨-, hown, hothers⟩ := courseLeft_left s x r
  refine ⟨h.rest, ?_, fun d hd => (h.others d hd).trans (hothers d hd)⟩
  rw [h.own, hown]

/-- The queue of a context that steps: S14 and S15 are written, and nothing else (R205). -/
theorem SteppedOn.scratches {s u : Blk} {c n : Nat} (h : SteppedOn s u c n) :
    let q := rgf s (bank rSqtSq c) 5 0
    queueOf u q = { queueOf s q with scratch := (queueOf u q).scratch } ∧
    scratch (queueOf u q) 14 = BitVec.ofNat 64 n ∧ scratch (queueOf u q) 15 = BitVec.ofNat 64 (residents s c) ∧
    ∀ d, d ≠ 14 → d ≠ 15 → scratch (queueOf u q) d = scratch (queueOf s q) d := by
  intro q
  rw [h.queue]
  refine ⟨rfl, ?_, scratch_wr_same _ _ _, fun d h14 h15 => ?_⟩
  · rw [scratch_wr_other _ _ (by decide), scratch_wr_same]
  · rw [scratch_wr_other _ _ h15, scratch_wr_other _ _ h14]

/-! ## The advance of a course -/

theorem seqAdvance_none {s : Blk} {c : Nat} (h : ∀ p, courseLaunch s c = some p → p.2.advWait = false ∨ p.2.resLeft ≠ 0) :
    seqAdvance s c = s := by
  unfold seqAdvance
  cases hc : courseLaunch s c with
  | none => rfl
  | some p =>
    refine if_neg ?_
    rcases h p hc with h | h <;> simp [advDue, h]

theorem seqAdvance_due {s : Blk} {c i : Nat} {l : Launch} (hc : courseLaunch s c = some (i, l)) (hw : l.advWait = true)
    (hr : l.resLeft = 0) : seqAdvance s c = advanceLaunch s i l := by
  unfold seqAdvance
  rw [hc]
  exact if_pos (by simp [advDue, hw, hr])

/-- An entry that is not ACTIVE in the context, or is gone, is not advanced (R208). -/
theorem advanceOne_other {t : Blk} {c : Nat} {ls : Store Line} {e : CourseEnt} {k : Nat}
    (h : ∀ v, seqAt t e.idx = some v → v.ctx ≠ c ∨ v.state ≠ .active) : advanceOne c ls t (e, k) = t := by
  unfold advanceOne
  cases hv : seqAt t e.idx with
  | none => rfl
  | some v => exact if_pos (by simpa using h v hv)

/-- An ACTIVE entry of the context takes what its RESULT word says; a word that is missing is counted (R208). -/
theorem advanceOne_active {t : Blk} {ls : Store Line} {e : CourseEnt} {k : Nat} {v : SeqEnt} (hv : seqAt t e.idx = some v)
    (hst : v.state = .active) : advanceOne v.ctx ls t (e, k) =
      let w := v.advance e.tokens (resultOf ls k)
      if w.2 then ev (bump (setSeq t e.idx w.1) rSqtResMissing) 0xed v.ctx else setSeq t e.idx w.1 := by
  unfold advanceOne
  rw [hv]
  exact if_neg (by simp [hst])

/-- A RESULT word is there and sound (R207, R208). -/
def resultGood (x : Nat) : Prop := x.testBit 63 = true ∧ x / 2 ^ 19 % 2 ^ 44 = 0

theorem not_resultGood (x : Nat) : (!x.testBit 63 || decide ((x >>> 19) % 2 ^ 44 ≠ 0)) = true ↔ ¬ resultGood x := by
  rw [Nat.shiftRight_eq_div_pow]
  unfold resultGood
  cases x.testBit 63 <;> simp

/-- The advance of an ACTIVE entry in the terms of R208. -/
theorem advanceOne_says {t : Blk} {c : Nat} {ls : Store Line} {e : CourseEnt} {k : Nat} {v : SeqEnt} (hv : seqAt t e.idx = some v)
    (hc : v.ctx = c) (hst : v.state = .active) :
    let x := resultOf ls k
    ∃ adv, (resultGood x → adv = min (min (x % 65536) e.tokens) v.remain) ∧ (¬ resultGood x → adv = 0) ∧
      let why := if v.parkReq then v.prsn else if v.pos + adv > 0xffffffff then 5
        else if x.testBit 63 && x.testBit 16 then 1 else if v.remain = adv then 2
        else if x.testBit 63 && x.testBit 17 then 3 else v.prsn
      ∃ w, w = setSeq t e.idx { v with
          pos := min (v.pos + adv) 0xffffffff, remain := v.remain - adv, hold := v.hold || (x.testBit 63 && x.testBit 18)
          prsn := why
          parkReq := v.parkReq || decide (v.pos + adv > 0xffffffff) || (x.testBit 63 && (x.testBit 16 || x.testBit 17)) ||
            decide (v.remain = adv) } ∧
        (resultGood x → advanceOne c ls t (e, k) = w) ∧
        (¬ resultGood x → ∃ z, Counted w z rSqtResMissing ∧ Observed z (advanceOne c ls t (e, k))) := by
  intro x
  subst hc
  generalize hmiss : (!x.testBit 63 || decide ((x >>> 19) % 2 ^ 44 ≠ 0)) = missing
  have hgood : missing = true ↔ ¬ resultGood x := hmiss ▸ not_resultGood x
  obtain ⟨adv, hadv⟩ : ∃ adv, adv = if missing then 0 else min (min (x % 65536) e.tokens) v.remain := ⟨_, rfl⟩
  have heq := advance_eq v e.tokens x adv missing hmiss.symm hadv
  refine ⟨adv, fun h => hadv.trans (if_neg fun hm => hgood.mp hm h), fun h => hadv.trans (if_pos (hgood.mpr h)), _, rfl,
    fun h => ?_, fun h => ⟨_, counted_bump _ _, ?_⟩⟩ <;> rw [advanceOne_active hv hst, heq]
  · exact if_neg fun hm => hgood.mp hm h
  · dsimp only
    rw [if_pos (hgood.mpr h)]
    exact Observed.ev _ _ _

/-! ## The driver's writes -/

/-- REQ_FAULT written 1 clears it, where it stands (R213). -/
theorem sqtStatusWrite_one (s : Blk) (c : Nat) :
    sqtStatusWrite s c 1 = if (sqtOf s c).reqFault then clearReqFault s c else s := rfl

/-- A write of the notice head stores it, and lets notices and boundaries go on (R212). -/
theorem regAct_noticeHead (s : Blk) {page : Nat} (v : Word) (hp : page < 256) : regAct s (pageReg page 0x20c) v =
    some (push (storeAt s (pageReg page 0x20c) 0xffff v) [.notices page, .boundaries]) := by
  have hmask : rowMask rowsPage 0x20c = some 0xffff := by decide
  rw [regAct_page s v hp (by decide)]
  show some (push (storePage s page 0x20c v) _) = _
  unfold storePage
  rw [hmask]
  rfl

/-- What LAUNCH_END does once its moment has come (R97, R205). -/
theorem launchEnd_does {s y : Blk} {i : Nat} {l : Launch} {ws : List Nat} (hy : Contended s y l.ctx ws) (hl : launchOf s i = some l)
    (hd : launchDue s i l = true) : ∃ u v w,
      Observed (launchLatch y l.ctx true l.ltag l.tid) u ∧ LaunchCleared u v i l ∧ Released v w ∧
      (l.course = none → LaunchFreed w (launchEnd y i) i l) ∧
      (l.course ≠ none → launchEnd y i = push { w with sqt := { w.sqt with
        bounds := w.sqt.bounds ++ [{ ctx := l.ctx, launch := some i, pre := none, tail := l.reqTail }] } } [.boundaries]) := by
  have heq := launchEnd_due ((hy.launchOf i).trans hl) ((hy.launchDue i l).trans hd)
  obtain ⟨v, hclear, hv⟩ := launchCleared (ev (launchLatch y l.ctx true l.ltag l.tid) 0x6a l.ctx) i l
  have hrel := released v
  refine ⟨_, v, gstRelease v, Observed.ev _ _ _, hclear, hrel, fun hc => ?_, fun hc => ?_⟩
  · have hfreed := launchFreed ((hrel.launchOf i).trans hclear.record)
    rw [heq, hv, hc]
    exact hfreed
  · have hsome : ¬ l.course.isNone = true := by simpa using hc
    rw [heq, hv]
    exact if_neg hsome

/-- A boundary whose course writes are answered ends with its launch (R205). -/
theorem endBound_launch_does {s : Blk} {x : Boundary} {r : List Boundary} {i : Nat} {l : Launch} (hb : s.sqt.bounds = x :: r)
    (hx : x.launch = some i) (hl : launchOf s i = some l) :
    let n := if leavesCourse s x then x.course.length else 0
    ∃ u, SteppedOn (courseLeft s x r) u x.ctx n ∧ LaunchFreed { u with work := .boundaries :: u.work } (endBound s x) i l := by
  intro n
  have hstep := steppedOn (courseLeft s x r) x.ctx n
  refine ⟨_, hstep, ?_⟩
  rw [endBound_launch hb hx]
  refine launchFreed (Eq.trans ?_ hl)
  rw [hstep.rest]
  rfl

/-- A boundary without a launch: S14 of the queue of its context, and the queue that it wakes (R204, R213). -/
theorem endBound_pre_does {s : Blk} {x : Boundary} {r : List Boundary} {q : Nat} (hb : s.sqt.bounds = x :: r) (hx : x.launch = none)
    (hp : x.pre = some q) : ∃ u, BoundaryLeft s x r (sqtOf s x.ctx) u ∧ endBound s x = push u [.boundaries] ∧
      let y := fun d => if leavesCourse s x = false ∧ d = rgf s (bank rSqtSq x.ctx) 5 0 then wrScratch (queueOf s d) 14 0 else queueOf s d
      (∀ d, d ≠ q → queueOf u d = y d) ∧
      queueOf u q = if (y q).wait = .boundary then { y q with wait := .none, preTail := some x.tail } else y q := by
  have heq := endBound_pre hb hx hp
  generalize ht : (if leavesCourse s x then courseLeft s x r
    else setScratch (courseLeft s x r) (rgf s (bank rSqtSq x.ctx) 5 0) 14 0) = t at heq
  have hleft : BoundaryLeft s x r (sqtOf s x.ctx) t := by
    rw [← ht]
    split
    · exact courseLeft_left s x r
    · exact (courseLeft_left s x r).scratch _ _ _
  have hq : ∀ d, queueOf t d = if leavesCourse s x = false ∧ d = rgf s (bank rSqtSq x.ctx) 5 0
      then wrScratch (queueOf s d) 14 0 else queueOf s d := fun d => by
    rw [← ht]
    by_cases hgood : leavesCourse s x = true
    · rw [if_pos hgood, if_neg (fun h => Bool.noConfusion (hgood.symm.trans h.1))]
      rfl
    · rw [if_neg hgood]
      by_cases hd : d = rgf s (bank rSqtSq x.ctx) 5 0
      · rw [if_pos ⟨Bool.eq_false_iff.mpr hgood, hd⟩, hd, setScratch_queue]
        rfl
      · rw [if_neg (fun h => hd h.2), setScratch_other _ _ _ hd]
        rfl
  refine ⟨_, hleft.wake q x.tail, heq, fun d hd => ?_, ?_⟩
  · rw [wakeBoundary_other _ _ hd]
    exact hq d
  · rw [wakeBoundary_queue]
    simp only [hq]

/-- COURSE_BUILD in a context that is not ruled (R205, R292). -/
theorem updates_courseBuild {s : State} {x : Boundary} {r : List Boundary} {P : Blk → Prop} (hready : fnReady s.blk 14 = true)
    (hb : s.blk.sqt.bounds = x :: r) (hfree : ruledLive s.blk x.ctx = false)
    (hp : P (if buildDue s.blk x then buildBound s.blk x else s.blk)) : Updates .courseBuild s P := by
  refine updates_act (exec_courseBuild s) hready ?_
  rw [boundPhase_free _ hb hfree, courseBuild_eq hb]
  exact hp

/-- BOUNDARY_END in a context that is not ruled (R204, R292). -/
theorem updates_boundaryEnd {s : State} {x : Boundary} {r : List Boundary} {P : Blk → Prop} (hready : fnReady s.blk 14 = true)
    (hb : s.blk.sqt.bounds = x :: r) (hfree : ruledLive s.blk x.ctx = false)
    (hp : P (if boundDue x then endBound s.blk x else s.blk)) : Updates .boundaryEnd s P := by
  refine updates_act (exec_boundaryEnd s) hready ?_
  rw [boundPhase_free _ hb hfree, boundaryEnd_eq hb]
  exact hp

theorem boundDue_iff (x : Boundary) : boundDue x = true ↔ x.phase = .writing ∧ x.writes = 0 := by simp [boundDue]

/-- SEQ_ADVANCE of a course whose RESULT words stand ready (R208). -/
theorem updates_seqAdvance {s : State} {c i : Nat} {l : Launch} {P : Blk → Prop} (hready : fnReady s.blk 14 = true)
    (hfree : ruledLive s.blk c = false) (hc : courseLaunch s.blk c = some (i, l)) (hw : l.advWait = true) (hr : l.resLeft = 0)
    (hp : P (advanceLaunch s.blk i l)) : Updates (.seqAdvance c) s P := by
  refine updates_act (exec_seqAdvance c s) hready ?_
  rw [if_pos (freeCtx_of hfree), seqAdvance_due hc hw hr]
  exact hp

/-- The three ways a course advances or does not (R208, R215). -/
theorem advanceLaunch_eq (s : Blk) (i : Nat) (l : Launch) : advanceLaunch s i l =
    let u := setLaunch s i { l with advWait := false, resLines := [] }
    if ctxSt s l.ctx = .faulted then u
    else if l.resBad then courseFault u l
    else forEach (l.course.getD []).zipIdx u (advanceOne l.ctx l.resLines) := by
  unfold advanceLaunch
  simp only [beq_iff_eq]
  rfl

/-- Fault 0x57 tells the launch's LTAG and TID, and how many entries its course had (R208, R392). -/
theorem courseFault_eq (u : Blk) (l : Launch) : courseFault u l = ctxFault (orBits u rSqtIrq 2) l.ctx uSqt 0x57
    (mkDetail (l.ltag % 2 ^ 32) (l.tid % 2 ^ 12) (l.course.getD []).length) := by
  unfold courseFault
  rw [put_zero, put_zero]

/-- Settles O55. That in a FAULTED or ORPHANED context the boundary runs and leaves no course, that S14 is 0 with the step's advance, and
what comes before the boundary are the model's choice (log entry 21). -/
theorem launchesEndAndCoursesAreBuilt : Obligations.LaunchesEndAndCoursesAreBuilt := by
  refine ⟨fun i ws s hready => ⟨fun l hl hd hfree => ?_, exec_launchEnd_early hready⟩, fun s x r hready hb hfree => ?_,
    fun c s hready hfree => ⟨fun hnot => ?_, fun i l hc hw hr => ⟨fun hst => ?_, fun hst hbad => ?_, fun hst hbad => ?_⟩⟩,
    fun a s hs => ⟨fun hf => ?_, fun hf => ?_⟩, fun page v a s hp hs => ?_⟩
  · have hy := contended s.blk l.ctx ws
    obtain ⟨u, v, w, hdoes⟩ := launchEnd_does hy hl hd
    exact exec_launchEnd_due hready hl hd hfree ⟨_, u, v, w, hy, hdoes⟩
  · refine ⟨fun hd => ?_, fun hd hst => ?_, fun hd hst => ?_, fun hnot => ?_,
      fun hph hw => ⟨fun i l hx hl => ?_, fun q hx hq => ?_⟩⟩
    · exact updates_courseBuild hready hb hfree (if_neg (ne_true_of_eq_false hd))
    · exact updates_courseBuild hready hb hfree ((if_pos hd).trans (buildBound_shut hb hst))
    · refine updates_courseBuild hready hb hfree ?_
      obtain ⟨took, y, u, hy, hu, heq⟩ := buildBound_opened hb hst
      exact ⟨_, took, y, u, seqCands_mem _ _, seqCands_sorted _ _, hy, hu, (if_pos hd).trans heq⟩
    · refine updates_boundaryEnd hready hb hfree (if_neg fun h => ?_)
      obtain ⟨hph, hw⟩ := (boundDue_iff x).mp h
      exact hnot.elim (fun h => h hph) (fun h => h hw)
    · refine updates_boundaryEnd hready hb hfree ?_
      rw [if_pos ((boundDue_iff x).mpr ⟨hph, hw⟩)]
      obtain ⟨u, hstep, hfreed⟩ := endBound_launch_does hb hx hl
      exact ⟨u, hstep.left, hfreed, hstep.queues, hstep.scratches⟩
    · refine updates_boundaryEnd hready hb hfree ?_
      rw [if_pos ((boundDue_iff x).mpr ⟨hph, hw⟩)]
      exact endBound_pre_does hb hx hq
  · refine updates_act (exec_seqAdvance c s) hready ?_
    rw [if_pos (freeCtx_of hfree)]
    exact seqAdvance_none hnot
  · refine updates_seqAdvance hready hfree hc hw hr ?_
    rw [advanceLaunch_eq]
    exact if_pos hst
  · refine updates_seqAdvance hready hfree hc hw hr ?_
    rw [advanceLaunch_eq]
    exact (if_neg hst).trans ((if_pos hbad).trans (courseFault_eq _ _))
  · refine updates_seqAdvance hready hfree hc hw hr ⟨advanceOne l.ctx l.resLines, ?_,
      fun t e k => ⟨advanceOne_other, fun v hv hvc hact => advanceOne_says hv hvc hact⟩⟩
    rw [advanceLaunch_eq]
    exact (if_neg hst).trans (if_neg (ne_true_of_eq_false hbad))
  · refine writes_bus (exec_reqFaultClear a s) hs (regAct_sqtstat s.blk) ?_
    rw [sqtStatusWrite_one, if_pos hf]
    rfl
  · refine writes_bus (exec_reqFaultClear a s) hs (regAct_sqtstat s.blk) ?_
    rw [sqtStatusWrite_one, if_neg (ne_true_of_eq_false hf)]
  · have hexec := exec_noticeHeadWrite page v a s
    rw [Nat.mod_eq_of_lt hp] at hexec
    exact writes_bus hexec hs (regAct_noticeHead s.blk v hp) ⟨_, rfl, storeAt_only s.blk _ 0xffff v (by decide)⟩
      (asksFor_page (by unfold pageReg rPage; omega) (by unfold pageReg rPage; omega))

end Sys2Proof.Machine

/-! Proofs. The task dispatched next, and its dispatch (O22, O23). -/
namespace Sys2Proof.Machine

/-! ## The choice -/

/-- The first hit in a sorted list comes before every other element that would be one. -/
theorem findSome_sorted {α β : Type} {le : α → α → Prop} {f : α → Option β} {l : List α} {v : β} (hsort : l.Pairwise le)
    (h : l.findSome? f = some v) : ∃ x ∈ l, f x = some v ∧ ∀ y ∈ l, f y ≠ none → y = x ∨ le x y := by
  obtain ⟨a, b, x, rfl, hx, hnone⟩ := findSome_first f l v h
  obtain ⟨-, hb, -⟩ := List.pairwise_append.mp hsort
  refine ⟨x, by simp, hx, fun y hy hfy => ?_⟩
  rcases List.mem_append.mp hy with hya | hyx
  · exact absurd (hnone y hya) hfy
  · exact (List.mem_cons.mp hyx).imp_right ((List.pairwise_cons.mp hb).1 y)

/-- The dispatch of a READY task, if it can be placed now (R139). -/
def offerOf (s : Blk) (p : Nat × Task) : Option (Nat × Task × Nat) :=
  if ctxDispatches s p.2.ctx && !brkHolds s p.2.ctx then (placeTo s p.2).map (fun e => (p.1, p.2, e)) else none

/-- The first dispatch of a class that can be made now (R139). -/
def offerOfClass (s : Blk) (c : Nat) : Option (Nat × Task × Nat) :=
  if tokensOk s c then (readyOf s c).findSome? (offerOf s) else none

theorem nextDispatch_eq (s : Blk) : nextDispatch s = if s.cfg.srst then none else [0, 1, 2, 3].findSome? (offerOfClass s) := rfl

theorem offerOf_some {s : Blk} {p : Nat × Task} {slot e : Nat} {t : Task} (h : offerOf s p = some (slot, t, e)) :
    p = (slot, t) ∧ ctxDispatches s t.ctx = true ∧ placeTo s t = some e := by
  unfold offerOf at h
  split at h
  · rename_i hgo
    obtain ⟨e', hplace, heq⟩ := Option.map_eq_some_iff.mp h
    cases heq
    exact ⟨rfl, (Bool.and_eq_true_iff.mp hgo).1, hplace⟩
  · cases h

theorem offerOf_ne_none {s : Blk} {p : Nat × Task} (hctx : ctxDispatches s p.2.ctx = true) (hbrk : brkHolds s p.2.ctx = false)
    (hplace : placeTo s p.2 ≠ none) : offerOf s p ≠ none := by
  unfold offerOf
  rw [hctx, hbrk]
  simpa using hplace

/-- A task that is placed goes to its own engine, or to one of its eligible set, which has a credit and whose region's port is
free (R137 to R139). -/
theorem placeTo_some {s : Blk} {t : Task} {e : Nat} (h : placeTo s t = some e) :
    (t.bound = some e ∨ (t.bound = none ∧ isRuled s t.ctx = false ∧ e ∈ eligible s t)) ∧
    hasCredit s e t.cls = true ∧ Store.get? s.ports.rip (e / 256) = none := by
  unfold placeTo at h
  dsimp only at h
  split at h
  case h_2 => cases h
  case h_1 e' heng =>
    split at h
    case isFalse => cases h
    case isTrue hcan =>
      cases h
      obtain ⟨hcred, hport⟩ := Bool.and_eq_true_iff.mp hcan
      refine ⟨?_, hcred, Option.isNone_iff_eq_none.mp hport⟩
      cases hb : t.bound with
      | some e' =>
        rw [hb] at heng
        exact .inl heng
      | none =>
        rw [hb] at heng
        dsimp only at heng
        split at heng
        case isTrue => cases heng
        case isFalse hfree =>
          exact .inr ⟨rfl, eq_false_of_ne_true hfree, (List.mem_filter.mp (argmin_mem _ _ _ heng)).1⟩

/-- What a class dispatches first is the first of its READY tasks, by level and SEQ, that can be placed (R122, R139). -/
theorem offerOfClass_some {s : Blk} {c slot e : Nat} {t : Task} (h : offerOfClass s c = some (slot, t, e)) :
    tokensOk s c = true ∧ (slot, t) ∈ s.tsk.tasks ∧ t.state = .ready ∧ t.cls = c ∧ offerOf s (slot, t) = some (slot, t, e) ∧
    ∀ p ∈ s.tsk.tasks, p.2.state = .ready → p.2.cls = c → offerOf s p ≠ none → readyLe (slot, t) p = true := by
  unfold offerOfClass at h
  split at h
  case isFalse => cases h
  case isTrue htok =>
    obtain ⟨x, hx, hoffer, hfirst⟩ := findSome_sorted (readyOf_sorted s c) h
    obtain ⟨rfl, -, -⟩ := offerOf_some hoffer
    obtain ⟨hmem, hready, hcls⟩ := (mem_readyOf s c _).mp hx
    refine ⟨htok, hmem, hready, hcls, hoffer, fun p hp hpr hpc hpo => ?_⟩
    rcases hfirst p ((mem_readyOf s c p).mpr ⟨hp, hpr, hpc⟩) hpo with rfl | hle
    · exact (readyLe_iff _ _).mpr (.inr ⟨rfl, Nat.le_refl _⟩)
    · exact hle

/-- A class with a token and a task that can be placed dispatches. -/
theorem offerOfClass_ne_none {s : Blk} {p : Nat × Task} (htok : tokensOk s p.2.cls = true) (hp : p ∈ s.tsk.tasks)
    (hready : p.2.state = .ready) (hoffer : offerOf s p ≠ none) : offerOfClass s p.2.cls ≠ none := by
  unfold offerOfClass
  rw [if_pos htok]
  exact fun h => hoffer (List.findSome?_eq_none_iff.mp h p ((mem_readyOf s _ p).mpr ⟨hp, hready, rfl⟩))

theorem tokensOk_iff (s : Blk) (c : Nat) : tokensOk s c = true ↔ s.iss.ceil = 255 ∨ (if c = 0 then 1 else 2) ≤ s.iss.tokens := by
  simp [tokensOk]

theorem ctxDispatches_iff (s : Blk) (c : Nat) : ctxDispatches s c = true ↔ ctxSt s c = .opened ∨ ctxSt s c = .orphaned := by
  simp [ctxDispatches]

/-- Settles O23: the classes are asked in their order, and each for the first of its sorted tasks that can be placed
(`findSome_sorted`). -/
theorem nextDispatchIsFirstThatCan : Obligations.NextDispatchIsFirstThatCan := by
  intro s slot e t h
  rw [nextDispatch_eq] at h
  split at h
  case isTrue => cases h
  case isFalse =>
    obtain ⟨c, hc, hoffer, hfirst⟩ := findSome_sorted (le := (· < ·)) (by decide) h
    obtain ⟨htok, hmem, hready, rfl, hplaced, hbefore⟩ := offerOfClass_some hoffer
    obtain ⟨-, hctx, hplace⟩ := offerOf_some hplaced
    obtain ⟨heng, hcred, hport⟩ := placeTo_some hplace
    have hlt : t.cls < 4 := by
      simp only [List.mem_cons, List.not_mem_nil, or_false] at hc
      omega
    refine ⟨hmem, hready, hlt, (ctxDispatches_iff s _).mp hctx, (tokensOk_iff s _).mp htok, heng, hcred, hport,
      fun slot' t' hmem' hready' htok' hctx' hbrk' hplace' => ?_⟩
    have hoffer' : offerOf s (slot', t') ≠ none := offerOf_ne_none hctx' hbrk' hplace'
    by_cases h4 : 4 ≤ t'.cls
    · exact .inr (.inl h4)
    · have hc' : t'.cls ∈ [0, 1, 2, 3] := by
        simp only [List.mem_cons, List.not_mem_nil, or_false]
        omega
      rcases hfirst t'.cls hc' (offerOfClass_ne_none htok' hmem' hready' hoffer') with hsame | hless
      · exact .inr (.inr ⟨hsame.symm, (readyLe_iff _ _).mp (hbefore _ hmem' hready' hsame hoffer')⟩)
      · exact .inl hless

/-! ## The dispatch -/

/-- Settles O22: the parts of a dispatch by `dispatch_obs`, the contested grant by `contended`. -/
theorem dispatchIssuesTheTask : Obligations.DispatchIssuesTheTask := by
  intro w s hready
  refine ⟨fun hnone => updates_act (exec_dispatchDecision w s) hready ?_, fun slot t e hsome => ?_⟩
  · unfold decideNext
    rw [hnone]
  · refine updates_act (exec_dispatchDecision w s) hready ?_
    have hobs := dispatch_obs s.blk slot e t
    have hgrant := contended (dispatch s.blk slot t e) t.ctx w
    have hctx : (dispatch s.blk slot t e).ctx = s.blk.ctx := by rw [hobs.rest]
    have hruled : ∀ c, isRuled (dispatch s.blk slot t e) c = isRuled s.blk c := hobs.ruled
    have hdecide : decideNext s.blk w = contested (dispatch s.blk slot t e) t.ctx w := by
      unfold decideNext
      rw [hsome]
    rw [hdecide]
    refine ⟨_, hobs, ?_, ?_, fun c => ?_⟩
    · rw [hgrant.rest]
    · rw [hgrant.rest, hctx]
    · rw [hgrant.slots c, hruled c, slotOf_congr hctx c]

end Sys2Proof.Machine

/-! Proofs. Completion words (O35). -/
namespace Sys2Proof.Machine

/-! ## A word that has been taken -/

/-- The block once a word of a region's port has been taken and its grant counted: the port's answer, observation and the
timing-choice counters alone differ (R48, R297). -/
structure Heard (s t : Blk) : Prop where
  rest : t = { s with
    regs := t.regs, obs := t.obs, dbg := t.dbg, ports := t.ports, ctx := { s.ctx with slots := t.ctx.slots } }
  regs : ∀ k, unitKey k → rg t k = rg s k

namespace Heard

theorem observed {s t : Blk} {n code e fails : Nat} (h : Observed (rcpAnswered s n code e fails) t) : Heard s t where
  rest := by rw [h.rest]; rfl
  regs := h.regs

theorem contended {s t u : Blk} {x : Nat} {ws : List Nat} (h : Heard s t) (hc : Contended t u x ws) : Heard s u where
  rest := by rw [hc.rest, h.rest]
  regs k hk := by
    rw [hc.rest]
    exact h.regs k hk

section
variable {s t : Blk} (h : Heard s t)
include h

theorem tsk : t.tsk = s.tsk := by rw [h.rest]
theorem sve : t.sve = s.sve := by rw [h.rest]
theorem iss : t.iss = s.iss := by rw [h.rest]
theorem cfg : t.cfg = s.cfg := by rw [h.rest]
theorem owed : t.ctx.owed = s.ctx.owed := by rw [h.rest]
theorem free : t.free = s.free := by rw [h.rest]
theorem taskOf (slot : Nat) : taskOf t slot = taskOf s slot := by unfold Machine.taskOf; rw [h.tsk]
theorem launchOf (i : Nat) : launchOf t i = launchOf s i := by unfold Machine.launchOf; rw [h.tsk]
end

end Heard

/-! ## A completion word that fits its task -/

/-- The block once a completion word has been taken, answered and counted (R48, R340). -/
def completionHeard (s : Blk) (n e : Nat) (w : Word64) : Blk := ev (rcpAnswered s n 0 e 0) (0x11 + n) (cwCtx w)

theorem completionHeard_observed (s : Blk) (n e : Nat) (w : Word64) :
    Observed (rcpAnswered s n 0 e 0) (completionHeard s n e w) := Observed.ev _ _ _

section
variable {s : Blk} {n src : Nat} {w : Word64} (hl : Listens s n src) (q : List Nat)
include hl

/-- A word that fits a task ends it at once where no completion of the task is owed (R142, R287). -/
theorem takeCompletion_fits {k : Task} (hk : cwMatch s (n * 256 + src) w = some k)
    (ho : ∀ o ∈ s.ctx.owed, o.what ≠ .completion (cwSlot w)) : takeCompletion s n src w true q =
      completeTask (wordSeen (contested (completionHeard s n (n * 256 + src) w) k.ctx q) w) (n * 256 + src) w k := by
  have hheard := Heard.observed (completionHeard_observed s n (n * 256 + src) w)
  have hgrant := hheard.contended (contended _ k.ctx q)
  have hmatch := (cwMatch_stable hheard.tsk (n * 256 + src) w).trans hk
  have hseen : (wordSeen (contested (completionHeard s n (n * 256 + src) w) k.ctx q) w).tsk = s.tsk := by
    rw [(wordSeen_obs _ w).rest]
    exact hgrant.tsk
  have hmatch' := (cwMatch_stable hseen (n * 256 + src) w).trans hk
  unfold takeCompletion
  dsimp only
  rw [rcp_take hl]
  dsimp only
  unfold completionHeard at *
  rw [hmatch]
  dsimp only
  rw [holdOwed_none _ _ (by rw [hgrant.owed]; exact ho)]
  dsimp only
  rw [applyCompletion_seen, hmatch']

/-- What fits no task is applied, and its grant counted after it. -/
theorem takeCompletion_strays (hk : cwMatch s (n * 256 + src) w = none) : takeCompletion s n src w true q =
    contested (applyCompletion (completionHeard s n (n * 256 + src) w) (n * 256 + src) w) (cwCtx w) q := by
  have hheard := Heard.observed (completionHeard_observed s n (n * 256 + src) w)
  have hmatch := (cwMatch_stable hheard.tsk (n * 256 + src) w).trans hk
  unfold takeCompletion
  dsimp only
  rw [rcp_take hl]
  dsimp only
  unfold completionHeard at *
  rw [hmatch]
end

/-- Settles O35: a word that fits by `completes` and `completes_bad`; one that fits none by the branch of `applyCompletion` that it
takes. That reserved bits count once for a word is the model's choice (assumption 18). -/
theorem completionsEndTasks : Obligations.CompletionsEndTasks := by
  intro n src w q s hl e slot
  have he : e < 4096 := by
    have hn := hl.port
    have hs := hl.eng
    omega
  have hobs := completionHeard_observed s.blk n e w
  have hheard := Heard.observed hobs
  refine ⟨fun k hk ho hc => ?_, fun hk h hp => ?_, fun hk hp hocc hheld => ?_, fun hk hp hocc => ?_⟩
  · have hgrant := contended (completionHeard s.blk n e w) k.ctx q
    have hv := hheard.contended hgrant
    have hseen := wordSeen_obs (contested (completionHeard s.blk n e w) k.ctx q) w
    have htask : taskOf (wordSeen (contested (completionHeard s.blk n e w) k.ctx q) w) slot = some k := by
      rw [hseen.taskOf, hv.taskOf]
      exact (cwMatch_task hk).1
    have howed : ∀ o ∈ (wordSeen (contested (completionHeard s.blk n e w) k.ctx q) w).ctx.owed, o.what ≠ .completion slot := by
      rw [hseen.rest]
      dsimp only
      rw [hv.owed]
      exact ho
    refine ⟨fun h0 => completion_word hl.port hl.eng hl.iss ?_, fun h12 => completion_word hl.port hl.eng hl.iss ?_⟩
    · obtain ⟨u, hu, hends⟩ := completes htask hc howed h0 rfl
      rw [takeCompletion_fits hl q hk ho]
      exact ⟨_, _, u, hobs, hgrant, (hseen.credited e w k).trans hu, hends⟩
    · obtain ⟨u, hu, hends⟩ := completes_bad hc howed h12 he rfl
      rw [takeCompletion_fits hl q hk ho]
      exact ⟨_, _, u, hobs, hgrant, (hseen.credited e w k).trans hu, hends⟩
  all_goals
    have hmatch : cwMatch (completionHeard s.blk n e w) e w = none := (cwMatch_stable hheard.tsk e w).trans hk
    refine completion_word hl.port hl.eng hl.iss ?_
    rw [takeCompletion_strays hl q hk]
  · obtain ⟨t, ht, heq⟩ := purge_settled hmatch (by rw [hheard.iss]; exact hp)
    rw [heq]
    exact ⟨t, _, _, hobs.trans ht, counted_bump _ _, (Observed.ev0 _ _).trans (Observed.trace _ _ _ _), contended _ _ _⟩
  · obtain ⟨t, ht, heq⟩ := stale_credit hmatch (by rw [hheard.iss]; exact hp) (by unfold occ; rw [hheard.iss]; exact hocc)
      (by rw [hheard.tsk]; exact hheld)
    rw [heq]
    exact ⟨t, _, _, hobs.trans ht, counted_bump _ _, (Observed.ev0 _ _).trans (Observed.trace _ _ _ _), contended _ _ _⟩
  · obtain ⟨t, ht, heq⟩ := credit_error hmatch (by rw [hheard.iss]; exact hp) (by unfold occ; rw [hheard.iss]; exact hocc)
    rw [heq, engDetail _ _ (fld_lt _ _ _) he]
    exact ⟨t, _, _, _, _, hobs.trans ht, counted_bump _ _, Observed.ev0 _ _, logged _ _ _ _ _ _ _, Observed.trace _ _ _ _,
      contended _ _ _⟩

end Sys2Proof.Machine

/-! Proofs. Candidate records and enqueue requests (O36). -/
namespace Sys2Proof.Machine

/-! ## What the taking of a word leaves alone -/

namespace Heard

section
variable {s t : Blk} (h : Heard s t)
include h

theorem srcOf (l scope : Nat) : srcOf t l scope = srcOf s l scope := by unfold Machine.srcOf; rw [h.sve]

theorem scopeGen (l : Launch) (scope : Nat) : scopeGen t l scope = scopeGen s l scope := by
  unfold Machine.scopeGen topImg findGen genImg recAt
  rw [h.tsk]

theorem scopeNode (l : Launch) (scope node : Nat) : scopeNode t l scope node = scopeNode s l scope node := by
  unfold Machine.scopeNode genImg recAt
  rw [h.scopeGen, h.tsk]

theorem expertNode (l : Launch) (scope : Nat) : expertNode t l scope = expertNode s l scope := by
  unfold Machine.expertNode genImg recAt
  rw [h.scopeGen, h.tsk]

theorem topImg (l : Launch) : topImg t l = topImg s l := by
  unfold Machine.topImg findGen genImg recAt
  rw [h.tsk]

theorem ctxUsed (c : Nat) : ctxUsed t c = ctxUsed s c := by
  unfold Machine.ctxUsed Machine.taskOf
  rw [h.tsk]

theorem ctxQuota (c : Nat) : ctxQuota t c = ctxQuota s c := rgf_unit h.regs (bankKey _ _ (by decide)) _ _

theorem setNexp (n : Word256) : setNexp t (xpSet n) = setNexp s (xpSet n) := rgf_unit h.regs (setKey _ _ (xpSet_lt n) (by decide)) _ _

theorem setHshift (n : Word256) : setHshift t (xpSet n) = setHshift s (xpSet n) :=
  rgf_unit h.regs (setKey _ _ (xpSet_lt n) (by decide)) _ _

theorem scopeHomes (n : Word256) : scopeHomes t n = scopeHomes s n := by
  unfold Machine.scopeHomes setRange
  rw [rgf_unit h.regs (setKey _ _ (xpSet_lt n) (by decide)), rgf_unit h.regs (setKey _ _ (xpSet_lt n) (by decide))]

theorem ownDie : ownDie t = ownDie s := by unfold Machine.ownDie; rw [h.cfg]
end

end Heard

/-! ## Candidate records -/

/-- The block once a candidate record has been taken, answered and counted for its task's context (R48, R340). -/
def recordHeard (s : Blk) (n e : Nat) (w : Word64) : Blk :=
  evN (rcpAnswered s n 0 e 0) (0x21 + n) ((taskOf s (crSlot w)).map (·.ctx)) 1

theorem recordHeard_observed (s : Blk) (n e : Nat) (w : Word64) : Observed (rcpAnswered s n 0 e 0) (recordHeard s n e w) :=
  Observed.evN _ _ _ _

theorem takeRecord_eq {s : Blk} {n src : Nat} (hl : Listens s n src) (w : Word64) (q : List Nat) : takeRecord s n src w true q =
    candRecord (contestedOpt (recordHeard s n (n * 256 + src) w) ((taskOf s (crSlot w)).map (·.ctx)) q) (n * 256 + src) w := by
  unfold takeRecord
  rw [rcp_take hl]
  rfl

/-- A record for a slot that holds no task is counted and recorded (R167). -/
theorem candRecord_noTask {s : Blk} {e : Nat} {w : Word64} (he : e < 4096) (h : taskOf s (crSlot w) = none) : candRecord s e w =
    unitFault (evN (bump s rSveCandBad) 0xd1 none 1) uSve 0x31 none (crSlot w + e * 2 ^ 64) := by
  unfold candRecord
  dsimp only
  rw [h]
  exact congrArg (unitFault _ uSve 0x31 none) (engDetail (crSlot w) e (fld_lt _ _ _) he)

/-- A home of a scope has its number below their count (R168). -/
theorem home_lt {s : Blk} {n : Word256} {i ent : Nat} (h : (scopeHomes s n)[i]? = some ent) :
    i < if xpHomeMode n = 0 then 1 else (setRange s (xpSet n) 0xc).2 := by
  obtain ⟨hlt, -⟩ := List.getElem?_eq_some_iff.mp h
  unfold scopeHomes at hlt
  split at hlt
  · rw [if_pos ‹_›]
    simpa using hlt
  · rw [if_neg ‹_›]
    simpa using hlt

/-- A record that passes its checks goes to its home (R167, R168). -/
theorem candRecord_sent {s : Blk} {e : Nat} {w : Word64} {k : Task} {m : Nat} {nd : Word256} {ent : Nat}
    (hk : taskOf s (crSlot w) = some k) (hnode : (launchOf s k.launch).bind (fun l => expertNode s l k.scope) = some (m, nd))
    (hkind : k.kind = .kernel) (hst : k.state = .issued) (heng : k.issuedEng = e) (hsrc : xpSrc nd = k.node)
    (hended : (srcOf s k.launch k.scope).ended = false) (hv : (setV s (xpSet nd) (crScore w)).isSome = true)
    (hexp : crExpert w < setNexp s (xpSet nd))
    (hhome : (scopeHomes s nd)[crTok w >>> setHshift s (xpSet nd)]? = some ent) : candRecord s e w = emitRec s k ent w := by
  have hlt := home_lt hhome
  have hv' : (setV s (xpSet nd) (crScore w)).isNone = false := by
    rw [Option.isNone_eq_false_iff]
    exact hv
  have hget : (scopeHomes s nd).getD (crTok w >>> setHshift s (xpSet nd)) 0 = ent := by
    rw [List.getD_eq_getElem?_getD, hhome]
    rfl
  unfold candRecord
  dsimp only
  rw [hk]
  dsimp only
  rw [hnode]
  dsimp only
  rw [if_neg (by simp [hkind, hst, heng, hsrc]), if_neg (by simp [hended]), if_neg (by simp [hv']), if_neg (by simp; omega), hget]

/-- A record joins the message for a home on another die while the message has room (R168). -/
theorem emitRec_joins {s : Blk} {k : Task} {ent : Nat} {x : Stream} (w : Word64)
    (hx : s.sve.streams.find? (fun y => y.launch == k.launch && y.scope == k.scope && y.ent == ent) = some x)
    (hgo : x.stopped = false) (hroom : x.recs.length < 31) (hdie : (dieEnt s ent).die ≠ ownDie s) :
    emitRec s k ent w = modStream s x.uid (fun _ => { x with recs := x.recs ++ [w] }) := by
  have hneed : needStream s k ent = (x, s) := by
    unfold needStream
    rw [hx]
  have hstays : (dieEnt (modStream s x.uid (fun _ => { x with recs := x.recs ++ [w] })) ent).die ≠
      ownDie (modStream s x.uid (fun _ => { x with recs := x.recs ++ [w] })) := hdie
  unfold emitRec
  rw [hneed]
  dsimp only
  rw [if_neg (by simp [hgo]), if_neg (by simp [hstays]; omega)]

/-! ## Enqueue requests -/

/-- The block once an enqueue request has been taken, answered and counted for its task's context (R48, R340). -/
def enqueueHeard (s : Blk) (n e c : Nat) : Blk := ev (rcpAnswered s n 0 e 0) (0x31 + n) c

theorem enqueueHeard_observed (s : Blk) (n e c : Nat) : Observed (rcpAnswered s n 0 e 0) (enqueueHeard s n e c) := Observed.ev _ _ _

section
variable {s : Blk} {n src : Nat} {w : Word64} {k : Task} (hl : Listens s n src) (q : List Nat)
  (hk : taskOf s (fld w 63 47) = some k) (hstamp : stampOf s (fld w 63 47) = fld w 46 39) (hst : k.state = .issued)
  (heng : k.issuedEng = n * 256 + src)
include hl hk hstamp hst heng

/-- Without leave of its context a request is answered 10, counted, and recorded (R152). -/
theorem takeEnqueue_refused (hno : rgb s (bank rOrdMode k.ctx) 2 = false) : takeEnqueue s n src w true q =
    ctxFault (ev0 (bump (rcpDiscard (rcpAnswered s n 0 (n * 256 + src) 0) n) rEnqRefused) 0x7f) k.ctx uIss 0x54
      (fld w 63 47 + (n * 256 + src) * 2 ^ 64) := by
  have he : n * 256 + src < 4096 := by
    have hn := hl.port
    have hs := hl.eng
    omega
  have hk' : taskOf (rcpAnswered s n 0 (n * 256 + src) 0) (fld w 63 47) = some k := hk
  have hno' : rgb (rcpAnswered s n 0 (n * 256 + src) 0) (bank rOrdMode k.ctx) 2 = false := hno
  unfold takeEnqueue
  dsimp only
  rw [rcp_take hl]
  dsimp only
  rw [hk']
  dsimp only
  rw [if_pos ⟨hstamp, hst, heng⟩, if_pos (by simp [hno']), engDetail _ _ (fld_lt _ _ _) he]

/-- With leave of its context a request is applied at once where no completion of its task is owed (R152, R287). -/
theorem takeEnqueue_allowed (hyes : rgb s (bank rOrdMode k.ctx) 2 = true)
    (ho : ∀ o ∈ s.ctx.owed, o.what ≠ .completion (fld w 63 47)) : takeEnqueue s n src w true q =
      applyEnqueue (contested (enqueueHeard s n (n * 256 + src) k.ctx) k.ctx q) (n * 256 + src) w := by
  have hgrant := (Heard.observed (enqueueHeard_observed s n (n * 256 + src) k.ctx)).contended (contended _ k.ctx q)
  have hk' : taskOf (rcpAnswered s n 0 (n * 256 + src) 0) (fld w 63 47) = some k := hk
  have hyes' : rgb (rcpAnswered s n 0 (n * 256 + src) 0) (bank rOrdMode k.ctx) 2 = true := hyes
  have hnow := holdOwed_none (s := contested (enqueueHeard s n (n * 256 + src) k.ctx) k.ctx q) (.enqueue (n * 256 + src) w) false
    (by rw [hgrant.owed]; exact ho)
  unfold enqueueHeard at *
  unfold takeEnqueue
  dsimp only
  rw [rcp_take hl]
  dsimp only
  rw [hk']
  dsimp only
  rw [if_pos ⟨hstamp, hst, heng⟩, if_neg (by simp [hyes']), hnow]
end

/-- An allowed request of a task for a kernel node of its scope, with a free slot within the quota, makes a task that starts (R152). -/
theorem applyEnqueue_makes {s : Blk} {e : Nat} {w : Word64} {k : Task} {l : Launch} {nd : Word256} {top : Img} {i : Nat}
    (hk : taskOf s (fld w 63 47) = some k) (hlaunch : launchOf s k.launch = some l)
    (hnode : scopeNode s l k.scope (fld w 38 27) = some nd) (htop : topImg s l = some top) (hrsv : fld w 10 0 = 0)
    (hkind : nKind nd = 1) (harg : argOf top l k.scope nd + fld w 26 11 * 0x40 < 2 ^ 52) (hquota : ctxUsed s k.ctx < ctxQuota s k.ctx)
    (hslot : (takeSlots s 1).1 = some [i]) : applyEnqueue s e w =
      startTask (modLaunch (placeTask (nextSeq (takeSlots s 1).2).2 i (mkTask k.launch l k.tid k.tgen k.scope (fld w 38 27) nd .enqueued
        none (argOf top l k.scope nd + fld w 26 11 * 0x40) s.tsk.seqNext)) k.launch (fun l => { l with
          slots := l.slots ++ [i]
          members := l.members ++ [{ scope := k.scope, node := fld w 38 27, slot := i, joint := none }] })) i := by
  have hseq := takeSlots_seq s 1
  have hsplit : takeSlots s 1 = (some [i], (takeSlots s 1).2) := Prod.ext hslot rfl
  generalize (takeSlots s 1).2 = u at hseq hsplit ⊢
  have hdraw : nextSeq u = (s.tsk.seqNext, (nextSeq u).2) := by rw [← hseq]; rfl
  unfold applyEnqueue
  dsimp only
  rw [hk]
  dsimp only
  rw [hlaunch]
  dsimp only
  rw [hnode, htop]
  dsimp only
  rw [if_neg (by simp [hrsv, hkind]; omega), if_neg (Nat.not_le.mpr hquota), hsplit]
  dsimp only
  rw [hdraw]

/-- Settles O36: a record by `emitRec_joins` once its checks have passed, a request by `takeEnqueue_refused` or `applyEnqueue_makes`. -/
theorem enginesSendRecordsAndEnqueue : Obligations.EnginesSendRecordsAndEnqueue := by
  intro n src w q s hl e
  have he : e < 4096 := by
    have hn := hl.port
    have hs := hl.eng
    omega
  refine ⟨fun k l nd m x ent hk hnode hkind hst heng hsrc hended hv hexp hhome hx hgo hroom hdie hrecs => ?_, fun hnone => ?_,
    fun k hk hstamp hst heng => ⟨fun hno => ?_, fun l nd top i hyes ho hlaunch hnode htop hrsv hkind harg hquota hslot => ?_⟩⟩
  · have hu := (Heard.observed (recordHeard_observed s.blk n e w)).contended (contended _ k.ctx q)
    refine candidate_record hl.port hl.eng hl.iss ⟨_, _, recordHeard_observed s.blk n e w, contended _ k.ctx q, ?_⟩
    rw [takeRecord_eq hl, hk, hrecs]
    refine (candRecord_sent (m := m) (ent := ent) ((hu.taskOf _).trans hk) ?_ hkind hst heng hsrc ?_ ?_ ?_ ?_).trans
      (emitRec_joins w ?_ hgo hroom ?_)
    · simpa only [hu.launchOf, hu.expertNode] using hnode
    · rw [hu.srcOf, hended]
    · rw [setV_unit hu.regs (xpSet_lt nd), hv]
    · rw [hu.setNexp]
      exact hexp
    · rw [hu.scopeHomes, hu.setHshift, hhome]
    · rw [hu.sve, hx]
    · rw [dieEnt_unit hu.regs, hu.ownDie]
      exact hdie
  · have hobs := recordHeard_observed s.blk n e w
    have hu := hobs.taskOf (crSlot w)
    refine candidate_record hl.port hl.eng hl.iss ?_
    rw [takeRecord_eq hl, hnone]
    have hgrant := contendedOpt (recordHeard s.blk n e w) none q
    have hnone' : taskOf (contestedOpt (recordHeard s.blk n e w) none q) (crSlot w) = none := by
      rw [hgrant.rest]
      exact hu.trans hnone
    dsimp only [Option.map_none]
    rw [candRecord_noTask he hnone']
    exact ⟨_, _, _, _, hobs, hgrant, counted_bump _ _, Observed.evN _ _ _ _, logged _ _ _ _ _ _ _⟩
  · refine enqueue_request hl.port hl.eng hl.iss ?_
    rw [takeEnqueue_refused hl q hk hstamp hst heng hno]
    exact ⟨_, _, _, discard_taken s.blk n e, counted_bump _ _, Observed.ev0 _ _, rfl⟩
  · have hobs := enqueueHeard_observed s.blk n e k.ctx
    have hgrant := contended (enqueueHeard s.blk n e k.ctx) k.ctx q
    have hu := (Heard.observed hobs).contended hgrant
    have htake := (takeSlots_parts hu.tsk hu.free 1).trans hslot
    refine enqueue_request hl.port hl.eng hl.iss ⟨_, _, _, hobs, hgrant, Prod.ext htake rfl, ?_⟩
    rw [takeEnqueue_allowed hl q hk hstamp hst heng hyes ho, applyEnqueue_makes ((hu.taskOf _).trans hk) ((hu.launchOf _).trans hlaunch)
      ((hu.scopeNode _ _ _).trans hnode) ((hu.topImg _).trans htop) hrsv hkind harg (by rw [hu.ctxUsed, hu.ctxQuota]; exact hquota) htake,
      hu.tsk]

end Sys2Proof.Machine

/-! Proofs. CAND at its home (O30). -/
namespace Sys2Proof.Machine

/-! ## What an admitted request finds of the sieve -/

section
variable {s t : Blk} {h : FHdr} {sc : Option Nat} {ws : List Nat} (e : Entered s t h sc ws)
include e

theorem Entered.sve : t.sve = s.sve := by rw [e.rest]

theorem Entered.runAt (c ltag scope : Nat) : runAt t c ltag scope = runAt s c ltag scope := by
  unfold Machine.runAt
  rw [e.sve]

theorem Entered.setKeep {n : Nat} (hn : n < 16) : setKeep t n = setKeep s n := rgf_unit e.regs (setKey _ _ hn (by decide)) _ _

theorem Entered.setK {n : Nat} (hn : n < 16) : setK t n = setK s n := rgf_unit e.regs (setKey _ _ hn (by decide)) _ _

theorem Entered.setStage {n : Nat} (hn : n < 16) : setStage t n = setStage s n := rgb_unit e.regs (setKey _ _ hn (by decide)) _
end

/-! ## CAND at a run -/

/-- An END marker of a source of the run that has sent none before is noted, and the run is looked at again (R173). -/
theorem runMarker_first {s : Blk} {i d : Nat} {r : Run} (hget : Store.get? s.sve.runs i = some r)
    (hsrc : (rangeDies s r.set 0x10).any (fun e => e.die == d) = true) (hfirst : r.marked.contains d = false) (dead : Bool) :
    runMarker s i d dead = push (setRun s i { r with marked := r.marked ++ [d], ends := r.ends ++ [d], deadEnd := r.deadEnd || dead,
                                                     started := r.started <|> some (now s) }) [.runCheck i] := by
  unfold runMarker
  simp only [hget, hsrc, hfirst, Bool.not_true, Bool.or_self, Bool.false_eq_true, if_false]

section
variable {s : Blk} {c ltag scope : Nat}

/-- A run in intake that wants no lane storage admits the records of a source one by one, and then notes the END marker (R170, R171). -/
theorem takeCand_intake {i src : Nat} {r : Run} (hrun : runAt s c ltag scope = some (i, r)) (hphase : r.phase = .intake)
    (hsrc : (rangeDies s r.set 0x10).any (fun e => e.die == src) = true) {recs : List Word64}
    (hroom : (r.share == 0 && recs.any (recFits s r)) = false) (dead fin : Bool) :
    takeCand s src c ltag scope dead fin recs = (kAck,
      if fin then runMarker (forEach recs s (fun s w => admitRec s i w)) i src dead else forEach recs s (fun s w => admitRec s i w)) := by
  unfold takeCand
  rw [hrun]
  simp only [hphase, hsrc, hroom, ne_eq, not_true_eq_false, if_false, Bool.true_and, Bool.false_and, Bool.false_eq_true, if_true]

/-- A run past its intake counts the records that come (R173). -/
theorem takeCand_late {i : Nat} {r : Run} (hrun : runAt s c ltag scope = some (i, r)) (hphase : r.phase ≠ .intake) (src : Nat)
    (dead fin : Bool) (recs : List Word64) :
    takeCand s src c ltag scope dead fin recs = (kAck, sveCount s rSveCandBad 0xd1 c recs.length) := by
  unfold takeCand
  rw [hrun]
  exact if_pos hphase

/-- A CAND ahead of its launch is refused (R170). -/
theorem takeCand_early (hrun : runAt s c ltag scope = none) (hlive : liveLaunch s c ltag = none) (src : Nat) (dead fin : Bool)
    (recs : List Word64) : takeCand s src c ltag scope dead fin recs = (kRingFull, s) := by
  unfold takeCand
  rw [hrun, hlive]
end

/-- A CAND that is sound, in turn and welcome does what `takeCand` does. -/
theorem takes_cand {s : State} {h : FHdr} {scope code : Nat} {dead fin : Bool} {recs : List Word64} {P : Blk → Blk → Prop}
    (hs : Sound s.blk h) (ht : InTurn s.blk h) (hw : Welcome s.blk h)
    (key : ∀ t, Entered s.blk t h (some scope) h.waiting →
      ∃ u, takeCand t h.src h.dstCtx h.ltag scope dead fin recs = (code, u) ∧ u.xch = t.xch ∧ P t u) :
    Takes (.cand h scope dead fin recs) s h (some scope) code P := by
  refine takes_of (body := .cand scope dead fin recs) rfl hs ht hw fun t e => ?_
  obtain ⟨u, hu, hx, hp⟩ := key t e
  exact ⟨u, hu, by rw [hx], hp⟩

theorem Counted.xch {s t : Blk} {k : Nat} (h : Counted s t k) : t.xch = s.xch := by rw [h.rest]

/-- A count that is taken in one case alone leaves the Exchange. -/
theorem xch_of_counted_if {y u : Blk} {b : Bool} {k : Nat} (hnot : b = false → u = y)
    (hcount : b = true → ∃ z, Counted y z k ∧ Observed z u) : u.xch = y.xch := by
  cases b with
  | false => rw [hnot rfl]
  | true =>
    obtain ⟨z, hz, hu⟩ := hcount rfl
    exact hu.xch.trans hz.xch

/-- Settles O30: a request that is admitted finds what stood before (`Entered`); then `takeCand` by the phase of its run, and
`admit_one` for a record. -/
theorem sieveTakesCandidates : Obligations.SieveTakesCandidates := by
  intro h s scope dead hs ht hw
  refine ⟨fun i r hrun hget hset => ⟨fun hphase hsrc hfirst => takes_cand hs ht hw fun t e => ?_,
    fun hphase hsrc hshare hstage w v hfits hv => takes_cand hs ht hw fun t e => ?_,
    fun hphase w => takes_cand hs ht hw fun t e => ?_⟩, fun hrun hlive fin recs => takes_cand hs ht hw fun t e => ?_⟩
  · rw [← rangeDies_unit e.regs hset (show 0x10 < 0x40 by decide)] at hsrc
    have hmark := runMarker_first (by rw [e.sve]; exact hget) hsrc hfirst dead
    rw [e.now] at hmark
    have htake := takeCand_intake ((e.runAt _ _ _).trans hrun) hphase hsrc (recs := []) (Bool.and_false _) dead true
    exact ⟨_, htake.trans (congrArg (Prod.mk kAck) hmark), rfl, rfl⟩
  · rw [← rangeDies_unit e.regs hset (show 0x10 < 0x40 by decide)] at hsrc
    have hroom : (r.share == 0 && [w].any (recFits t r)) = false := by rw [beq_false_of_ne hshare, Bool.false_and]
    obtain ⟨x, y, hcount, hobs, hnew, hdup⟩ := admit_one (by rw [e.sve]; exact hget) hset
      ((recFits_unit e.regs (by rw [e.sve]) hset w).trans hfits) ((setV_unit e.regs hset _).trans hv) ((e.setStage hset).trans hstage)
    rw [e.setKeep hset, candKey_unit e.regs (by rw [e.sve]) hset] at hnew hdup
    rw [e.setKeep hset, e.setK hset, e.now, candKey_unit e.regs (by rw [e.sve]) hset] at hcount
    have hxch := (xch_of_counted_if hnew hdup).trans (hobs.xch.trans hcount.xch)
    exact ⟨_, takeCand_intake ((e.runAt _ _ _).trans hrun) hphase hsrc hroom dead false, hxch, x, y, hcount, hobs, hnew, hdup⟩
  · obtain ⟨x, hcount, hobs⟩ := sveCount_parts t rSveCandBad 0xd1 h.dstCtx
    exact ⟨_, takeCand_late ((e.runAt _ _ _).trans hrun) hphase _ _ _ _, hobs.xch.trans hcount.xch, x, hcount, hobs⟩
  · exact ⟨t, takeCand_early ((e.runAt _ _ _).trans hrun) ((e.liveLaunch _ _).trans hlive) _ _ _ _, rfl, rfl⟩

end Sys2Proof.Machine

/-! Proofs. TALLY, ASSIGN, STAGE and CANCEL at the expander (O31). -/
namespace Sys2Proof.Machine

/-! ## What an admitted request finds of the expander -/

/-- Requests of a scope find its record, released, in a live launch, with the EXPERT node that they name (R181, R291). -/
structure ScopeStands (s : Blk) (c ltag scope node l i : Nat) (lv : Launch) (n : Word256) (x : XScope) : Prop where
  live : liveLaunch s c ltag = some (l, lv)
  expert : xNode s lv scope node = some n
  going : lv.xdone.contains scope = false
  place : scopeAt s l scope = some (i, x)
  record : Store.get? s.sve.scopes i = some x
  released : x.released = true

section
variable {s t : Blk} {h : FHdr} {sc : Option Nat} {ws : List Nat} (e : Entered s t h sc ws)
include e

theorem Entered.launchOf (l : Nat) : launchOf t l = launchOf s l := by rw [e.rest]; rfl

theorem Entered.taskOf (slot : Nat) : taskOf t slot = taskOf s slot := by rw [e.rest]; rfl

theorem Entered.xNode (l : Launch) (scope node : Nat) : xNode t l scope node = xNode s l scope node := by
  have howner : ∀ n, setOwner t (xpSet n) = setOwner s (xpSet n) := fun n =>
    rgf_unit e.regs (setKey _ _ (xpSet_lt n) (by decide)) _ _
  unfold Machine.xNode
  simp only [e.scopeNode, howner]

theorem Entered.rowsUsed : rowsUsed t = rowsUsed s := by
  unfold Machine.rowsUsed
  rw [e.sve]

/-- The reservation that is next for a scope is as it was; to take it concerns its launch alone (R95). -/
theorem Entered.takeResv {l scope : Nat} {r : Resv} {v : Blk} (hr : takeResv s l scope = some (r, v)) :
    ∃ f, takeResv t l scope = some (r, modLaunch t l f) := by
  unfold Machine.takeResv at hr ⊢
  rw [e.launchOf]
  split at hr
  · cases hr
  · split at hr
    · cases hr
    · cases hr
      exact ⟨_, rfl⟩

theorem Entered.scopeStands {c ltag scope node l i : Nat} {lv : Launch} {n : Word256} {x : XScope}
    (hx : ScopeStands s c ltag scope node l i lv n x) : ScopeStands t c ltag scope node l i lv n x where
  live := (e.liveLaunch _ _).trans hx.live
  expert := (e.xNode _ _ _).trans hx.expert
  going := hx.going
  place := by
    have hplace := hx.place
    unfold scopeAt at hplace ⊢
    rw [e.sve]
    exact hplace
  record := by rw [e.sve]; exact hx.record
  released := hx.released
end

/-! ## Scope records -/

/-- A record that is written over is gone, whatever was observed in between. -/
theorem observed_under_setScope {s t : Blk} {i : Nat} {x : XScope} (h : Observed (setScope s i x) t) :
    ∃ v, Observed s v ∧ ∀ y, setScope t i y = setScope v i y := by
  refine ⟨{ t with sve := s.sve }, ⟨?_, fun k hk => ?_, h.words⟩, fun y => ?_⟩
  · rw [h.rest]
    rfl
  · exact (rg_only (s := t) rfl rfl k).trans ((h.regs k hk).trans (rg_only rfl rfl k))
  · have hsve : t.sve = (setScope s i x).sve := by rw [h.rest]
    unfold setScope at hsve ⊢
    rw [hsve]
    dsimp only
    rw [set_set]

/-- A TALLY for an expert that is known takes no place and no home-map row (R183). -/
theorem reserveRows_known {s : Blk} {i expert : Nat} {x : XScope} {k : XTask} (hk : x.tasks.find? (fun k => k.expert == expert) = some k)
    (hrows : (rowsUsed s).length ≤ 8192) (resv cnt : Nat) : reserveRows s i x resv [(expert, cnt)] = some (setScope s i x) := by
  have hnew : (([(expert, cnt)].map Prod.fst).eraseDups.filter (fun e => !x.tasks.any (fun k => k.expert == e))) = [] := by
    simpa using ⟨k, List.mem_of_find?_eq_some hk, beq_iff_eq.mp (List.find?_some (p := fun k : XTask => k.expert == expert) hk)⟩
  unfold reserveRows
  simp only [hnew, List.take_nil, List.length_nil, Nat.add_zero, List.zipIdx_nil, List.map_nil, List.append_nil]
  exact if_neg (Nat.not_lt.mpr hrows)

/-! ## The requests -/

section
variable {s : Blk} {c ltag scope node l i : Nat} {lv : Launch} {n : Word256} {x : XScope}
  (hx : ScopeStands s c ltag scope node l i lv n x)
include hx

/-- A TALLY of one more count for an expert that has its task is entered, and the scope is looked at again (R181). -/
theorem takeTally_known {home expert cnt sl : Nat} {k : XTask} (hopen : x.opened = true)
    (hhome : (homeList s n).any (fun p => p.1 == home) = true) (hk : x.tasks.find? (fun k => k.expert == expert) = some k)
    (hsl : k.slot = some sl) (hnamed : k.homes.any (fun p => p.1 == home) = true) (hrows : (rowsUsed s).length ≤ 8192) (fin : Bool) :
    ∃ v, Observed s v ∧ takeTally s c ltag fin home scope node [(expert, cnt)] = (kAck, push (modX
      (setScope v i { x with finals := if fin then (x.finals ++ [home]).eraseDups else x.finals }) i expert (fun q => { q with
        pend := q.pend + cnt, homes := k.homes.map (fun p => if p.1 = home then (home, p.2 + cnt) else p) })) [.scopeCheck i]) := by
  obtain ⟨v, hv, hover⟩ := observed_under_setScope (Observed.ev (setScope s i x) 0xe0 c)
  refine ⟨v, hv, ?_⟩
  have hget : Store.get? (ev (setScope s i x) 0xe0 c).sve.scopes i = some x := by
    rw [ev_sve]
    exact get?_set_same _ _ _
  unfold takeTally
  simp only [hx.live, hx.expert, hhome, hx.going, hx.place, hx.record, reserveRows_known hk hrows, hopen, hget, hx.released,
    Bool.not_true, Bool.or_self, Bool.false_eq_true, if_false, if_true, forEach_one, hover]
  refine congrArg (fun b => (kAck, push b [.scopeCheck i])) ?_
  exact tally_one (get?_set_same _ _ _) hk hsl hnamed

/-- An ASSIGN before the release of its ruled scope is refused (R291). -/
theorem takeAssign_early (hruled : isRuled s c = true) (hrel : lv.xrel.contains scope = false) (expert home : Nat) (recs : List Word64) :
    takeAssign s c ltag expert home scope recs = (kRingFull, s) := by
  unfold takeAssign
  simp only [hx.live, hruled, hrel, hx.going, Bool.not_false, Bool.and_self, if_true]

/-- An ASSIGN for an expert that no TALLY of its home has named is discarded (R186). -/
theorem takeAssign_unnamed {expert home : Nat} (hruled : isRuled s c = false)
    (hk : x.tasks.find? (fun k => k.expert == expert && k.homes.any (fun p => p.1 == home)) = none) (recs : List Word64) :
    takeAssign s c ltag expert home scope recs = (kAck, ctxFault s c uSve 0x31 0) := by
  unfold takeAssign
  simp only [hx.live, hruled, hx.place, hk, Bool.false_and, Bool.false_eq_true, if_false]

/-- The records of an ASSIGN for an expert with its task are taken one by one (R182). -/
theorem takeAssign_named {expert home sl : Nat} {k : XTask} (hruled : isRuled s c = false)
    (hk : x.tasks.find? (fun k => k.expert == expert && k.homes.any (fun p => p.1 == home)) = some k) (hsl : k.slot = some sl)
    (recs : List Word64) :
    takeAssign s c ltag expert home scope recs = (kAck, forEach recs s (fun s w => assignRec s i home expert w)) := by
  unfold takeAssign
  simp only [hx.live, hruled, hx.place, hk, hsl, Option.isNone_some, Bool.false_and, Bool.false_eq_true, if_false]

/-- A STAGE for a scope whose record stands is applied at once (R189). -/
theorem takeStage_stands (home expert : Nat) : takeStage s c ltag home expert scope node = (kAck, applyStage s i expert n) := by
  unfold takeStage
  simp only [hx.live, hx.expert, hx.going, hx.place, hx.record, hx.released, Bool.not_true, Bool.false_eq_true, if_false]

/-- A CANCEL for a scope whose record stands is applied at once (R190). -/
theorem takeCancel_stands (home expert : Nat) : takeCancel s c ltag home expert scope = (kAck, applyCancel s i expert) := by
  unfold takeCancel
  simp only [hx.live, hx.place, hx.released, Bool.not_true, Bool.false_eq_true, if_false]
end

/-! ## What they do -/

/-- SVE_XL_LINES is no matter of a change to a scope's record. -/
theorem xlLines_modX (s : Blk) (i expert : Nat) (f : XTask → XTask) : xlLines (modX s i expert f) = xlLines s := rfl

section
variable {s : Blk} {i expert : Nat} {x : XScope} (hget : Store.get? s.sve.scopes i = some x)
include hget

/-- A record for a task of a free context, with room in its list, is written behind those placed before it (R182). -/
theorem assignRec_placed {home sl : Nat} {k : XTask} (hk : x.tasks.find? (fun k => k.expert == expert) = some k) (hsl : k.slot = some sl)
    (hfree : isRuled s x.ctx = false) (hroom : k.placed < 8 * (xlLines s - 1)) (w : Word64) :
    assignRec s i home expert w = memWrite (modX s i expert (fun q => { q with
        got := k.got.filter (fun p => p.1 ≠ home) ++ [(home, ((k.got.find? (fun p => p.1 == home)).map Prod.snd).getD 0 + 1)]
        placed := q.placed + 1 }))
      (listAddr s (sl * xlLines s % 2 ^ 32) + 0x40 + 8 * k.placed) (leBytes 8 w.toNat) 1 (some x.ctx) uSve i
      (.listRecord x.uid expert) := by
  unfold assignRec
  simp only [hget, hk, hsl, hfree, Bool.false_eq_true, if_false, xlLines_modX, Option.getD_some]
  exact if_neg (Nat.not_le.mpr hroom)

/-- The STAGE of an expert that has no task yet makes its weight-fetch task with a reservation, and starts it (R189). -/
theorem applyStage_makes {node : Nat} {n sn : Word256} {lv : Launch} {r : Resv} {v : Blk}
    (htask : x.tasks.any (fun k => k.expert == expert) = false) (hstaged : x.staged.any (fun p => p.1 == expert) = false)
    (hnode : xpStage n = some node) (hsn : scopeNode s lv x.scope node = some sn) (hlaunch : launchOf s x.launch = some lv)
    (hresv : takeResv s x.launch x.scope = some (r, v)) : applyStage s i expert n =
      startTask (setScope (makeX v x r node sn none expert 0) i { x with staged := x.staged ++ [(expert, r.slot)] }) r.slot := by
  unfold applyStage
  simp only [hget, hnode, hlaunch, Option.bind_some, hsn, htask, hstaged, Bool.or_self, Bool.false_eq_true, if_false, hresv]

/-- The STAGE of an expert that has a task, or is staged, is counted as skipped (R189). -/
theorem applyStage_skips (n : Word256) (hhas : x.tasks.any (fun k => k.expert == expert) = true ∨
    x.staged.any (fun p => p.1 == expert) = true) : ∃ y, Counted s y rSveStageSkip ∧ Observed y (applyStage s i expert n) := by
  have hor : (x.tasks.any (fun k => k.expert == expert) || x.staged.any (fun p => p.1 == expert)) = true :=
    (Bool.or_eq_true _ _).mpr hhas
  have hskip : applyStage s i expert n =
      traceStage (sveCount s rSveStageSkip 0xdc x.ctx 1) x.ctx x.set x.layer expert 2 x.scope := by
    unfold applyStage
    simp only [hget, hor, if_true]
    split <;> rfl
  obtain ⟨y, hcount, hobs⟩ := sveCount_parts s rSveStageSkip 0xdc x.ctx
  exact ⟨y, hcount, hskip ▸ hobs.trans (Observed.trace _ _ _ _)⟩

/-- The CANCEL of a weight-fetch task that is not issued yet ends it (R190). -/
theorem applyCancel_cancels {slot : Nat} {k : Task} (hstaged : x.staged.find? (fun p => p.1 == expert) = some (expert, slot))
    (htask : taskOf s slot = some k) (hst : k.state = .waiting ∨ k.state = .ready ∨ k.state = .delayed) :
    applyCancel s i expert = finishTask (traceStage s x.ctx x.set x.layer expert 3 x.scope) slot .cancelled true := by
  have hearly : (k.state == .waiting || k.state == .ready || k.state == .delayed) = true := by
    rcases hst with hst | hst | hst <;> rw [hst] <;> rfl
  unfold applyCancel
  simp only [hget, hstaged, htask, hearly, if_true]

/-- The CANCEL of an expert that is not staged does nothing (R190). -/
theorem applyCancel_unstaged (hstaged : x.staged.find? (fun p => p.1 == expert) = none) : applyCancel s i expert = s := by
  unfold applyCancel
  simp only [hget, hstaged]
end

/-- A task made with a reservation is no matter of the Exchange. -/
theorem makeX_xch (s : Blk) (x : XScope) (r : Resv) (node : Nat) (n : Word256) (gj : Option Nat) (expert hlist : Nat) :
    (makeX s x r node n gj expert hlist).xch = s.xch := by
  unfold makeX
  split
  · rfl
  · split
    · exact ev_xch _ _ _
    · rfl

/-- Settles O31: a request that is admitted finds the scope as it stood (`Entered.scopeStands`); then request by request. -/
theorem expanderTakesRequests : Obligations.ExpanderTakesRequests := by
  intro h s scope node expert home l i lv n x hs ht hw hlive hnode hdone hplace hget hrel
  have hx : ScopeStands s.blk h.dstCtx h.ltag scope node l i lv n x := ⟨hlive, hnode, hdone, hplace, hget, hrel⟩
  refine ⟨fun k sl cnt hopen hhome hk hsl hnamed hrows fin => ?_, fun hruled hxrel recs => ?_, fun hfree hk recs => ?_,
    fun k sl w hopen hk hk' hsl hfree hfree' hroom => ?_, fun sn node' r v htask hstaged hl hsc hnode' hsn hlaunch hresv => ?_,
    fun hhas => ?_, fun slot k hstaged htask hst => ?_, fun hstaged => ?_⟩
  · refine takes_of (body := .tally fin home scope node [(expert, cnt)]) rfl hs ht hw fun t e => ?_
    obtain ⟨v, hv, htake⟩ := takeTally_known (e.scopeStands hx) hopen (by rw [homeList_unit e.regs]; exact hhome) hk hsl hnamed
      (by rw [e.rowsUsed]; exact hrows) fin
    exact ⟨_, htake, congrArg Xch.hold hv.xch, v, hv, rfl⟩
  · refine takes_of (body := .assign expert home scope recs) rfl hs ht hw fun t e => ?_
    exact ⟨t, takeAssign_early (e.scopeStands hx) ((e.ruled _).trans hruled) hxrel _ _ _, rfl, rfl⟩
  · refine takes_of (body := .assign expert home scope recs) rfl hs ht hw fun t e => ?_
    exact ⟨_, takeAssign_unnamed (e.scopeStands hx) ((e.ruled _).trans hfree) hk _,
      congrArg Xch.hold (Moved.ctxFault _ _ _ _ _).xch, rfl⟩
  · refine takes_of (body := .assign expert home scope [w]) rfl hs ht hw fun t e => ?_
    have hrec := assignRec_placed (home := home) (e.scopeStands hx).record hk' hsl ((e.ruled _).trans hfree')
      (by rw [xlLines_unit e.regs]; exact hroom) w
    rw [xlLines_unit e.regs, listAddr_unit e.regs] at hrec
    refine ⟨_, (takeAssign_named (e.scopeStands hx) ((e.ruled _).trans hfree) hk hsl [w]).trans (congrArg (Prod.mk kAck) hrec), ?_, rfl⟩
    rw [(Asked.memWrite _ _ _ _ _ _ _ _).rest]
    rfl
  · refine takes_of (body := .stage expert scope node) rfl hs ht hw fun t e => ?_
    obtain ⟨f, hf⟩ := e.takeResv hresv
    subst hl hsc
    have hstage := applyStage_makes (e.scopeStands hx).record htask hstaged hnode' ((e.scopeNode _ _ _).trans hsn)
      ((e.launchOf _).trans hlaunch) hf
    refine ⟨_, (takeStage_stands (e.scopeStands hx) _ _).trans (congrArg (Prod.mk kAck) hstage), ?_, _, hf, rfl⟩
    rw [(Moved.startTask _ _).xch, setScope_xch, makeX_xch]
    rfl
  · refine takes_of (body := .stage expert scope node) rfl hs ht hw fun t e => ?_
    obtain ⟨y, hcount, hobs⟩ := applyStage_skips (e.scopeStands hx).record n hhas
    exact ⟨_, takeStage_stands (e.scopeStands hx) _ _, congrArg Xch.hold (hobs.xch.trans hcount.xch), y, hcount, hobs⟩
  · refine takes_of (body := .cancel expert scope node) rfl hs ht hw fun t e => ?_
    have hcancel := applyCancel_cancels (e.scopeStands hx).record hstaged ((e.taskOf _).trans htask) hst
    have hobs : Observed t (traceStage t x.ctx x.set x.layer expert 3 x.scope) := Observed.trace _ _ _ _
    refine ⟨_, (takeCancel_stands (e.scopeStands hx) _ _).trans (congrArg (Prod.mk kAck) hcancel), ?_, _, hobs, rfl⟩
    rw [(Moved.finishTask _ _ _ _).xch, hobs.xch]
  · refine takes_of (body := .cancel expert scope node) rfl hs ht hw fun t e => ?_
    have hcancel := applyCancel_unstaged (e.scopeStands hx).record hstaged
    exact ⟨t, (takeCancel_stands (e.scopeStands hx) _ _).trans (congrArg (Prod.mk kAck) hcancel), rfl, rfl⟩

end Sys2Proof.Machine

/-! Proofs. Commands of the Nib on scratch registers (O43), on its flow (O44) and on its joints (O45). -/
namespace Sys2Proof.Machine

/-! ## Scratch registers -/

section
variable {s t : Blk} {q : Nat} (g : Granted s t q)
include g

theorem residents_granted (c : Nat) : residents t c = residents s c := by rw [g.rest]; rfl

theorem cplFree_granted (v : Queue) : cplFree t q v = cplFree s q v := by rw [g.rest]; rfl

/-- A grant changes none of GET's sources (R231). -/
theorem getSource_granted (src : Nat) : getSource t q src = getSource s q src := by
  unfold getSource
  dsimp only
  rw [g.sqCtx, g.sqtOf, g.now, g.ctxGen, residents_granted g, g.queueOf, cplFree_granted g]
end

/-- GET retires with the source that its IMM names (R231). -/
theorem get_retires {s : State} {q : Nat} {w : Word256} (h : Begins s.blk q w) (ho : cOp w = oGet) :
    Retires (.cmdGet q) s q w (some (BitVec.ofNat 64 (getSource s.blk q (immF w 3 0)))) :=
  runs_nib (exec_cmdGet q s) h ho fun t g => by
    unfold runGet
    rw [getSource_granted g]

/-- Settles O43: a value that a command reads is the one before its grant. -/
theorem scratchCommandsRetire : Obligations.ScratchCommandsRetire := by
  intro q w s h
  refine ⟨fun ho => ?_, fun ho => ?_, fun ho => ?_, fun ho n hn => ?_⟩
  · exact runs_nib (exec_cmdNop q s) h ho fun t g => rfl
  · exact runs_nib (exec_cmdSet q s) h ho fun t g => rfl
  · refine runs_nib (exec_cmdAdd q s) h ho fun t g => ?_
    unfold runAdd
    rw [g.queueOf]
  · have hget := get_retires h ho
    rw [hn] at hget
    refine ⟨?_, ?_, ?_, ?_, ?_⟩ <;> rintro rfl <;> exact hget

/-! ## Flow -/

/-- What a branch that is taken does to its queue, `upd` included (R231, R234, R235). -/
structure Branches (cmd : Instr) (s : State) (q : Nat) (w : Word256) (upd : Queue → Queue) : Prop where
  ring : (queueOf s.blk q).stack = [] → Halts cmd s q w 0x31
  ahead : (queueOf s.blk q).stack ≠ [] → 0 < offOf w → Runs cmd s q (fun t b => b =
    retire (setQ t q (upd (queueOf s.blk q))) q
      { word := w, pc := (queueOf s.blk q).pc, act := .jump ((((queueOf s.blk q).pc : Int) + offOf w) % 2 ^ 52).toNat })
  tooMany : (queueOf s.blk q).stack ≠ [] → offOf w ≤ 0 → rg s.blk rLoopMax ≠ 0 → rg s.blk rLoopMax < (queueOf s.blk q).backj + 1 →
    Halts cmd s q w 0x32
  back : (queueOf s.blk q).stack ≠ [] → offOf w ≤ 0 → (rg s.blk rLoopMax = 0 ∨ (queueOf s.blk q).backj + 1 ≤ rg s.blk rLoopMax) →
    Runs cmd s q (fun t b => ∃ u,
      Observed (setQ t q { upd (queueOf s.blk q) with backj := (queueOf s.blk q).backj + 1 }) u ∧
      b = retire u q
        { word := w, pc := (queueOf s.blk q).pc, act := .jump ((((queueOf s.blk q).pc : Int) + offOf w) % 2 ^ 52).toNat })

/-- A command that begins and runs as a taken branch. -/
theorem branches {cmd : Instr} {s : State} {q op : Nat} {w : Word256} {ws : List Nat} {run : Blk → Nat → Word256 → Blk}
    {upd : Queue → Queue} (h : Begins s.blk q w) (hc : exec cmd s = nibCmd q op ws run s) (ho : cOp w = op)
    (hrun : ∀ t, Granted s.blk t q → run t q w = takeBranch t q w upd) (hstack : ∀ v, (upd v).stack = v.stack)
    (hbackj : ∀ v, (upd v).backj = v.backj) : Branches cmd s q w upd := by
  have go : ∀ P : Blk → Blk → Prop, (∀ t, Granted s.blk t q → P t (takeBranch t q w upd)) → Runs cmd s q P :=
    fun P hp => runs_nib hc h ho fun t g => by
      rw [hrun t g]
      exact hp t g
  have rule := fun t (g : Granted s.blk t q) => by
    have hcases := takeBranch_cases t q w upd (hstack _) (hbackj _)
    rw [g.queueOf, g.rg] at hcases
    exact hcases
  constructor
  case ring =>
    refine fun hring => go _ fun t g => ?_
    obtain ⟨ring, -⟩ := rule t g
    exact ring hring
  case ahead =>
    refine fun hcalled hoff => go _ fun t g => ?_
    obtain ⟨-, ahead, -⟩ := rule t g
    exact ahead hcalled hoff
  case tooMany =>
    refine fun hcalled hoff hmax hpast => go _ fun t g => ?_
    obtain ⟨-, -, tooMany, -⟩ := rule t g
    exact tooMany hcalled hoff hmax hpast
  case back =>
    refine fun hcalled hoff hmax => go _ fun t g => ?_
    obtain ⟨-, -, -, back⟩ := rule t g
    exact back hcalled hoff hmax

section
variable {s t : Blk} {q : Nat} (g : Granted s t q)
include g

theorem sreg_granted (i : Nat) : sreg t q i = (scratch (queueOf s q) i).toNat := by
  unfold sreg
  rw [g.queueOf]

theorem modQ_granted (f : Queue → Queue) : modQ t q f = setQ t q (f (queueOf s q)) := by
  unfold modQ
  rw [g.queueOf]

/-- BR branches where its condition holds of its two values (R231). -/
theorem runBr_granted (w : Word256) : runBr t q w =
    if brCond (immF w 3 0) (scratch (queueOf s q) (cRa w)).toNat
      (if immF w 4 4 = 1 then cOpb w else (scratch (queueOf s q) (cRb w)).toNat) = true then takeBranch t q w id
    else retireVal t q w none := by
  unfold runBr
  rw [sreg_granted g, sreg_granted g]

/-- LOOP goes on at a register that is 0, counts a 1 down to 0 and goes on, and else counts down and branches (R231). -/
theorem runLoop_granted (w : Word256) : runLoop t q w =
    let n := (scratch (queueOf s q) (cRa w)).toNat
    if n = 0 then retireVal t q w none
    else if n = 1 then retireVal (setQ t q (wrScratch (queueOf s q) (cRa w) 0)) q w none
    else takeBranch t q w (fun v => wrScratch v (cRa w) (BitVec.ofNat 64 (n - 1))) := by
  unfold runLoop
  simp only [sreg_granted g, modQ_granted g]
  split
  · rfl
  · split
    next h1 =>
      rw [h1]
      rfl
    next => rfl

/-- A CALL goes no deeper than four (R234). -/
theorem runCall_granted (w : Word256) : runCall t q w =
    let v := queueOf s q
    if 4 ≤ v.stack.length then haltCmd t q w 0x31
    else if v.stack = [] then setQ t q
      { dropAhead v with stack := [(v.pc + 32) % 2 ^ 52], ringCall := some (w, v.pc), pc := cOpa w, passBrk := false }
    else retire t q { word := w, pc := v.pc, act := .call (cOpa w) } := by
  unfold runCall
  rw [g.queueOf]
  simp only [List.isEmpty_iff]
  rfl

/-- A RET needs a depth (R234). -/
theorem runRet_granted (w : Word256) : runRet t q w =
    let v := queueOf s q
    if v.stack = [] then haltCmd t q w 0x31 else retire t q { word := w, pc := v.pc, act := .ret } := by
  unfold runRet
  rw [g.queueOf]
  simp only [List.isEmpty_iff]
end

/-- A register above 1, counted down. -/
theorem ofNat_pred {x : Word64} (h : 1 < x.toNat) : BitVec.ofNat 64 (x.toNat - 1) = x - 1 := by
  bv_omega

/-- Settles O44: a taken BR or LOOP by `takeBranch`, CALL and RET by the depth of the call stack. -/
theorem flowCommandsMoveThePc : Obligations.FlowCommandsMoveThePc := by
  intro q w s h
  refine ⟨fun ho => ⟨fun hcond => ?_, fun hcond => ?_⟩, fun ho => ⟨fun h0 => ?_, fun h1 => ?_, fun hmore => ?_⟩,
    fun ho => ⟨fun hdeep => ?_, fun hring => ?_, fun hcalled hroom => ?_⟩, fun ho => ⟨fun hring => ?_, fun hcalled => ?_⟩⟩
  · refine runs_nib (exec_cmdBr q s) h ho fun t g => ?_
    rw [runBr_granted g]
    exact if_neg (ne_true_of_eq_false hcond)
  · obtain ⟨ring, ahead, tooMany, back⟩ := branches h (exec_cmdBr q s) ho
      (fun t g => (runBr_granted g w).trans (if_pos hcond)) (fun _ => rfl) (fun _ => rfl)
    exact ⟨ring, ahead, tooMany, back⟩
  · refine runs_nib (exec_cmdLoop q s) h ho fun t g => ?_
    rw [runLoop_granted g]
    exact if_pos h0
  · refine runs_nib (exec_cmdLoop q s) h ho fun t g => ?_
    rw [runLoop_granted g]
    exact (if_neg (h1.trans_ne Nat.one_ne_zero)).trans (if_pos h1)
  · have hrun : ∀ t, Granted s.blk t q → runLoop t q w =
        takeBranch t q w (fun v => wrScratch v (cRa w) (scratch (queueOf s.blk q) (cRa w) - 1)) := fun t g => by
      rw [runLoop_granted g, ← ofNat_pred hmore]
      exact (if_neg (Nat.ne_zero_of_lt hmore)).trans (if_neg (Nat.ne_of_gt hmore))
    obtain ⟨ring, ahead, tooMany, back⟩ := branches h (exec_cmdLoop q s) ho hrun (fun _ => rfl) (fun _ => rfl)
    exact ⟨ring, ahead, tooMany, back⟩
  · refine runs_nib (exec_cmdCall q s) h ho fun t g => ?_
    rw [runCall_granted g]
    exact if_pos hdeep
  · refine runs_nib (exec_cmdCall q s) h ho fun t g => ?_
    rw [runCall_granted g]
    exact (if_neg (by rw [hring]; decide)).trans (if_pos hring)
  · refine runs_nib (exec_cmdCall q s) h ho fun t g => ?_
    rw [runCall_granted g]
    exact (if_neg (Nat.not_le.mpr hroom)).trans (if_neg hcalled)
  · refine runs_nib (exec_cmdRet q s) h ho fun t g => ?_
    rw [runRet_granted g]
    exact if_pos hring
  · refine runs_nib (exec_cmdRet q s) h ho fun t g => ?_
    rw [runRet_granted g]
    exact if_neg hcalled

/-! ## Joints of a queue -/

section
variable {s t : Blk} {q : Nat} (g : Granted s t q)
include g

theorem raJoint_granted (w : Word256) : raJoint t q w = (scratch (queueOf s q) (cRa w)).toNat % 2 ^ 18 := by
  unfold raJoint
  rw [sreg_granted g]

/-- A WAIT passes at once on a fired joint, else its queue waits (R236). -/
theorem runWait_granted (w : Word256) : runWait t q w =
    let v := queueOf s q
    let j := (scratch v (cRa w)).toNat % 2 ^ 18
    if j ∉ v.joints then haltCmd t q w 0x31
    else if jointFired s j = true then retireVal (dropJoint t q j) q w (some 0)
    else setQ t q { v with state := .wait, jw := some j, cur := some w, backj := 0, passBrk := false
                           deadline := if opbF w 19 0 = 0 then none else some (now s + opbF w 19 0 * 1000) } := by
  unfold runWait
  dsimp only
  rw [raJoint_granted g, modQ_granted g, g.queueOf, g.now]
  simp only [g.jointFired, Bool.not_eq_true', List.contains_eq_mem, decide_eq_false_iff_not]

/-- A JFREE frees a joint of the queue's own that is no end joint (R236). -/
theorem runJfree_granted (w : Word256) : runJfree t q w =
    let v := queueOf s q
    let j := (scratch v (cRa w)).toNat % 2 ^ 18
    if j ∉ v.joints ∨ isEndJoint s j = true then haltCmd t q w 0x31 else retireVal (dropJoint t q j) q w none := by
  unfold runJfree
  rw [raJoint_granted g, g.queueOf]
  simp only [g.isEndJoint, Bool.or_eq_true, Bool.not_eq_true', List.contains_eq_mem, decide_eq_false_iff_not]

/-- A queue holds 16 joints at most (R236). -/
theorem runJalloc_full (w : Word256) (h : 16 ≤ (queueOf s q).joints.length) : runJalloc t q w = haltCmd t q w 0x31 := by
  unfold runJalloc
  rw [g.queueOf]
  exact if_pos h

/-- With no joint free a JALLOC halts its queue (R236). -/
theorem runJalloc_none (w : Word256) (h : (queueOf s q).joints.length < 16) (hfree : runTotal s.tsk.freeJoints = 0) :
    runJalloc t q w = haltWith t q w 0x53 (some (mkDetail 0 0 1)) := by
  unfold runJalloc
  rw [g.queueOf, g.tsk]
  exact (if_neg (Nat.not_le.mpr h)).trans (if_pos hfree)

/-- JALLOC takes a joint that is free, and makes an open or a closed one (R102, R236). -/
theorem runJalloc_takes (w : Word256) (h : (queueOf s q).joints.length < 16) (hfree : runTotal s.tsk.freeJoints ≠ 0) :
    ∃ i u, JointTaken t u q i (if opbB w 24 = true then { isOpen := true } else { count := opbF w 23 0 }) ∧
      runJalloc t q w = retireVal u q w (some (BitVec.ofNat 64 i)) := by
  obtain ⟨i, u, v, htake, hjoint, hu⟩ :=
    jointTaken t q (if opbB w 24 = true then openWord else closedWord (opbF w 23 0)) (by rwa [g.tsk])
  refine ⟨i, u, hjoint, ?_⟩
  unfold runJalloc
  rw [g.queueOf, g.tsk]
  refine (if_neg (Nat.not_le.mpr h)).trans ((if_neg hfree).trans ?_)
  rw [htake, hu]
end

/-- Settles O45: WAIT and JFREE give a joint back as `dropJoint` does, JALLOC takes one as `takeJoints` does. -/
theorem jointCommandsWaitAndAllocate : Obligations.JointCommandsWaitAndAllocate := by
  intro q ws w s h
  refine ⟨fun ho => ⟨fun hown => ?_, fun hown hfired => ?_, fun hown hfired => ?_⟩, fun ho => ⟨fun hbad => ?_, fun hown hend => ?_⟩,
    fun ho => ⟨fun hfull => ?_, fun hroom hfree => ?_, fun hroom hfree => ?_⟩⟩
  · refine runs_nib (exec_cmdWait q ws s) h ho fun t g => ?_
    rw [runWait_granted g]
    exact if_pos hown
  · refine runs_nib (exec_cmdWait q ws s) h ho fun t g => ⟨_, jointFreed t q _, ?_⟩
    rw [runWait_granted g]
    exact (if_neg (not_not_intro hown)).trans (if_pos hfired)
  · refine runs_nib (exec_cmdWait q ws s) h ho fun t g => ?_
    rw [runWait_granted g]
    exact (if_neg (not_not_intro hown)).trans (if_neg (ne_true_of_eq_false hfired))
  · refine runs_nib (exec_cmdJfree q ws s) h ho fun t g => ?_
    rw [runJfree_granted g]
    exact if_pos hbad
  · refine runs_nib (exec_cmdJfree q ws s) h ho fun t g => ⟨_, jointFreed t q _, ?_⟩
    rw [runJfree_granted g]
    exact if_neg (not_or_intro (not_not_intro hown) (ne_true_of_eq_false hend))
  · exact runs_nib (exec_cmdJalloc q ws s) h ho fun t g => runJalloc_full g w hfull
  · exact runs_nib (exec_cmdJalloc q ws s) h ho fun t g => ⟨_, runJalloc_none g w hroom hfree⟩
  · exact runs_nib (exec_cmdJalloc q ws s) h ho fun t g => runJalloc_takes g w hroom hfree

end Sys2Proof.Machine

/-! Proofs. FENCE, AUDIT, HELLO and ADOPT (O49). -/
namespace Sys2Proof.Machine

/-! ## FENCE -/

/-- The states of a slot that a FENCE finds with a generation of work (R306, R314). -/
theorem ctxSt_atWork {st : CtxState}
    (h : st = .opened ∨ st = .orphaned ∨ st = .faulted ∨ st = .draining ∨ st = .quiesced) :
    (st == .free || st == .opening || st == .closing || st == .pendingReuse) = false := by
  rcases h with rfl | rfl | rfl | rfl | rfl <;> rfl

/-- A FENCE waits for the drain with its wait bit alone, and of a DRAINING slot alone (R314). -/
theorem waits_not {bit : Nat} {st : CtxState} (h : bit = 0 ∨ st ≠ .draining) : ¬ (bit = 1 ∧ st = .draining) := by
  rintro ⟨hbit, hst⟩
  exact h.elim (fun h0 => Nat.zero_ne_one (h0.symm.trans hbit)) fun hne => hne hst

section
variable {s t : Blk} {q : Nat} {w : Word256} (g : Granted s t q)
include g

/-- A FENCE of a slot with no generation at work retires with 2 (R314). -/
theorem runFence_closed (h : ctxSt s (immF w 7 0) = .free ∨ ctxSt s (immF w 7 0) = .opening ∨ ctxSt s (immF w 7 0) = .closing ∨
    ctxSt s (immF w 7 0) = .pendingReuse) : runFence t q w = retireVal t q w (some 2) := by
  unfold runFence
  dsimp only
  rw [g.ctxSt]
  refine if_pos ?_
  rcases h with h | h | h | h <;> rw [h] <;> rfl

/-- What a FENCE does of a slot at work (R314). -/
theorem runFence_atWork (h : ctxSt s (immF w 7 0) = .opened ∨ ctxSt s (immF w 7 0) = .orphaned ∨ ctxSt s (immF w 7 0) = .faulted ∨
    ctxSt s (immF w 7 0) = .draining ∨ ctxSt s (immF w 7 0) = .quiesced) : runFence t q w =
    let c := immF w 7 0
    let u := if fenceable s c = true then fenceUpdate t c .draining (if c = sqCtx s q then some q else none) else t
    if immF w 15 8 ≠ ctxGen s c then retireVal t q w (some 1)
    else if c = sqCtx s q then
      retire u q { word := w, pc := (queueOf u q).pc, value := some 0, act := if fenceable s c = true then .flush else .next }
    else if immF w 16 16 = 1 ∧ ctxSt u c = .draining then aside u q w (.fenceOf c)
    else retireVal u q w (some 0) := by
  unfold runFence
  dsimp only
  rw [g.ctxSt, if_neg (ne_true_of_eq_false (ctxSt_atWork h)), g.ctxGen, g.fenceable, g.sqCtx]
  simp only [decide_eq_true_eq, Bool.and_eq_true, beq_iff_eq]
  rfl
end

/-! ## AUDIT -/

section
variable {s t : Blk} {q : Nat} {w : Word256} (g : Granted s t q)
include g

theorem saf_granted : t.saf = s.saf := by rw [g.rest]

/-- While an automatic audit runs, an AUDIT of some book waits (R388). -/
theorem runAudit_waits (hmask : immF w 7 0 ≠ 0) (hrun : s.saf.auditRun ≠ none) :
    runAudit t q w = setQ t q { queueOf s q with wait := .unit, passBrk := true } := by
  unfold runAudit
  rw [saf_granted g, waitUnit_granted g]
  exact (if_neg hmask).trans (if_pos (Option.isSome_iff_ne_none.mpr hrun))

/-- Else it retires with the books that fail (R387). -/
theorem runAudit_ends (hmask : immF w 7 0 ≠ 0) (hrun : s.saf.auditRun = none) :
    runAudit t q w = retireVal (audit t (immF w 7 0)).2 q w (some (BitVec.ofNat 64 (audit t (immF w 7 0)).1)) := by
  unfold runAudit
  rw [saf_granted g, hrun]
  exact if_neg hmask
end

/-! ## HELLO -/

/-- The refusal of a HELLO is remembered while HIF is not ready (R411). -/
theorem hifRefused_eq (s : Blk) : (if fnReady s 15 = true then s else modCfg s (fun g => { g with hifRefused := true })) =
    { s with cfg := { s.cfg with hifRefused := s.cfg.hifRefused || !fnReady s 15 } } := by
  by_cases h : fnReady s 15 = true
  · rw [if_pos h, h]
    simp
  · rw [if_neg h, Bool.eq_false_of_not_eq_true h]
    simp [modCfg]

/-- A HELLO of a version that does not fit logs fault 0x60, and retires with 1 (R411). -/
theorem runHello_unfit {s : Blk} {q : Nat} {w : Word256} (h : compatible (cImm w) blkVersion = false) : ∃ u x,
    Logged s u uCfg (faultEnt s uCfg 0x60 none (mkDetail (cImm w) blkVersion q) false) ∧ OnlyReg u x rCfgIrq (rg u rCfgIrq ||| 2) ∧
    runHello s q w = retireVal { x with cfg := { x.cfg with hifRefused := x.cfg.hifRefused || !fnReady x 15 } } q w
      (some (BitVec.ofNat 64 (blkVersion * 2 ^ 32 + 1))) := by
  refine ⟨_, _, logged s uCfg uCfg 0x60 none (mkDetail (cImm w) blkVersion q) false, onlyReg_or _ rCfgIrq 2 (by decide), ?_⟩
  rw [← hifRefused_eq]
  unfold runHello
  exact if_neg (ne_true_of_eq_false h)

/-! ## ADOPT -/

section
variable {s t : Blk} {q : Nat} {w : Word256} (g : Granted s t q)
include g

/-- ADOPT takes over an ORPHANED slot whose generation and token it names (R313). -/
theorem runAdopt_granted : runAdopt t q w =
    let c := immF w 7 0
    let k := slotOf s c
    let bad := fun (n : Nat) => retireVal (bump t rAdoptBad) q w (some (BitVec.ofNat 64 n))
    let u := ev (becomeOpen (newLease (dropCourse t c) c) c) 0x13a c
    if k.state ≠ .orphaned then bad 1
    else if immF w 15 8 ≠ k.gen then bad 2
    else if opaF w 31 0 ≠ k.token then bad 3
    else retireVal u q w (some (BitVec.ofNat 64 ((slotOf u c).token * 2 ^ 32))) := by
  unfold runAdopt
  dsimp only
  rw [g.slots]

/-- An ADOPT that fails is counted (R313). -/
theorem adoptBad_granted : OnlyReg t (bump t rAdoptBad) rAdoptBad ((rg s rAdoptBad + 1) % 2 ^ 32) := by
  rw [← g.rg]
  exact counted_bump t rAdoptBad
end

/-- Settles O49: a FENCE by the state of its slot, AUDIT, HELLO and ADOPT by their checks in order. -/
theorem machineCommandsAct : Obligations.MachineCommandsAct := by
  intro q ws w s h
  refine ⟨fun ho => ⟨fun hst => ?_, fun hst => ⟨fun hgen => ?_, fun hgen => ⟨fun hown hfen => ?_, fun hown hfen => ?_,
      fun hfen => ⟨fun hown hwait hdr => ?_, fun hnow => ?_⟩⟩⟩⟩,
    fun ho => ⟨fun hmask => ?_, fun hmask hrun => ?_, fun hmask hrun => ?_⟩,
    fun ho => ⟨fun hfit => ?_, fun hfit => ?_⟩,
    fun ho => ⟨fun hst => ?_, fun hst hgen => ?_, fun hst hgen htok => ?_, fun hst hgen htok => ?_⟩⟩
  · exact runs_nib (exec_cmdFence q ws s) h ho fun t g => runFence_closed g hst
  · refine runs_nib (exec_cmdFence q ws s) h ho fun t g => ?_
    rw [runFence_atWork g hst]
    exact if_pos hgen
  · refine runs_nib (exec_cmdFence q ws s) h ho fun t g => ⟨_, rfl, ?_⟩
    rw [runFence_atWork g hst]
    dsimp only
    rw [if_neg (not_not_intro hgen), if_pos hown, if_pos hfen, if_pos hown, if_pos hfen]
  · refine runs_nib (exec_cmdFence q ws s) h ho fun t g => ⟨_, rfl, fun hwait => ?_, fun hnow => ?_⟩ <;>
      rw [runFence_atWork g hst] <;> dsimp only <;> rw [if_neg (not_not_intro hgen), if_neg hown, if_pos hfen, if_neg hown]
    · exact if_pos hwait
    · exact if_neg (waits_not hnow)
  · refine runs_nib (exec_cmdFence q ws s) h ho fun t g => ?_
    rw [runFence_atWork g hst]
    dsimp only
    rw [if_neg (not_not_intro hgen), if_neg hown, if_neg (ne_true_of_eq_false hfen), g.ctxSt, if_pos ⟨hwait, hdr⟩,
      aside_granted g]
  · refine runs_nib (exec_cmdFence q ws s) h ho fun t g => ?_
    rw [runFence_atWork g hst]
    dsimp only
    rw [if_neg (not_not_intro hgen), if_neg (ne_true_of_eq_false hfen), if_neg (ne_true_of_eq_false hfen), g.ctxSt]
    split
    next => rfl
    next => exact if_neg (waits_not hnow)
  · refine runs_nib (exec_cmdAudit q s) h ho fun t g => ?_
    unfold runAudit
    exact if_pos hmask
  · exact runs_nib (exec_cmdAudit q s) h ho fun t g => ⟨_, _, rfl, runAudit_ends g hmask hrun⟩
  · exact runs_nib (exec_cmdAudit q s) h ho fun t g => runAudit_waits g hmask hrun
  · refine runs_nib (exec_cmdHello q s) h ho fun t g => ?_
    unfold runHello
    exact if_pos hfit
  · exact runs_nib (exec_cmdHello q s) h ho fun t g => runHello_unfit hfit
  · refine runs_nib (exec_cmdAdopt q s) h ho fun t g => ⟨_, adoptBad_granted g, ?_⟩
    rw [runAdopt_granted g]
    exact if_pos hst
  · refine runs_nib (exec_cmdAdopt q s) h ho fun t g => ⟨_, adoptBad_granted g, ?_⟩
    rw [runAdopt_granted g]
    exact (if_neg (not_not_intro hst)).trans (if_pos hgen)
  · refine runs_nib (exec_cmdAdopt q s) h ho fun t g => ⟨_, adoptBad_granted g, ?_⟩
    rw [runAdopt_granted g]
    exact (if_neg (not_not_intro hst)).trans ((if_neg (not_not_intro hgen)).trans (if_pos htok))
  · refine runs_nib (exec_cmdAdopt q s) h ho fun t g => ⟨_, Observed.ev _ 0x13a (immF w 7 0), ?_⟩
    rw [runAdopt_granted g]
    exact (if_neg (not_not_intro hst)).trans ((if_neg (not_not_intro hgen)).trans (if_neg (not_not_intro htok)))

end Sys2Proof.Machine

/-! Proofs. The checks of a command (O50), and what time does to the queues (O51). -/
namespace Sys2Proof.Machine

/-! ## The checks of R228 -/

section
variable {s : Blk} {q : Nat} {w : Word256}

/-- A command that is shut out comes before an accepted HELLO, and is neither HELLO nor NOP (R411). -/
abbrev ShutOut (s : Blk) (w : Word256) : Prop := fnReady s 15 = false ∧ cOp w ≠ oHello ∧ cOp w ≠ oNop

/-- A command that is barred is privileged, on a queue that is not (R229). -/
abbrev Barred (s : Blk) (q : Nat) (w : Word256) : Prop := privOp w (sqCtx s q) = true ∧ sqPriv s q = false

/-- The checks of R228 in their order. -/
theorem frontCheck_eq : frontCheck s q w =
    if opKnown (cOp w) = false then some 0x30
    else if ShutOut s w then some 0x60
    else if Barred s q w then some 0x33
    else if operandsOk w = false then some 0x31
    else none := by
  unfold frontCheck
  simp only [Bool.not_eq_true', Bool.and_eq_true, decide_eq_true_eq, and_assoc]

/-- ILLEGAL_OPCODE does nothing for an opcode that R229 lists. -/
theorem illegalOpcode_known (hw : issueWord s q = some w) (hop : opKnown (cOp w) = true) : illegalOpcode s q = s := by
  unfold illegalOpcode
  rw [hw]
  exact if_pos hop

/-- A row of the Nib does nothing where the next command has another opcode (R240). -/
theorem execCmd_other {op : Nat} (hw : issueWord s q = some w) (hop : cOp w ≠ op) (ws : List Nat) (run : Blk → Word256 → Bool → Blk) :
    execCmd s q op ws run = s := by
  unfold execCmd
  rw [hw]
  exact if_neg hop

/-- A queue that is not served next does nothing (R239). -/
theorem execCmd_none (hw : issueWord s q = none) (op : Nat) (ws : List Nat) (run : Blk → Word256 → Bool → Blk) :
    execCmd s q op ws run = s := by
  unfold execCmd
  rw [hw]
end

/-- ILLEGAL_OPCODE halts a queue at an opcode that R229 does not list. -/
theorem illegalOpcode_halts {s : State} {q : Nat} {w : Word256} (h : IsNext s.blk q w) (hop : opKnown (cOp w) = false) :
    Halts (.illegalOpcode q) s q w 0x30 := by
  obtain ⟨g, hbegin⟩ := beginCmd_next h [] (fun s _ _ => s) (frontCheck_eq.trans (if_pos hop))
  refine updates_act (exec_illegalOpcode q s) h.csq ⟨_, g, ?_⟩
  unfold illegalOpcode
  rw [h.word]
  exact (if_neg (ne_true_of_eq_false hop)).trans hbegin

/-- A row of the Nib that leaves the block as it is. -/
theorem nibRow_stands {c : Instr} {s : State} {q op : Nat} (hc : nibRow c = some (q, op)) (hready : fnReady s.blk 13 = true)
    (hstands : ∀ ws run, execCmd s.blk q op ws run = s.blk) : Updates c s (fun b => b = s.blk) := by
  obtain ⟨ws, run, hexec⟩ := nibRow_exec hc s
  exact updates_act hexec hready (hstands ws run)

/-- Settles O50: the checks by `frontCheck`, and a command whose turn it is not by `issueWord`. -/
theorem checksHaltTheQueue : Obligations.ChecksHaltTheQueue := by
  intro q s hready
  refine ⟨fun w h hop => illegalOpcode_halts h hop,
    fun w hw hop => updates_act (exec_illegalOpcode q s) hready (illegalOpcode_known hw hop),
    fun c op hc => ⟨fun w h ho => ?_, fun w hw hop => nibRow_stands hc hready fun ws run => execCmd_other hw hop ws run,
      fun hw => nibRow_stands hc hready fun ws run => execCmd_none hw op ws run⟩⟩
  have hknown : ¬ opKnown (cOp w) = false := by
    rw [ho, nibRow_known hc]
    decide
  have hchecks := (frontCheck_eq (s := s.blk) (q := q)).trans (if_neg hknown)
  subst ho
  refine ⟨fun hshut => halts_nib hc h rfl (hchecks.trans (if_pos hshut)),
    fun hshut hbar => halts_nib hc h rfl (hchecks.trans ((if_neg hshut).trans (if_pos hbar))),
    fun hshut hbar hops => halts_nib hc h rfl (hchecks.trans ((if_neg hshut).trans ((if_neg hbar).trans (if_pos hops))))⟩

/-! ## Waits that end by time -/

section
variable {s : Blk} {q d : Nat} {w : Word256}

/-- The moment `d` has come: time is usable and has reached it (R69). -/
theorem due_iff : (s.time.usable && decide (d ≤ now s)) = true ↔ s.time.usable = true ∧ d ≤ now s := by
  rw [Bool.and_eq_true, decide_eq_true_eq]

theorem not_due (h : s.time.usable = false ∨ now s < d) : ¬ (s.time.usable && decide (d ≤ now s)) = true := by
  rw [due_iff]
  rintro ⟨husable, hle⟩
  exact h.elim (fun hu => Bool.noConfusion (hu.symm.trans husable)) fun hlt => Nat.not_lt.mpr hle hlt

/-- A WAIT ends when its timeout passes (R236). -/
theorem waitTimeout_wait (hst : (queueOf s q).state = .wait) (hd : (queueOf s q).deadline = some d) (hw : (queueOf s q).cur = some w) :
    waitTimeout s q =
      if (s.time.usable && decide (d ≤ now s)) = true then retireVal (ev s 0xca (sqCtx s q)) q w (some 1) else s := by
  unfold waitTimeout
  dsimp only
  rw [hst, hd, hw]

theorem waitTimeout_other (hst : (queueOf s q).state ≠ .wait) : waitTimeout s q = s := by
  unfold waitTimeout
  dsimp only
  split
  next hwait _ _ => exact absurd hwait hst
  next => rfl

/-- A SLEEP ends when its wake time is reached (R231). -/
theorem sleepWake_sleep (hst : (queueOf s q).state = .sleep) (hd : (queueOf s q).deadline = some d) (hw : (queueOf s q).cur = some w) :
    sleepWake s q = if (s.time.usable && decide (d ≤ now s)) = true then retireVal s q w none else s := by
  unfold sleepWake
  dsimp only
  rw [hst, hd, hw]

theorem sleepWake_other (hst : (queueOf s q).state ≠ .sleep) : sleepWake s q = s := by
  unfold sleepWake
  dsimp only
  split
  next hsleep _ _ => exact absurd hsleep hst
  next => rfl
end

/-- WAIT_TIMEOUT of a queue of a free context. -/
theorem waitTimeout_updates {s : State} {q : Nat} {P : Blk → Prop} (hready : fnReady s.blk 13 = true)
    (hfree : ruledLive s.blk (sqCtx s.blk q) = false) (hp : P (waitTimeout s.blk q)) : Updates (.waitTimeout q) s P :=
  updates_act (exec_waitTimeout q s) hready (by rwa [if_pos (freeCtx_of hfree)])

/-- SLEEP_WAKE of a queue of a free context. -/
theorem sleepWake_updates {s : State} {q : Nat} {P : Blk → Prop} (hready : fnReady s.blk 13 = true)
    (hfree : ruledLive s.blk (sqCtx s.blk q) = false) (hp : P (sleepWake s.blk q)) : Updates (.sleepWake q) s P :=
  updates_act (exec_sleepWake q s) hready (by rwa [if_pos (freeCtx_of hfree)])

/-! ## Pulses and samples -/

/-- A Pulse while a queue runs, and one more when the last has stopped (R246). -/
theorem pulseCmd_emits {s : Blk} (h : csqActive s = true ∨ s.csq.active = true) : pulseCmd s = emitPulse s (csqActive s) := by
  unfold pulseCmd
  cases hactive : csqActive s with
  | true => rfl
  | false =>
    rw [hactive] at h
    exact if_pos (h.resolve_left Bool.false_ne_true)

theorem pulseCmd_idle {s : Blk} (hnow : csqActive s = false) (hlast : s.csq.active = false) : pulseCmd s = s := by
  unfold pulseCmd
  rw [hnow, hlast]
  rfl

/-- A sample of the program counters is due (R251). -/
theorem pcsDue_iff {s : Blk} : pcsDue s = true ↔
    rgb s rPcsCfg 31 = true ∧ s.time.usable = true ∧ s.csq.pcsAt + 2 ^ rgf s rPcsCfg 4 0 ≤ now s := by
  unfold pcsDue
  rw [Bool.and_eq_true, Bool.and_eq_true, decide_eq_true_eq, and_assoc]

theorem pcSample_early {s : Blk} (h : pcsDue s = false) : pcSample s = s := by
  unfold pcSample
  rw [h]
  rfl

/-- The queue sampled is the first that is enabled, from the one after the last (R251). -/
theorem pcsQueue_first {s : Blk} {k : Nat} (hk : k < 64) (hen : (queueOf s ((s.csq.pcsNext + k) % 64)).state ≠ .disabled)
    (hdis : ∀ i < k, (queueOf s ((s.csq.pcsNext + i) % 64)).state = .disabled) : pcsQueue s = some ((s.csq.pcsNext + k) % 64) := by
  unfold pcsQueue
  rw [List.find?_map, Option.map_eq_some_iff]
  refine ⟨k, List.find?_range_eq_some.mpr ⟨?_, List.mem_range.mpr hk, fun i hi => ?_⟩, rfl⟩
  · simpa using hen
  · simpa using hdis i hi

/-- Settles O51: what is due acts, and what is not due leaves the block as it is. -/
theorem queuesPassTheirTime : Obligations.QueuesPassTheirTime := by
  intro s hready
  refine ⟨fun q d w => fun hd hw hfree => ⟨fun hst hu hle => ?_, fun hst hu hle => ?_, fun hnot => ?_, fun hnot => ?_⟩,
    ⟨fun hactive => ?_, fun hnow hlast => ?_⟩, ⟨fun hnot => ?_, fun k hk => fun hen hu hle hon hoff => ?_⟩⟩
  · refine waitTimeout_updates hready hfree ⟨_, Observed.ev _ 0xca (sqCtx s.blk q), ?_⟩
    rw [waitTimeout_wait hst hd hw, if_pos (due_iff.mpr ⟨hu, hle⟩)]
  · refine sleepWake_updates hready hfree ?_
    rw [sleepWake_sleep hst hd hw, if_pos (due_iff.mpr ⟨hu, hle⟩)]
  · refine waitTimeout_updates hready hfree ?_
    by_cases hst : (queueOf s.blk q).state = .wait
    · rw [waitTimeout_wait hst hd hw, if_neg (not_due (hnot.resolve_left (not_not_intro hst)))]
    · exact waitTimeout_other hst
  · refine sleepWake_updates hready hfree ?_
    by_cases hst : (queueOf s.blk q).state = .sleep
    · rw [sleepWake_sleep hst hd hw, if_neg (not_due (hnot.resolve_left (not_not_intro hst)))]
    · exact sleepWake_other hst
  · refine updates_act (exec_pulse s) hready ⟨_, counted_bump s.blk rPulseCount, ?_⟩
    rw [pulseCmd_emits hactive]
    exact emitPulse_obs s.blk (csqActive s.blk)
  · exact updates_act (exec_pulse s) hready (pulseCmd_idle hnow hlast)
  · refine updates_act (exec_pcSample s) hready (pcSample_early (Bool.eq_false_of_not_eq_true fun hdue => ?_))
    obtain ⟨hen, hu, hle⟩ := pcsDue_iff.mp hdue
    rcases hnot with h | h | h
    · exact Bool.noConfusion (h.symm.trans hen)
    · exact Bool.noConfusion (h.symm.trans hu)
    · exact Nat.not_lt.mpr hle h
  · exact updates_act (exec_pcSample s) hready (pcSample_takes (pcsDue_iff.mpr ⟨hen, hu, hle⟩) (pcsQueue_first hk hon hoff))

end Sys2Proof.Machine

/-! Proofs. What FLUSH and EN written 0 leave of a queue (O53), and the control of queues (O52). -/
namespace Sys2Proof.Machine

/-! ## A queue that is emptied -/

/-- What a queue is when nothing of its commands can come back and its joints are given back: end joints of live launches stay behind
(R226, R237, R243). -/
def emptied (s : Blk) (v : Queue) : Queue :=
  dropAhead { v.clearCmd with
    joints := [], endFree := v.endFree ++ v.joints.filter (isEndJoint s), life := v.life + 1, heldCtl := none, passBrk := false
    stepArm := false }

section
variable (s : Blk) (q : Nat)

theorem dropJoints_queue : queueOf (dropJoints s q) q =
    { queueOf s q with joints := [], endFree := (queueOf s q).endFree ++ (queueOf s q).joints.filter (isEndJoint s) } :=
  queueOf_setQ _ _ _

theorem dropJoints_queue_other {r : Nat} (h : r ≠ q) : queueOf (dropJoints s q) r = queueOf s r := queueOf_setQ_other _ _ h

/-- The joints that a queue gives back are free; end joints of live launches are not (R237). -/
theorem dropJoints_joint (j : Nat) :
    jointOf (dropJoints s q) j = if j ∈ (queueOf s q).joints ∧ isEndJoint s j = false then none else jointOf s j := by
  refine (giveJoints_joint _ _ j).trans ?_
  simp only [List.contains_eq_mem, List.mem_filter, Bool.not_eq_true', decide_eq_true_eq]
  rfl

theorem abandonCmd_isEndJoint : isEndJoint (abandonCmd s q) = isEndJoint s := funext (abandonCmd_end s q)

/-- FLUSH leaves the queue empty, its HEAD at TAIL, outside any call (R243). -/
theorem flushTo_queue (st : QState) : queueOf (flushTo s q st) q = { emptied s (queueOf s q) with
    state := st, head := (queueOf s q).tailNow, tail := (queueOf s q).tailNow, door := none, stack := [], ringCall := none, backj := 0 } := by
  unfold flushTo modQ
  rw [queueOf_setQ, dropJoints_queue, abandonCmd_isEndJoint, abandonCmd_queues]
  rfl

/-- EN written 0 leaves the pointers, the call stack and BACKJ (R226). -/
theorem disableQ_queue : queueOf (disableQ s q) q = { emptied s (queueOf s q) with state := .disabled } := by
  unfold disableQ modQ
  rw [queueOf_setQ, dropJoints_queue, abandonCmd_isEndJoint, abandonCmd_queues]
  rfl

theorem flushTo_queue_other (st : QState) {r : Nat} (h : r ≠ q) : queueOf (flushTo s q st) r = queueOf s r :=
  (queueOf_setQ_other _ _ h).trans (dropJoints_queue_other _ q h)

theorem disableQ_queue_other {r : Nat} (h : r ≠ q) : queueOf (disableQ s q) r = queueOf s r :=
  (queueOf_setQ_other _ _ h).trans (dropJoints_queue_other _ q h)

theorem flushTo_joint (st : QState) (j : Nat) :
    jointOf (flushTo s q st) j = if j ∈ (queueOf s q).joints ∧ isEndJoint s j = false then none else jointOf s j := by
  rw [← abandonCmd_end s q j]
  exact dropJoints_joint (abandonCmd s q) q j

theorem disableQ_joint (j : Nat) :
    jointOf (disableQ s q) j = if j ∈ (queueOf s q).joints ∧ isEndJoint s j = false then none else jointOf s j := by
  rw [← abandonCmd_end s q j]
  exact dropJoints_joint (abandonCmd s q) q j
end

/-- Settles O53: both leave the queue as `emptied` says, and differ in the pointers and the call stack. -/
theorem flushEmptiesTheQueue : Obligations.FlushEmptiesTheQueue := by
  intro s q
  refine ⟨fun st => ⟨⟨?_, ?_, fun r hr => flushTo_queue_other s q st hr, flushTo_joint s q st⟩, ?_⟩,
    ⟨?_, ?_, fun r hr => disableQ_queue_other s q hr, disableQ_joint s q⟩, ?_⟩
  · rw [flushTo_queue]; rfl
  · rw [flushTo_queue]; rfl
  · rw [flushTo_queue]
  · rw [disableQ_queue]; rfl
  · rw [disableQ_queue]; rfl
  · rw [disableQ_queue]; rfl

/-! ## Doorbells and completion heads -/

section
variable {s : State} {page o : Nat} {v : Word} {a : Access} {c : Instr}

/-- No register of the Sequencer's part of a page asks a store that other parties ask (R256, R278). -/
theorem asksFor_pageCsq (b : Blk) (ho : o < 0x200) : asksFor b (pageReg page o) = none := by
  have hoff : pageReg page o = 0x200000 + 0x1000 * page + o := rfl
  exact asksFor_page (by omega) (by omega)

/-- A write of a register of the Sequencer in a page, where it is performed (R256). -/
theorem writes_pageCsq {P : Blk → Prop} {t : Blk} (hc : exec c s = busCmd (pageReg (page % 256) o) v a s) (hp : page < 256)
    (ho : o < 0x200) (h : Served s.blk (pageReg page o) a) (hact : pageCsq s.blk page o v = some t) (ht : P t) : Writes c s P := by
  rw [Nat.mod_eq_of_lt hp] at hc
  refine writes_bus hc h ?_ ht (asksFor_pageCsq s.blk ho)
  rw [regAct_page s.blk v hp (by omega)]
  exact (if_pos ho).trans hact

/-- The same, where R14 refuses it and it is no doorbell. -/
theorem refuses_pageCsq (hc : exec c s = busCmd (pageReg (page % 256) o) v a s) (hp : page < 256) (h0 : 0 < o) (ho : o < 0x200)
    (h : Served s.blk (pageReg page o) a) (hact : pageCsq s.blk page o v = none) : Refuses c s (pageReg page o) v a := by
  have hoff : pageReg page o = 0x200000 + 0x1000 * page + o := rfl
  rw [Nat.mod_eq_of_lt hp] at hc
  refine refuses_bus hc h ?_ (.inr (.inr (by omega)))
  rw [regAct_page s.blk v hp (by omega)]
  exact (if_pos ho).trans hact
end

/-- A write of a page's doorbell register rings the doorbell of its queue (R224). -/
theorem pageCsq_doorbell (s : Blk) (page : Nat) {q tail : Nat} (hq : q < 64) (ht : tail < 65536) :
    pageCsq s page 0 (w32 (put q 21 16 + put tail 15 0)) = doorbell s page q tail := by
  obtain ⟨hfq, hft⟩ := db_word hq ht
  unfold pageCsq
  dsimp only
  rw [if_pos rfl, hfq, hft]

/-- A doorbell to a queue that is idle, or whose context is free, sets TAIL (R224). -/
theorem doorbell_sets {s : Blk} {page q tail : Nat} (hctx : sqCtx s q = page) (hsize : tail < sqSize s q)
    (hnow : ruledLive s page = false ∨ (queueOf s q).state = .idle) : ∃ t, doorbell s page q tail = some t ∧
    Observed (setQ s q { (if (queueOf s q).tail % 2 = 1 then dropAhead (queueOf s q) else queueOf s q) with tail, door := none }) t := by
  have hfree : ¬ (ruledLive s page && (queueOf s q).state ≠ .idle) = true := by
    rcases hnow with h | h <;> simp [h]
  refine ⟨_, doorbell_taken hctx hsize, ?_⟩
  rw [if_neg hfree]
  exact Observed.ev _ 0xc2 page

/-- A doorbell to a queue at work of a ruled context is held (R290). -/
theorem doorbell_held {s : Blk} {page q tail : Nat} (hctx : sqCtx s q = page) (hsize : tail < sqSize s q)
    (hruled : ruledLive s page = true) (hwork : (queueOf s q).state ≠ .idle) :
    ∃ t, doorbell s page q tail = some t ∧ Observed (setQ s q { queueOf s q with door := some tail }) t := by
  refine ⟨_, doorbell_taken hctx hsize, ?_⟩
  rw [if_pos (by simp [hruled, hwork])]
  exact Observed.ev _ 0xc2 page

theorem unitOf_pageDoorbell {page : Nat} : unitOf (pageReg page 0) = uCsq := by
  have hoff : pageReg page 0 = 0x200000 + 0x1000 * page := rfl
  have hlow : pageReg page 0 % 0x1000 = 0 := by omega
  have hpage : pageReg page 0 ≥ rPage := Nat.le_add_right _ _
  unfold unitOf
  rw [if_pos hpage]
  dsimp only
  rw [hlow]
  rfl

theorem refusedDoorbell_page (s : Blk) {page : Nat} (hp : page < 256) :
    refusedDoorbell s (pageReg page 0) = ev (bump s rDbBad) 0xc3 page := by
  have hoff : pageReg page 0 = 0x200000 + 0x1000 * page := rfl
  have hbase : rPage = 0x200000 := rfl
  have hindex : (pageReg page 0 - rPage) / 0x1000 = page := by omega
  unfold refusedDoorbell
  rw [hindex, if_pos]
  simp only [Bool.and_eq_true, decide_eq_true_eq]
  omega

/-- A doorbell that R224 refuses is counted, and logs fault 0x31 (R14, R224). -/
theorem doorbell_refuses {s : State} {page q tail : Nat} {a : Access} (hp : page < 256) (hq : q < 64) (ht : tail < 65536)
    (h : Served s.blk (pageReg page 0) a) (hno : doorbell s.blk page q tail = none) :
    Updates (.csqDb page q tail a) s (fun b => ∃ t u x,
      Counted s.blk t rDbBad ∧ Observed t u ∧ b = rgpEnd x rgpRefused 0 ∧ ∃ e, Logged u x uCsq e ∧ e.code = 0x31) := by
  have hc := exec_csqDb page q tail a s
  rw [Nat.mod_eq_of_lt hp] at hc
  have hact : regAct s.blk (pageReg page 0) (w32 (put q 21 16 + put tail 15 0)) = none := by
    rw [regAct_page s.blk _ hp (by decide)]
    exact (pageCsq_doorbell s.blk page hq ht).trans hno
  refine updates_bus hc h.reg ?_ (asksFor_pageCsq s.blk (by decide))
  rw [busWrite_refused h hact, refusedDoorbell_page s.blk hp]
  obtain ⟨x, hx, hlog⟩ := refusal (ev (bump s.blk rDbBad) 0xc3 page) (pageReg page 0) (w32 (put q 21 16 + put tail 15 0)) a h.low
  rw [unitOf_pageDoorbell] at hlog
  exact ⟨_, _, x, counted_bump s.blk rDbBad, Observed.ev _ 0xc3 page, hx, _, hlog, rfl⟩

/-- A completion head frees slots of the ring of the queue that the page shows (R245, R256). -/
theorem pageCsq_head {s : Blk} {page : Nat} (v : Word) (h : sqCtx s (rgf s (pageReg page 4) 5 0) = page) :
    let q := rgf s (pageReg page 4) 5 0
    pageCsq s page 0x10 v = some (push (setQ s q { queueOf s q with cplHead := fld v 15 0 }) [.cplPump q]) := by
  unfold pageCsq
  exact (if_neg (by decide)).trans ((if_neg (by decide)).trans ((if_neg (not_not_intro h)).trans (if_pos rfl)))

theorem pageCsq_head_other {s : Blk} {page : Nat} (v : Word) (h : sqCtx s (rgf s (pageReg page 4) 5 0) ≠ page) :
    pageCsq s page 0x10 v = none := by
  unfold pageCsq
  exact (if_neg (by decide)).trans ((if_neg (by decide)).trans (if_pos h))

/-! ## CSQ_SQq_CFG -/

section
variable {s : State} {q o : Nat} {v : Word} {a : Access} {c : Instr}

theorem sqReg_low (hq : q < 64) (ho : o < 0x100) : sqReg q o < 0x200000 ∧ sqReg q o ≠ 0x120008 ∧ sqReg q o % 0x100 = o := by
  have hoff : sqReg q o = 0x21000 + 0x100 * q + o := rfl
  omega

/-- A write of a register of a queue, where it is performed (R255). -/
theorem writes_sq {P : Blk → Prop} {t : Blk} (hc : exec c s = busCmd (sqReg (q % 64) o) v a s) (hq : q < 64) (ho : o < 0x100)
    (h : Served s.blk (sqReg q o) a) (hact : actSq s.blk q (sqReg q o) v = some t) (ht : P t) : Writes c s P := by
  obtain ⟨hlow, hctl, -⟩ := sqReg_low hq ho
  rw [Nat.mod_eq_of_lt hq] at hc
  exact writes_bus hc h ((regAct_sq s.blk v hq ho).trans hact) ht (asksFor_low hlow hctl)

/-- The same, where R14 refuses it. -/
theorem refuses_sq (hc : exec c s = busCmd (sqReg (q % 64) o) v a s) (hq : q < 64) (ho : o < 0x100)
    (h : Served s.blk (sqReg q o) a) (hact : actSq s.blk q (sqReg q o) v = none) : Refuses c s (sqReg q o) v a := by
  obtain ⟨hlow, -, -⟩ := sqReg_low hq ho
  rw [Nat.mod_eq_of_lt hq] at hc
  exact refuses_bus hc h ((regAct_sq s.blk v hq ho).trans hact) (.inl hlow)
end

theorem actSq_cfg (s : Blk) {q : Nat} (hq : q < 64) (v : Word) : actSq s q (sqReg q 0) v = sqCfgWrite s q v := by
  obtain ⟨-, -, hmod⟩ := sqReg_low (o := 0) hq (by decide)
  unfold actSq
  rw [hmod]
  rfl

theorem actSq_ctl (s : Blk) {q : Nat} (hq : q < 64) (v : Word) :
    actSq s q (sqReg q 0x24) v = allow (inRange 1 3 (fld v 2 0)) (ctlWrite s q (fld v 2 0)) := by
  obtain ⟨-, -, hmod⟩ := sqReg_low (o := 0x24) hq (by decide)
  unfold actSq
  rw [hmod]
  rfl

/-- CSQ_SQq_CFG has both its ring sizes in the range of R254. -/
def SizesFit (v : Word) : Prop := 4 ≤ fld v 4 0 ∧ fld v 4 0 ≤ 16 ∧ 4 ≤ fld v 12 8 ∧ fld v 12 8 ≤ 16

/-- A word leaves the fields that an enabled queue's register keeps (R255). -/
def KeepsCfg (s : Blk) (q : Nat) (v : Word) : Prop := v.toNat &&& 0x70ff1f1f = rg s (sqReg q 0) &&& 0x70ff1f1f

/-- CSQ_SQq_CFG as a write of `v` with EN 1 or EN 0 leaves it (R255). -/
abbrev cfgStored (s : Blk) (q : Nat) (v : Word) : Blk := storeAt s (sqReg q 0) 0xf0ff1f1f v

section
variable {s : Blk} {q : Nat} {v : Word}

/-- A write of CSQ_SQq_CFG whose sizes do not fit, or that changes an enabled queue's other fields, is refused (R255). -/
theorem sqCfgWrite_refused {w : Word} (hf : SizesFit w ↔ SizesFit v) (hk : KeepsCfg s q w ↔ KeepsCfg s q v)
    (h : ¬ SizesFit v ∨ (rgb s (sqReg q 0) 31 = true ∧ ¬ KeepsCfg s q v)) : sqCfgWrite s q w = none := by
  obtain ⟨unfit, change, -⟩ := sqCfg_cases s q w
  by_cases hfits : SizesFit w
  · obtain ⟨hen, hother⟩ := h.resolve_left (not_not_intro (hf.mp hfits))
    exact change hfits hen fun hsame => hother (hk.mp hsame)
  · exact unfit hfits

theorem sizesFit_on : SizesFit (v ||| 0x80000000#32) ↔ SizesFit v := by
  unfold SizesFit
  rw [fld_or (by decide), fld_or (by decide)]

theorem sizesFit_off : SizesFit (v &&& 0x7fffffff#32) ↔ SizesFit v := by
  unfold SizesFit
  rw [fld_and (by decide), fld_and (by decide)]

theorem keepsCfg_on : KeepsCfg s q (v ||| 0x80000000#32) ↔ KeepsCfg s q v := by
  unfold KeepsCfg
  rw [or_mask]

theorem keepsCfg_off : KeepsCfg s q (v &&& 0x7fffffff#32) ↔ KeepsCfg s q v := by
  unfold KeepsCfg
  rw [and_mask]

/-- EN written 1 of a disabled queue enables it (R226). -/
theorem sqCfgWrite_enables (hf : SizesFit v) (hen : rgb s (sqReg q 0) 31 = false) :
    sqCfgWrite s q (v ||| 0x80000000#32) = some (enableQ (cfgStored s q (v ||| 0x80000000#32)) q) := by
  obtain ⟨-, -, -, -, -, enables, -⟩ := sqCfg_cases s q (v ||| 0x80000000#32)
  exact enables (sizesFit_on.mpr hf) hen (or_top v)

/-- EN written 0 of a disabled queue stores the word (R255). -/
theorem sqCfgWrite_stays (hf : SizesFit v) (hen : rgb s (sqReg q 0) 31 = false) :
    sqCfgWrite s q (v &&& 0x7fffffff#32) = some (cfgStored s q (v &&& 0x7fffffff#32)) := by
  obtain ⟨-, -, -, -, -, -, stays⟩ := sqCfg_cases s q (v &&& 0x7fffffff#32)
  exact stays (sizesFit_off.mpr hf) hen (and_top v)

/-- EN written 1 of an enabled queue stores the word (R255). -/
theorem sqCfgWrite_again (hf : SizesFit v) (hen : rgb s (sqReg q 0) 31 = true) (hk : KeepsCfg s q v) :
    sqCfgWrite s q (v ||| 0x80000000#32) = some (cfgStored s q (v ||| 0x80000000#32)) := by
  obtain ⟨-, -, again, -⟩ := sqCfg_cases s q (v ||| 0x80000000#32)
  exact again (sizesFit_on.mpr hf) hen (keepsCfg_on.mpr hk) (or_top v)

/-- EN written 0 of an enabled queue that stands still disables it (R226). -/
theorem sqCfgWrite_disables (hf : SizesFit v) (hen : rgb s (sqReg q 0) 31 = true) (hk : KeepsCfg s q v)
    (hst : (queueOf s q).state = .idle ∨ (queueOf s q).state = .brk ∨ (queueOf s q).state = .halted) :
    sqCfgWrite s q (v &&& 0x7fffffff#32) = some (disableQ (cfgStored s q (v &&& 0x7fffffff#32)) q) := by
  obtain ⟨-, -, -, disables, -⟩ := sqCfg_cases s q (v &&& 0x7fffffff#32)
  exact disables (sizesFit_off.mpr hf) hen (keepsCfg_off.mpr hk) (and_top v) hst

/-- EN written 0 of an enabled queue that moves is refused (R226). -/
theorem sqCfgWrite_moving (hf : SizesFit v) (hen : rgb s (sqReg q 0) 31 = true) (hk : KeepsCfg s q v)
    (hst : (queueOf s q).state = .run ∨ (queueOf s q).state = .wait ∨ (queueOf s q).state = .sleep) :
    sqCfgWrite s q (v &&& 0x7fffffff#32) = none := by
  obtain ⟨-, -, -, -, moving, -⟩ := sqCfg_cases s q (v &&& 0x7fffffff#32)
  exact moving (sizesFit_off.mpr hf) hen (keepsCfg_off.mpr hk) (and_top v) hst
end

theorem cfgStored_only (s : Blk) (q : Nat) (v : Word) :
    OnlyReg s (cfgStored s q v) (sqReg q 0) (written (rg s (sqReg q 0)) 0xf0ff1f1f v) :=
  storeAt_only s (sqReg q 0) 0xf0ff1f1f v (by decide)

/-! ## CSQ_SQq_CTL -/

section
variable {s : Blk} {q : Nat}

/-- A CTL action on a queue that is not HALTED is counted as a bad doorbell (R243). -/
theorem ctlWrite_other (act : Nat) (h : (queueOf s q).state ≠ .halted) : ctlWrite s q act = bump s rDbBad := by
  unfold ctlWrite
  exact if_pos h

/-- A CTL action is held while the context is not OPEN (R243). -/
theorem ctlWrite_held (act : Nat) (h : (queueOf s q).state = .halted) (hctx : ctxOpen s q = false) :
    ctlWrite s q act = setQ s q { queueOf s q with heldCtl := some act } := by
  unfold ctlWrite
  exact (if_neg (not_not_intro h)).trans (if_neg (ne_true_of_eq_false hctx))

theorem ctlWrite_open (act : Nat) (h : (queueOf s q).state = .halted) (hctx : ctxOpen s q = true) :
    ctlWrite s q act = ctlAct s q act := by
  unfold ctlWrite
  exact (if_neg (not_not_intro h)).trans (if_pos hctx)

theorem ctlAct_retry (h : (queueOf s q).state = .halted) :
    ctlAct s q 1 = setQ s q { queueOf s q with state := .run, heldCtl := none } := by
  unfold ctlAct
  exact if_neg (not_not_intro h)

theorem ctlAct_flush (h : (queueOf s q).state = .halted) : ctlAct s q 3 = flushTo s q .idle := by
  unfold ctlAct
  exact if_neg (not_not_intro h)

/-- The word of the command that halted a queue, as its registers show it, with its REPORT bit cleared (R242, R243). -/
def skippedWord (s : Blk) (q : Nat) : Word256 :=
  BitVec.ofNat 256 (((List.range 8).map (fun i => rg s (sqReg q (0x40 + 4 * i)) * 2 ^ (32 * i))).foldl (· + ·) 0) &&&
    ~~~(256 : Word256)

theorem skippedWord_bit {k : Nat} (hk : k < 256) : (skippedWord s q).getLsbD k =
    ((rg s (sqReg q (0x40 + 4 * (k / 32)))).testBit (k % 32) && decide (k ≠ 8)) := by
  unfold skippedWord
  rw [BitVec.getLsbD_and, not256 k hk, BitVec.getLsbD_ofNat,
    words_testBit (fun i => rg s (sqReg q (0x40 + 4 * i))) (fun _ => rg_lt s _) k hk, decide_eq_true hk, Bool.true_and]

/-- SKIP retires the halted command without effect (R243). -/
theorem ctlAct_skip (h : (queueOf s q).state = .halted) : ctlAct s q 2 =
    retire (setQ s q { queueOf s q with state := .run, heldCtl := none }) q { word := skippedWord s q, pc := (queueOf s q).pc } := by
  unfold ctlAct
  exact if_neg (not_not_intro h)
end

/-- RETRY, SKIP and FLUSH, where the queue's part of the write is `ctlWrite` (R243). -/
theorem writes_ctl {c : Instr} {s : State} {q : Nat} {v : Word} {a : Access} {P : Blk → Prop} (hq : q < 64)
    (hc : exec c s = busCmd (sqReg (q % 64) 0x24) v a s) (h : Served s.blk (sqReg q 0x24) a)
    (hv : inRange 1 3 (fld v 2 0) = true) (hp : P (ctlWrite s.blk q (fld v 2 0))) : Writes c s P := by
  refine writes_sq hc hq (by decide) h ?_ hp
  rw [actSq_ctl s.blk hq, hv]
  rfl

/-! ## The end of a break -/

/-- A queue when the break ends: one that was held goes on, and the one that broke passes its breakpoint (R249). -/
def resumed (s : Blk) (step : Bool) (q : Nat) (v : Queue) : Queue :=
  if v.state = .brk then
    { v with state := .run, passBrk := decide (q = s.csq.brkQueue), stepArm := step && decide (q = s.csq.brkQueue) }
  else v

theorem endBreak_none {s : Blk} (step : Bool) (h : s.csq.brkHit = false) : endBreak s step = s := by
  unfold endBreak
  rw [h]
  rfl

/-- The end of a break goes over every queue (R249). -/
theorem endBreak_ends {s : Blk} (step : Bool) (h : s.csq.brkHit = true) : endBreak s step =
    { s with csq := { s.csq with queues := s.csq.queues.map (fun p => (p.1, resumed s step p.1 p.2)), brkHit := false } } := by
  have hback : ∀ p : Nat × Queue, (if p.2.state = .brk then
      (p.1, { p.2 with state := .run, passBrk := decide (p.1 = s.csq.brkQueue), stepArm := step && decide (p.1 = s.csq.brkQueue) })
      else p) = (p.1, resumed s step p.1 p.2) := fun p => by
    unfold resumed
    split <;> rfl
  unfold endBreak
  rw [h]
  simp only [hback]
  rfl

theorem endBreak_queue {s : Blk} (step : Bool) (h : s.csq.brkHit = true) (q : Nat) :
    queueOf (endBreak s step) q = resumed s step q (queueOf s q) := by
  rw [endBreak_ends step h]
  unfold queueOf Store.getD
  dsimp only
  rw [get?_map s.csq.queues (fun p => resumed s step p.1 p.2) q]
  cases Store.get? s.csq.queues q with
  | none => rfl
  | some v => rfl

/-- RESUME and STEP end the break (R249). -/
theorem writes_endBreak {c : Instr} {s : State} {v : Word} {a : Access} {P : Blk → Prop} (hc : exec c s = busCmd 0x20144 v a s)
    (h : Served s.blk 0x20144 a) (hv : (bitAt v 0 || bitAt v 1) = true) (hp : P (endBreak s.blk (bitAt v 1))) : Writes c s P := by
  refine writes_bus hc h ?_ hp
  have hact : regAct s.blk 0x20144 v = some (if (bitAt v 0 || bitAt v 1) = true then endBreak s.blk (bitAt v 1) else s.blk) := rfl
  rw [hact, if_pos hv]

/-- Settles O52: doorbells by `doorbell`, EN by `sqCfgWrite`, CTL by `ctlWrite`, RESUME and STEP by `endBreak`. The model's choices are
SKIP without a second record, its REPORT bit cleared (log entry 15), the line read again after an odd TAIL and the completion ring
that EN written 1 resets (log entry 22), the doorbell that is held (log entry 27), and the accepted rewrite of the same value (log
entry 36). -/
theorem queuesAreControlled : Obligations.QueuesAreControlled := by
  refine ⟨fun page q tail a s hp hq ht h => ⟨fun hctx hsize hnow => ?_, fun hctx hsize hruled hwork => ?_, fun hno => ?_⟩,
    fun q v a s hq h => ⟨fun hf hen => ⟨?_, ?_⟩, fun hf hen hk => ⟨?_, fun hst => ?_, fun hst => ?_⟩, fun hbad => ⟨?_, ?_⟩⟩,
    fun q a s hq h => ⟨fun p hmem => ⟨fun hst => ?_, fun hst hctx => ?_⟩, fun hst hctx => ⟨?_, ?_, ?_⟩⟩,
    fun a s h p hmem => ⟨fun hhit => ?_, fun hhit => ?_⟩,
    fun page v a s hp h => ⟨fun hctx => ?_, fun hctx => ?_⟩⟩
  · obtain ⟨t, hdoor, hset⟩ := doorbell_sets hctx hsize hnow
    exact writes_pageCsq (exec_csqDb page q tail a s) hp (by decide) h ((pageCsq_doorbell s.blk page hq ht).trans hdoor) hset
  · obtain ⟨t, hdoor, hheld⟩ := doorbell_held hctx hsize hruled hwork
    exact writes_pageCsq (exec_csqDb page q tail a s) hp (by decide) h ((pageCsq_doorbell s.blk page hq ht).trans hdoor) hheld
  · exact doorbell_refuses hp hq ht h (doorbell_refused hp hno)
  · exact writes_sq (exec_queueEnable q v a s) hq (by decide) h ((actSq_cfg s.blk hq _).trans (sqCfgWrite_enables hf hen))
      ⟨_, cfgStored_only s.blk q _, rfl⟩
  · exact writes_sq (exec_queueDisable q v a s) hq (by decide) h ((actSq_cfg s.blk hq _).trans (sqCfgWrite_stays hf hen))
      (cfgStored_only s.blk q _)
  · exact writes_sq (exec_queueEnable q v a s) hq (by decide) h ((actSq_cfg s.blk hq _).trans (sqCfgWrite_again hf hen hk))
      (cfgStored_only s.blk q _)
  · exact writes_sq (exec_queueDisable q v a s) hq (by decide) h ((actSq_cfg s.blk hq _).trans (sqCfgWrite_disables hf hen hk hst))
      ⟨_, cfgStored_only s.blk q _, rfl⟩
  · exact refuses_sq (exec_queueDisable q v a s) hq (by decide) h ((actSq_cfg s.blk hq _).trans (sqCfgWrite_moving hf hen hk hst))
  · exact refuses_sq (exec_queueEnable q v a s) hq (by decide) h
      ((actSq_cfg s.blk hq _).trans (sqCfgWrite_refused sizesFit_on keepsCfg_on hbad))
  · exact refuses_sq (exec_queueDisable q v a s) hq (by decide) h
      ((actSq_cfg s.blk hq _).trans (sqCfgWrite_refused sizesFit_off keepsCfg_off hbad))
  · have hcount := ctlWrite_other (act := p.2) hst ▸ counted_bump s.blk rDbBad
    fin_cases hmem
    · exact writes_ctl hq (exec_retry q a s) h rfl hcount
    · exact writes_ctl hq (exec_skip q a s) h rfl hcount
    · exact writes_ctl hq (exec_flush q a s) h rfl hcount
  · have hheld := ctlWrite_held p.2 hst hctx
    fin_cases hmem
    · exact writes_ctl hq (exec_retry q a s) h rfl hheld
    · exact writes_ctl hq (exec_skip q a s) h rfl hheld
    · exact writes_ctl hq (exec_flush q a s) h rfl hheld
  · exact writes_ctl hq (exec_retry q a s) h rfl ((ctlWrite_open 1 hst hctx).trans (ctlAct_retry hst))
  · exact writes_ctl hq (exec_flush q a s) h rfl ((ctlWrite_open 3 hst hctx).trans (ctlAct_flush hst))
  · exact writes_ctl hq (exec_skip q a s) h rfl
      ⟨skippedWord s.blk q, fun k hk => skippedWord_bit hk, (ctlWrite_open 2 hst hctx).trans (ctlAct_skip hst)⟩
  · have hnone := endBreak_none p.2 hhit
    fin_cases hmem
    · exact writes_endBreak (exec_resume a s) h rfl hnone
    · exact writes_endBreak (exec_stepBrk a s) h rfl hnone
  · have hends : endBreak s.blk p.2 =
        { s.blk with csq := { s.blk.csq with queues := (endBreak s.blk p.2).csq.queues, brkHit := false } } := by
      rw [endBreak_ends p.2 hhit]
    have hqueue := endBreak_queue p.2 hhit
    fin_cases hmem
    · exact writes_endBreak (exec_resume a s) h rfl ⟨hends, hqueue⟩
    · exact writes_endBreak (exec_stepBrk a s) h rfl ⟨hends, hqueue⟩
  · exact writes_pageCsq (exec_completionHeadWrite page v a s) hp (by decide) h (pageCsq_head v hctx) rfl
  · exact refuses_pageCsq (exec_completionHeadWrite page v a s) hp (by decide) (by decide) h (pageCsq_head_other v hctx)

end Sys2Proof.Machine

/-! Proofs. What the first checks of a request refuse (O28). -/
namespace Sys2Proof.Machine

/-! ## The checks that a request fails -/

section
variable {s : Blk} {h : FHdr} {body : FBody}

/-- A request of a fenced die is refused (R266, check 3). -/
theorem takeMsg_peerFenced (hp : peerFenced s h.src = true) :
    takeMsg s { h, body } = giveAnswer s h.src h.rqid body.ty kPeerFenced h.dstCtx := by
  unfold takeMsg
  dsimp only
  rw [if_pos hp]

/-- A request that fails check 4 is refused, and counted where it comes late (R266, R320). -/
theorem takeMsg_refused {code : Nat} (hp : peerFenced s h.src = false) (hc : slotCheck s h.dstCtx h.dstGen = some code) :
    takeMsg s { h, body } = giveAnswer (lateArrival s h.dstCtx code) h.src h.rqid body.ty code h.dstCtx := by
  unfold takeMsg takeCode
  dsimp only
  rw [if_neg (ne_true_of_eq_false hp), hc]
end

section
variable {s : Blk} {c gen : Nat}

theorem slotCheck_oldGen (h : gen ≠ ctxGen s c) : slotCheck s c gen = some kGone := if_pos h

theorem slotCheck_shut (hgen : gen = ctxGen s c) (hopen : ctxSt s c ≠ .opened) (horphan : ctxSt s c ≠ .orphaned) :
    slotCheck s c gen = some kCtxFenced := by
  unfold slotCheck
  rw [if_neg (not_not_intro hgen), if_neg (by simp [hopen, horphan])]

/-- What comes for an old generation, or for a context that is DRAINING or QUIESCED, is counted in CTX_LATE_FAB (R312, R320, R335). -/
theorem lateArrival_counted {code : Nat} (h : code = kGone ∨ ctxSt s c = .draining ∨ ctxSt s c = .quiesced) :
    ∃ u, Counted s u rLateFab ∧ Observed u (lateArrival s c code) := by
  refine ⟨_, counted_bump s rLateFab, ?_⟩
  unfold lateArrival
  rw [if_pos (by rcases h with h | h | h <;> simp [h])]
  exact Observed.ev _ _ _

theorem lateArrival_uncounted {code : Nat} (hgone : code ≠ kGone) (hdrain : ctxSt s c ≠ .draining) (hquiet : ctxSt s c ≠ .quiesced) :
    lateArrival s c code = s := by
  unfold lateArrival
  exact if_neg (by simp [hgone, hdrain, hquiet])

theorem lateArrival_xch (code : Nat) : (lateArrival s c code).xch = s.xch := by
  unfold lateArrival
  split
  · rw [ev_xch, bump_xch]
  · rfl
end

/-! ## The refusal as a command -/

theorem Entered.peerFenced {s t : Blk} {h : FHdr} {sc : Option Nat} {ws : List Nat} (e : Entered s t h sc ws) (d : Nat) :
    peerFenced t d = peerFenced s d := peerFenced_words e.words d

theorem Answers.xch {s t : Blk} {a : Answer} (h : Answers s t a) : t.xch = s.xch := by rw [h.rest]

section
variable {c : Instr} {s : State} {h : FHdr} {ty : Nat} {body : FBody} {P : Blk → Prop}
  (hc : request c = some (h, ty, some body)) (hs : Sound s.blk h) (ht : InTurn s.blk h)
include hc hs ht

/-- A request of a fenced die, as a command. -/
theorem updates_peerFenced (hp : peerFenced s.blk h.src = true) (key : ∀ t b, Entered s.blk t h none [] →
    Answers t b { dst := h.src, rqid := h.rqid, code := kPeerFenced } → P b) : Updates c s P := by
  refine updates_taken hc hs ht fun t e => ?_
  have ha := answers_give t h.src h.rqid body.ty kPeerFenced h.dstCtx
  have hhold : t.xch.hold = [] := by rw [e.rest]; exact ht.hold
  rw [takeMsg_peerFenced ((e.peerFenced _).trans hp)]
  exact ⟨(congrArg Xch.hold ha.xch).trans hhold, key _ _ e ha⟩

/-- A request that fails check 4, as a command. -/
theorem updates_slotRefused {code : Nat} (hp : peerFenced s.blk h.src = false)
    (hcode : ∀ t, Entered s.blk t h none [] → slotCheck t h.dstCtx h.dstGen = some code)
    (key : ∀ t b, Entered s.blk t h none [] →
      Answers (lateArrival t h.dstCtx code) b { dst := h.src, rqid := h.rqid, code } → P b) : Updates c s P := by
  refine updates_taken hc hs ht fun t e => ?_
  have ha := answers_give (lateArrival t h.dstCtx code) h.src h.rqid body.ty code h.dstCtx
  have hhold : t.xch.hold = [] := by rw [e.rest]; exact ht.hold
  rw [takeMsg_refused ((e.peerFenced _).trans hp) (hcode t e)]
  exact ⟨(congrArg Xch.hold (ha.xch.trans (lateArrival_xch code))).trans hhold, key _ _ e ha⟩
end

/-- Settles O28: the check that refuses decides the answer (`takeMsg_peerFenced`, `takeMsg_refused`), and `lateArrival` what is counted.
That arrivals for DRAINING and QUIESCED contexts count in CTX_LATE_FAB is the model's choice (log entry 26). -/
theorem requestsAreRefused : Obligations.RequestsAreRefused := by
  intro c s h ty body hc hs ht
  refine ⟨fun hp => updates_peerFenced hc hs ht hp fun t b e ha => ⟨t, e, ha⟩, fun hp hgen => ?_, fun hp hgen hst => ?_,
    fun hp hgen hopen horphan hdrain hquiet => ?_⟩
  · refine updates_slotRefused hc hs ht hp (fun t e => slotCheck_oldGen (by rw [e.gen]; exact hgen)) fun t b e ha => ?_
    obtain ⟨u, hcount, hobs⟩ := lateArrival_counted (s := t) (c := h.dstCtx) (.inl rfl)
    exact ⟨t, u, _, e, hcount, hobs, ha⟩
  · refine updates_slotRefused hc hs ht hp (fun t e => slotCheck_shut (by rw [e.gen]; exact hgen) ?_ ?_) fun t b e ha => ?_
    · rw [e.state]
      rcases hst with hst | hst <;> simp [hst]
    · rw [e.state]
      rcases hst with hst | hst <;> simp [hst]
    · rw [← e.state] at hst
      obtain ⟨u, hcount, hobs⟩ := lateArrival_counted (code := kCtxFenced) (.inr hst)
      exact ⟨t, u, _, e, hcount, hobs, ha⟩
  · refine updates_slotRefused hc hs ht hp (fun t e => slotCheck_shut (by rw [e.gen]; exact hgen) (by rwa [e.state]) (by rwa [e.state]))
      fun t b e ha => ⟨t, e, ?_⟩
    rwa [lateArrival_uncounted (by decide) (by rwa [e.state]) (by rwa [e.state])] at ha

end Sys2Proof.Machine

/-! Proofs. Placement of messages in receive rings (O32). -/
namespace Sys2Proof.Machine

/-! ## Records of a ring -/

theorem bytesAt_length (bs : List Byte) (i k : Nat) : (bytesAt bs i k).length = k := by
  unfold bytesAt
  simp only [List.length_append, List.length_replicate, List.length_take]
  omega

/-- A delivered record has the length that its header says (R263). -/
theorem msgBytes_length (die sctx sgen : Nat) (reply : Bool) (m : AmHdr) (payload : List Byte) :
    (msgBytes die sctx sgen reply m payload).length = recLen m.len := by
  unfold msgBytes
  simp only [List.length_append, leBytes_length, bytesAt_length]
  unfold recLen
  omega

/-! ## The ring, whatever else has happened -/

theorem ringOf_congr {s t : Blk} (h : t.xch = s.xch) (g : Nat) : ringOf t g = ringOf s g := by
  unfold ringOf
  rw [h]

theorem memWrite_xch (s : Blk) (a : Nat) (bs : List Byte) (q : Nat) (c : Option Nat) (u i : Nat) (o : MemOwner) :
    (memWrite s a bs q c u i o).xch = s.xch := by rw [(Asked.memWrite s a bs q c u i o).rest]

/-- The refresh of the copy of RPTR (R262). -/
theorem startRefresh_refreshes (s : Blk) (g : Nat) : Refreshes s (startRefresh s g) g := by
  refine ⟨fun h => ?_, fun h => ?_⟩
  · exact if_pos h
  · exact ⟨_, _, counted_bump _ _, Observed.ev _ 0x108 (ringOf s g).ctx, if_neg (ne_true_of_eq_false h)⟩

/-! ## A message that is delivered -/

section
variable (s : Blk) (g skip : Nat) (bs : List Byte)

/-- The ring with the record `bs` reserved behind `skip` bytes of its tail (R264). -/
def reserved : Blk :=
  let v := ringOf s g
  let endc := (v.resv + skip + bs.length) % 2 ^ 32
  let lines := (linesOf ((v.base + (v.resv + skip) % 2 ^ v.log2) % 2 ^ 52) bs).length + if 0 < skip then 1 else 0
  setRing { s with xch := { s.xch with placeNext := s.xch.placeNext + 1 } } g { v with
    resv := endc, places := v.places ++ [{ endc, left := lines, id := s.xch.placeNext, gen := v.rgen, len := skip + bs.length }] }

/-- The SKIP record in the tail, where there is one (R263, R264). -/
def tailSkipped : Blk :=
  let v := ringOf s g
  if 0 < skip then
    writeRec (ev (bump (reserved s g skip bs) rSkips) 0x107 v.ctx) g s.xch.placeNext (v.resv % 2 ^ v.log2) (skipBytes skip)
  else reserved s g skip bs

/-- The record is written, and counted (R264). -/
def recordWritten : Blk :=
  let v := ringOf s g
  ev (bump (writeRec (tailSkipped s g skip bs) g s.xch.placeNext ((v.resv + skip) % 2 ^ v.log2) bs) rDelivered) 0x106 v.ctx

/-- The message is placed, and RPTR looked at again where the ring is nearly full (R262, R264). -/
def delivered : Blk :=
  let v := ringOf s g
  let size := 2 ^ v.log2
  if size - ((v.resv + 2 ^ 32 - v.rptr) % 2 ^ 32 + skip + bs.length) < size / 4 then startRefresh (recordWritten s g skip bs) g
  else recordWritten s g skip bs

/-- A reservation leaves the place of the ring in memory, and its context. -/
theorem writeRec_reserved {t : Blk} (h : t.xch = (reserved s g skip bs).xch) (id off : Nat) (xs : List Byte) :
    writeRec t g id off xs =
      memWrite t (((ringOf s g).base + off) % 2 ^ 52) xs 1 (some (ringOf s g).ctx) uXch g (.ringWrite g id) := by
  have hring := (ringOf_congr h g).trans (ringOf_set _ g _)
  unfold writeRec
  dsimp only
  rw [hring]

theorem tailSkipped_xch : (tailSkipped s g skip bs).xch = (reserved s g skip bs).xch := by
  unfold tailSkipped
  dsimp only
  split
  · unfold writeRec
    rw [memWrite_xch, ev_xch, bump_xch]
  · rfl

theorem delivered_delivers : Delivers s (delivered s g skip bs) g skip bs := by
  refine ⟨reserved s g skip bs, ev (bump (reserved s g skip bs) rSkips) 0x107 (ringOf s g).ctx, tailSkipped s g skip bs, _,
    recordWritten s g skip bs, rfl, fun h0 => ?_, fun h1 => ?_, ?_, Observed.ev _ 0x106 (ringOf s g).ctx, fun hroom => ?_,
    fun hroom => ?_⟩
  · exact if_neg (Nat.not_lt.mpr (Nat.le_of_eq h0))
  · exact ⟨_, counted_bump _ _, Observed.ev _ 0x107 (ringOf s g).ctx,
      (if_pos h1).trans (writeRec_reserved s g skip bs (by rw [ev_xch, bump_xch]) _ _ _)⟩
  · dsimp only
    rw [← writeRec_reserved s g skip bs (tailSkipped_xch s g skip bs)]
    exact counted_bump _ _
  · exact if_neg (Nat.not_lt.mpr hroom)
  · have hrefresh : delivered s g skip bs = startRefresh (recordWritten s g skip bs) g := if_pos hroom
    rw [hrefresh]
    exact startRefresh_refreshes _ g
end

/-! ## `place` of R264 -/

section
variable {s : Blk} {g die sctx sgen : Nat} {reply : Bool} {m : AmHdr} {payload : List Byte}

/-- The tail of a ring that a record of `len` bytes must skip (R264). -/
def skipFor (v : Ring) (len : Nat) : Nat :=
  if len > 2 ^ v.log2 - v.resv % 2 ^ v.log2 then 2 ^ v.log2 - v.resv % 2 ^ v.log2 else 0

/-- What a ring holds with a record of `len` bytes, and the tail before it, added (R264). -/
def needFor (v : Ring) (len : Nat) : Nat := (v.resv + 2 ^ 32 - v.rptr) % 2 ^ 32 + skipFor v len + len

theorem place_tooLong (h : 2 ^ (ringOf s g).log2 < recLen m.len) : place s g die sctx sgen reply m payload = (kTooLong, s) := if_pos h

theorem place_notReady (hfit : recLen m.len ≤ 2 ^ (ringOf s g).log2) (h : (ringOf s g).ready = false) :
    place s g die sctx sgen reply m payload = (kRingFull, s) := by
  unfold place
  dsimp only
  rw [if_neg (Nat.not_lt.mpr hfit), if_pos (by simp [h])]

theorem place_full (hfit : recLen m.len ≤ 2 ^ (ringOf s g).log2) (h : (ringOf s g).ready = true)
    (hroom : 2 ^ (ringOf s g).log2 < needFor (ringOf s g) (recLen m.len)) :
    place s g die sctx sgen reply m payload = (kRingFull, startRefresh s g) := by
  unfold place
  dsimp only
  rw [if_neg (Nat.not_lt.mpr hfit), if_neg (by simp [h])]
  exact if_pos hroom

theorem place_die {code : Nat} {p : Blk} (h : place s g die sctx sgen reply m payload = (code, p)) : ownDie p = ownDie s := by
  have hcfg := (place_hold s g die sctx sgen reply m payload).2
  rw [h] at hcfg
  unfold ownDie
  rw [hcfg]

/-- A message for which a READY ring has room is delivered (R264). -/
theorem place_delivers (hfit : recLen m.len ≤ 2 ^ (ringOf s g).log2) (h : (ringOf s g).ready = true)
    (hroom : needFor (ringOf s g) (recLen m.len) ≤ 2 ^ (ringOf s g).log2) :
    place s g die sctx sgen reply m payload =
      (kAck, delivered s g (skipFor (ringOf s g) (recLen m.len)) (msgBytes die sctx sgen reply m payload)) := by
  unfold delivered recordWritten tailSkipped reserved
  dsimp only
  rw [msgBytes_length]
  unfold place
  dsimp only
  rw [if_neg (Nat.not_lt.mpr hfit), if_neg (by simp [h])]
  exact if_neg (Nat.not_lt.mpr hroom)
end

/-! ## Check 6 of R266 -/

section
variable {s : Blk} {c die sctx sgen : Nat} {reply : Bool} {m : AmHdr} {payload : List Byte}

theorem takeAm_gone (h : ringCtx s m.ring ≠ some c ∨ (ringOf s m.ring).state ≠ .opened ∨ (ringOf s m.ring).rgen ≠ m.rgen) :
    takeAm s c die sctx sgen reply m payload = (kGone, s) := if_pos (by simpa [or_assoc] using h)

/-- The message names an open ring of the context, of the ring's generation (R266). -/
structure RingStands (s : Blk) (c : Nat) (m : AmHdr) : Prop where
  grant : ringCtx s m.ring = some c
  state : (ringOf s m.ring).state = .opened
  gen : (ringOf s m.ring).rgen = m.rgen

theorem takeAm_badHandler (h : RingStands s c m) (hbad : reply ≠ (ringOf s m.ring).reply ∨ (ringOf s m.ring).hcount ≤ m.handler) :
    takeAm s c die sctx sgen reply m payload = (kBadHandler, s) := by
  unfold takeAm
  dsimp only
  rw [if_neg (by simp [h.grant, h.state, h.gen]), if_pos (by simpa using hbad)]

/-- A context has taken a handle from die `src`; only one from another die is new to this die (R260). -/
def handleTaken (s : Blk) (c src : Nat) : Blk :=
  let t := setHandles s c ((slotOf s c).handles + 1)
  if src = ownDie t then t else { t with xch := { t.xch with handles := t.xch.handles + 1 } }

/-- A message whose ring and handler stand is placed (R264, R266). -/
theorem takeAm_places (h : RingStands s c m) (hreply : reply = (ringOf s m.ring).reply) (hhandler : m.handler < (ringOf s m.ring).hcount)
    {code : Nat} {p : Blk} (hplace : place s m.ring die sctx sgen reply m payload = (code, p)) :
    takeAm s c die sctx sgen reply m payload = (code, if (decide (code = kAck) && m.handle) = true then handleTaken p c die else p) := by
  unfold takeAm
  dsimp only
  rw [if_neg (by simp [h.grant, h.state, h.gen]), if_neg (by simp [hreply, hhandler]), hplace]
  dsimp only
  split
  · rfl
  · rfl

end

theorem handleTaken_eq (s : Blk) (c src : Nat) : handleTaken s c src = { setHandles s c ((slotOf s c).handles + 1) with
    xch := { s.xch with handles := if src = ownDie s then s.xch.handles else s.xch.handles + 1 } } := by
  have hdie : ownDie (setHandles s c ((slotOf s c).handles + 1)) = ownDie s := rfl
  unfold handleTaken
  dsimp only
  rw [hdie]
  split <;> rfl

theorem handleTaken_hold (s : Blk) (c src : Nat) : (handleTaken s c src).xch.hold = s.xch.hold := by rw [handleTaken_eq]

/-! ## What an admitted message finds -/

section
variable {s t : Blk} {h : FHdr} {sc : Option Nat} {ws : List Nat} (e : Entered s t h sc ws)
include e

theorem Entered.ring (g : Nat) : ringOf t g = ringOf s g := by rw [e.rest]; rfl

theorem Entered.ringCtx (g : Nat) : ringCtx t g = ringCtx s g := grantOf_words e.words _ _ (by decide)

theorem Entered.ringStands {c : Nat} {m : AmHdr} (hr : RingStands s c m) : RingStands t c m :=
  ⟨(e.ringCtx _).trans hr.grant, by rw [e.ring, hr.state], by rw [e.ring, hr.gen]⟩
end

/-! ## Messages as commands -/

section
variable {c : Instr} {s : State} {h : FHdr} {m : AmHdr} {payload : List Byte} {reply : Bool} {code : Nat} {P : Blk → Blk → Prop}
  (hc : c = .amReq h m payload ∧ reply = false ∨ c = .amRpl h m payload ∧ reply = true)
  (hs : Sound s.blk h) (ht : InTurn s.blk h) (hw : Welcome s.blk h)
include hc hs ht hw

/-- An active message that is sound, in turn and welcome does what `takeAm` does. -/
theorem takes_message (key : ∀ t, Entered s.blk t h none h.waiting →
      ∃ u, takeAm t h.dstCtx h.src h.srcCtx h.srcGen reply m payload = (code, u) ∧ u.xch.hold = t.xch.hold ∧ P t u) :
    Takes c s h none code P := by
  obtain ⟨ty, hreq⟩ : ∃ ty, request c = some (h, ty, some (.am reply m payload)) := by
    rcases hc with ⟨rfl, rfl⟩ | ⟨rfl, rfl⟩
    · exact ⟨16, rfl⟩
    · exact ⟨17, rfl⟩
  exact takes_of hreq hs ht hw key

variable (hr : RingStands s.blk h.dstCtx m) (hreply : reply = (ringOf s.blk m.ring).reply)
  (hhandler : m.handler < (ringOf s.blk m.ring).hcount)
include hr hreply hhandler

/-- A message whose ring and handler stand is answered as `place` says, and brings its handle where it is placed (R260, R264). -/
theorem takes_placed (key : ∀ t, Entered s.blk t h none h.waiting →
      ∃ p, place t m.ring h.src h.srcCtx h.srcGen reply m payload = (code, p) ∧
        P t (if (decide (code = kAck) && m.handle) = true then handleTaken p h.dstCtx h.src else p)) :
    Takes c s h none code P := by
  refine takes_message hc hs ht hw fun t e => ?_
  obtain ⟨p, hplace, hp⟩ := key t e
  have hhold : p.xch.hold = t.xch.hold := by
    have hkept := (place_hold t m.ring h.src h.srcCtx h.srcGen reply m payload).1
    rwa [hplace] at hkept
  refine ⟨_, takeAm_places (e.ringStands hr) (by rw [e.ring]; exact hreply) (by rw [e.ring]; exact hhandler) hplace, ?_, hp⟩
  split
  · exact (handleTaken_hold _ _ _).trans hhold
  · exact hhold

/-- A message for which its ring is READY and has room is delivered and answered ACK (R260, R264, R265). -/
theorem takes_delivered (hfit : recLen m.len ≤ 2 ^ (ringOf s.blk m.ring).log2) (hready : (ringOf s.blk m.ring).ready = true)
    (hroom : needFor (ringOf s.blk m.ring) (recLen m.len) ≤ 2 ^ (ringOf s.blk m.ring).log2) :
    Takes c s h none kAck (fun t u => ∃ p,
      Delivers t p m.ring (skipFor (ringOf s.blk m.ring) (recLen m.len)) (msgBytes h.src h.srcCtx h.srcGen reply m payload) ∧
      (m.handle = false → u = p) ∧
      (m.handle = true → u = { setHandles p h.dstCtx ((slotOf p h.dstCtx).handles + 1) with xch := { p.xch with
        handles := if h.src = ownDie s.blk then p.xch.handles else p.xch.handles + 1 } })) := by
  refine takes_placed hc hs ht hw hr hreply hhandler fun t e => ?_
  rw [← e.ring] at hfit hready hroom ⊢
  have hplace := place_delivers (die := h.src) (sctx := h.srcCtx) (sgen := h.srcGen) (reply := reply) (payload := payload)
    hfit hready hroom
  have hdie := (place_die hplace).trans (entered_die e)
  refine ⟨_, hplace, _, delivered_delivers t m.ring _ _, fun hno => ?_, fun hyes => ?_⟩
  · exact if_neg (by simp [hno])
  · rw [← hdie, ← handleTaken_eq]
    exact if_pos (by simp [hyes])
end

/-- Settles O32: check 6 of R266 by `takeAm_gone` and `takeAm_badHandler`, then R264 by the branch of `place` that the message takes. That
a SKIP and its message are one placement, and that RPTR counts modulo 2^32, is the model's choice (log entry 24). -/
theorem messagesArePlaced : Obligations.MessagesArePlaced := by
  intro c s h m payload reply hc hs ht hw v
  refine ⟨fun hgone => takes_message hc hs ht hw fun t e => ⟨t, takeAm_gone ?_, rfl, rfl⟩, fun hgrant hstate hgen => ?_⟩
  · rw [e.ringCtx, e.ring]
    exact hgone
  · have hr : RingStands s.blk h.dstCtx m := ⟨hgrant, hstate, hgen⟩
    refine ⟨fun hbad => takes_message hc hs ht hw fun t e => ⟨t, takeAm_badHandler (e.ringStands hr) ?_, rfl, rfl⟩,
      fun hreply hhandler => ⟨fun hlong => takes_placed hc hs ht hw hr hreply hhandler fun t e => ⟨t, place_tooLong ?_, rfl⟩,
        fun hfit hnot => takes_placed hc hs ht hw hr hreply hhandler fun t e => ⟨t, place_notReady ?_ ?_, rfl⟩,
        fun hfit hready hroom => takes_placed hc hs ht hw hr hreply hhandler fun t e =>
          ⟨_, place_full ?_ ?_ ?_, startRefresh_refreshes t m.ring⟩,
        fun hfit hready hroom => takes_delivered hc hs ht hw hr hreply hhandler hfit hready hroom⟩⟩
    all_goals rw [e.ring]; assumption

end Sys2Proof.Machine

/-! Proofs. Send channels and receive rings (O56). -/
namespace Sys2Proof.Machine

/-! ## The Exchange's registers in a page -/

theorem regAct_pageXch (s : Blk) {page o : Nat} (v : Word) (hp : page < 256) (hlo : 0x400 ≤ o) (hhi : o < 0x600) :
    regAct s (pageReg page o) v = pageXch s page o v := by
  rw [regAct_page s v hp (by omega), actPage_xch s page o v hlo hhi]

theorem pageReg_mod {page o : Nat} (ho : o < 0x1000) : pageReg page o % 0x1000 = o := by
  have hoff : pageReg page o = 0x200000 + 0x1000 * page + o := rfl
  omega

/-- XCH_RCTL asks the ring table, for the page's context (R278, R284). -/
theorem asksFor_ringCtl (s : Blk) {page : Nat} (hp : page < 256) : asksFor s (pageReg page 0x430) = some page := by
  have hoff : pageReg page 0x430 = 0x200000 + 0x1000 * page + 0x430 := rfl
  unfold asksFor
  rw [if_neg (by omega), if_pos (by omega)]
  congr 1
  omega

section
variable {c : Instr} {s : State} {page o : Nat} {v : Word} {a : Access} {P : Blk → Prop} {t : Blk}
  (hc : exec c s = busCmd (pageReg (page % 256) o) v a s) (hp : page < 256) (hlo : 0x400 ≤ o) (hhi : o < 0x600)
  (h : Served s.blk (pageReg page o) a)
include hc hp hlo hhi h

/-- A write of a channel register in a page, where it is performed (R284). -/
theorem writes_pageXch (ho : o ≠ 0x430) (hact : pageXch s.blk page o v = some t) (ht : P t) : Writes c s P := by
  rw [Nat.mod_eq_of_lt hp] at hc
  have hpage : 0x200000 ≤ pageReg page o := by
    have hoff : pageReg page o = 0x200000 + 0x1000 * page + o := rfl
    omega
  exact writes_bus hc h ((regAct_pageXch s.blk v hp hlo hhi).trans hact) ht
    (asksFor_page hpage (by rw [pageReg_mod (by omega)]; exact ho))

/-- A write of an Exchange register in a page, where R14 refuses it. -/
theorem refuses_pageXch (hact : pageXch s.blk page o v = none) : Refuses c s (pageReg page o) v a := by
  rw [Nat.mod_eq_of_lt hp] at hc
  exact refuses_bus hc h ((regAct_pageXch s.blk v hp hlo hhi).trans hact) (.inr (.inr (by rw [pageReg_mod (by omega)]; omega)))
end

/-- XCH_RCTL, where it is performed: its grant is counted (R284, R297). -/
theorem writesFor_ringCtl {c : Instr} {s : State} {page : Nat} {v : Word} {a : Access} {P : Blk → Prop} {t : Blk}
    (hc : exec c s = busCmd (pageReg (page % 256) 0x430) v a s) (hp : page < 256) (h : Served s.blk (pageReg page 0x430) a)
    (hact : pageXch s.blk page 0x430 v = some t) (ht : P t) : WritesFor c s page a.waiting P := by
  rw [Nat.mod_eq_of_lt hp] at hc
  exact writesFor_bus hc h ((regAct_pageXch s.blk v hp (by decide) (by decide)).trans hact) ht (asksFor_ringCtl s.blk hp)

/-! ## XCH_SDB -/

section
variable (s : Blk) (page : Nat) {ch tail : Nat} (hch : ch < 1024) (ht : tail < 65536)
include hch ht

theorem pageXch_doorbell : pageXch s page 0x400 (w32 (put ch 25 16 + put tail 15 0)) = sendDoorbell s page ch tail := by
  obtain ⟨hword, htail⟩ := ch_word hch ht
  unfold pageXch
  rw [if_pos rfl, hword, htail]
end

section
variable {s : Blk} {page ch tail : Nat}

theorem sendDoorbell_sets (hctx : chanCtx s ch = some page) (hen : (chanOf s ch).en = true) (ht : tail < 2 ^ (chanOf s ch).log2) :
    sendDoorbell s page ch tail = some (push (setChan s ch { chanOf s ch with tail }) [.chanPump ch]) := by
  unfold sendDoorbell
  exact if_neg (by simp [hctx, hen, ht])

theorem sendDoorbell_refused (h : chanCtx s ch ≠ some page ∨ (chanOf s ch).en = false ∨ 2 ^ (chanOf s ch).log2 ≤ tail) :
    sendDoorbell s page ch tail = none := if_pos (by simpa [or_assoc] using h)
end

/-! ## The record that a channel takes next -/

/-- The youngest record of a channel of context c has been read, and the channel does not stand still (R259). -/
structure Takable (s : Blk) (ch c : Nat) (older : List SendRec) (r : SendRec) : Prop where
  ctx : chanCtx s ch = some c
  recs : (chanOf s ch).recs = older ++ [r]
  phase : r.phase = .ready
  fault : (chanOf s ch).fault = false

theorem Takable.front {s : Blk} {ch c : Nat} {older : List SendRec} {r : SendRec} (h : Takable s ch c older r) :
    (chanOf s ch).front = some (r, older.getLast?) := frontReady h.recs h.phase

theorem afterStatus_not {older : List SendRec} (h : ¬ (older = [] ∨ ∃ p, older.getLast? = some p ∧ p.phase = .done)) :
    afterStatus older.getLast? = false := eq_false_of_ne_true fun ha => h ((afterStatus_iff older).mp ha)

theorem Observed.sendCheck {s t : Blk} (h : Observed s t) (c : Nat) (r : SendRec) : sendCheck t c r = sendCheck s c r := by
  have hctx : t.ctx = s.ctx := by rw [h.rest]
  unfold Machine.sendCheck
  rw [slotOf_congr hctx, h.peerFenced]

/-- Observation leaves the registers of the pools (R260, R283). -/
theorem Observed.pool {s t : Blk} (h : Observed s t) {lo hi : Nat} (hlo : lo < rPools + 0x100) (hhi : hi < rPools + 0x100) :
    rg2 t lo hi = rg2 s lo hi := by
  have hbase : rPools = 0x100040 := rfl
  unfold rg2
  rw [h.regs lo (.inl (by omega)), h.regs hi (.inl (by omega))]

/-- The channel `v` with its record at work in memory: an ALLOC or FREE has begun (R260). -/
def memBegun (s : Blk) (ch : Nat) (v : Chan) (r : SendRec) : Blk :=
  setChan s ch (v.modRec r.slot (fun x => { x with phase := .aw, left := 1 }))

section
variable {s : Blk} {ch c : Nat} {older : List SendRec} {r : SendRec} (h : Takable s ch c older r) {code : Nat} {fault : Bool}
include h

/-- A SEND that fails R259's checks is refused. -/
theorem sendCmd_refused (hop : r.op = 1) (hroom : (chanOf s ch).unanswered < 8) (hcheck : sendCheck s c r = some (code, fault)) :
    RecordRefused s (sendCmd s ch) c ch r code fault := by
  rw [sendCmd_ready h.ctx h.front, if_neg (by simp [hop, h.fault, hroom]), hcheck]
  exact recordRefused (Observed.self s) r code fault

/-- A SEND that passes them is offered (R259). -/
theorem sendCmd_offers (hop : r.op = 1) (hroom : (chanOf s ch).unanswered < 8) (hcheck : sendCheck s c r = none) :
    sendCmd s ch = push (setChan s ch { (chanOf s ch).modRec r.slot (fun x => { x with phase := .offered, lines := [] }) with
      mseq := ((chanOf s ch).mseq + 1) % 2 ^ 32 }) [.fabReq (sendReq s c ch (chanOf s ch) r), .chanPump ch] := by
  rw [sendCmd_ready h.ctx h.front, if_neg (by simp [hop, h.fault, hroom]), hcheck]

theorem sendCmd_waits (hnot : r.op ≠ 1 ∨ 8 ≤ (chanOf s ch).unanswered) : sendCmd s ch = s := by
  rw [sendCmd_ready h.ctx h.front]
  exact if_pos (by simpa [h.fault] using hnot)

/-- An ALLOC that fails R259's checks is refused. -/
theorem allocCmd_refused (hop : r.op = 2) (hafter : afterStatus older.getLast? = true) (hcheck : sendCheck s c r = some (code, fault)) :
    RecordRefused s (allocCmd s ch) c ch r code fault := by
  have hobs := Observed.ev s 0x11e c
  rw [allocCmd_ready h.ctx h.front, if_neg (by simp [hop, h.fault, hafter]), hobs.sendCheck, hcheck]
  exact recordRefused hobs r code fault

/-- An ALLOC of an empty pool is refused (R260). -/
theorem allocCmd_poolEmpty (hop : r.op = 2) (hafter : afterStatus older.getLast? = true) (hcheck : sendCheck s c r = none)
    (hpool : rg2 s (rPools + 0x10 * r.pool) (rPools + 0x10 * r.pool + 4) = 0) :
    RecordRefused s (allocCmd s ch) c ch r kPoolEmpty false := by
  have hobs := Observed.ev s 0x11e c
  have hlt := pool_lt r
  rw [allocCmd_ready h.ctx h.front, if_neg (by simp [hop, h.fault, hafter]), hobs.sendCheck, hcheck]
  dsimp only
  rw [hobs.pool (by omega) (by omega), if_pos hpool]
  exact recordRefused hobs r kPoolEmpty false

/-- Any other ALLOC reads a handle from its pool (R260). -/
theorem allocCmd_reads (hop : r.op = 2) (hafter : afterStatus older.getLast? = true) (hcheck : sendCheck s c r = none)
    (hpool : rg2 s (rPools + 0x10 * r.pool) (rPools + 0x10 * r.pool + 4) ≠ 0) :
    allocCmd s ch = push (memRead (memBegun (ev s 0x11e c) ch (chanOf s ch) r)
      (rg2 s (rPools + 0x10 * r.pool) (rPools + 0x10 * r.pool + 4)) 0 (some c) uXch ch
        (.allocRead ch (chanOf s ch).epoch r.slot)) [.chanPump ch] := by
  have hobs := Observed.ev s 0x11e c
  have hlt := pool_lt r
  rw [allocCmd_ready h.ctx h.front, if_neg (by simp [hop, h.fault, hafter]), hobs.sendCheck, hcheck]
  dsimp only
  rw [hobs.pool (by omega) (by omega), if_neg hpool]
  rfl

theorem allocCmd_waits (hnot : r.op ≠ 2 ∨ afterStatus older.getLast? = false) : allocCmd s ch = s := by
  rw [allocCmd_ready h.ctx h.front]
  exact if_pos (by simpa [h.fault] using hnot)

/-- A FREE that fails R259's checks is refused. -/
theorem freeCmd_refused (hop : r.op = 3) (hafter : afterStatus older.getLast? = true) (hcheck : sendCheck s c r = some (code, fault)) :
    RecordRefused s (freeCmd s ch) c ch r code fault := by
  have hobs := Observed.ev s 0x11f c
  rw [freeCmd_ready h.ctx h.front, if_neg (by simp [hop, h.fault, hafter]), hobs.sendCheck, hcheck]
  exact recordRefused hobs r code fault

/-- Any other FREE writes its handle to its pool (R260). -/
theorem freeCmd_writes (hop : r.op = 3) (hafter : afterStatus older.getLast? = true) (hcheck : sendCheck s c r = none) :
    freeCmd s ch = push (memWrite (memBegun (ev s 0x11f c) ch (chanOf s ch) r)
      (rg2 s (rPools + 0x10 * r.pool + 8) (rPools + 0x10 * r.pool + 12)) (leBytes 8 r.addr) 1 (some c) uXch ch
        (.freeWrite ch (chanOf s ch).epoch r.slot)) [.chanPump ch] := by
  have hobs := Observed.ev s 0x11f c
  have hlt := pool_lt r
  rw [freeCmd_ready h.ctx h.front, if_neg (by simp [hop, h.fault, hafter]), hobs.sendCheck, hcheck]
  dsimp only
  rw [hobs.pool (by omega) (by omega)]
  rfl

theorem freeCmd_waits (hnot : r.op ≠ 3 ∨ afterStatus older.getLast? = false) : freeCmd s ch = s := by
  rw [freeCmd_ready h.ctx h.front]
  exact if_pos (by simpa [h.fault] using hnot)
end

/-! ## XCH_SCFG -/

/-- What a STATUS or handle write that has faulted does as FAULT is cleared: it goes out again (R280). -/
def sentAgain (ch : Nat) (t : Blk) (r : SendRec) : Blk :=
  if r.left ≠ 0 then t
  else if r.phase = .status then writeStatus t ch r.slot r.status
  else if r.phase = .aw then writeHandle t ch r.slot r.handle
  else t

theorem chanResume_eq (s : Blk) (ch : Nat) : chanResume s ch =
    push (forEach (chanOf s ch).recs (setChan s ch { chanOf s ch with fault := false }) (sentAgain ch)) [.chanPump ch] := by
  unfold chanResume
  dsimp only
  rw [chanOf_set]
  rfl

/-- The channel goes on: its faulted writes go out again, and it takes up records (R280). -/
def Resumed (s : Blk) (ch : Nat) (y : Blk) : Prop :=
  ∃ f : Blk → SendRec → Blk,
    y = push (forEach (chanOf s ch).recs (setChan s ch { chanOf s ch with fault := false }) f) [.chanPump ch] ∧
    ∀ t r, ((r.left = 0 → r.phase ≠ .status ∧ r.phase ≠ .aw) → f t r = t) ∧
      (r.left = 0 → r.phase = .status → f t r = writeStatus t ch r.slot r.status) ∧
      (r.left = 0 → r.phase = .aw → f t r = writeHandle t ch r.slot r.handle)

theorem chanResume_resumed (s : Blk) (ch : Nat) : Resumed s ch (chanResume s ch) := by
  refine ⟨sentAgain ch, chanResume_eq s ch, fun t r => ⟨fun hnone => ?_, fun hleft hphase => ?_, fun hleft hphase => ?_⟩⟩
  · unfold sentAgain
    by_cases hleft : r.left = 0
    · obtain ⟨hstatus, haw⟩ := hnone hleft
      rw [if_neg (not_not_intro hleft), if_neg hstatus, if_neg haw]
    · exact if_pos hleft
  · unfold sentAgain
    rw [if_neg (not_not_intro hleft), if_pos hphase]
  · unfold sentAgain
    rw [if_neg (not_not_intro hleft), if_neg (by simp [hphase]), if_pos hphase]

/-- The channel before its other fields are written: FAULT written 1 clears it (R280, R284). -/
def faultCleared (s : Blk) (ch : Nat) (w : Word) : Blk := if (bitAt w 29 && (chanOf s ch).fault) = true then chanResume s ch else s

theorem faultCleared_one {s : Blk} {ch : Nat} {w : Word} (hw : bitAt w 29 = true) (hf : (chanOf s ch).fault = true) :
    Resumed s ch (faultCleared s ch w) := by
  have heq : faultCleared s ch w = chanResume s ch := if_pos (by simp [hw, hf])
  rw [heq]
  exact chanResume_resumed s ch

theorem faultCleared_zero {s : Blk} {ch : Nat} {w : Word} (h : bitAt w 29 = false ∨ (chanOf s ch).fault = false) :
    faultCleared s ch w = s := if_neg (by rcases h with h | h <;> simp [h])

/-- R14 refuses a write of XCH_SCFG: of a channel that is not the page's, of a size out of range, of a change of an enabled channel, or of
EN 0 while records are under way (R284). -/
def ScfgRefused (s : Blk) (page ch : Nat) (w : Word) : Prop :=
  chanCtx s ch ≠ some page ∨ fld w 4 0 < 4 ∨ 16 < fld w 4 0 ∨
    ((chanOf s ch).en = true ∧ (bitAt w 30 ≠ (chanOf s ch).reply ∨ fld w 4 0 ≠ (chanOf s ch).log2)) ∨
    ((chanOf s ch).en = true ∧ bitAt w 31 = false ∧ (chanOf s ch).underWay = true)

section
variable {s : Blk} {page ch : Nat} {w : Word}

theorem chanCfg_refused (h : ScfgRefused s page ch w) : chanCfg s page ch w = none := (chanCfg_cases s page ch w).1 h

/-- A write that leaves EN as it was (R284). -/
theorem chanCfg_keeps (h : ¬ ScfgRefused s page ch w) (hen : bitAt w 31 = (chanOf s ch).en) : chanCfg s page ch w =
    some (setChan (faultCleared s ch w) ch { chanOf (faultCleared s ch w) ch with reply := bitAt w 30, log2 := fld w 4 0 }) := by
  refine ((chanCfg_cases s page ch w).2 h).trans (congrArg some ?_)
  rw [if_neg (by simp [hen]), if_neg (by simp [hen])]
  rfl

/-- A write that enables a channel, which starts afresh (R284). -/
theorem chanCfg_enables (h : ¬ ScfgRefused s page ch w) (hw : bitAt w 31 = true) (hen : (chanOf s ch).en = false) :
    chanCfg s page ch w = some (setChan (faultCleared s ch w) ch { chanOf (faultCleared s ch w) ch with
      reply := bitAt w 30, log2 := fld w 4 0, en := true, head := 0, tail := 0, next := 0, mseq := 0, recs := []
      epoch := (chanOf (faultCleared s ch w) ch).epoch + 1 }) := by
  refine ((chanCfg_cases s page ch w).2 h).trans (congrArg some ?_)
  rw [if_pos (by simp [hw, hen])]
  rfl

theorem pageXch_scfg (s : Blk) (page : Nat) (w : Word) :
    pageXch s page 0x408 w = chanCfg s page (rgf s (pageReg page 0x404) 9 0) w := by
  by_cases hctx : chanCtx s (rgf s (pageReg page 0x404) 9 0) = some page
  · exact if_neg (not_not_intro hctx)
  · rw [chanCfg_refused (.inl hctx)]
    exact if_pos hctx
end

theorem underWay_iff (v : Chan) : v.underWay = true ↔ ∃ r ∈ v.recs, r.phase = .offered ∨ r.phase = .aw := by
  simp [Chan.underWay]

/-- What CHANNEL_ENABLE writes: the word with EN 1, its other fields as given (R284). -/
theorem enabled_word (v : Word) : bitAt (v ||| 0x80000000#32) 31 = true ∧ bitAt (v ||| 0x80000000#32) 30 = bitAt v 30 ∧
    bitAt (v ||| 0x80000000#32) 29 = bitAt v 29 ∧ fld (v ||| 0x80000000#32) 4 0 = fld v 4 0 := by
  refine ⟨or_top v, ?_, ?_, fld_or (by decide)⟩
  · unfold bitAt
    simp
  · unfold bitAt
    simp

/-- CHANNEL_ENABLE is refused as its word with EN 1 is (R284). -/
theorem scfgRefused_enabled {s : Blk} {page ch : Nat} {v : Word} : ScfgRefused s page ch (v ||| 0x80000000#32) ↔
    chanCtx s ch ≠ some page ∨ fld v 4 0 < 4 ∨ 16 < fld v 4 0 ∨
      ((chanOf s ch).en = true ∧ (bitAt v 30 ≠ (chanOf s ch).reply ∨ fld v 4 0 ≠ (chanOf s ch).log2)) := by
  obtain ⟨hen, hreply, -, hlog⟩ := enabled_word v
  unfold ScfgRefused
  rw [hen, hreply, hlog]
  simp

/-- CHANNEL_FAULT_CLEAR is refused only for the channel and its size: it writes the other fields as they are (R280, R284). -/
theorem scfgRefused_clear {s : Blk} {page ch : Nat} : ScfgRefused s page ch (w32 (scfgWord { chanOf s ch with fault := true })) ↔
    chanCtx s ch ≠ some page ∨ (chanOf s ch).log2 % 32 < 4 ∨ 16 < (chanOf s ch).log2 % 32 ∨
      ((chanOf s ch).en = true ∧ (chanOf s ch).log2 % 32 ≠ (chanOf s ch).log2) := by
  obtain ⟨hlog, -, hreply, hen⟩ := scfg_word (chanOf s ch)
  unfold ScfgRefused
  rw [hen, hreply, hlog]
  cases (chanOf s ch).en <;> simp

/-- What CHANNEL_FAULT_CLEAR writes to the channel that the page shows (R280). -/
theorem exec_faultClear {page : Nat} (a : Access) (s : State) (hp : page < 256) : exec (.channelFaultClear page a) s =
    busCmd (pageReg (page % 256) 0x408)
      (w32 (scfgWord { chanOf s.blk (rgf s.blk (pageReg page 0x404) 9 0) with fault := true })) a s := by
  rw [exec_channelFaultClear]
  conv_lhs => arg 2; rw [Nat.mod_eq_of_lt hp]
  rfl

section
variable {c : Instr} {s : State} {page : Nat} {v : Word} {a : Access} {P : Blk → Prop}
  (hc : exec c s = busCmd (pageReg (page % 256) 0x408) v a s) (hp : page < 256) (h : Served s.blk (pageReg page 0x408) a)
include hc hp h

theorem refuses_scfg (hbad : ScfgRefused s.blk page (rgf s.blk (pageReg page 0x404) 9 0) v) : Refuses c s (pageReg page 0x408) v a :=
  refuses_pageXch hc hp (by decide) (by decide) h ((pageXch_scfg s.blk page v).trans (chanCfg_refused hbad))

theorem writes_scfg {t : Blk} (hact : chanCfg s.blk page (rgf s.blk (pageReg page 0x404) 9 0) v = some t) (ht : P t) : Writes c s P :=
  writes_pageXch hc hp (by decide) (by decide) h (by decide) ((pageXch_scfg s.blk page v).trans hact) ht
end

section
variable {s : State} {page : Nat} {v : Word} {a : Access} (hp : page < 256) (h : Served s.blk (pageReg page 0x408) a)
include hp h

/-- CHANNEL_ENABLE of a channel that it fits: FAULT written 1 is cleared, and a channel that was disabled starts afresh (R280, R284). -/
theorem channelEnable_writes {ch : Nat} (hch : rgf s.blk (pageReg page 0x404) 9 0 = ch)
    (hgood : ¬ ScfgRefused s.blk page ch (v ||| 0x80000000#32)) :
    let x := chanOf s.blk ch
    Writes (.channelEnable page v a) s (fun t => ∃ y,
      (bitAt v 29 = true ∧ x.fault = true → Resumed s.blk ch y) ∧ (bitAt v 29 = false ∨ x.fault = false → y = s.blk) ∧
      (x.en = true → t = setChan y ch { chanOf y ch with reply := bitAt v 30, log2 := fld v 4 0 }) ∧
      (x.en = false → t = setChan y ch { chanOf y ch with reply := bitAt v 30, log2 := fld v 4 0, en := true, head := 0, tail := 0
                                                          next := 0, mseq := 0, recs := [], epoch := (chanOf y ch).epoch + 1 })) := by
  intro x
  subst hch
  obtain ⟨hen, hreply, hfault, hlog⟩ := enabled_word v
  rw [← hreply, ← hfault, ← hlog]
  have hone := fun hf => faultCleared_one (s := s.blk) (ch := rgf s.blk (pageReg page 0x404) 9 0) (w := v ||| 0x80000000#32) hf
  cases hx : x.en with
  | true =>
    exact writes_scfg (exec_channelEnable page v a s) hp h (chanCfg_keeps hgood (hen.trans hx.symm))
      ⟨_, fun hf => hone hf.1 hf.2, faultCleared_zero, fun _ => rfl, fun hne => Bool.noConfusion hne⟩
  | false =>
    exact writes_scfg (exec_channelEnable page v a s) hp h (chanCfg_enables hgood hen hx)
      ⟨_, fun hf => hone hf.1 hf.2, faultCleared_zero, fun hne => Bool.noConfusion hne, fun _ => rfl⟩

/-- CHANNEL_FAULT_CLEAR of a channel of the page, whose size is in range (R280, R284). -/
theorem channelFaultClear_writes {ch : Nat} (hch : rgf s.blk (pageReg page 0x404) 9 0 = ch) (hctx : chanCtx s.blk ch = some page)
    (hlo : 4 ≤ (chanOf s.blk ch).log2) (hhi : (chanOf s.blk ch).log2 ≤ 16) :
    let x := chanOf s.blk ch
    Writes (.channelFaultClear page a) s (fun t => ∃ y, (x.fault = true → Resumed s.blk ch y) ∧ (x.fault = false → y = s.blk) ∧
      t = setChan y ch { chanOf y ch with reply := x.reply, log2 := x.log2 }) := by
  intro x
  subst hch
  have hmod : x.log2 % 32 = x.log2 := Nat.mod_eq_of_lt (Nat.lt_of_le_of_lt hhi (by decide))
  obtain ⟨hsize, hclear, hkeep, hen⟩ := scfg_word x
  rw [hmod] at hsize
  have hgood : ¬ ScfgRefused s.blk page (rgf s.blk (pageReg page 0x404) 9 0) (w32 (scfgWord { x with fault := true })) := fun hb => by
    rcases scfgRefused_clear.mp hb with hb | hb | hb | ⟨-, hb⟩
    · exact hb hctx
    · exact Nat.not_lt.mpr hlo (hmod ▸ hb)
    · exact Nat.not_lt.mpr hhi (hmod ▸ hb)
    · exact hb hmod
  refine writes_scfg (exec_faultClear a s hp) hp h (chanCfg_keeps hgood hen)
    ⟨_, fun hf => faultCleared_one hclear hf, fun hf => faultCleared_zero (.inr hf), ?_⟩
  rw [hkeep, hsize]
end

/-! ## XCH_RCTL -/

section
variable {s : Blk} {g : Nat}

/-- What a held OPEN notes of its launch (R261). -/
def openMark (bound : Option Nat) : Nat := match bound with | some l => l + 1 | none => 0

theorem openRing_opened (bound : Option Nat) (h : (ringOf s g).state = .opened) : openRing s g bound = s := if_pos h

/-- OPEN of a ring that is not OPEN waits in `openHeld` for the old deliveries (R261). -/
theorem openRing_held (bound : Option Nat) (h : (ringOf s g).state ≠ .opened) :
    openRing s g bound = ringPump (setRing s g { ringOf s g with openHeld := some (openMark bound) }) g := if_neg h

theorem closeRing_shut (h : (ringOf s g).state ≠ .opened) : closeRing s g = s := if_neg h

/-- CLOSE of an OPEN ring writes its pointer block (R261, R262). -/
theorem closeRing_opened (h : (ringOf s g).state = .opened) :
    RingBecomes s (closeRing s g) g { ringOf s g with state := .closed, bound := none } := by
  have heq : closeRing s g = writePtr (setRing s g { ringOf s g with state := .closed, bound := none }) g := if_pos h
  rw [heq]
  exact ringBecomes (ringSet s g _)

/-- A ring that is not OPEN opens at once, or when its old deliveries are gone (R261). -/
theorem openRing_moves {c : Nat} {bound : Option Nat} (hc : ringCtx s g = some c)
    (hbound : ∀ i, bound = some i → (launchOf s i).isSome = true) (h : (ringOf s g).state ≠ .opened) :
    let v := ringOf s g
    (v.places ≠ [] → RingSet s (openRing s g bound) g { v with openHeld := some (openMark bound) }) ∧
    (v.places = [] → RingBecomes s (openRing s g bound) g { v with
      state := .opened, rgen := if (v.rgen + 1) % 256 = 0 then 1 else v.rgen + 1, resv := 0, wptr := 0, rptr := 0, badOnce := false
      bound, openHeld := none, ctx := c }) :=
  openRing_closed hc hbound h (openMark bound) (fun _ hl => by rw [hl]; rfl) (fun hn => by rw [hn]; rfl) (openRing_held bound h)
end

theorem launchOf_of_live {s : Blk} {c ltag i : Nat} {l : Launch} (h : liveLaunch s c ltag = some (i, l)) : (launchOf s i).isSome = true :=
  get?_of_mem s.tsk.launches (List.mem_of_find?_eq_some h)

section
variable {s : Blk} {page : Nat}

theorem rctl_open (hg : ringCtx s (rgf s (pageReg page 0x418) 13 0) = some page) :
    pageXch s page 0x430 1 = some (openRing s (rgf s (pageReg page 0x418) 13 0) none) := if_neg (not_not_intro hg)

theorem rctl_close (hg : ringCtx s (rgf s (pageReg page 0x418) 13 0) = some page) :
    pageXch s page 0x430 3 = some (closeRing s (rgf s (pageReg page 0x418) 13 0)) := if_neg (not_not_intro hg)

theorem rctl_openBound (hg : ringCtx s (rgf s (pageReg page 0x418) 13 0) = some page) : pageXch s page 0x430 2 =
    (liveLaunch s page (ringOf s (rgf s (pageReg page 0x418) 13 0)).rltag).map
      (fun p => openRing s (rgf s (pageReg page 0x418) 13 0) (some p.1)) := if_neg (not_not_intro hg)
end

/-- A command that does what `openRing` does opens its ring, unless it is OPEN, at once or when the old deliveries are gone (R261). -/
theorem opens_ring {c : Instr} {s : State} {page g : Nat} {a : Access} {bound : Option Nat} (hg : ringCtx s.blk g = some page)
    (hbound : ∀ i, bound = some i → (launchOf s.blk i).isSome = true)
    (hdoes : ∀ P, P (openRing s.blk g bound) → WritesFor c s page a.waiting P) :
    let v := ringOf s.blk g
    (v.state = .opened → WritesFor c s page a.waiting (fun t => t = s.blk)) ∧
    (v.state ≠ .opened → v.places ≠ [] →
      WritesFor c s page a.waiting (fun t => RingSet s.blk t g { v with openHeld := some (openMark bound) })) ∧
    (v.state ≠ .opened → v.places = [] → WritesFor c s page a.waiting (fun t => RingBecomes s.blk t g { v with
      state := .opened, rgen := if (v.rgen + 1) % 256 = 0 then 1 else v.rgen + 1, resv := 0, wptr := 0, rptr := 0, badOnce := false
      bound, openHeld := none, ctx := page })) :=
  ⟨fun hst => hdoes _ (openRing_opened bound hst), fun hst hp => hdoes _ ((openRing_moves hg hbound hst).1 hp),
    fun hst hp => hdoes _ ((openRing_moves hg hbound hst).2 hp)⟩

/-- Settles O56: a doorbell by `sendDoorbell`, a record by what `sendCheck` says of it (`Takable`), XCH_SCFG by `chanCfg`, XCH_RCTL by
`openRing` and `closeRing`. The model's choices (log entry 24) are when an ALLOC or FREE begins, LOCAL of STATUS, the QoS of
handle reads and writes, that EN is not cleared while records are under way, and that OPEN of an OPEN ring and CLOSE of one that is not
OPEN have no effect. -/
theorem channelsAndRingsMove : Obligations.ChannelsAndRingsMove := by
  refine ⟨fun page ch tail a s hp hch ht h => ⟨fun hctx hen hsize => ?_, fun hno => ?_⟩,
    fun ch c older r s hready hctx hrecs hphase hfault => ?_,
    fun page v a s hp h => ?_,
    fun page a s hp h => ?_⟩
  · exact writes_pageXch (exec_xchSdb page ch tail a s) hp (by decide) (by decide) h (by decide)
      ((pageXch_doorbell s.blk page hch ht).trans (sendDoorbell_sets hctx hen hsize)) rfl
  · exact refuses_pageXch (exec_xchSdb page ch tail a s) hp (by decide) (by decide) h
      ((pageXch_doorbell s.blk page hch ht).trans (sendDoorbell_refused hno))
  · have hfront : Takable s.blk ch c older r := ⟨hctx, hrecs, hphase, hfault⟩
    have hafter := afterStatus_iff older
    have send := fun P => updates_act (P := P) (exec_send ch s) hready
    have alloc := fun P => updates_act (P := P) (exec_alloc ch s) hready
    have free := fun P => updates_act (P := P) (exec_freeHandle ch s) hready
    obtain ⟨hlong, hbad, hpasses, halloc, hfree⟩ := sendCheck_cases s.blk c r
    refine ⟨fun hop hroom => ⟨fun hlen => ?_, fun hlen hm => ?_, fun hlen hm hh => ⟨fun hp => ?_, fun hp => ?_⟩⟩,
      fun hop ha => ⟨fun hlen => ?_, fun hlen hm => ?_, fun hlen hm hpool => ?_, fun hlen hm hpool => ?_⟩,
      fun hop ha => ⟨fun hlen => ?_, fun hlen hm => ?_, fun hlen hm hb => ?_⟩,
      fun hnot => ?_, fun hnot => ?_, fun hnot => ?_⟩
    · exact send _ (sendCmd_refused hfront hop hroom (hlong hlen))
    · exact send _ (sendCmd_refused hfront hop hroom (hbad hop hlen hm))
    · exact send _ (sendCmd_refused hfront hop hroom ((hpasses hop hlen hm hh).trans (if_pos hp)))
    · exact send _ (sendCmd_offers hfront hop hroom ((hpasses hop hlen hm hh).trans (if_neg (ne_true_of_eq_false hp))))
    · exact alloc _ (allocCmd_refused hfront hop (hafter.mpr ha) (hlong hlen))
    · exact alloc _ (allocCmd_refused hfront hop (hafter.mpr ha) ((halloc hop hlen).trans (if_pos hm)))
    · exact alloc _ (allocCmd_poolEmpty hfront hop (hafter.mpr ha) ((halloc hop hlen).trans (if_neg (ne_true_of_eq_false hm))) hpool)
    · exact alloc _ ⟨_, _, Observed.ev s.blk 0x11e c, memReq_asked _ _ rfl,
        allocCmd_reads hfront hop (hafter.mpr ha) ((halloc hop hlen).trans (if_neg (ne_true_of_eq_false hm))) hpool⟩
    · exact free _ (freeCmd_refused hfront hop (hafter.mpr ha) (hlong hlen))
    · exact free _ (freeCmd_refused hfront hop (hafter.mpr ha) ((hfree hop hlen).trans (if_pos hm)))
    · exact free _ ⟨_, Observed.ev s.blk 0x11f c,
        freeCmd_writes hfront hop (hafter.mpr ha) ((hfree hop hlen).trans (if_neg (not_or.mpr ⟨ne_true_of_eq_false hm, hb⟩)))⟩
    · exact send _ (sendCmd_waits hfront hnot)
    · exact alloc _ (allocCmd_waits hfront (hnot.imp_right afterStatus_not))
    · exact free _ (freeCmd_waits hfront (hnot.imp_right afterStatus_not))
  · refine ⟨fun hbad => refuses_scfg (exec_channelEnable page v a s) hp h (scfgRefused_enabled.mpr hbad), fun hen hoff hrec => ?_,
      fun hgood => channelEnable_writes hp h rfl fun hb => hgood (scfgRefused_enabled.mp hb), channelFaultClear_writes hp h rfl,
      fun hbad => refuses_scfg (exec_faultClear a s hp) hp h (scfgRefused_clear.mpr ?_)⟩
    · exact refuses_scfg ((exec_registerWrite _ v a s).trans (by rw [Nat.mod_eq_of_lt hp])) hp h
        (.inr (.inr (.inr (.inr ⟨hen, hoff, (underWay_iff _).mpr hrec⟩))))
    · exact hbad.imp_right (Or.imp (Nat.lt_of_le_of_lt (Nat.mod_le _ _)) .inl)
  · refine ⟨fun hno => ⟨?_, ?_, ?_⟩, fun hg => ⟨?_, fun hnone => ?_, fun i l hl => ?_, fun hst => ?_, fun hst => ?_⟩⟩
    · exact refuses_pageXch (exec_openRing page a s) hp (by decide) (by decide) h (if_pos hno)
    · exact refuses_pageXch (exec_openBound page a s) hp (by decide) (by decide) h (if_pos hno)
    · exact refuses_pageXch (exec_ringClose page a s) hp (by decide) (by decide) h (if_pos hno)
    · exact opens_ring (bound := none) hg (fun i hi => nomatch hi) fun P => writesFor_ringCtl (exec_openRing page a s) hp h (rctl_open hg)
    · refine refuses_pageXch (exec_openBound page a s) hp (by decide) (by decide) h ((rctl_openBound hg).trans ?_)
      rw [hnone]
      rfl
    · have hact := (rctl_openBound hg).trans (congrArg (Option.map _) hl)
      refine opens_ring hg (fun j hj => ?_) fun P => writesFor_ringCtl (exec_openBound page a s) hp h hact
      obtain rfl := Option.some.inj hj
      exact launchOf_of_live hl
    · exact writesFor_ringCtl (exec_ringClose page a s) hp h (rctl_close hg) (closeRing_shut hst)
    · exact writesFor_ringCtl (exec_ringClose page a s) hp h (rctl_close hg) (closeRing_opened hst)

end Sys2Proof.Machine

/-! Proofs. Ruled contexts (O58): the mode, the tick that is open or opens, what a tick takes, and the front that stalls. -/
namespace Sys2Proof.Machine

/-! ## CTX_ORD_MODE and CTX_ORD_CTL (R285, R302) -/

/-- The Context Manager takes the writes at its own offsets (R420). -/
theorem regAct_ctx (s : Blk) {off : Nat} (v : Word) (hstat : ∀ p ∈ w1cTable, p.1 ≠ off) (hlo : 0x110000 ≤ off) (hhi : off < 0x130000) :
    regAct s off v = actCtx s off v := by
  obtain ⟨-, -, -, -, -, -, hctx, -⟩ := regAct_units s v (w1c_none hstat)
  exact hctx hlo hhi

theorem regAct_ordMode (s : Blk) (v : Word) : regAct s rOrdMode v = ordWrite s (rgf s rOrdSel 7 0) v :=
  regAct_ctx s v (by decide) (by decide) (by decide)

theorem regAct_ordCtl (s : Blk) (v : Word) : regAct s 0x120824 v = ordCtl s (rgf s rOrdSel 7 0) v :=
  regAct_ctx s v (by decide) (by decide) (by decide)

/-- A write of CTX_ORD_MODE stores into the word of the selected context. -/
theorem storeReg_ordMode (s : Blk) (v : Word) :
    let k := bank rOrdMode (rgf s rOrdSel 7 0)
    OnlyReg s (storeReg s rOrdMode v) k (written (rg s k) 7 v) :=
  storeReg_only s rOrdMode 7 v (by decide) (by decide)

theorem ordHeld_iff (s : Blk) (c : Nat) : ordHeld s c = true ↔ (∃ l ∈ Store.vals s.tsk.launches, l.ctx = c) ∨
    (∃ p ∈ s.csq.queues, sqCtx s p.1 = c ∧ (p.2.state = .run ∨ p.2.state = .wait ∨ p.2.state = .sleep)) := by
  simp [ordHeld, or_assoc]

/-- Bit 0 of a mode is the lower bit of its field. -/
theorem bitAt_zero_of_fld {v : Word} {m : Nat} (h : fld v 1 0 = m) : bitAt v 0 = decide (m % 2 = 1) := by
  subst h
  unfold bitAt fld
  rw [BitVec.getLsbD, Nat.testBit_zero, Nat.shiftRight_zero]
  congr 2
  omega

section
variable {s : Blk} {c : Nat} {v : Word}

theorem ordWrite_refused (h : 1 < fld v 1 0 ∨ ordHeld s c = true) : ordWrite s c v = none := by
  unfold ordWrite
  exact if_pos (by simpa using h)

theorem ordWrite_ruled (hm : fld v 1 0 = 1) (hh : ordHeld s c = false) : ordWrite s c v =
    some { storeReg s rOrdMode v with ctx := { s.ctx with
      slots := Store.put {} s.ctx.slots c { slotOf s c with tick := 0, rotor := 0, front := none, frontStalled := false, tickOpen := false }
      owed := s.ctx.owed.map (fun o => if o.ctx = c then { o with due := 1 } else o) } } := by
  unfold ordWrite
  rw [hm, hh, bitAt_zero_of_fld hm]
  rfl

theorem ordWrite_free (hm : fld v 1 0 = 0) (hh : ordHeld s c = false) : ordWrite s c v =
    some (releaseOwed (setSlot (storeReg s rOrdMode v) c
      { slotOf s c with tick := 0, front := none, frontStalled := false, tickOpen := false }) c) := by
  unfold ordWrite
  rw [hm, hh, bitAt_zero_of_fld hm]
  rfl

theorem ordCtl_stepRefused (h : (courseLaunch s c).isSome = true) : ordCtl s c 2 = none := by
  unfold ordCtl
  rw [h]
  rfl

theorem ordCtl_stepLoads (h : courseLaunch s c = none) :
    ordCtl s c 2 = some (setSqt s c { sqtOf s c with stepCnt := rg s (bank rReplayStep c) }) := by
  unfold ordCtl
  rw [h]
  rfl

theorem ordCtl_tccClears (s : Blk) (c : Nat) : ordCtl s c 1 = some (setSlot s c { slotOf s c with tcc := 0 }) := rfl
end

/-! ## The next tick (R292) -/

section
variable {s : Blk} {c : Nat}

theorem mem_owedOf {o : Owed} : o ∈ owedOf s c ↔ o ∈ s.ctx.owed ∧ o.ctx = c := by simp [owedOf]

theorem nextTick_work (h : hasWork s c = true) : nextTick s c = (slotOf s c).tick + 1 := by
  unfold nextTick
  exact if_pos h

variable (hw : hasWork s c = false)
include hw

/-- With nothing owed the tick after is the next one. -/
theorem nextTick_unowed (h : owedOf s c = []) : nextTick s c = (slotOf s c).tick + 1 := by
  unfold nextTick
  simp [hw, h]

/-- With something owed it is the least tick at which any of it is due, or the one after this. -/
theorem nextTick_owed (h : owedOf s c ≠ []) : ∃ o ∈ owedOf s c, (∀ x ∈ owedOf s c, o.due ≤ x.due) ∧
    nextTick s c = max ((slotOf s c).tick + 1) o.due := by
  obtain ⟨x, r, hl⟩ := List.exists_cons_of_ne_nil h
  obtain ⟨hx, hr, hmem⟩ := minDue r x.due
  have hnext : nextTick s c = max ((slotOf s c).tick + 1) ((r.map (·.due)).foldl min x.due) := by
    unfold nextTick
    simp [hw, hl]
  rw [hnext, hl]
  generalize (r.map (·.due)).foldl min x.due = m at hx hr hmem ⊢
  have hleast : ∀ y ∈ x :: r, m ≤ y.due := by
    intro y hy
    rcases List.mem_cons.mp hy with rfl | hy
    · exact hx
    · exact hr y hy
  rcases hmem with rfl | ⟨o, ho, rfl⟩
  · exact ⟨x, List.mem_cons_self, hleast, rfl⟩
  · exact ⟨o, List.mem_cons_of_mem _ ho, hleast, rfl⟩
end

/-- The tick never goes back. -/
theorem nextTick_after (s : Blk) (c : Nat) : (slotOf s c).tick + 1 ≤ nextTick s c := by
  cases hw : hasWork s c with
  | true => exact (nextTick_work hw).ge
  | false =>
    by_cases hl : owedOf s c = []
    · exact (nextTick_unowed hw hl).ge
    · obtain ⟨o, -, -, hnext⟩ := nextTick_owed hw hl
      rw [hnext]
      exact Nat.le_max_left _ _

/-- A tick is left out only where nothing owed is due before the one that comes. -/
theorem nextTick_skips {s : Blk} {c : Nat} (hw : hasWork s c = false) (hskip : (slotOf s c).tick + 1 < nextTick s c)
    {x : Owed} (hx : x ∈ owedOf s c) : nextTick s c ≤ x.due := by
  obtain ⟨o, -, hleast, hnext⟩ := nextTick_owed hw (List.ne_nil_of_mem hx)
  have hle := hleast x hx
  omega

/-- Without other work something owed is due by then. -/
theorem nextTick_reaches {s : Blk} {c : Nat} (hw : hasWork s c = false) (hl : owedOf s c ≠ []) :
    ∃ o ∈ owedOf s c, o.due ≤ nextTick s c := by
  obtain ⟨o, ho, -, hnext⟩ := nextTick_owed hw hl
  exact ⟨o, ho, hnext ▸ Nat.le_max_right _ _⟩

/-! ## RULED_TICK (R287, R290, R292) -/

/-- Everything of a context that is due by tick t has arrived. -/
def AllArrived (s : Blk) (c t : Nat) : Prop := ∀ o ∈ s.ctx.owed, o.ctx = c → o.due ≤ t → o.arrived = true

theorem allArrived_iff (s : Blk) (c t : Nat) :
    ((owedOf s c).filter (fun o => decide (o.due ≤ t))).all (·.arrived) = true ↔ AllArrived s c t := by
  simp only [AllArrived, List.all_eq_true, List.mem_filter, mem_owedOf, decide_eq_true_eq, and_imp]

section
variable {s : Blk} {c : Nat}

/-- A context that takes no ruled decisions, or that a breakpoint holds, stays as it is (R248, R332). -/
theorem ruledTick_rests (h : ruledLive s c = false ∨ ¬ brkHolds s c = false) : ruledTick s c = s := by
  unfold ruledTick
  exact if_pos (by simpa using h)

variable (hlive : ruledLive s c = true) (hfree : brkHolds s c = false)
include hlive hfree

theorem ruledTick_open (hopen : (slotOf s c).tickOpen = true) : ruledTick s c = pickFront (inTick s c id) c := by
  unfold ruledTick
  simp [hlive, hfree, hopen]

variable (hshut : (slotOf s c).tickOpen = false)
include hshut

theorem ruledTick_idle (hidle : ctxIdle s c = true) : ruledTick s c = takeFront s c := by
  unfold ruledTick
  simp [hlive, hfree, hshut, hidle]

variable (hbusy : ctxIdle s c = false)
include hbusy

/-- The next tick opens once all that is due by it has arrived. -/
theorem ruledTick_opens (h : AllArrived s c (nextTick s c)) : ruledTick s c = pickFront (inTick (openTick
    (setSlot s c { slotOf s c with tick := nextTick s c - 1, front := none }) c (nextTick s c)) c id) c := by
  have hall := (allArrived_iff s c (nextTick s c)).mpr h
  unfold ruledTick
  rw [if_neg (by simp [hlive, hfree]), if_neg (by simp [hshut]), if_neg (by simp [hbusy])]
  exact if_pos hall

/-- It waits, the one before it being the last, where something due by it has not. -/
theorem ruledTick_waits (h : ¬ AllArrived s c (nextTick s c)) :
    ruledTick s c = setSlot s c { slotOf s c with tick := nextTick s c - 1, front := none } := by
  have hall := fun hyes => h ((allArrived_iff s c (nextTick s c)).mp hyes)
  unfold ruledTick
  rw [if_neg (by simp [hlive, hfree]), if_neg (by simp [hshut]), if_neg (by simp [hbusy])]
  exact if_neg hall
end

/-- Only a context that takes ruled decisions is idle. -/
theorem ruledLive_of_idle {s : Blk} {c : Nat} (h : ctxIdle s c = true) : ruledLive s c = true := by
  unfold ctxIdle at h
  exact (Bool.and_eq_true_iff.mp h).1

/-- A context that is not idle has work or is owed something. -/
theorem owed_of_busy {s : Blk} {c : Nat} (hlive : ruledLive s c = true) (hbusy : ctxIdle s c = false) (hw : hasWork s c = false) :
    owedOf s c ≠ [] := by
  intro hnone
  unfold ctxIdle at hbusy
  simp [hlive, hw, hnone] at hbusy

section
variable {s : Blk} {c : Nat}

theorem takeFront_none (h : frontOf s c = none) : takeFront s c = s := by
  unfold takeFront
  rw [h]

variable {w : RWait} (hw : frontOf s c = some w)
include hw

/-- A front that is not released is picked, and its clock starts anew where it was not the one picked before (R290). -/
theorem takeFront_waits (hidle : ctxIdle s c = true) (hrel : w.released s = false) : takeFront s c =
    if (slotOf s c).front = some (w.kind, w.idx) then s
    else setSlot s c { slotOf s c with front := some (w.kind, w.idx), frontAt := none, frontStalled := false } := by
  unfold takeFront pickFront
  simp only [hw, hidle, hrel, Bool.not_true, Bool.false_eq_true, if_false]

/-- The release of a front is the first thing that the next tick takes (R292). -/
theorem takeFront_released (hrel : w.released s = true) : takeFront s c =
    pickFront (inTick (openTick (setSlot s c { slotOf s c with front := none }) c ((slotOf s c).tick + 1)) c
      (fun u => releaseWaiter (oneDecided u c) w)) c := by
  unfold takeFront
  simp only [hw]
  exact if_pos hrel
end

/-! ## What a tick takes (R288, R292) -/

section
variable {b : Blk} {c : Nat} (n : Nat)

/-- A breakpoint leaves the tick open (R248). -/
theorem runTick_held (hlive : ruledLive b c = true) (hbrk : brkHolds b c = true) : runTick c (n + 1) b = b := by
  unfold runTick
  simp [hlive, hbrk]

variable (hlive : ruledLive b c = true) (hfree : brkHolds b c = false)
include hlive hfree

theorem runTick_closes (h : tickItems b c (slotOf b c).tick = []) : runTick c (n + 1) b = closeTick b c := by
  unfold runTick
  simp [hlive, hfree, h, leastItem]

variable {x : TickItem} (hx : leastItem (tickItems b c (slotOf b c).tick) = some x)
include hx

/-- A boundary that comes next waits for those of other contexts, and the tick with it (R216). -/
theorem runTick_waits (hb : x = .boundary) (hwork : boundaryWork b c = false) : runTick c (n + 1) b = b := by
  unfold runTick
  simp [hlive, hfree, hx, hb, hwork]

theorem runTick_takes (h : x ≠ .boundary ∨ boundaryWork b c = true) :
    runTick c (n + 1) b = runTick c n (cascade 8 (takeItem b c x)) := by
  have hgo : ¬ (x = .boundary ∧ boundaryWork b c = false) := by simpa [imp_iff_not_or] using h
  rw [runTick]
  simp only [hlive, hfree, hx, Bool.not_true, Bool.false_eq_true, if_false]
  exact if_neg hgo
end

/-! ## The front that stalls (R293, R302) -/

/-- The front has waited its limit while an event of another waiter is held. -/
def StallDue (s : Blk) (c : Nat) : Prop :=
  frontBlocked s c = true ∧ (slotOf s c).frontStalled = false ∧ rgf s (bank rRuleWait c) 19 0 ≠ 0 ∧ s.time.usable = true ∧
    ∃ at_, (slotOf s c).frontAt = some at_ ∧ at_ + rgf s (bank rRuleWait c) 19 0 * 1000 ≤ now s

/-- A wait whose clock has not begun is never over, since its limit is not 0. -/
theorem stallDue_iff (s : Blk) (c : Nat) : (frontBlocked s c && !(slotOf s c).frontStalled && ruleWait s c ≠ 0 && s.time.usable &&
    decide (now s ≥ (slotOf s c).frontAt.getD (now s) + ruleWait s c)) = true ↔ StallDue s c := by
  unfold StallDue ruleWait
  cases (slotOf s c).frontAt with
  | none =>
    simp only [Option.getD_none, reduceCtorEq, false_and, exists_false, and_false, iff_false, Bool.and_eq_true, decide_eq_true_eq, not_and]
    intros
    omega
  | some at_ => simp [and_assoc]

/-- The LTAG that a stalled front shows: 0 for a queue, else that of the live launch of its rank. -/
def frontTag (s : Blk) (c : Nat) (f : RWait) : Nat :=
  if f.kind = 5 then 0 else (((liveOf s c).find? (fun p => p.2.rank == f.rank)).map (fun p => p.2.ltag)).getD 0

theorem mem_liveOf {s : Blk} {c : Nat} {p : Nat × Launch} :
    p ∈ liveOf s c ↔ p ∈ s.tsk.launches ∧ p.2.ctx = c ∧ p.2.ended = false := by
  simp [liveOf]

/-- Where one live launch alone has the front's rank, its LTAG is shown. -/
theorem frontTag_launch {s : Blk} {c : Nat} {f : RWait} (hk : f.kind ≠ 5) {p : Nat × Launch} (hp : p ∈ liveOf s c)
    (hrank : p.2.rank = f.rank) (honly : ∀ q ∈ liveOf s c, q.2.rank = f.rank → q = p) : frontTag s c f = p.2.ltag := by
  have hfind : (liveOf s c).find? (fun p => p.2.rank == f.rank) = some p := by
    cases hq : (liveOf s c).find? (fun p => p.2.rank == f.rank) with
    | none => exact absurd hrank (by simpa using List.find?_eq_none.mp hq p hp)
    | some q => rw [honly q (List.mem_of_find?_eq_some hq) (by simpa using List.find?_some hq)]
  unfold frontTag
  rw [if_neg hk, hfind]
  rfl

section
variable {s : Blk} {c : Nat}

theorem frontStall_rests (h : ¬ StallDue s c) : frontStall s c = s := by
  unfold frontStall
  split
  · rfl
  · exact if_neg fun hyes => h ((stallDue_iff s c).mp hyes)

theorem frontStall_faults {f : RWait} (h : StallDue s c) (hf : frontOf s c = some f) : frontStall s c =
    ctxFault (setSlot s c { slotOf s c with frontStalled := true }) c uCtx 0x58
      (mkDetail (put (frontTag s c f) 31 0) (f.shown s) (min (heldWaiters s c f) 2047)) := by
  unfold frontStall
  rw [hf]
  exact if_pos ((stallDue_iff s c).mpr h)
end

/-! ## O58 -/

/-- RULED_TICK of a context, as a command. -/
theorem updates_ruledTick {c : Nat} {s : State} (hc : c < 256) (hready : fnReady s.blk 12 = true) {P : Blk → Prop}
    (hp : P (ruledTick s.blk c)) : Updates (.ruledTick c) s P :=
  updates_act (exec_ruledTick c s) hready (by rw [Nat.mod_eq_of_lt hc]; exact hp)

/-- FRONT_STALL_EXPIRY of a context, as a command. -/
theorem updates_frontStall {c : Nat} {s : State} (hc : c < 256) (hready : fnReady s.blk 12 = true) {P : Blk → Prop}
    (hp : P (frontStall s.blk c)) : Updates (.frontStallExpiry c) s P :=
  updates_act (exec_frontStallExpiry c s) hready (by rw [Nat.mod_eq_of_lt hc]; exact hp)

/-- Settles O58. The mode and CTX_ORD_CTL go by the branches of `ordWrite` and `ordCtl`, a tick by those of `ruledTick` with the tick that
`nextTick` names, what it takes by `leastItem_least`, and the stall of a front by `StallDue`. That what is still owed is due at tick 1 of a
context made ruled, and takes effect at once where it is made free, is the model's choice (log entry 29). -/
theorem ruledContextsTakeTheirTicks : Obligations.RuledContextsTakeTheirTicks := by
  refine ⟨fun v a s h => ?_, fun a s h => ?_, fun c s hc hready => ?_, fun b c n hlive => ?_, fun c s hc hready => ?_⟩
  · intro c held Stored
    have hfree : ¬ held → ordHeld s.blk c = false := fun hno => Bool.eq_false_iff.mpr (hno ∘ (ordHeld_iff s.blk c).mp)
    have hact := regAct_ordMode s.blk v
    refine ⟨fun hbad => ?_, fun hm hno => ?_, fun hm hno => ?_⟩
    · exact refuses_bus (exec_ordModeWrite v a s) h (hact.trans (ordWrite_refused (hbad.imp_right (ordHeld_iff s.blk c).mpr)))
        (.inl (by decide))
    · exact writes_bus (exec_ordModeWrite v a s) h (hact.trans (ordWrite_ruled hm (hfree hno))) ⟨_, storeReg_ordMode s.blk v, rfl⟩
    · exact writes_bus (exec_ordModeWrite v a s) h (hact.trans (ordWrite_free hm (hfree hno))) ⟨_, storeReg_ordMode s.blk v, rfl⟩
  · intro c
    have hact := regAct_ordCtl s.blk
    refine ⟨fun hcourse => ?_, fun hcourse => ?_, ?_⟩
    · exact refuses_bus (exec_stepLoad a s) h ((hact 2).trans (ordCtl_stepRefused hcourse)) (.inl (by decide))
    · exact writes_bus (exec_stepLoad a s) h ((hact 2).trans (ordCtl_stepLoads hcourse)) rfl
    · exact writes_bus (exec_tccClear a s) h ((hact 1).trans (ordCtl_tccClears s.blk c)) rfl
  · intro v Picked opened free
    refine ⟨fun hrest => ?_, fun hlive hfree hopen => ?_, fun hidle hfree hshut => ?_, fun hlive hfree hbusy hshut => ?_⟩
    · exact updates_ruledTick hc hready (ruledTick_rests hrest)
    · exact updates_ruledTick hc hready (ruledTick_open hlive hfree hopen)
    · have htick := ruledTick_idle (ruledLive_of_idle hidle) hfree hshut hidle
      exact ⟨fun hnone => updates_ruledTick hc hready (htick.trans (takeFront_none hnone)),
        fun w hw hrel => updates_ruledTick hc hready (htick.trans (takeFront_waits hw hidle hrel)),
        fun w hw hrel => updates_ruledTick hc hready (htick.trans (takeFront_released hw hrel))⟩
    · refine ⟨nextTick s.blk c, nextTick_work, nextTick_after s.blk c,
        fun hw hskip o ho hctx => nextTick_skips hw hskip (mem_owedOf.mpr ⟨ho, hctx⟩), fun hw => ?_, fun harr => ?_, fun hmiss => ?_⟩
      · obtain ⟨o, ho, hdue⟩ := nextTick_reaches hw (owed_of_busy hlive hbusy hw)
        obtain ⟨hmem, hctx⟩ := mem_owedOf.mp ho
        exact ⟨o, hmem, hctx, hdue⟩
      · exact updates_ruledTick hc hready (ruledTick_opens hlive hfree hshut hbusy harr)
      · obtain ⟨o, ho, hctx, hdue, hno⟩ := hmiss
        have hwait : ¬ AllArrived s.blk c (nextTick s.blk c) := fun hall => Bool.false_ne_true (hno ▸ hall o ho hctx hdue)
        exact updates_ruledTick hc hready (ruledTick_waits hlive hfree hshut hbusy hwait)
  · intro items
    refine ⟨runTick_held n hlive, runTick_closes n hlive, fun hfree hsome => ?_⟩
    obtain ⟨p, hp, hleast, hx⟩ := leastItem_least items hsome
    exact ⟨p, hp, hleast, runTick_waits n hlive hfree hx, runTick_takes n hlive hfree hx⟩
  · intro v due
    refine ⟨fun hno => updates_frontStall hc hready (frontStall_rests hno), fun f hdue hf => ?_⟩
    refine updates_frontStall hc hready ⟨frontTag s.blk c f, fun hk => if_pos hk, fun hk p hp hctx hlive hrank honly => ?_,
      frontStall_faults hdue hf⟩
    refine frontTag_launch hk (mem_liveOf.mpr ⟨hp, hctx, hlive⟩) hrank fun q hq hqr => ?_
    obtain ⟨hq, hqctx, hqlive⟩ := mem_liveOf.mp hq
    exact honly q hq hqctx hqlive hqr

end Sys2Proof.Machine

/-! Proofs. Context slots (O57): CTX_CTL, the ends of opening, drain, close and lease, CTX_RENEW, and the fencing of peers. -/
namespace Sys2Proof.Machine

/-! ## Leases that start, and slots that become OPEN -/

section
variable {s t : Blk} {c : Nat} {v : CtxSlot}

/-- A lease that starts in a slot that has moved (R309). -/
theorem SlotMoves.lease (h : SlotMoves s t c v) :
    SlotMoves s (startLease t c) c { v with leaseEnd := leaseFrom t c } := by
  have hmoves := h.same { slotOf t c with leaseEnd := leaseFrom t c }
  rw [h.slot] at hmoves
  have heq : startLease t c = setSlot t c { v with leaseEnd := leaseFrom t c } := by
    rw [← h.slot]
    rfl
  rw [heq]
  exact hmoves

/-- A slot that has moved becomes OPEN (R243, R306). -/
theorem SlotMoves.opened (h : SlotMoves s t c v) (hwakes : openWakes t c = openWakes s c) :
    ∃ u, SlotMoves s u c { v with state := .opened } ∧ becomeOpen t c = push u (openWakes s c) :=
  ⟨_, h.st .opened, (becomeOpen_eq t c).trans (congrArg _ hwakes)⟩
end

/-! ## CTX_CTL (R306) -/

theorem regAct_ctxCtl (s : Blk) (v : Word) : regAct s 0x120008 v = ctlCtx s (rgf s rCtxSel 7 0) v :=
  regAct_ctx s v (by decide) (by decide) (by decide)

section
variable {c : Instr} {s : State} {v : Word} {a : Access} (hc : exec c s = busCmd 0x120008 v a s) (h : Served s.blk 0x120008 a)
include hc h

/-- CTX_CTL, where it is performed: its grant is counted (R297). -/
theorem writesFor_ctxCtl {P : Blk → Prop} {t : Blk} (hact : ctlCtx s.blk (rgf s.blk rCtxSel 7 0) v = some t) (ht : P t) :
    WritesFor c s (rgf s.blk rCtxSel 7 0) a.waiting P :=
  writesFor_bus hc h ((regAct_ctxCtl s.blk v).trans hact) ht (if_pos rfl)

theorem refuses_ctxCtl (hact : ctlCtx s.blk (rgf s.blk rCtxSel 7 0) v = none) : Refuses c s 0x120008 v a :=
  refuses_bus hc h ((regAct_ctxCtl s.blk v).trans hact) (.inl (by decide))
end

section
variable {s : Blk} {c : Nat}

theorem not_fenceable (h : ¬ Fenceable s c) : ¬ fenceable s c = true := fun hf => h ((fenceable_iff s c).mp hf)

/-- Only an OPEN, ORPHANED or FAULTED slot can be fenced (R306). -/
theorem not_fenceable_of {st : CtxState} (h : ctxSt s c = st) (hst : st ≠ .opened ∧ st ≠ .orphaned ∧ st ≠ .faulted) :
    ¬ Fenceable s c := by
  subst h
  exact fun hf => hf.elim hst.1 fun hf => hf.elim hst.2.1 hst.2.2

/-! ### OPEN -/

theorem ctlOpen_refused (h : rgf s rCfgLimits 8 0 ≤ c ∨ (ctxSt s c ≠ .free ∧ ctxSt s c ≠ .closing)) : ctlOpen s c = none := by
  unfold ctlOpen
  by_cases hlim : c ≥ rgf s rCfgLimits 8 0
  · exact if_pos hlim
  · obtain ⟨hfree, hclosing⟩ := h.resolve_left hlim
    rw [if_neg hlim]
    split
    next hst => exact absurd hst hfree
    next hst => exact absurd hst hclosing
    next => rfl

section
variable (hlim : c < rgf s rCfgLimits 8 0)
include hlim

theorem ctlOpen_free (h : ctxSt s c = .free) : ctlOpen s c = some (openWork s c) := by
  unfold ctlOpen
  rw [if_neg (Nat.not_le.mpr hlim), h]

theorem ctlOpen_closing (h : ctxSt s c = .closing) : ctlOpen s c = some (setCtxSt s c .pendingReuse) := by
  unfold ctlOpen
  rw [if_neg (Nat.not_le.mpr hlim), h]
end

/-! ### FENCE -/

theorem ctlFence_fences (h : Fenceable s c) : ctlFence s c = some (fenceUpdate s c .draining none) :=
  if_pos ((fenceable_iff s c).mpr h)

theorem ctlFence_fenced (h : ctxSt s c = .draining ∨ ctxSt s c = .quiesced) : ctlFence s c = some s := by
  have hno : ¬ Fenceable s c := h.elim (not_fenceable_of · (by decide)) (not_fenceable_of · (by decide))
  exact (if_neg (not_fenceable hno)).trans (if_pos (by simpa using h))

theorem ctlFence_refused (h : ¬ Fenceable s c) (hdr : ctxSt s c ≠ .draining) (hq : ctxSt s c ≠ .quiesced) : ctlFence s c = none :=
  (if_neg (not_fenceable h)).trans (if_neg (by simp [hdr, hq]))

/-! ### RESET -/

/-- A reset of the slot is pending (R319). -/
def resetPends (s : Blk) (c : Nat) : Blk := setSlot s c { slotOf s c with rpend := true }

theorem ctlReset_fences (h : Fenceable s c) :
    ctlReset s c = some (teardownSeqs (resetPends (fenceUpdate (ev s 0x136 c) c .draining none) c) c) :=
  if_pos ((fenceable_iff s c).mpr h)

theorem ctlReset_draining (h : ctxSt s c = .draining) : ctlReset s c = some (teardownSeqs (resetPends (ev s 0x136 c) c) c) := by
  refine (if_neg (not_fenceable (not_fenceable_of h (by decide)))).trans ?_
  rw [h]
  rfl

theorem ctlReset_quiesced (h : ctxSt s c = .quiesced) : ctlReset s c = some (openWork (genChange (teardownSeqs
    (ev (setSlot s c { slotOf s c with fenceAt := now s, forced := false }) 0x136 c) c) c) c) := by
  refine (if_neg (not_fenceable (not_fenceable_of h (by decide)))).trans ?_
  rw [h]

theorem ctlReset_refused (h : ¬ Fenceable s c) (hdr : ctxSt s c ≠ .draining) (hq : ctxSt s c ≠ .quiesced) : ctlReset s c = none := by
  refine (if_neg (not_fenceable h)).trans ?_
  split
  next hst => exact absurd hst hdr
  next hst => exact absurd hst hq
  next => rfl

/-! ### CLOSE -/

/-- The generation has changed, and no reset is pending any more (R320). -/
def genTurned (s : Blk) (c : Nat) : Blk := setSlot (genChange s c) c { slotOf (genChange s c) c with rpend := false }

theorem ctlClose_fences (h : Fenceable s c) :
    ctlClose s c = some (teardownSeqs (fenceUpdate (genTurned (ev s 0x137 c) c) c .closing none) c) :=
  if_pos ((fenceable_iff s c).mpr h)

theorem ctlClose_draining (h : ctxSt s c = .draining) : ctlClose s c = some (push
    (boardWrite (teardownSeqs (setCtxSt (genTurned (ev s 0x137 c) c) c .closing) c) c false) [.drainRelease c]) := by
  refine (if_neg (not_fenceable (not_fenceable_of h (by decide)))).trans ?_
  rw [h]
  rfl

theorem ctlClose_quiesced (h : ctxSt s c = .quiesced) : ctlClose s c = some (
    let x := setCtxSt (genTurned (ev s 0x137 c) c) c .closing
    boardWrite (teardownSeqs (setSlot x c { slotOf x c with fenceAt := now x, forced := false }) c) c false) := by
  refine (if_neg (not_fenceable (not_fenceable_of h (by decide)))).trans ?_
  rw [h]
  rfl

theorem ctlClose_pendingReuse (h : ctxSt s c = .pendingReuse) : ctlClose s c = some (setCtxSt s c .closing) := by
  refine (if_neg (not_fenceable (not_fenceable_of h (by decide)))).trans ?_
  rw [h]

theorem ctlClose_refused (h : ctxSt s c = .free ∨ ctxSt s c = .opening ∨ ctxSt s c = .closing) : ctlClose s c = none := by
  have hno : ¬ Fenceable s c := by
    rcases h with h | h | h <;> exact not_fenceable_of h (by decide)
  refine (if_neg (not_fenceable hno)).trans ?_
  rcases h with h | h | h <;> rw [h]

/-! ### RESUME (R325, R385) -/

theorem ctlResume_refused (h : ctxSt s c ≠ .faulted ∨ (isStrict s c = true ∧ (slotOf s c).code ≠ 0x10)) : ctlResume s c = none :=
  if_pos (by simpa using h)

section
variable (hst : ctxSt s c = .faulted) (hfree : isStrict s c = false ∨ (slotOf s c).code = 0x10)
include hst hfree

theorem ctlResume_eq : ctlResume s c =
    some (if (slotOf s c).replay = true then s else replayOn (setSlot s c { slotOf s c with replay := true }) c) := by
  unfold ctlResume
  rw [if_neg (by rcases hfree with h | h <;> simp [hst, h])]
  split <;> rfl

theorem ctlResume_replaying (h : (slotOf s c).replay = true) : ctlResume s c = some s := by
  rw [ctlResume_eq hst hfree, if_pos h]

/-- The oldest record of the slot that is still to be written goes out. -/
theorem ctlResume_replays {r : OvfRec} (h : (slotOf s c).replay = false)
    (hr : s.ctx.ovf.find? (fun r => r.ctx == c && !r.replaying) = some r) :
    ctlResume s c = some (memWrite (setSlot s c { slotOf s c with replay := true })
      ((rg2 s (sqReg r.q 0xc) (sqReg r.q 0x10) + 32 * r.slot) % 2 ^ 52) r.bytes 1 (some c) uCsq r.q (.cplReplay r.idx)) := by
  have hctx : r.ctx = c := by
    have hfound := List.find?_some hr
    simp only [Bool.and_eq_true, beq_iff_eq] at hfound
    exact hfound.1
  have hnext : nextReplay (setSlot s c { slotOf s c with replay := true }) c = some r := hr
  rw [ctlResume_eq hst hfree, if_neg (ne_true_of_eq_false h)]
  unfold replayOn
  rw [hnext]
  dsimp only
  unfold replayRec
  rw [hctx]
  rfl

/-- With no record left the slot becomes OPEN. -/
theorem ctlResume_opens (h : (slotOf s c).replay = false) (hovf : ∀ r ∈ s.ctx.ovf, r.ctx ≠ c) (hwait : s.ctx.ovfWait = []) :
    let v := slotOf s c
    ∃ u, SlotMoves (pushBack s ((Store.keys s.csq.queues).map Work.cplPump)) u c
        { v with state := .opened, replay := false, code := 0
                 leaseEnd := if v.leaseEnd.isNone then leaseFrom s c else v.leaseEnd } ∧
      ctlResume s c = some (push u (openWakes s c)) := by
  intro v
  obtain ⟨t, rfl, ht⟩ := replayOn_none (setSlot s c { v with replay := true }) c hovf hwait
  rw [ctlResume_eq hst hfree, if_neg (ne_true_of_eq_false h), ht, slotOf_setSlot_same]
  have hmoves := (slotMoves_set (pushBack s ((Store.keys s.csq.queues).map Work.cplPump)) c { v with replay := true }).same
    { v with replay := false, code := 0 }
  by_cases hlease : v.leaseEnd.isNone = true
  · obtain ⟨u, hu, hopen⟩ := hmoves.lease.opened rfl
    rw [if_pos hlease, if_pos hlease]
    exact ⟨u, hu, congrArg some hopen⟩
  · obtain ⟨u, hu, hopen⟩ := hmoves.opened rfl
    rw [if_neg hlease, if_neg hlease]
    exact ⟨u, hu, congrArg some hopen⟩
end
end

/-! ## The end of the opening work (R307) -/

section
variable {s : Blk} {c : Nat}

theorem seqsOf_isEmpty (s : Blk) (c : Nat) : (seqsOf s c).isEmpty = true ↔ ∀ p ∈ s.sqt.ents, p.2.ctx ≠ c := by
  simp [seqsOf]

theorem openingDone_opens (hst : ctxSt s c = .opening) (hboard : (slotOf s c).boardBusy = 0) (hseq : ∀ p ∈ s.sqt.ents, p.2.ctx ≠ c) :
    let v := slotOf s c
    ∃ u, SlotMoves s u c { v with state := .opened, token := newToken c v.gen (now s) v.token, leaseEnd := leaseFrom s c } ∧
      openingDone s c = push u (openWakes s c) := by
  intro v
  obtain ⟨u, hu, hopen⟩ := (slotMoves_set s c { v with token := newToken c v.gen (now s) v.token }).lease.opened rfl
  refine ⟨u, hu, (if_pos ?_).trans hopen⟩
  simpa [hst, hboard, and_assoc] using (seqsOf_isEmpty s c).mpr hseq

theorem openingDone_waits (h : ctxSt s c ≠ .opening ∨ (slotOf s c).boardBusy ≠ 0 ∨ ¬ ∀ p ∈ s.sqt.ents, p.2.ctx ≠ c) :
    openingDone s c = s := by
  rw [← seqsOf_isEmpty] at h
  exact if_neg (by simpa [or_assoc, imp_iff_not_or] using h)

/-! ## The end of a drain (R316, R319) -/

theorem leaveDraining_moves (s : Blk) (c : Nat) :
    let q := orBits s rCtxIrq 1
    ∃ u, leaveDraining s c = push u [.drainRelease c] ∧
      ((slotOf s c).rpend = false → SlotMoves q u c { slotOf s c with state := .quiesced }) ∧
      ((slotOf s c).rpend = true → Opens (genChange q c) u c) := by
  intro q
  refine ⟨_, rfl, fun hno => ?_, fun hpend => ?_⟩ <;> rw [orBits_slot]
  · rw [if_neg (ne_true_of_eq_false hno)]
    exact slotMoves_st q c .quiesced
  · rw [if_pos hpend]
    exact opens _ c

theorem drainComplete_leaves (hst : ctxSt s c = .draining) (h : Drained s c) : drainComplete s c = leaveDraining s c :=
  if_pos (by simp [hst, (drained_iff s c).mpr h])

theorem drainComplete_waits (h : ctxSt s c ≠ .draining ∨ ¬ Drained s c) : drainComplete s c = s := by
  rw [← drained_iff] at h
  exact if_neg (by simpa [imp_iff_not_or] using h)

/-! ## The release of a close (R320, R321) -/

theorem closeRelease_moves (s : Blk) (c : Nat) :
    let q := orBits s rCtxIrq 1
    let u := ovfDiscard (forEach (queuesOf q c) q (fun x i => wrf (disableQ x i) (sqReg i 0) 31 31 0)) c
    (ctxSt u c = .pendingReuse → Opens u (closeRelease s c) c) ∧
    (ctxSt u c ≠ .pendingReuse → SlotMoves u (closeRelease s c) c { slotOf u c with state := .free }) := by
  intro q u
  have heq : closeRelease s c = if (ctxSt u c == .pendingReuse) = true then openWork u c else setCtxSt u c .free := rfl
  rw [heq]
  refine ⟨fun hst => ?_, fun hst => ?_⟩
  · rw [if_pos (beq_iff_eq.mpr hst)]
    exact opens u c
  · rw [if_neg (hst ∘ beq_iff_eq.mp)]
    exact slotMoves_st u c .free

theorem closeReleaseDone_releases (hst : ctxSt s c = .closing ∨ ctxSt s c = .pendingReuse) (h : Drained s c) :
    closeReleaseDone s c = closeRelease s c :=
  if_pos (by simpa [(drained_iff s c).mpr h] using hst)

theorem closeReleaseDone_waits (h : ¬ (ctxSt s c = .closing ∨ ctxSt s c = .pendingReuse) ∨ ¬ Drained s c) :
    closeReleaseDone s c = s := by
  rw [← drained_iff] at h
  refine if_neg fun hgo => ?_
  simp only [Bool.and_eq_true, Bool.or_eq_true, beq_iff_eq] at hgo
  exact h.elim (· hgo.1) (· hgo.2)

/-! ## The bound of a drain (R316, R317) -/

/-- The bound of the slot's drain, or of its opening, has been reached (R316). -/
def QuiesceDue (s : Blk) (c : Nat) : Prop :=
  s.time.usable = true ∧ (slotOf s c).fenceAt + rgf s (bank rQuiesce c) 15 0 * 1000 ≤ now s

theorem quiesceDue_iff (s : Blk) (c : Nat) :
    (s.time.usable && decide (now s ≥ (slotOf s c).fenceAt + rgf s (bank rQuiesce c) 15 0 * 1000)) = true ↔ QuiesceDue s c := by
  simp [QuiesceDue]

theorem quiesceExpiry_opening (hst : ctxSt s c = .opening) (hdue : QuiesceDue s c) (hseq : ¬ ∀ p ∈ s.sqt.ents, p.2.ctx ≠ c) :
    quiesceExpiry s c = seqForce (ignoreMem s c MemOwner.ofSeq) c := by
  rw [← seqsOf_isEmpty] at hseq
  refine (if_pos (beq_iff_eq.mpr hst)).trans (if_pos ?_)
  rw [(quiesceDue_iff s c).mpr hdue, Bool.eq_false_iff.mpr hseq]
  rfl

/-- Nothing is forced before the bound, nor once the drain is complete, nor in a slot that neither opens nor drains (R214, R316). -/
theorem quiesceExpiry_rests (h : (ctxSt s c = .opening ∧ ∀ p ∈ s.sqt.ents, p.2.ctx ≠ c) ∨
    (ctxSt s c ≠ .opening ∧ ctxSt s c ≠ .draining ∧ ¬ (ctxSt s c = .closing ∨ ctxSt s c = .pendingReuse)) ∨
    ¬ QuiesceDue s c ∨ (ctxSt s c ≠ .opening ∧ Drained s c)) : quiesceExpiry s c = s := by
  rw [← seqsOf_isEmpty, ← drained_iff, ← quiesceDue_iff] at h
  unfold quiesceExpiry
  dsimp only
  generalize (s.time.usable && decide (now s ≥ (slotOf s c).fenceAt + rgf s (bank rQuiesce c) 15 0 * 1000)) = due at h ⊢
  by_cases hst : ctxSt s c = .opening
  · rw [if_pos (beq_iff_eq.mpr hst)]
    refine if_neg ?_
    cases due
    · exact Bool.false_ne_true
    · have hempty : (seqsOf s c).isEmpty = true := by simpa [hst] using h
      simp [hempty]
  · rw [if_neg (hst ∘ beq_iff_eq.mp)]
    refine if_pos ?_
    simp only [Bool.or_eq_true, Bool.not_eq_true', Bool.or_eq_false_iff, beq_eq_false_iff_ne]
    rcases h with ⟨hopen, -⟩ | ⟨-, hdr, htorn⟩ | hdue | ⟨-, hdrained⟩
    · exact absurd hopen hst
    · exact .inl (.inl ⟨⟨hdr, fun h => htorn (.inl h)⟩, fun h => htorn (.inr h)⟩)
    · exact .inl (.inr (Bool.eq_false_iff.mpr hdue))
    · exact .inr hdrained

/-- The guards of a forced quiesce (R316). -/
theorem quiesce_forced (hst : ctxSt s c = .draining ∨ ctxSt s c = .closing ∨ ctxSt s c = .pendingReuse) (hdue : QuiesceDue s c)
    (hno : ¬ Drained s c) :
    ¬ (ctxSt s c == .opening) = true ∧
    ¬ (!(ctxSt s c == .draining || ctxSt s c == .closing || ctxSt s c == .pendingReuse) ||
      !(s.time.usable && decide (now s ≥ (slotOf s c).fenceAt + rgf s (bank rQuiesce c) 15 0 * 1000)) || drained s c) = true := by
  rw [(quiesceDue_iff s c).mpr hdue, Bool.eq_false_iff.mpr (hno ∘ (drained_iff s c).mp)]
  rcases hst with hst | hst | hst <;> rw [hst] <;> decide

/-! ## The end of a lease (R309) -/

theorem leaseExpiry_orphans {e : Nat} (he : (slotOf s c).leaseEnd = some e) (hst : ctxSt s c = .opened) (ht : s.time.usable = true)
    (hdue : e ≤ now s) :
    ∃ u w x, SlotMoves s u c { slotOf s c with state := .orphaned, leaseEnd := none } ∧ OnlyReg u w rCtxIrq (rg u rCtxIrq ||| 2) ∧
      Observed w x ∧ Logged x (leaseExpiry s c) (16 + c) (faultEnt x uCtx 0x40 (some c) 0 false) := by
  refine ⟨_, _, _, (slotMoves_set s c { slotOf s c with leaseEnd := none }).st .orphaned, onlyReg_or _ rCtxIrq 2 (by decide),
    Observed.ev _ 0x138 c, ?_⟩
  unfold leaseExpiry
  rw [he]
  dsimp only
  rw [if_pos (by simp [hst, ht, hdue])]
  exact logged _ (ctxLog c) uCtx 0x40 (some c) 0 false

theorem leaseExpiry_rests (h : (slotOf s c).leaseEnd = none ∨ ctxSt s c ≠ .opened ∨ s.time.usable = false ∨
    ∃ e, (slotOf s c).leaseEnd = some e ∧ now s < e) : leaseExpiry s c = s := by
  unfold leaseExpiry
  split
  next => rfl
  next e he =>
    refine if_neg fun hdue => ?_
    simp only [Bool.and_eq_true, beq_iff_eq, decide_eq_true_eq] at hdue
    obtain ⟨⟨hst, ht⟩, hle⟩ := hdue
    rcases h with h | h | h | ⟨e', h, hlt⟩
    · exact Option.some_ne_none e (he.symm.trans h)
    · exact h hst
    · exact ne_true_of_eq_false h ht
    · obtain rfl := Option.some.inj (he.symm.trans h)
      exact Nat.not_lt.mpr hle hlt
end

/-! ## CTX_RENEW (R310) -/

section
variable {s : Blk} {v : Word}

theorem renew_one (hall : bitAt v 16 = false) (hst : ctxSt s (fld v 7 0) = .opened) (hgen : fld v 15 8 = ctxGen s (fld v 7 0)) :
    renew s v = some (startLease s (fld v 7 0)) :=
  (if_neg (ne_true_of_eq_false hall)).trans (if_pos (by simp [hst, hgen]))

theorem renew_one_refused (hall : bitAt v 16 = false) (h : ctxSt s (fld v 7 0) ≠ .opened ∨ fld v 15 8 ≠ ctxGen s (fld v 7 0)) :
    renew s v = none :=
  (if_neg (ne_true_of_eq_false hall)).trans (if_neg (by simpa [imp_iff_not_or] using h))

theorem renew_all (hall : bitAt v 16 = true) (hc : fld v 7 0 = 0) (hg : fld v 15 8 = 0) :
    renew s v = some (forEach ((Store.keys s.ctx.slots).filter (fun x => ctxSt s x == .opened)) s startLease) :=
  (if_pos hall).trans (if_neg (by simp [hc, hg]))

theorem renew_all_refused (hall : bitAt v 16 = true) (h : fld v 7 0 ≠ 0 ∨ fld v 15 8 ≠ 0) : renew s v = none :=
  (if_pos hall).trans (if_pos (by simpa using h))

/-- An OPEN slot is listed: one that is not is FREE. -/
theorem mem_keys_of_opened {d : Nat} (h : ctxSt s d = .opened) : d ∈ Store.keys s.ctx.slots := by
  by_contra hno
  have hfree : ctxSt s d = .free := by
    unfold ctxSt slotOf Store.getD
    rw [get?_none s.ctx.slots d hno]
    rfl
  exact CtxState.noConfusion (hfree.symm.trans h)

/-- A renewal of all starts the lease of every OPEN slot, and of no other (R310). -/
theorem renewAll_slots (s : Blk) (d : Nat) :
    slotOf (forEach ((Store.keys s.ctx.slots).filter (fun x => ctxSt s x == .opened)) s startLease) d =
      if ctxSt s d = .opened then { slotOf s d with leaseEnd := leaseFrom s d } else slotOf s d := by
  rw [(renewAll _ s).2 d]
  have hiff : d ∈ (Store.keys s.ctx.slots).filter (fun x => ctxSt s x == .opened) ↔ ctxSt s d = .opened := by
    simpa using mem_keys_of_opened (s := s) (d := d)
  simp only [hiff]

end

/-! ## CTX_PEER_ENT (R326 to R328) -/

/-- PEER_FENCE writes its entry with FENCED 1, and with the bits that an entry has. -/
theorem fenced_word (v : Word) : (v ||| 0x80000000#32) &&& 0xc01fffff#32 = (v &&& 0x401fffff#32) ||| 0x80000000#32 := by
  ext i hi
  simp only [BitVec.getElem_and, BitVec.getElem_or]
  interval_cases i <;> simp

theorem unfenced_word (v : Word) : (v &&& 0x7fffffff#32) &&& 0xc01fffff#32 = v &&& 0x401fffff#32 := BitVec.and_assoc v _ _

theorem regAct_peerEnt (s : Blk) (w : Word) : regAct s rPeerEnt w = some (peerWrite s (rgf s rPeerSel 7 0) w) :=
  regAct_ctx s w (by decide) (by decide) (by decide)

theorem unfenced_bit (v : Word) : bitAt (v &&& 0x401fffff#32) 31 = false := by
  unfold bitAt
  simp

/-- An entry of PEER_STATE is a register word. -/
theorem onlyReg_word (s : Blk) (k : Nat) (w : Word) : OnlyReg s (wr s k w.toNat) k w.toNat := by
  have h := onlyReg_wr s k w.toNat
  rwa [Nat.mod_eq_of_lt w.isLt] at h

/-- An entry that does not newly fence is stored, and that is all (R326). -/
theorem peerWrite_stores {s : Blk} {i : Nat} {w e : Word} (he : w &&& 0xc01fffff#32 = e)
    (h : bitAt e 31 = false ∨ rgw s (bank rPeerEnt i) = e) : peerWrite s i w = wr s (bank rPeerEnt i) e.toNat := by
  subst he
  exact if_pos (by rcases h with h | h <;> simp [h])

/-! ## O57 -/

/-- A command that time or the end of work brings to a context, behind the gate of the Context Manager. -/
theorem updates_slot {i : Instr} {s : State} {c : Nat} {f : Blk → Nat → Blk} {P : Blk → Prop} (hc : c < 256)
    (hready : fnReady s.blk 12 = true) (hexec : exec i s = act (ready s 12) (fun b => f b (c % 256)) s) (hp : P (f s.blk c)) :
    Updates i s P :=
  updates_act hexec hready (by rw [Nat.mod_eq_of_lt hc]; exact hp)

/-- Settles O57: CTX_CTL by the branch of each operation that the slot's state takes, what time and the end of work bring by their guards
(`drained_iff`, `quiesceDue_iff`), CTX_RENEW slot by slot (`renewAll_slots`), and a peer by whether its entry is newly fenced. The model's
choices (log entry 26) are OPEN refused at CTX_LIMIT, CLOSE and RESET of a QUIESCED context that restart the bound, OPENING that waits for
the sequences, QUIESCED of CTX_IRQ set at the release of a close, the lease that starts again at RESUME, and the rewrite of a peer's entry
with the same value, which fences nothing. -/
theorem contextsOpenDrainAndClose : Obligations.ContextsOpenDrainAndClose := by
  refine ⟨fun a s h => ?_, fun c s hc hready => ?_, fun v a s h => ?_, fun v a s h => ?_⟩
  · intro c v st On Moves Pend Turned
    have onOpen := fun P t => writesFor_ctxCtl (P := P) (t := t) (exec_ctxOpen a s) h
    have onFence := fun P t => writesFor_ctxCtl (P := P) (t := t) (exec_ctxFence a s) h
    have onReset := fun P t => writesFor_ctxCtl (P := P) (t := t) (exec_ctxReset a s) h
    have onClose := fun P t => writesFor_ctxCtl (P := P) (t := t) (exec_ctxClose a s) h
    have onResume := fun P t => writesFor_ctxCtl (P := P) (t := t) (exec_ctxResume a s) h
    refine ⟨fun hno => ?_, fun hlim hst => ?_, fun hlim hst => ?_, fun hf => ?_, fun hst => ?_, fun hf hdr hq => ?_,
      fun hf => ?_, fun hst => ?_, fun hst => ?_, fun hf hdr hq => ?_, fun hf => ?_, fun hst => ?_, fun hst => ?_, fun hst => ?_,
      fun hst => ?_, fun hno => ?_, fun hst hfree => ⟨fun hrep => ?_, fun r hrep hr => ?_, fun hrep hovf hwait => ?_⟩⟩
    · exact refuses_ctxCtl (exec_ctxOpen a s) h (ctlOpen_refused hno)
    · exact onOpen _ _ (ctlOpen_free hlim hst) (opens s.blk c)
    · exact onOpen _ _ (ctlOpen_closing hlim hst) (slotMoves_st s.blk c .pendingReuse)
    · exact onFence _ _ (ctlFence_fences hf) rfl
    · exact onFence _ _ (ctlFence_fenced hst) rfl
    · exact refuses_ctxCtl (exec_ctxFence a s) h (ctlFence_refused hf hdr hq)
    · exact onReset _ _ (ctlReset_fences hf) ⟨_, Observed.ev s.blk 0x136 c, rfl⟩
    · exact onReset _ _ (ctlReset_draining hst) ⟨_, Observed.ev s.blk 0x136 c, rfl⟩
    · exact onReset _ _ (ctlReset_quiesced hst) ⟨_, Observed.ev _ 0x136 c, opens _ c⟩
    · exact refuses_ctxCtl (exec_ctxReset a s) h (ctlReset_refused hf hdr hq)
    · exact onClose _ _ (ctlClose_fences hf) ⟨_, Observed.ev s.blk 0x137 c, rfl⟩
    · exact onClose _ _ (ctlClose_draining hst)
        ⟨_, _, _, Observed.ev s.blk 0x137 c, slotMoves_st _ c .closing, boardAsked _ c false, rfl⟩
    · exact onClose _ _ (ctlClose_quiesced hst) ⟨_, _, Observed.ev s.blk 0x137 c, slotMoves_st _ c .closing, boardAsked _ c false⟩
    · exact onClose _ _ (ctlClose_pendingReuse hst) (slotMoves_st s.blk c .closing)
    · exact refuses_ctxCtl (exec_ctxClose a s) h (ctlClose_refused hst)
    · exact refuses_ctxCtl (exec_ctxResume a s) h (ctlResume_refused hno)
    · exact onResume _ _ (ctlResume_replaying hst hfree hrep) rfl
    · exact onResume _ _ (ctlResume_replays hst hfree hrep hr) rfl
    · obtain ⟨u, hu, hopen⟩ := ctlResume_opens hst hfree hrep hovf hwait
      exact onResume _ _ hopen ⟨u, hu, rfl⟩
  · intro v st torn settled Still
    have onOpening := fun P => updates_slot (P := P) hc hready (exec_openingDone c s)
    have onDrain := fun P => updates_slot (P := P) hc hready (exec_drainComplete c s)
    have onRelease := fun P => updates_slot (P := P) hc hready (exec_closeReleaseDone c s)
    have onBound := fun P => updates_slot (P := P) hc hready (exec_quiesceExpiry c s)
    have onLease := fun P => updates_slot (P := P) hc hready (exec_leaseExpiry c s)
    refine ⟨fun hst hboard hseq => ?_, fun hno => ?_, fun hst hd => ?_, fun hno => ?_, fun hst hd => ?_, fun hno => ?_,
      ⟨fun hst hdue hseq => ?_, fun hno => ?_, fun hst hdue hd => ?_⟩, fun e he hst ht hdue => ?_, fun hno => ?_⟩
    · exact onOpening _ (openingDone_opens hst hboard hseq)
    · exact onOpening _ (openingDone_waits hno)
    · refine onDrain _ ?_
      rw [drainComplete_leaves hst hd]
      exact leaveDraining_moves s.blk c
    · exact onDrain _ (drainComplete_waits hno)
    · refine onRelease _ ?_
      rw [closeReleaseDone_releases hst hd]
      exact closeRelease_moves s.blk c
    · exact onRelease _ (closeReleaseDone_waits hno)
    · exact onBound _ (quiesceExpiry_opening hst hdue hseq)
    · exact onBound _ (quiesceExpiry_rests hno)
    · obtain ⟨hopen, hgo⟩ := quiesce_forced hst hdue hd
      refine onBound _ ⟨_, _, _, _, _, _, _, _, rfl, rfl, counted_bump _ rForced, Observed.ev _ 0x13b c, rfl, ?_⟩
      refine ((if_neg hopen).trans (if_neg hgo)).trans ?_
      simp only [beq_iff_eq]
      rfl
    · exact onLease _ (leaseExpiry_orphans he hst ht hdue)
    · exact onLease _ (leaseExpiry_rests hno)
  · intro c fresh Lease
    have hact := regAct_ctx s.blk (off := 0x120100) v (by decide) (by decide) (by decide)
    refine ⟨fun hall hst hgen => ?_, fun hall hc hg => ?_, fun hall hno => ?_, fun hall hno => ?_⟩
    · refine writes_bus (exec_ctxRenew v a s) h (hact.trans (renew_one hall hst hgen)) ⟨startLease_rest s.blk c, ?_, fun d hd => ?_⟩
      · rw [startLease_slot, if_pos rfl]
      · rw [startLease_slot, if_neg hd]
    · exact writes_bus (exec_ctxRenew v a s) h (hact.trans (renew_all hall hc hg)) ⟨(renewAll _ s.blk).1, renewAll_slots s.blk⟩
    · exact refuses_bus (exec_ctxRenew v a s) h (hact.trans (renew_one_refused hall hno)) (.inl (by decide))
    · exact refuses_bus (exec_ctxRenew v a s) h (hact.trans (renew_all_refused hall hno)) (.inl (by decide))
  · intro k w
    refine ⟨?_, fun hsame => ?_, fun hnew => ?_⟩
    · refine writes_bus (exec_peerUnfence v a s) h (regAct_peerEnt s.blk _) ?_
      rw [peerWrite_stores (unfenced_word v) (.inl (unfenced_bit v))]
      exact onlyReg_word s.blk k _
    · refine writes_bus (exec_peerFence v a s) h (regAct_peerEnt s.blk _) ?_
      rw [peerWrite_stores (fenced_word v) (.inr hsame)]
      exact onlyReg_word s.blk k w
    · refine writes_bus (exec_peerFence v a s) h (regAct_peerEnt s.blk _)
        ⟨_, _, _, _, onlyReg_word s.blk k w, ⟨rfl, rfl⟩, Observed.ev0 _ 0x13e, ?_⟩
      have hgo : ¬ (!bitAt w 31 || decide (w = rgw s.blk k)) = true := by simp [w, or_top, Ne.symm hnew]
      unfold peerWrite
      dsimp only
      rw [fenced_word v]
      exact if_neg hgo

end Sys2Proof.Machine

/-! Proofs. Counters, triggers and trace buffers (O59): the writes of Observation, what a trigger leaves in the buffers, and the lines that
the drain offers. -/
namespace Sys2Proof.Machine

/-! ## Writes to Observation (R366 to R368) -/

theorem w1cTable_obs : ∀ p ∈ w1cTable, p.1 < 0x140000 ∨ p.1 = rObsIrq ∨ 0x150000 ≤ p.1 := by decide

/-- Observation takes the writes at its own offsets, but for the status bits of OBS_IRQ (R420). -/
theorem regAct_obs (s : Blk) {off : Nat} (v : Word) (hlo : 0x140000 ≤ off) (hhi : off < 0x150000) (hirq : off ≠ rObsIrq) :
    regAct s off v = actObs s off v := by
  have hstat : ∀ p ∈ w1cTable, p.1 ≠ off := fun p hp => by
    rcases w1cTable_obs p hp with h | h | h <;> omega
  obtain ⟨-, -, -, -, -, -, -, hobs, -⟩ := regAct_units s v (w1c_none hstat)
  exact hobs (by omega) hhi

/-- The registers of a counter (R366). -/
theorem regAct_counter (s : Blk) {n o : Nat} (v : Word) (hn : n < 64) (ho : o < 0x20) : regAct s (cntReg n + o) v =
    if o = 0 then cntWrite s n v else some (if (o == 0x14 && bitAt v 0) = true then cntClear s n else s) := by
  have hoff := cntReg_eq n
  have hirq : rObsIrq = 0x140928 := rfl
  have hbase : rCnt = 0x140000 := rfl
  have hmod : (cntReg n + o) % 0x20 = o := by omega
  have hdiv : (cntReg n + o - rCnt) / 0x20 = n := by omega
  rw [regAct_obs s v (by omega) (by omega) (by omega)]
  unfold actObs
  rw [if_pos (by omega)]
  simp only [hmod, hdiv]
  rfl

/-- The registers of a trace buffer (R368). -/
theorem regAct_buf (s : Blk) {b o : Nat} (v : Word) (hb : b < 4) (ho : o < 0x40) :
    regAct s (bufReg b o) v = actBuf s b (bufReg b o) v := by
  have hoff := bufReg_eq b o
  have hbase : rBuf = 0x140a00 := rfl
  have hcnt : rCnt = 0x140000 := rfl
  have hirq : rObsIrq = 0x140928 := rfl
  have hdiv : (bufReg b o - rBuf) / 0x40 = b := by omega
  rw [regAct_obs s v (by omega) (by omega) (by omega)]
  unfold actObs
  rw [if_neg (by omega), if_pos (by simp; omega)]
  simp only [hdiv]

theorem bufReg_mod (b : Nat) {o : Nat} (ho : o < 0x40) : bufReg b o % 0x40 = o := by
  rw [bufReg_eq]
  omega

theorem regAct_bufCfg (s : Blk) {b : Nat} (v : Word) (hb : b < 4) : regAct s (bufReg b 0) v = bufWrite s b v := by
  rw [regAct_buf s v hb (by decide)]
  unfold actBuf
  rw [bufReg_mod b (by decide)]
  rfl

theorem regAct_bufCtl (s : Blk) {b : Nat} (hb : b < 4) : regAct s (bufReg b 4) 1 = some (armBuf s b) := by
  rw [regAct_buf s 1 hb (by decide)]
  unfold actBuf
  rw [bufReg_mod b (by decide)]
  rfl

theorem regAct_bufFault (s : Blk) {b : Nat} (hb : b < 4) :
    regAct s (bufReg b 8) 0x20000000#32 = some (setBuf s b { bufOf s b with fault := false }) := by
  rw [regAct_buf s _ hb (by decide)]
  unfold actBuf
  rw [bufReg_mod b (by decide)]
  rfl

theorem regAct_lcfg (s : Blk) (v : Word) : regAct s rLcfg v = lcfgWrite s (rgf s rObsCtxSel 7 0) v := by
  rw [regAct_obs s v (by decide) (by decide) (by decide)]
  rfl

theorem regAct_fire (s : Blk) : regAct s 0x140918 1 = some (trigger s 0 0) := by
  rw [regAct_obs s 1 (by decide) (by decide) (by decide)]
  rfl

section
variable {c : Instr} {s : State} {b n o : Nat} {v : Word} {a : Access} {P : Blk → Prop} {t : Blk}

/-- A write to a register of a counter, as a command. -/
theorem writes_counter (hn : n < 64) (ho : o < 0x20) (hc : exec c s = busCmd (cntReg (n % 64) + o) v a s)
    (h : Served s.blk (cntReg n + o) a) (hact : regAct s.blk (cntReg n + o) v = some t) (hp : P t) : Writes c s P := by
  have hoff := cntReg_eq n
  rw [Nat.mod_eq_of_lt hn] at hc
  exact writes_bus hc h hact hp

theorem refuses_counter (hn : n < 64) (hc : exec c s = busCmd (cntReg (n % 64)) v a s) (h : Served s.blk (cntReg n) a)
    (hact : regAct s.blk (cntReg n) v = none) : Refuses c s (cntReg n) v a := by
  have hoff := cntReg_eq n
  rw [Nat.mod_eq_of_lt hn] at hc
  exact refuses_bus hc h hact (.inl (show cntReg n < 0x200000 by omega))

/-- A write to a register of a trace buffer, as a command. -/
theorem writes_buf (hb : b < 4) (ho : o < 0x40) (hc : exec c s = busCmd (bufReg (b % 4) o) v a s)
    (h : Served s.blk (bufReg b o) a) (hact : regAct s.blk (bufReg b o) v = some t) (hp : P t) : Writes c s P := by
  have hoff := bufReg_eq b o
  rw [Nat.mod_eq_of_lt hb] at hc
  exact writes_bus hc h hact hp

theorem refuses_buf (hb : b < 4) (ho : o < 0x40) (hc : exec c s = busCmd (bufReg (b % 4) o) v a s)
    (h : Served s.blk (bufReg b o) a) (hact : regAct s.blk (bufReg b o) v = none) : Refuses c s (bufReg b o) v a := by
  have hoff := bufReg_eq b o
  rw [Nat.mod_eq_of_lt hb] at hc
  exact refuses_bus hc h hact (.inl (show bufReg b o < 0x200000 by omega))
end

/-! ## Counters (R338, R339, R366) -/

section
variable {s : Blk} {n : Nat} {v : Word}

/-- A source that does not exist is refused, and for a context counter one that concerns no context (R339). -/
theorem cntWrite_refused (h : 0x150 ≤ fld v 24 16 ∨ (n < 48 ∧ srcNone (fld v 24 16) = true)) : cntWrite s n v = none := by
  unfold cntWrite
  exact if_pos (by simpa using h)

/-- Any other source is stored; where the source or the context changes, the counter starts anew (R338). -/
theorem cntWrite_stores (h : ¬ (0x150 ≤ fld v 24 16 ∨ (n < 48 ∧ srcNone (fld v 24 16) = true))) :
    let k := cntReg n
    let x := Store.getD s.obs.cnt n {}
    let moved := fld v 24 16 ≠ rgf s k 24 16 ∨ fld v 7 0 ≠ rgf s k 7 0
    ∃ u y, OnlyReg s u k (written (rg s k) (if n < 48 then 0xa1ff00ff else 0xe1ff00ff) v) ∧
      (moved → y = {}) ∧ (¬ moved → y = { x with ovf := x.ovf && !bitAt v 28 }) ∧
      cntWrite s n v = some { u with obs := { s.obs with cnt := Store.put {} s.obs.cnt n y } } := by
  intro k x moved
  have hmask : (if n < 48 then 0xa1ff00ff else 0xe1ff00ff) < 2 ^ 32 := by split <;> decide
  refine ⟨_, if moved then {} else { x with ovf := x.ovf && !bitAt v 28 }, storeAt_only s k _ v hmask, fun h => if_pos h, fun h => if_neg h, ?_⟩
  unfold cntWrite
  rw [if_neg (by simpa using h)]
  simp only [moved, Bool.or_eq_true, decide_eq_true_eq]
  rfl
end

/-! ## Trace buffers and latch rings (R346, R351, R354, R356) -/

section
variable {s : Blk} {b : Nat}

/-- What ARM and EN leave in a buffer: it is ARMED and empty (R351, R354). -/
def armed (x : TBuf) : TBuf := { x with state := .armed, recs := [], postLeft := 0, lossRun := none }

/-- A buffer holds nothing (R354). -/
abbrev TBuf.Empty (x : TBuf) : Prop := x.recs = [] ∧ x.lossRun = none ∧ x.lines = []

/-- ARM is accepted with DRAIN 0, or once the buffer has been drained empty (R354). -/
theorem armBuf_eq (s : Blk) (b : Nat) : armBuf s b =
    if (bufOf s b).state = .off ∨ (rgb s (bufReg b 0) 30 = true ∧ ¬ (bufOf s b).Empty) then s else setBuf s b (armed (bufOf s b)) := by
  have hempty : ((bufOf s b).recs.isEmpty && (bufOf s b).lossRun.isNone && (bufOf s b).lines.isEmpty) = true ↔ (bufOf s b).Empty := by
    simp [and_assoc]
  unfold armBuf bufDrain
  simp only [Bool.or_eq_true, Bool.and_eq_true, decide_eq_true_eq, Bool.not_eq_true', ← Bool.not_eq_true, hempty]
  rfl

theorem armBuf_rests (h : (bufOf s b).state = .off ∨ (rgb s (bufReg b 0) 30 = true ∧ ¬ (bufOf s b).Empty)) : armBuf s b = s :=
  (armBuf_eq s b).trans (if_pos h)

theorem armBuf_arms (hon : (bufOf s b).state ≠ .off) (h : rgb s (bufReg b 0) 30 = false ∨ (bufOf s b).Empty) :
    armBuf s b = setBuf s b (armed (bufOf s b)) := by
  refine (armBuf_eq s b).trans (if_neg ?_)
  rintro (hoff | ⟨hdrain, hfull⟩)
  · exact hon hoff
  · exact h.elim (ne_false_of_eq_true hdrain) hfull

variable {v : Word}

/-- A size out of range is refused, and so is another size than the present one while the buffer drains (R351). -/
theorem bufWrite_refused (h : fld v 4 0 < 12 ∨ 30 < fld v 4 0 ∨
    (rgb s (bufReg b 0) 30 = true ∧ fld v 4 0 ≠ rgf s (bufReg b 0) 4 0)) : bufWrite s b v = none := by
  have hno : (inRange 12 30 (fld v 4 0) && !(bufDrain s b && decide (fld v 4 0 ≠ rgf s (bufReg b 0) 4 0))) = false := by
    unfold inRange bufDrain
    rcases h with h | h | ⟨hdrain, hne⟩
    · simp [Nat.not_le.mpr h]
    · simp [Nat.not_le.mpr h]
    · simp [hdrain, hne]
  unfold bufWrite
  dsimp only
  rw [hno]
  rfl

/-- EN 1 stores, and enables a buffer that was not enabled (R351). -/
theorem bufWrite_enables (hen : bitAt v 31 = true) (h : ¬ (fld v 4 0 < 12 ∨ 30 < fld v 4 0 ∨
    (rgb s (bufReg b 0) 30 = true ∧ fld v 4 0 ≠ rgf s (bufReg b 0) 4 0))) : bufWrite s b v =
    some (if rgb s (bufReg b 0) 31 = true then storeAt s (bufReg b 0) 0xe000001f v
      else setBuf (storeAt s (bufReg b 0) 0xe000001f v) b (armed (bufOf s b))) := by
  obtain ⟨hlo, hhi, hsame⟩ := by simpa only [not_or] using h
  have hok : (inRange 12 30 (fld v 4 0) && !(bufDrain s b && decide (fld v 4 0 ≠ rgf s (bufReg b 0) 4 0))) = true := by
    unfold inRange bufDrain
    simpa [Nat.not_lt.mp hlo, Nat.not_lt.mp hhi, ← Bool.not_eq_true, ← imp_iff_not_or] using hsame
  unfold bufWrite
  dsimp only
  rw [hok]
  cases hwas : rgb s (bufReg b 0) 31 <;> simp only [hen] <;> rfl
end

section
variable {s : Blk} {c : Nat} {v : Word}

/-- A register word that is written twice differs as the last write says. -/
theorem OnlyReg.trans {s t u : Blk} {k x y : Nat} (h : OnlyReg s t k x) (h' : OnlyReg t u k y) : OnlyReg s u k y where
  rest := by rw [h'.rest, h.rest]
  value := h'.value
  others j hj := (h'.others j hj).trans (h.others j hj)

theorem lcfgWrite_refused (h : fld v 3 0 < 2 ∨ 12 < fld v 3 0) : lcfgWrite s c v = none := by
  have hno : inRange 2 12 (fld v 3 0) = false := decide_eq_false (by omega)
  unfold lcfgWrite
  dsimp only
  rw [hno]
  rfl

/-- What a write of OBS_CTX_LCFG that is accepted leaves in its word: FAULT falls where it is written as 1 (R346). -/
def lcfgStored (s : Blk) (c : Nat) (v : Word) : Blk :=
  if bitAt v 30 = true then clrBits (storeAt s (bank rLcfg c) 0x8000000f v) (bank rLcfg c) (2 ^ 30)
  else storeAt s (bank rLcfg c) 0x8000000f v

theorem lcfgStored_only (s : Blk) (c : Nat) (v : Word) : OnlyReg s (lcfgStored s c v) (bank rLcfg c)
    (if bitAt v 30 = true then written (rg s (bank rLcfg c)) 0x8000000f v &&& (0xffffffff - 2 ^ 30)
      else written (rg s (bank rLcfg c)) 0x8000000f v) := by
  have hstored := storeAt_only s (bank rLcfg c) 0x8000000f v (by decide)
  unfold lcfgStored
  split
  · have hcleared := onlyReg_clr (storeAt s (bank rLcfg c) 0x8000000f v) (bank rLcfg c) (2 ^ 30) (by decide)
    rw [hstored.value] at hcleared
    exact hstored.trans hcleared
  · exact hstored

/-- A latch ring whose head and tail are 0 (R346, R367). -/
def ringStarted (s : Blk) (c : Nat) : Blk :=
  wr { s with obs := { s.obs with ltail := Store.erase s.obs.ltail c } } (pageReg c 0x814) 0

/-- EN that rises starts the ring (R346, R367). -/
theorem lcfgWrite_accepted (hlo : 2 ≤ fld v 3 0) (hhi : fld v 3 0 ≤ 12) : lcfgWrite s c v =
    some (if bitAt v 31 = true ∧ rgb s (bank rLcfg c) 31 = false then ringStarted (lcfgStored s c v) c else lcfgStored s c v) := by
  have hok : inRange 2 12 (fld v 3 0) = true := decide_eq_true ⟨hlo, hhi⟩
  unfold lcfgWrite
  dsimp only
  rw [hok]
  simp only [Bool.and_eq_true, Bool.not_eq_true']
  rfl
end

/-- A clear of FAULT is written with the other fields as they are. -/
theorem lcfgClear_fields (s : Blk) :
    let k := bank rLcfg (rgf s rObsCtxSel 7 0)
    fld (lcfgClear s) 3 0 = rgf s k 3 0 ∧ bitAt (lcfgClear s) 30 = true ∧ bitAt (lcfgClear s) 31 = rgb s k 31 := lcfg_word _ (rg_lt s _)

theorem lcfgClear_stored (s : Blk) :
    let k := bank rLcfg (rgf s rObsCtxSel 7 0)
    OnlyReg s (lcfgStored s (rgf s rObsCtxSel 7 0) (lcfgClear s)) k (rg s k &&& (0xffffffff - 2 ^ 30)) := by
  intro k
  have hsame : written (rg s k) 0x8000000f (lcfgClear s) = rg s k := lcfg_again _ (rg_lt s _)
  have hstored := lcfgStored_only s (rgf s rObsCtxSel 7 0) (lcfgClear s)
  rwa [if_pos (lcfgClear_fields s).2.1, hsame] at hstored

/-! ## Triggers (R353) -/

/-- A trigger has been counted, and nothing else has been done yet. -/
def triggerCounted (s : Blk) : Blk := evRaw (bump s rTrigCount) 0x14a none 1

theorem rg_triggerCounted (s : Blk) : rg (triggerCounted s) rTrigCount = (rg s rTrigCount + 1) % 2 ^ 32 := (counted_bump s rTrigCount).value

theorem rg_triggerCounted_other (s : Blk) {k : Nat} (h : k ≠ rTrigCount) : rg (triggerCounted s) k = rg s k :=
  (counted_bump s rTrigCount).others k h

theorem bufOf_triggerCounted (s : Blk) (b : Nat) : bufOf (triggerCounted s) b = bufOf s b := rfl

theorem rgb_buf_triggerCounted (s : Blk) (b i : Nat) : rgb (triggerCounted s) (bufReg b 0) i = rgb s (bufReg b 0) i := by
  have hne : bufReg b 0 ≠ rTrigCount := by
    have hoff := bufReg_eq b 0
    have hcount : rTrigCount = 0x14091c := rfl
    omega
  unfold rgb rgw
  rw [rg_triggerCounted_other s hne]

theorem trigBufs_triggerCounted (s : Blk) : trigBufs (triggerCounted s) = trigBufs s :=
  List.filter_congr fun b _ => by rw [bufOf_triggerCounted, rgb_buf_triggerCounted]

/-- The buffers that a trigger acts on: ARMED with TRIGEN. -/
theorem mem_trigBufs (s : Blk) (b : Nat) :
    b ∈ trigBufs s ↔ b < 4 ∧ (bufOf s b).state = .armed ∧ rgb s (bufReg b 0) 29 = true := by
  unfold trigBufs
  simp

theorem trigBufs_nodup (s : Blk) : (trigBufs s).Nodup := List.nodup_range.filter _

/-- The record of a trigger by command (R349, R353). -/
def trigWord (s : Blk) : Word256 :=
  BitVec.ofNat 256 (put (now s) 63 0 + put 0x10 71 64 + put (b2n (!s.time.usable)) 82 82)

/-- Every buffer that the trigger acts on has taken its record. -/
def bufsTriggered (s : Blk) : Blk := forEach (trigBufs s) (triggerCounted s) (fun t b => trigBuf t b (trigWord s))

theorem trigWord_eq (s : Blk) : mkRec (triggerCounted s) 0x10 none (put 0 127 124 + put 0 123 116) = trigWord s := trigRec _

theorem triggerCounted_eq (s : Blk) : evRaw (bump s rTrigCount) 0x14a none 1 = triggerCounted s := rfl

theorem trigOne_idle {s : Blk} (h : trigBufs s = []) : trigOne s 0 0 = triggerCounted s := by
  unfold trigOne
  dsimp only
  rw [triggerCounted_eq, trigBufs_triggerCounted, h]

theorem trigOne_acts {s : Blk} (h : trigBufs s ≠ []) : trigOne s 0 0 = blotAutoRaw (orBits (bufsTriggered s) rObsIrq 1) 2 5 0 0 := by
  unfold trigOne bufsTriggered
  dsimp only
  rw [triggerCounted_eq, trigBufs_triggerCounted, trigWord_eq]
  cases hb : trigBufs s with
  | nil => exact absurd hb h
  | cons b r => rfl

theorem bufsTriggered_eq (s : Blk) :
    (∀ d, bufOf (bufsTriggered s) d =
      if d ∈ trigBufs s then triggered (bufOf s d) (bufDrain s d) (trigWord s) else bufOf s d) ∧
    ∀ k, (∀ b, b < 4 → k ≠ bufReg b 0x1c) → rg (bufsTriggered s) k = rg (triggerCounted s) k := by
  obtain ⟨hbuf, hreg⟩ := trigBufs_all (trigWord s) (trigBufs s) (trigBufs_nodup s) (fun b hb => ((mem_trigBufs s b).mp hb).1)
    (triggerCounted s)
  refine ⟨fun d => (hbuf d).trans ?_, hreg⟩
  rw [bufOf_triggerCounted, show bufDrain (triggerCounted s) d = bufDrain s d from rgb_buf_triggerCounted s d 30]

/-- A trigger leaves each buffer that it does not act on as it was, and the others as R353 says. -/
theorem trigOne_buf (s : Blk) (d : Nat) : bufOf (trigOne s 0 0) d =
    if d ∈ trigBufs s then triggered (bufOf s d) (bufDrain s d) (trigWord s) else bufOf s d := by
  by_cases h : trigBufs s = []
  · rw [trigOne_idle h, h, if_neg (by simp), bufOf_triggerCounted]
  · rw [trigOne_acts h, bufOf_obs (blotAutoRaw_bufs _ _ _ _ _).1]
    exact (bufsTriggered_eq s).1 d

/-- The registers that a trigger may change besides its count. -/
theorem trigOne_rg (s : Blk) {k : Nat} (hk : ∀ b, b < 4 → k ≠ bufReg b 0x1c) (hirq : k ≠ rObsIrq) (hdrop : k ≠ rDbgDrop)
    (hdbg : k ≠ rDbgIrq) : rg (trigOne s 0 0) k = rg (triggerCounted s) k := by
  by_cases h : trigBufs s = []
  · rw [trigOne_idle h]
  · rw [trigOne_acts h, (blotAutoRaw_bufs _ _ _ _ _).2 k hdrop hdbg, (onlyReg_or _ rObsIrq 1 (by decide)).others k hirq]
    exact (bufsTriggered_eq s).2 k hk

theorem trigOne_count (s : Blk) : rg (trigOne s 0 0) rTrigCount = (rg s rTrigCount + 1) % 2 ^ 32 := by
  have hbuf : ∀ b, b < 4 → rTrigCount ≠ bufReg b 0x1c := fun b _ => by
    have hoff := bufReg_eq b 0x1c
    have hcount : rTrigCount = 0x14091c := rfl
    omega
  rw [trigOne_rg s hbuf (by decide) (by decide) (by decide), rg_triggerCounted]

/-- A trigger that acts on a buffer sets OBS_IRQ.TRIG. -/
theorem trigOne_irq {s : Blk} (h : trigBufs s ≠ []) : (rg (trigOne s 0 0) rObsIrq).testBit 0 = true := by
  rw [trigOne_acts h, (blotAutoRaw_bufs _ _ _ _ _).2 rObsIrq (by decide) (by decide), (onlyReg_or _ rObsIrq 1 (by decide)).value]
  simp

/-- Where COND is not 011, no count brings a trigger about (R353). -/
theorem trigger_once {s : Blk} (h : trigCond s ≠ 3) : trigger s 0 0 = trigOne s 0 0 := by
  have hcond : trigCond (trigOne s 0 0) = trigCond s := by
    have hbuf : ∀ b, b < 4 → rTrigCfg ≠ bufReg b 0x1c := fun b _ => by
      have hoff := bufReg_eq b 0x1c
      have hcfg : rTrigCfg = 0x14090c := rfl
      omega
    unfold trigCond rgf rgw
    rw [trigOne_rg s hbuf (by decide) (by decide) (by decide), rg_triggerCounted_other s (by decide)]
  have hreached : cntReached (trigOne s 0 0) = false := by
    unfold cntReached
    rw [hcond, beq_eq_false_iff_ne.mpr h, Bool.false_and]
  unfold trigger
  dsimp only
  rw [hreached]
  rfl

/-! ## Lines that are drained (R355) -/

/-- The next line goes at the earliest after the space of OBS_TRC_CFG (R355). -/
def paced (s : Blk) : Blk := { s with obs := { s.obs with spaceAt := now s + rgf s rTrcCfg 15 0 } }

section
variable {s : Blk}

/-- A line may be offered: time is usable, the last one's space is over, a tag of the Scribe's is free, and no soft reset is in
progress. -/
abbrev MayDrain (s : Blk) : Prop := s.time.usable = true ∧ s.obs.spaceAt ≤ now s ∧ s.obs.tags < 16 ∧ s.cfg.srst = false

/-- The next buffer with a line to offer, in turn. -/
abbrev nextDrain (s : Blk) : Option Nat := ((List.range 4).map (fun i => (s.obs.drainNext + i) % 4)).find? (drainReady s)

theorem mayDrain_iff (s : Blk) : MayDrain s ↔
    ¬ (!s.time.usable || decide (now s < s.obs.spaceAt) || decide (s.obs.tags ≥ 16) || s.cfg.srst) = true := by
  simp [MayDrain, and_assoc]

theorem drainLine_closed (h : ¬ MayDrain s) : drainLine s = s := by
  rw [mayDrain_iff, not_not] at h
  exact if_pos h

theorem latch_idle (h : ∀ j ∈ s.obs.latch, j.lines = []) : s.obs.latch.find? (fun j => !j.lines.isEmpty) = none := by
  simpa using h

theorem drainLine_latch {j : LatchJob} (h : MayDrain s) (hj : s.obs.latch.find? (fun j => !j.lines.isEmpty) = some j) :
    drainLine s = paced (offerLatch s j) := by
  unfold drainLine
  rw [if_neg ((mayDrain_iff s).mp h)]
  dsimp only
  rw [hj]
  rfl

theorem drainLine_buf {i : Nat} (h : MayDrain s) (hidle : ∀ j ∈ s.obs.latch, j.lines = []) (hi : nextDrain s = some i) :
    drainLine s = paced (offerDrain s i) := by
  unfold nextDrain at hi
  unfold drainLine
  rw [if_neg ((mayDrain_iff s).mp h)]
  dsimp only
  rw [latch_idle hidle, hi]
  rfl

theorem drainLine_none (hidle : ∀ j ∈ s.obs.latch, j.lines = []) (hi : nextDrain s = none) : drainLine s = s := by
  unfold nextDrain at hi
  by_cases h : MayDrain s
  · unfold drainLine
    rw [if_neg ((mayDrain_iff s).mp h)]
    dsimp only
    rw [latch_idle hidle, hi]
  · exact drainLine_closed h

/-- A request made meanwhile does not move the pace. -/
theorem paced_asked {b u x : Blk} {r : MemReq} (h : MemAsked u x r) (hu : u = { b with obs := u.obs }) :
    paced x = { x with obs := { x.obs with spaceAt := now b + rgf b rTrcCfg 15 0 } } := by
  have hnow : now x = now b := by rw [h.rest, hu]; rfl
  have hspace : rgf x rTrcCfg 15 0 = rgf b rTrcCfg 15 0 := by rw [h.rest, hu]; rfl
  unfold paced
  rw [hnow, hspace]

/-- The next line of a latch record is asked to be written (R346). -/
theorem offerLatch_asks {j : LatchJob} {l : Line} {r : List Line} (hj : j.lines = l :: r) : MemAsked { s with obs := { s.obs with
      latch := s.obs.latch.map (fun k => if k.id = j.id then { k with lines := r } else k), tags := s.obs.tags + 1 } } (offerLatch s j)
    { write := true, addr := latchLineAddr j, first := latchLineAddr j, be := beOf 0 64, data := l, qos := 3, ctx := some j.ctx
      unit := uObs, index := j.queue.getD 0, owner := .latchRec j.id } := by
  unfold offerLatch
  rw [hj]
  exact memReq_asked _ _ rfl

/-- A waiting line of a buffer is asked to be written at its place of the ring (R355). -/
theorem offerWaiting_asks {i : Nat} {l : DLine} (hl : (bufOf s i).lines.find? (fun l => l.phase == .waiting) = some l) :
    MemAsked { s with obs := { s.obs with
        bufs := Store.put {} s.obs.bufs i { bufOf s i with
          lines := (bufOf s i).lines.map (fun m => if m.k = l.k then { m with phase := .offered } else m) }
        tags := s.obs.tags + 1, drainNext := (i + 1) % 4 } } (offerWaiting s i)
      { write := true, addr := (rg2 s (bufReg i 0xc) (bufReg i 0x10) + 64 * (l.k % ringLines s i)) % 2 ^ 52
        first := (rg2 s (bufReg i 0xc) (bufReg i 0x10) + 64 * (l.k % ringLines s i)) % 2 ^ 52, be := beOf 0 64, data := l.data
        qos := 3, ctx := none, unit := uObs, index := i, owner := .drain i l.k } := by
  unfold offerWaiting
  dsimp only
  rw [hl]
  exact memReq_asked _ _ rfl

theorem offerDrain_waiting {i : Nat} {l : DLine} (hl : (bufOf s i).lines.find? (fun l => l.phase == .waiting) = some l) :
    offerDrain s i = offerWaiting s i := by
  have hany : (bufOf s i).lines.any (fun l => l.phase == .waiting) = true :=
    List.any_eq_true.mpr ⟨l, List.mem_of_find?_eq_some hl, List.find?_some (p := fun l : DLine => l.phase == .waiting) hl⟩
  exact if_pos hany

/-- With no line waiting the next two records make one (R355). -/
theorem offerDrain_records {i : Nat} {p q : Word256} {r : List Word256} (hl : ∀ l ∈ (bufOf s i).lines, l.phase ≠ .waiting)
    (hp : drainStream (bufOf s i) = p :: q :: r) :
    offerDrain s i = offerWaiting (newDrainLine s i (drainTake (bufOf s i) 2) (twoRecs p q)) i := by
  have hnone : ¬ (bufOf s i).lines.any (fun l => l.phase == .waiting) = true := by simpa using hl
  refine (if_neg hnone).trans ?_
  rw [hp]

theorem drainTake_tail (x : TBuf) (n : Nat) : (drainTake x n).tail = x.tail := by
  unfold drainTake
  split <;> rfl

theorem drainTake_lines (x : TBuf) (n : Nat) : (drainTake x n).lines = x.lines := by
  unfold drainTake
  split <;> rfl

/-- The line that a buffer's drain makes next. -/
abbrev nextLine (x : TBuf) (d : Line) : DLine := { k := (x.tail + x.lines.length) % 2 ^ 32, data := d, phase := .waiting }

theorem newDrainLine_take (s : Blk) (i n : Nat) (d : Line) : newDrainLine s i (drainTake (bufOf s i) n) d =
    setBuf s i { drainTake (bufOf s i) n with lines := (bufOf s i).lines ++ [nextLine (bufOf s i) d] } := by
  unfold newDrainLine nextLine
  simp only [drainTake_tail, drainTake_lines]

/-- The line just made is the first that waits. -/
theorem find?_nextLine {x : TBuf} (h : ∀ l ∈ x.lines, l.phase ≠ .waiting) (d : Line) :
    (x.lines ++ [nextLine x d]).find? (fun l => l.phase == .waiting) = some (nextLine x d) := by
  have hnone : x.lines.find? (fun l => l.phase == .waiting) = none := by simpa using h
  rw [List.find?_append, hnone]
  rfl

/-- A buffer's lone record may be written with a PAD: it drains, has no fault, and its ring has room (R355). -/
abbrev MayFlush (s : Blk) (i : Nat) : Prop :=
  bufDrain s i = true ∧ (bufOf s i).fault = false ∧ drainFull s i = false ∧ s.time.usable = true

theorem mayFlush_iff (s : Blk) (i : Nat) (due : Prop) [Decidable due] : MayFlush s i ∧ due ↔
    (bufDrain s i && !(bufOf s i).fault && !drainFull s i && s.time.usable && decide due) = true := by
  simp [MayFlush, and_assoc]

theorem flushLone_writes {i : Nat} {p : Word256} (hp : drainStream (bufOf s i) = [p]) (hgo : MayFlush s i)
    (hdue : recTime p + rgf s rTrcFlush 15 0 * 1000 ≤ now s) :
    flushLone s i = newDrainLine s i (drainTake (bufOf s i) 1) (twoRecs p padRec) := by
  unfold flushLone
  dsimp only
  rw [hp]
  exact if_pos ((mayFlush_iff s i _).mp ⟨hgo, hdue⟩)

theorem flushLone_rests {i : Nat} (h : ∀ p, drainStream (bufOf s i) = [p] →
    ¬ MayFlush s i ∨ now s < recTime p + rgf s rTrcFlush 15 0 * 1000) : flushLone s i = s := by
  unfold flushLone
  dsimp only
  split
  next p hp =>
    refine if_neg fun hall => ?_
    obtain ⟨hgo, hdue⟩ := (mayFlush_iff s i _).mpr hall
    exact (h p hp).elim (fun hno => hno hgo) (fun hlt => Nat.not_lt.mpr hdue hlt)
  next => rfl
end

/-! ## O59 -/

/-- A field below EN of a word that is written with EN 1. -/
theorem enabled_fld (v : Word) (hi lo : Nat) (h : fld (0x80000000#32) hi lo = 0 := by decide) :
    fld (v ||| 0x80000000#32) hi lo = fld v hi lo := fld_or h

theorem enabled_bit30 (v : Word) : bitAt (v ||| 0x80000000#32) 30 = bitAt v 30 := by
  unfold bitAt
  simp

/-- Settles O59: the writes of Observation by the register that takes them, a trigger by what it leaves in each buffer (`trigOne_buf`), the
drain by the line that goes next (`drainLine_latch`, `drainLine_buf`). The model's choices are that an ARM which is not accepted has no
effect (assumption 31), that a rewrite of the present LOG2 with DRAIN 1 is accepted (assumption 36), and that a record leaves its buffer
when its line is offered (assumption 30). -/
theorem countersAndBuffersObserve : Obligations.CountersAndBuffersObserve := by
  refine ⟨fun n v a s hn h => ?_, fun n a s hn h => ?_, fun a s h hcond => ?_, fun b a s hb => ?_, fun v a s h => ?_,
    fun s hready => ?_, fun i s hi hready => ?_⟩
  · intro k src x bad moved
    have hact : regAct s.blk (cntReg n) v = cntWrite s.blk n v := regAct_counter s.blk (o := 0) v hn (by decide)
    refine ⟨fun hbad => ?_, fun hok => ?_⟩
    · exact refuses_counter hn (exec_counterConfig n v a s) h (hact.trans (cntWrite_refused hbad))
    · obtain ⟨u, y, hu, hnew, hold, hstored⟩ := cntWrite_stores (s := s.blk) hok
      exact writes_counter (o := 0) hn (by decide) (exec_counterConfig n v a s) h (hact.trans hstored) ⟨u, y, hu, hnew, hold, rfl⟩
  · exact writes_counter hn (by decide) (exec_counterClear n a s) h (regAct_counter s.blk 1 hn (by decide)) rfl
  · intro acts
    have hact := regAct_fire s.blk
    rw [trigger_once hcond] at hact
    have hacts : ∀ b, b < 4 → (b ∈ trigBufs s.blk ↔ acts b) := fun b hb => (mem_trigBufs s.blk b).trans (and_iff_right hb)
    refine writes_bus (exec_trigger a s) h hact ⟨Observed.trigOne _ _ _, trigOne_count s.blk, fun ⟨b, hb, hact⟩ => ?_,
      fun b hb => ⟨fun hno => ?_, fun hyes => ?_⟩⟩
    · exact trigOne_irq (List.ne_nil_of_mem ((hacts b hb).mpr hact))
    · rw [trigOne_buf, if_neg (mt (hacts b hb).mp hno)]
    · rw [trigOne_buf, if_pos ((hacts b hb).mpr hyes)]
      rfl
  · intro x Put
    refine ⟨fun h => ?_, fun v h => ?_, fun h => ?_⟩
    · have onArm := fun P => writes_buf (P := P) hb (by decide) (exec_arm b a s) h (regAct_bufCtl s.blk hb)
      exact ⟨fun hno => onArm _ (armBuf_rests hno), fun hon hok => onArm _ (armBuf_arms hon hok)⟩
    · intro k bad
      have hact := regAct_bufCfg s.blk (v ||| 0x80000000#32) hb
      have hfld : fld (v ||| 0x80000000#32) 4 0 = fld v 4 0 := enabled_fld v 4 0
      refine ⟨fun hbad => ?_, fun hok => ?_⟩
      · exact refuses_buf hb (by decide) (exec_bufferEnable b v a s) h (hact.trans (bufWrite_refused (by rw [hfld]; exact hbad)))
      · exact writes_buf hb (by decide) (exec_bufferEnable b v a s) h
          (hact.trans (bufWrite_enables (or_top v) (by rw [hfld]; exact hok)))
          ⟨_, storeAt_only s.blk _ 0xe000001f _ (by decide), fun hen => if_pos hen, fun hen => if_neg (ne_true_of_eq_false hen)⟩
    · exact writes_buf hb (by decide) (exec_bufferFaultClear b a s) h (regAct_bufFault s.blk hb) rfl
  · intro c k w lg
    have hact := regAct_lcfg s.blk w
    have hclear := regAct_lcfg s.blk (lcfgClear s.blk)
    have hfld : fld w 3 0 = lg := enabled_fld v 3 0
    obtain ⟨hsize, -, hbit31⟩ := lcfgClear_fields s.blk
    refine ⟨fun hbad => ?_, fun hlo hhi => ?_, fun hlo hhi => ?_, fun hbad => ?_⟩
    · exact refuses_bus (exec_latchRingEnable v a s) h (hact.trans (lcfgWrite_refused (hfld.symm ▸ hbad))) (.inl (by decide))
    · rw [lcfgWrite_accepted (hfld.symm ▸ hlo) (hfld.symm ▸ hhi)] at hact
      refine writes_bus (exec_latchRingEnable v a s) h hact
        ⟨_, _, lcfgStored_only s.blk c w, fun hno => if_neg ?_, fun hyes => if_pos ?_, fun hen => if_neg ?_, fun hen => ?_⟩
      · rw [enabled_bit30, hno]
        exact Bool.false_ne_true
      · rw [enabled_bit30, hyes]
      · exact fun hrise => Bool.noConfusion (hrise.2.symm.trans hen)
      · rw [if_pos ⟨or_top v, hen⟩]
        exact onlyReg_wr _ (pageReg c 0x814) 0
    · rw [lcfgWrite_accepted (hsize.symm ▸ hlo) (hsize.symm ▸ hhi),
        if_neg (fun hrise => Bool.noConfusion (hrise.2.symm.trans (hbit31.symm.trans hrise.1)))] at hclear
      exact writes_bus (exec_latchFaultClear a s) h hclear (lcfgClear_stored s.blk)
    · exact refuses_bus (exec_latchFaultClear a s) h (hclear.trans (lcfgWrite_refused (hsize.symm ▸ hbad))) (.inl (by decide))
  · intro b go next idle Paced
    refine ⟨fun hno => ?_, fun j l r hgo hj hl => ?_, fun i hgo hidle hi => ?_⟩
    · refine updates_act (exec_traceDrainLine s) hready ?_
      rcases hno with hno | ⟨hidle, hnone⟩
      · exact drainLine_closed hno
      · exact drainLine_none hidle hnone
    · refine updates_act (exec_traceDrainLine s) hready ?_
      have hasked := offerLatch_asks (s := s.blk) hl
      rw [drainLine_latch hgo hj]
      exact ⟨_, hasked, paced_asked hasked rfl⟩
    · intro x Line
      have hline : ∀ {o : Obs} {y : TBuf} {l : DLine}, bufOf { b with obs := o } i = y →
          y.lines.find? (fun l => l.phase == .waiting) = some l → offerDrain b i = offerWaiting { b with obs := o } i →
          Line { b with obs := o } y l (drainLine b) := by
        rintro o y l rfl hl hoffer
        have hasked := offerWaiting_asks hl
        rw [drainLine_buf hgo hidle hi, hoffer]
        exact ⟨_, hasked, paced_asked hasked rfl⟩
      refine ⟨fun l hl => ?_, fun hnone p q r hp => ?_⟩
      · exact updates_act (exec_traceDrainLine s) hready (hline rfl hl (offerDrain_waiting hl))
      · intro l y
        have hbuf : bufOf (setBuf b i y) i = y := by rw [bufOf_setBuf, if_pos rfl]
        have hoffer := offerDrain_records hnone hp
        rw [newDrainLine_take] at hoffer
        exact updates_act (exec_traceDrainLine s) hready ⟨_, rfl, hline hbuf (find?_nextLine hnone _) hoffer⟩
  · intro b x go
    have hexec : exec (.traceFlushExpiry i) s = act (ready s 6) (fun x => flushLone x i) s := by
      rw [exec_traceFlushExpiry, Nat.mod_eq_of_lt hi]
    refine ⟨fun p hp hgo hdue => ?_, fun hno => ?_⟩
    · refine updates_act hexec hready ?_
      rw [flushLone_writes hp hgo hdue, newDrainLine_take]
      rfl
    · exact updates_act hexec hready (flushLone_rests hno)

end Sys2Proof.Machine

/-! Proofs. Blots, the sweep, the watchdogs, the automatic audit and the error logs (O60): requests to the Blotter and its moves, the shadow
of the cut, what a read of the sweep does and how it moves on, and how each check ends. -/
namespace Sys2Proof.Machine

/-! ## Requests to the Blotter (R359) -/

theorem regAct_dbgCtl (s : Blk) (v : Word) : regAct s 0x180000 v = some (dbgCtl s v) := by
  obtain ⟨-, -, -, -, -, -, -, -, -, hdbg⟩ := regAct_units s v (w1c_none (off := 0x180000) (by decide))
  rw [hdbg (by decide) (by decide)]
  rfl

theorem dbgCtl_blot (s : Blk) : dbgCtl s 2 = blotAsk s { cause := 2, snapshot := false, code := 0, ctx := 0 } := rfl

theorem dbgCtl_snap (s : Blk) : dbgCtl s 1 = blotAsk s { cause := 1, snapshot := true, code := 0, ctx := 0 } := rfl

/-- The threshold of COND 011 looks at registers and counters alone (R353). -/
theorem cntReached_congr {s t : Blk} (hc : t.cfg = s.cfg) (hr : t.regs = s.regs) (ho : t.obs = s.obs) : cntReached t = cntReached s := by
  unfold cntReached trigCond rgf rgw rg2
  simp only [rg_congr hc hr, ho]

theorem cntTrig_same {s t : Blk} (h : cntReached t = cntReached s) : cntTrig s t = t := by
  unfold cntTrig
  rw [h, Bool.and_not_self]
  rfl

/-- Counts trigger where they bring the counter to its threshold, and nowhere else (R353). -/
theorem cntTrig_cases (s t : Blk) :
    cntTrig s t = t ∨ (cntReached s = false ∧ cntReached t = true ∧ Observed t (cntTrig s t)) := by
  by_cases h : cntReached t = true ∧ cntReached s = false
  · exact .inr ⟨h.2, h.1, Observed.cntTrig (Observed.self t) s⟩
  · exact .inl (if_neg (by simpa using h))

/-- A request that is not taken: DBG_DROP counts it, and DBG_IRQ.DROP is set. -/
def blotRefused (s : Blk) : Blk := evRaw (orBits (bump s rDbgDrop) rDbgIrq 2) 0x14c none 1

theorem blotRefused_steps (s : Blk) : ∃ x y, Counted s x rDbgDrop ∧ OnlyReg x y rDbgIrq (rg x rDbgIrq ||| 2) ∧
    blotRefused s = { y with obs := (blotRefused s).obs } :=
  ⟨_, _, counted_bump s rDbgDrop, onlyReg_or _ rDbgIrq 2 (by decide), rfl⟩

section
variable {s : Blk} (r : BlotReq)

theorem blotAsk_dropped (h : rgb s rDbgCfg 31 = false ∨ (s.dbg.phase ≠ .idle ∧ s.dbg.held ≠ none)) :
    blotAsk s r = cntTrig s (blotRefused s) := by
  have hraw : blotAskRaw s r = blotRefused s := by
    unfold blotAskRaw
    dsimp only
    by_cases hen : rgb s rDbgCfg 31 = false
    · exact if_pos (by rw [hen]; rfl)
    · obtain ⟨hbusy, hheld⟩ := h.resolve_left hen
      rw [if_neg (by simpa using hen)]
      split
      next hidle => exact absurd hidle hbusy
      next =>
        split
        next hnone => exact absurd hnone hheld
        next => rfl
  unfold blotAsk
  rw [hraw]

theorem blotAsk_taken (hen : rgb s rDbgCfg 31 = true) (hidle : s.dbg.phase = .idle) :
    blotAsk s r = { s with dbg := { s.dbg with phase := .asked, req := some r } } := by
  have hraw : blotAskRaw s r = { s with dbg := { s.dbg with phase := .asked, req := some r } } := by
    unfold blotAskRaw
    dsimp only
    rw [hen, hidle]
    rfl
  unfold blotAsk
  rw [hraw]
  exact cntTrig_same (cntReached_congr rfl rfl rfl)

theorem blotAsk_held (hen : rgb s rDbgCfg 31 = true) (hbusy : s.dbg.phase ≠ .idle) (hfree : s.dbg.held = none) :
    blotAsk s r = { s with dbg := { s.dbg with held := some r } } := by
  have hraw : blotAskRaw s r = { s with dbg := { s.dbg with held := some r } } := by
    unfold blotAskRaw
    dsimp only
    rw [hen, hfree]
    split
    next h => exact Bool.noConfusion h
    next =>
      split
      next hidle => exact absurd hidle hbusy
      next => rfl
  unfold blotAsk
  rw [hraw]
  exact cntTrig_same (cntReached_congr rfl rfl rfl)
end

/-! ## The Blotter's moves (R358, R361, R363) -/

/-- The bytes that the blot records for an entry (R360). -/
def readBytes (b : Blk) (e : SnapEnt) : List Byte := if e.mark = .moved then withMoved e.sec (entBytes b e.sec e.key) else e.val

theorem readEnt_eq (b : Blk) (e : SnapEnt) : readEnt b e = (readBytes b e, e.mark == .moved) := by
  unfold readEnt readBytes
  by_cases h : e.mark = .moved
  · simp [h]
  · simp [h]

/-- The Blotter after it has read n entries. -/
def blotTaken (b : Blk) (es : List SnapEnt) (d : Dbg) (n : Nat) : Dbg :=
  { d with snap := es.drop n, buf := d.buf ++ (es.take n).flatMap (readBytes b)
           moved := d.moved + ((es.take n).filter (fun e => e.mark == .moved)).length }

theorem blotTaken_zero (b : Blk) (es : List SnapEnt) (d : Dbg) : blotTaken b es d 0 = { d with snap := es } := by
  unfold blotTaken
  simp

theorem blotTaken_succ (b : Blk) (e : SnapEnt) (r : List SnapEnt) (d : Dbg) (n : Nat) : blotTaken b (e :: r) d (n + 1) =
    blotTaken b r { d with buf := d.buf ++ readBytes b e, moved := d.moved + b2n (e.mark == .moved) } n := by
  unfold blotTaken
  cases h : e.mark == .moved
  · simp [h, b2n]
  · simp [h, b2n]
    omega

/-- It reads entries, in order, until a line is full or none is left. -/
theorem blotRead_takes (b : Blk) (es : List SnapEnt) (d : Dbg) :
    ∃ n, blotRead b es d = blotTaken b es d n ∧ (n < es.length → 64 ≤ (blotTaken b es d n).buf.length) := by
  induction es generalizing d with
  | nil => exact ⟨0, (blotTaken_zero b [] d).symm, fun h => absurd h (Nat.not_lt_zero 0)⟩
  | cons e r ih =>
    by_cases hfull : 64 ≤ d.buf.length
    · refine ⟨0, ?_, fun _ => ?_⟩
      · rw [blotTaken_zero]
        exact if_pos hfull
      · rw [blotTaken_zero]
        exact hfull
    · obtain ⟨n, hn, hlen⟩ := ih { d with buf := d.buf ++ readBytes b e, moved := d.moved + b2n (e.mark == .moved) }
      rw [← blotTaken_succ] at hn hlen
      refine ⟨n + 1, ?_, fun h => hlen (Nat.lt_of_succ_lt_succ h)⟩
      rw [← hn, blotRead, if_neg hfull, readEnt_eq]

section
variable {b : Blk}

theorem blotPaced_iff (b : Blk) : blotPaced b = true ↔
    rgf b rDbgSpace 15 0 = 0 ∨ (b.time.usable = true ∧ b.dbg.lastLine + rgf b rDbgSpace 15 0 ≤ now b) := by
  unfold blotPaced
  simp

theorem blotWrite_idle (h : b.dbg.phase = .idle) : blotWrite b = b := by
  unfold blotWrite
  rw [h]

theorem blotWrite_waits {i : Nat} (h : b.dbg.phase = .scan i ∨ b.dbg.phase = .head i) : blotWrite b = b := by
  unfold blotWrite
  rcases h with h | h <;> rw [h]

theorem blotWrite_off (h : b.dbg.phase = .asked) (hen : rgb b rDbgCfg 31 = false) : blotWrite b = blotDrop b := by
  unfold blotWrite
  rw [h, hen]
  rfl

theorem blotWrite_scans (h : b.dbg.phase = .asked) (hen : rgb b rDbgCfg 31 = true) : blotWrite b = blotScan b 0 := by
  unfold blotWrite
  rw [h, hen]
  rfl

theorem blotWrite_cuts {i : Nat} {r : BlotReq} (h : b.dbg.phase = .found i) (hr : b.dbg.req = some r) : blotWrite b = blotCut b i r := by
  unfold blotWrite
  rw [h, hr]

/-- What a move within the body of a blot does, by what has been read. -/
theorem blotWrite_body {i : Nat} {x : Dbg} (h : b.dbg.phase = .body i) (hp : blotPaced b = true)
    (hx : blotRead b b.dbg.snap b.dbg = x) : blotWrite b =
      if x.buf = [] then
        if x.left = 0 then
          blotOffer (setDbg b { x with phase := .head i, lastLine := now b }) (slotAddr b i) (lineOf 0 (withDone x)) .blotHead
        else b
      else blotOffer (setDbg b { x with buf := x.buf.drop 64, nextLine := x.nextLine + 64, left := x.left + 1, lastLine := now b })
        (slotAddr b i + x.nextLine) (lineOf 0 (x.buf.take 64)) .blotLine := by
  subst hx
  unfold blotWrite
  rw [h]
  dsimp only
  rw [hp]
  simp only [List.isEmpty_iff]
  rfl

theorem blotWrite_unpaced {i : Nat} (h : b.dbg.phase = .body i) (hp : blotPaced b = false) : blotWrite b = b := by
  unfold blotWrite
  rw [h]
  dsimp only
  rw [hp]
  rfl

/-- A line of the blot is asked to be written (R363). -/
theorem blotOffer_asks (b : Blk) (a : Nat) (d : Line) (o : MemOwner) : MemAsked b (blotOffer b a d o)
    { write := true, addr := a % 2 ^ 52, first := a % 2 ^ 52, be := beOf 0 64, data := d, qos := 3, ctx := none, unit := uDbg, index := 0
      owner := o } := memReq_asked _ _ rfl
end

/-! ## The shadow of the cut (R360) -/

/-- The entry's mark after an update that it shows, where the shadow has `used` places taken. -/
def noted (used : Nat) (v : List Byte) (e : SnapEnt) : SnapEnt :=
  { e with seen := v, mark := if e.mark = .still then (if used < 2048 then .shadowed else .moved) else e.mark }

/-- An entry takes a place of the shadow, if there is one, by its first update. -/
abbrev Changes (f : Nat → Nat → List Byte) (e : SnapEnt) : Bool := decide (f e.sec e.key ≠ e.seen) && e.mark == .still

/-- Only whether the shadow is full matters to an entry. -/
theorem noted_cap {u c : Nat} (h : min u 2048 = min c 2048) (v : List Byte) (e : SnapEnt) : noted u v e = noted c v e := by
  unfold noted
  have hlt : u < 2048 ↔ c < 2048 := by omega
  simp only [hlt]

theorem noteEnt_snd (u : Nat) (v : List Byte) (e : SnapEnt) : (noteEnt u v e).2 = if v = e.seen then e else noted u v e := by
  unfold noteEnt noted
  by_cases hv : v = e.seen
  · rw [if_pos hv, if_pos hv]
  · rw [if_neg hv, if_neg hv]
    by_cases hm : e.mark = .still
    · rw [if_pos hm, if_pos hm]
      split <;> rfl
    · rw [if_neg hm, if_neg hm]

theorem noteEnt_fst (f : Nat → Nat → List Byte) (u : Nat) (e : SnapEnt) :
    min (noteEnt u (f e.sec e.key) e).1 2048 = min (u + b2n (Changes f e)) 2048 := by
  unfold noteEnt
  by_cases hv : f e.sec e.key = e.seen
  · simp [hv, b2n]
  · rw [if_neg hv]
    by_cases hm : e.mark = .still
    · rw [if_pos hm]
      have hc : Changes f e = true := by simp [hv, hm]
      rw [hc]
      split
      next => rfl
      next hfull =>
        have := Nat.not_lt.mp hfull
        simp only [b2n, if_true]
        omega
    · simp [hm, b2n]

/-- What the shadow keeps of each entry, by the places that are taken before it. -/
theorem noteEnts_get {f : Nat → Nat → List Byte} {es : List SnapEnt} {i : Nat} {e : SnapEnt} (he : es[i]? = some e) {u c : Nat}
    (huc : min u 2048 = min c 2048) : (noteEnts f u es)[i]? = some (if f e.sec e.key = e.seen then e
      else noted (c + ((es.take i).filter (Changes f)).length) (f e.sec e.key) e) := by
  induction es generalizing i u c with
  | nil => simp at he
  | cons x r ih =>
    cases i with
    | zero =>
      obtain rfl : x = e := by simpa using he
      simp [noteEnts, noteEnt_snd, noted_cap huc]
    | succ i =>
      have hr : r[i]? = some e := by simpa using he
      have hnext : min (noteEnt u (f x.sec x.key) x).1 2048 = min (c + b2n (Changes f x)) 2048 := by
        rw [noteEnt_fst]
        omega
      have hcount : (((x :: r).take (i + 1)).filter (Changes f)).length
          = b2n (Changes f x) + ((r.take i).filter (Changes f)).length := by
        rw [List.take_succ_cons, List.filter_cons]
        cases Changes f x <;> simp [b2n, Nat.add_comm]
      rw [hcount, ← Nat.add_assoc]
      exact ih hr hnext

theorem blotTrack_snap {b : Blk} (h : b.dbg.snap ≠ []) : (blotTrack b).dbg.snap =
    noteEnts (entBytes { b with time := { b.time with last := b.dbg.cutAt } }) (shadowUsed b.dbg.snap) b.dbg.snap := by
  unfold blotTrack
  split
  next hnil => exact absurd hnil h
  next => rfl

/-- What an update of the block makes of an entry that is not read yet (R360). -/
theorem blotTrack_get {b : Blk} {i : Nat} {e : SnapEnt} (he : b.dbg.snap[i]? = some e) {f : Nat → Nat → List Byte}
    (hf : entBytes { b with time := { b.time with last := b.dbg.cutAt } } = f) : (blotTrack b).dbg.snap[i]? =
      some (if f e.sec e.key = e.seen then e
        else noted (shadowUsed b.dbg.snap + ((b.dbg.snap.take i).filter (Changes f)).length) (f e.sec e.key) e) := by
  rw [blotTrack_snap (fun hnil => by simp [hnil] at he), hf]
  exact noteEnts_get he rfl

/-! ## The error logs (R390) -/

theorem regAct_logClear (s : Blk) : regAct s 0x160068 1 = some (clearLog s) := by
  obtain ⟨-, -, -, -, -, -, -, -, hsaf, -⟩ := regAct_units s (1 : Word) (w1c_none (off := 0x160068) (by decide))
  exact hsaf (by decide) (by decide)

/-- The selected log is empty, and no other log has changed. -/
theorem clearLog_clears (s : Blk) : clearLog s = { s with saf := { s.saf with logs := (clearLog s).saf.logs } } ∧
    logOf (clearLog s) (rgf s rLogSel 12 4) = {} ∧ ∀ m, m ≠ rgf s rLogSel 12 4 → logOf (clearLog s) m = logOf s m :=
  ⟨rfl, logOf_setLog_same s _ _, fun _ hm => logOf_setLog_other s _ hm⟩

/-! ## The sweep (R371, R376) -/

/-- How the sweep moves on from u: to the next word, or to the next pass. -/
def SweepMoves (u t : Blk) : Prop :=
  (u.saf.sweepPos + 1 < sweepTotal → t = { u with saf := { u.saf with sweepPos := u.saf.sweepPos + 1 } }) ∧
  (sweepTotal ≤ u.saf.sweepPos + 1 → ∃ x,
    Counted { u with saf := { u.saf with sweepPos := 0, sweepAt := now u, sweepLate := false, sweepKept := false } } x rSweepPasses ∧
      Observed x t)

theorem sweepOn_moves (u : Blk) : SweepMoves u (sweepOn u) := by
  unfold sweepOn
  refine ⟨fun hnext => if_pos hnext, fun hend => ?_⟩
  dsimp only
  rw [if_neg (Nat.not_lt.mpr hend)]
  exact ⟨_, counted_bump _ rSweepPasses, Observed.ev0 _ 0x13f⟩

theorem wordFound_good (s : Blk) (k : Sto) (e w : Nat) : wordFound s k e w .good = (true, s) := if_pos rfl

section
variable {s : Blk} {i e w : Nat} {k : Sto} {f : Finding}

theorem placeRead_word (hp : sweepPlace sweepMap i = some (k, e, w)) (hk : k.init ∉ s.cfg.inits) :
    placeRead s i f = (wordFound s k e w f).2 := by
  unfold placeRead
  rw [hp]
  exact if_neg (by simpa using hk)

/-- A store that has not been initialised is not read (R397). -/
theorem placeRead_uninit (hp : sweepPlace sweepMap i = some (k, e, w)) (hk : k.init ∈ s.cfg.inits) : placeRead s i f = s := by
  unfold placeRead
  rw [hp]
  exact if_pos (by simpa using hk)

theorem placeRead_none (hp : sweepPlace sweepMap i = none) : placeRead s i f = s := by
  unfold placeRead
  rw [hp]

/-- Outside the Graph Store a unit's read is one of the sweep. -/
theorem unitRead_store (hg : ∀ e w, sweepPlace sweepMap i ≠ some (.graph, e, w)) : unitRead s i f = placeRead s i f := by
  unfold unitRead
  split
  next e w hp => exact absurd hp (hg e w)
  next => rfl

/-- In the Graph Store a good word is only read, and so is any word while the store is not initialised. -/
theorem unitRead_graph_rests (hp : sweepPlace sweepMap i = some (.graph, e, w)) (h : f = .good ∨ Sto.graph.init ∈ s.cfg.inits) :
    unitRead s i f = s := by
  unfold unitRead
  rw [hp]
  exact if_pos (by simpa [Sto.init] using h)

/-- The operation that reads entry e of the Graph Store waits for its replay (R372). -/
def wantEntry (s : Blk) (e : Nat) : Blk :=
  { s with tsk := { s.tsk with wanted := if s.tsk.wanted.contains e then s.tsk.wanted else s.tsk.wanted ++ [e] } }

theorem mem_wantEntry (s : Blk) (e x : Nat) : x ∈ (wantEntry s e).tsk.wanted ↔ x = e ∨ x ∈ s.tsk.wanted := by
  unfold wantEntry
  dsimp only
  split
  next h =>
    have he : e ∈ s.tsk.wanted := by simpa using h
    exact ⟨.inr, fun hx => hx.elim (fun hxe => hxe ▸ he) id⟩
  next => simp [or_comm]

theorem unitRead_graph (hp : sweepPlace sweepMap i = some (.graph, e, w)) (hf : f ≠ .good) (hk : Sto.graph.init ∉ s.cfg.inits) :
    unitRead s i f = (wordFound (wantEntry s e) .graph e w f).2 := by
  rw [← placeRead_word (s := wantEntry s e) hp hk]
  unfold unitRead
  rw [hp]
  exact if_neg (by simpa [Sto.init] using And.intro hf hk)

/-- A unit's read of a word that waits for no replay is one of the sweep. -/
theorem unitRead_word (hp : sweepPlace sweepMap i = some (k, e, w)) (hkf : k ≠ .graph ∨ f = .good) (hk : k.init ∉ s.cfg.inits) :
    unitRead s i f = (wordFound s k e w f).2 := by
  by_cases hg : k = .graph
  · subst hg
    obtain rfl : f = .good := hkf.resolve_left (fun h => h rfl)
    rw [unitRead_graph_rests hp (.inl rfl), wordFound_good]
  · rw [unitRead_store (fun e' w' hp' => hg (congrArg Prod.fst (Option.some.inj (hp.symm.trans hp')))), placeRead_word hp hk]

theorem unitRead_uninit (h : ∀ k e w, sweepPlace sweepMap i = some (k, e, w) → k.init ∈ s.cfg.inits) : unitRead s i f = s := by
  by_cases hg : ∃ e w, sweepPlace sweepMap i = some (.graph, e, w)
  · obtain ⟨e, w, hp⟩ := hg
    exact unitRead_graph_rests hp (.inr (h _ e w hp))
  · rw [unitRead_store (fun e w hp => hg ⟨e, w, hp⟩)]
    cases hp : sweepPlace sweepMap i with
    | none => exact placeRead_none hp
    | some p => exact placeRead_uninit hp (h p.1 p.2.1 p.2.2 hp)

theorem sweepRead_sweep (hlow : s.cfg.low = false) : sweepRead s f none = sweepOn (placeRead s s.saf.sweepPos f) := by
  unfold sweepRead
  rw [hlow]
  rfl

theorem sweepRead_unit (hlow : s.cfg.low = false) : sweepRead s f (some i) = unitRead s (i % sweepTotal) f := by
  unfold sweepRead
  rw [hlow]
  rfl
end

/-- The pass has not finished within SAF_SWEEP.US, and that has not been said of it yet. -/
abbrev SweepIsLate (s : Blk) : Prop :=
  s.saf.monitor = true ∧ s.time.usable = true ∧ s.saf.sweepLate = false ∧ s.saf.sweepAt + rgf s rSweep 10 0 * 1000 < now s

theorem sweepIsLate_iff (s : Blk) : SweepIsLate s ↔
    (s.saf.monitor && s.time.usable && !s.saf.sweepLate && decide (now s > s.saf.sweepAt + rgf s rSweep 10 0 * 1000)) = true := by
  simp [SweepIsLate, and_assoc]

theorem sweepOverrun_rests {s : Blk} (h : ¬ SweepIsLate s) : sweepOverrun s = s := if_neg (mt (sweepIsLate_iff s).mpr h)

theorem sweepOverrun_late {s : Blk} (h : SweepIsLate s) : ∃ u, Counted { s with saf := { s.saf with sweepLate := true } } u rSweepLate ∧
    Logged u (sweepOverrun s) uSaf (faultEnt u uSaf 0x23 none (mkDetail (now u) (now u % 2 ^ 32) 0) false) := by
  unfold sweepOverrun
  rw [if_pos ((sweepIsLate_iff s).mp h)]
  exact ⟨_, counted_bump _ rSweepLate, logged_saf _ _ _ _⟩

/-! ## The watchdogs (R377, R378) -/

section
variable {s : Blk}

theorem pulseWatchdog_off (h : s.saf.monitor = false) : pulseWatchdog s = s := by
  unfold pulseWatchdog
  rw [h]
  rfl

theorem rgb_testBit (s : Blk) (k i : Nat) : rgb s k i = (rg s k).testBit i := by
  unfold rgb rgw w32 bitAt
  rw [← BitVec.testBit_toNat, BitVec.toNat_ofNat, Nat.mod_eq_of_lt (rg_lt s k)]

theorem pulseWatchdog_lost (hm : s.saf.monitor = true) (hl : s.saf.pulseLost = true) :
    pulseWatchdog s = if (rg s rAlarmCause).testBit 1 then s else raiseAlarm s 1 0x41 0 := by
  unfold pulseWatchdog
  rw [hm, hl, rgb_testBit]
  rfl

theorem pulseWatchdog_unarmed (hl : s.saf.pulseLost = false) (hx : s.saf.pulseArmedAt = none) : pulseWatchdog s = s := by
  unfold pulseWatchdog
  rw [hl, hx]
  exact ite_self s

/-- The entry of the loss, with the time of the last Pulse (R392). -/
abbrev pulseLoss (s : Blk) : Blk :=
  safFault { s with saf := { s.saf with pulseLost := true } } uSaf 0x41 (mkDetail (now s) (s.saf.pulseAt % 2 ^ 32) 0) true

theorem pulseWatchdog_armed {x : Nat} (hm : s.saf.monitor = true) (hl : s.saf.pulseLost = false) (hx : s.saf.pulseArmedAt = some x) :
    pulseWatchdog s = if s.time.usable && decide (now s ≥ max x s.saf.pulseAt + wdogNs s) then
      raiseAlarm (blotAuto (pulseLoss s) 0 3 0x41 0) 1 0x41 0 else s := by
  unfold pulseWatchdog
  rw [hm, hl, hx]
  rfl

theorem pulseWatchdog_fires {x : Nat} (hm : s.saf.monitor = true) (hl : s.saf.pulseLost = false) (hx : s.saf.pulseArmedAt = some x)
    (hu : s.time.usable = true) (hd : max x s.saf.pulseAt + wdogNs s ≤ now s) :
    pulseWatchdog s = raiseAlarm (blotAuto (pulseLoss s) 0 3 0x41 0) 1 0x41 0 := by
  rw [pulseWatchdog_armed hm hl hx]
  exact if_pos (Bool.and_eq_true_iff.mpr ⟨hu, decide_eq_true hd⟩)

theorem pulseWatchdog_rests (hl : s.saf.pulseLost = false)
    (h : s.saf.pulseArmedAt = none ∨ ∃ x, s.saf.pulseArmedAt = some x ∧ now s < max x s.saf.pulseAt + wdogNs s) :
    pulseWatchdog s = s := by
  by_cases hm : s.saf.monitor = true
  · obtain h | ⟨x, hx, hlt⟩ := h
    · exact pulseWatchdog_unarmed hl h
    · rw [pulseWatchdog_armed hm hl hx]
      refine if_neg fun hall => Nat.not_lt.mpr ?_ hlt
      exact of_decide_eq_true (Bool.and_eq_true_iff.mp hall).2
  · exact pulseWatchdog_off (Bool.eq_false_of_not_eq_true hm)

/-- The entry of the lapse, with the time of the last dispatch word; the watchdog begins anew (assumption 32). -/
abbrev dispatchLapse (s : Blk) : Blk :=
  safFault { s with saf := { s.saf with armedAt := some (now s) } } uSaf 0x46 (mkDetail (now s) (s.saf.dispatchAt % 2 ^ 32) 0) true

theorem dispatchWatchdog_armed {x : Nat} (hx : s.saf.armedAt = some x) : dispatchWatchdog s =
    if s.saf.monitor && s.time.usable && decide (now s ≥ max x s.saf.dispatchAt + wdogNs s) then
      raiseAlarm (dispatchLapse s) 2 0x46 0 else s := by
  unfold dispatchWatchdog
  rw [hx]
  rfl

theorem dispatchWatchdog_fires {x : Nat} (hx : s.saf.armedAt = some x) (hon : s.saf.monitor = true ∧ s.time.usable = true)
    (hd : max x s.saf.dispatchAt + wdogNs s ≤ now s) : dispatchWatchdog s = raiseAlarm (dispatchLapse s) 2 0x46 0 := by
  rw [dispatchWatchdog_armed hx]
  exact if_pos (Bool.and_eq_true_iff.mpr ⟨Bool.and_eq_true_iff.mpr hon, decide_eq_true hd⟩)

theorem dispatchWatchdog_rests (h : s.saf.armedAt = none ∨ ¬ (s.saf.monitor = true ∧ s.time.usable = true) ∨
    ∃ x, s.saf.armedAt = some x ∧ now s < max x s.saf.dispatchAt + wdogNs s) : dispatchWatchdog s = s := by
  cases ht : s.saf.armedAt with
  | none =>
    unfold dispatchWatchdog
    rw [ht]
  | some t =>
    rw [dispatchWatchdog_armed ht]
    refine if_neg fun hall => ?_
    obtain ⟨hon, hd⟩ : (s.saf.monitor = true ∧ s.time.usable = true) ∧ max t s.saf.dispatchAt + wdogNs s ≤ now s := by
      simpa using hall
    obtain h | h | ⟨x, hx, hlt⟩ := h
    · simp [h] at ht
    · exact h hon
    · obtain rfl : x = t := Option.some.inj (hx.symm.trans ht)
      exact Nat.not_lt.mpr hd hlt
end

/-! ## The automatic audit (R387 to R389) -/

/-- The books of the mask that fail at the cut of u. -/
def AuditCuts (u : Blk) (mask : Nat) (r : AuditRun) : Prop := r.mask = mask ∧
  ∀ p, p ∈ r.bad ↔ p.1 < 7 ∧ mask.testBit p.1 = true ∧ book u p.1 = some ⟨p.2.1, p.2.2.1, p.2.2.2⟩

theorem auditCut_cuts (u : Blk) (mask : Nat) : AuditCuts u mask (auditCut u mask) := by
  refine ⟨rfl, fun ⟨b, x, y, z⟩ => ?_⟩
  have hbook : ∀ a, (book u a).map (fun e => (a, e.entry, e.want, e.got)) = some (b, x, y, z) ↔
      a = b ∧ book u a = some ⟨x, y, z⟩ := by
    intro a
    rw [Option.map_eq_some_iff]
    constructor
    · rintro ⟨e, he, heq⟩
      simp only [Prod.mk.injEq] at heq
      obtain ⟨ha, rfl, rfl, rfl⟩ := heq
      exact ⟨ha, he⟩
    · rintro ⟨rfl, he⟩
      exact ⟨_, he, rfl⟩
  unfold auditCut
  simp only [List.mem_filterMap, List.mem_filter, List.mem_range, hbook]
  constructor
  · rintro ⟨a, ⟨ha, hbit⟩, rfl, he⟩
    exact ⟨ha, hbit, he⟩
  · rintro ⟨ha, hbit, he⟩
    exact ⟨b, ⟨ha, hbit⟩, rfl, he⟩

/-- How an audit ends: its faults, its result, the tags that are too old, and the alarm if a book has failed. -/
def AuditEnds (d : Blk) (r : AuditRun) (t : Blk) : Prop := ∃ w x y,
  let failed := (r.bad.map (fun p => 2 ^ p.1)).sum
  w = forEach r.bad d bookFault ∧ OnlyReg w x rAuditResult (2 ^ 31 + r.mask % 256 * 2 ^ 8 + failed % 256) ∧
  y = forEach (if r.mask.testBit 6 then d.mem.out.filter (fun p => tagOld d p.2) else []) x retireTag ∧
  (failed = 0 → t = y) ∧
  (failed ≠ 0 → ∃ z q, Counted y z rAuditFails ∧ OnlyReg z q rSafIrq (rg z rSafIrq ||| 4) ∧ Raised q t 5)

/-- SAF_AUDIT_RESULT: done, the mask, the books that have failed. -/
theorem auditResult_eq (mask failed : Nat) :
    (2 ^ 31 + put mask 15 8 + put failed 7 0) % 2 ^ 32 = 2 ^ 31 + mask % 256 * 2 ^ 8 + failed % 256 := by
  unfold put
  simp only [Nat.shiftLeft_eq]
  omega

theorem auditEnd_ends (d : Blk) (r : AuditRun) : AuditEnds d r (auditEnd d r).2 := by
  unfold auditEnd
  rw [sum_eq]
  refine ⟨forEach r.bad d bookFault,
    wr (forEach r.bad d bookFault) rAuditResult (2 ^ 31 + put r.mask 15 8 + put (r.bad.map (fun p => 2 ^ p.1)).sum 7 0),
    _, rfl, ?_, rfl, fun hzero => ?_, fun hbad => ?_⟩
  · rw [← auditResult_eq]
    exact onlyReg_wr _ rAuditResult _
  · dsimp only
    rw [if_pos hzero]
  · dsimp only
    rw [if_neg hbad]
    exact ⟨_, _, counted_bump _ rAuditFails, onlyReg_or _ rSafIrq 4 (by decide), raised _ 5 0x22 0 (by decide)⟩

section
variable {s : Blk}

/-- The automatic audit is due. -/
abbrev AuditDue (s : Blk) : Prop := fnReady s 3 = true ∧ rgf s rAuditCfg 31 16 ≠ 0 ∧ s.time.usable = true ∧
  s.saf.auditAt + rgf s rAuditCfg 31 16 * 1000000 ≤ now s

theorem auditDue_iff (s : Blk) : auditDue s = true ↔ AuditDue s := by
  simp [auditDue, AuditDue, and_assoc]

theorem autoAudit_ends {r : AuditRun} (h : s.saf.auditRun = some r) :
    autoAudit s = (auditEnd (wakeUnits { s with saf := { s.saf with auditRun := none } }) r).2 := by
  unfold autoAudit
  rw [h]

theorem autoAudit_rests (h : s.saf.auditRun = none) (hd : ¬ AuditDue s) : autoAudit s = s := by
  unfold autoAudit
  rw [h]
  exact if_neg (mt (auditDue_iff s).mp hd)

/-- The block as an audit begins in it. -/
abbrev audited (s : Blk) : Blk := { s with saf := { s.saf with auditAt := now s } }

theorem autoAudit_empty (h : s.saf.auditRun = none) (hd : AuditDue s) (hm : rgf s rAuditCfg 7 0 = 0) : autoAudit s = audited s := by
  unfold autoAudit
  rw [h]
  dsimp only
  rw [if_pos ((auditDue_iff s).mpr hd)]
  exact if_pos hm

/-- An audit that begins ends in the same update, or stays in progress (assumption 11). -/
theorem autoAudit_begins (h : s.saf.auditRun = none) (hd : AuditDue s) (hm : rgf s rAuditCfg 7 0 ≠ 0) :
    ∃ d, d = { audited s with free := d.free } ∧
      (AuditEnds d (auditCut (audited s) (rgf s rAuditCfg 7 0)) (autoAudit s) ∨
        autoAudit s = { d with saf := { d.saf with auditRun := some (auditCut (audited s) (rgf s rAuditCfg 7 0)) } }) := by
  obtain ⟨f, hf⟩ := choose_free (audited s) 2
  refine ⟨(choose (audited s) 2).2, by rw [hf], ?_⟩
  unfold autoAudit
  rw [h]
  dsimp only
  rw [if_pos ((auditDue_iff s).mpr hd), if_neg (show ¬ rgf (audited s) rAuditCfg 7 0 = 0 from hm)]
  split
  next => exact .inl (auditEnd_ends _ _)
  next => exact .inr rfl
end

/-! ## O60 -/

/-- Settles O60: the Blotter by the request and by the phase of its blot (`blotAsk_dropped`, `blotWrite_body`), the shadow by the places
that are taken before an entry (`noteEnts_get`), the sweep by the store of the word, the checks by their conditions and by how each ends
(`auditEnd_ends`). The model's choices are the order of the sweep (assumption 12), that the dispatch watchdog begins anew after it has
fired (assumption 32), and, of assumption 33, that the shadow is filled section by section, that a value which only follows wall time is no
update, that the checks act once the Plumb monitors, and that the DETAIL of fault 0x23 shows the last sample. -/
theorem blotsAndChecksAreMade : Obligations.BlotsAndChecksAreMade := by
  refine ⟨fun a s h => ?_, fun s hready => ?_, fun b i e he => ?_, fun a s h => ?_, fun f s hlow => ?_, fun s hlow => ?_⟩
  · intro d Dropped Asks
    have drops : ∀ r, (rgb s.blk rDbgCfg 31 = false ∨ (d.phase ≠ .idle ∧ d.held ≠ none)) → Dropped s.blk (blotAsk s.blk r) := by
      intro r hno
      obtain ⟨x, y, hx, hy, hz⟩ := blotRefused_steps s.blk
      rw [blotAsk_dropped r hno]
      exact ⟨x, y, _, hx, hy, hz, cntTrig_cases s.blk _⟩
    have asks : ∀ cmd v r, exec cmd s = busCmd 0x180000 v a s → dbgCtl s.blk v = blotAsk s.blk r → Asks cmd r := by
      intro cmd v r hc hv
      have hact : regAct s.blk 0x180000 v = some (blotAsk s.blk r) := by rw [regAct_dbgCtl, hv]
      exact ⟨fun hno => writes_bus hc h hact (drops r hno), fun hen hidle => writes_bus hc h hact (blotAsk_taken r hen hidle),
        fun hen hbusy hfree => writes_bus hc h hact (blotAsk_held r hen hbusy hfree)⟩
    exact ⟨asks _ _ _ (exec_blot a s) (dbgCtl_blot s.blk), asks _ _ _ (exec_snap a s) (dbgCtl_snap s.blk)⟩
  · intro b d slot paced Line Still
    have moves : ∀ {P : Blk → Prop}, P (blotWrite b) → Updates .blotWrite s P :=
      fun hp => updates_act (exec_blotWrite s) (answers_of hready) hp
    refine ⟨fun h => moves (blotWrite_idle h), fun i h => moves (blotWrite_waits h), fun h hen => moves (blotWrite_off h hen),
      fun h hen => moves (blotWrite_scans h hen), fun i r h hr => moves (blotWrite_cuts h hr), fun i h hp => ?_, fun i h hp => ?_⟩
    · obtain ⟨n, hn, hfull⟩ := blotRead_takes b d.snap d
      have hbody := blotWrite_body h ((blotPaced_iff b).mpr hp) hn
      refine ⟨n, blotTaken b d.snap d n, rfl, hfull, fun hline => moves ?_, fun hend hleft => moves ?_, fun hend hleft => moves ?_⟩
      · rw [hbody, if_neg hline]
        exact blotOffer_asks _ _ _ _
      · have hlast : (blotTaken b d.snap d n).left = 0 := hleft
        rw [hbody, if_pos hend, if_pos hlast]
        exact blotOffer_asks _ _ _ _
      · rw [hbody, if_pos hend]
        exact if_neg hleft
    · exact moves (blotWrite_unpaced h (Bool.eq_false_of_not_eq_true (mt (blotPaced_iff b).mp hp)))
  · intro val used
    have hget := blotTrack_get he rfl
    exact ⟨fun hsame => hget.trans (congrArg some (if_pos hsame)), fun hnew => hget.trans (congrArg some (if_neg hnew))⟩
  · intro n
    exact writes_bus (exec_logClear a s) h (regAct_logClear s.blk) (clearLog_clears s.blk)
  · intro v Moves
    have sweeps : ∀ {unit : Option Nat} {P : Blk → Prop}, P (sweepRead s.blk f unit) → Updates (.sweepRead f unit) s P :=
      fun hp => updates_act (exec_sweepRead f _ s) (awake_of hlow) hp
    refine ⟨fun k e w hp hk => sweeps ?_, fun i k e w hp hkf hk => sweeps ?_, fun i e w hp hf hk => sweeps ?_, fun i hi => sweeps ?_,
      fun k e w hp hk => sweeps ?_, fun hp => sweeps ?_, ?_⟩
    · rw [sweepRead_sweep hlow, placeRead_word hp hk]
      refine ⟨_, ?_, rfl, sweepOn_moves _⟩
      rintro rfl
      rw [wordFound_good]
    · rw [sweepRead_unit hlow, unitRead_word hp hkf hk]
      refine ⟨?_, rfl⟩
      rintro rfl
      rw [wordFound_good]
    · rw [sweepRead_unit hlow, unitRead_graph hp hf hk]
      exact ⟨_, rfl, mem_wantEntry s.blk e, rfl⟩
    · rw [sweepRead_unit hlow]
      exact unitRead_uninit hi
    · rw [sweepRead_sweep hlow, placeRead_uninit hp hk]
      exact sweepOn_moves _
    · rw [sweepRead_sweep hlow, placeRead_none hp]
      exact sweepOn_moves _
    · intro late
      exact ⟨fun hno => updates_act (exec_sweepOverrun s) (awake_of hlow) (sweepOverrun_rests hno),
        fun hyes => updates_act (exec_sweepOverrun s) (awake_of hlow) (sweepOverrun_late hyes)⟩
  · intro v lapse on Still
    have pulse : ∀ {P : Blk → Prop}, P (pulseWatchdog s.blk) → Updates .pulseWatchdogExpiry s P :=
      fun hp => updates_act (exec_pulseWatchdogExpiry s) (awake_of hlow) hp
    have dispatch : ∀ {P : Blk → Prop}, P (dispatchWatchdog s.blk) → Updates .dispatchWatchdogExpiry s P :=
      fun hp => updates_act (exec_dispatchWatchdogExpiry s) (awake_of hlow) hp
    refine ⟨fun hm => pulse (pulseWatchdog_off hm), fun hm hl ha => pulse ?_, fun hm hl ha => pulse ?_,
      fun hl hno => pulse (pulseWatchdog_rests hl hno), fun x hl hx hon hd => pulse ?_,
      fun hno => dispatch (dispatchWatchdog_rests hno), fun x hx hon hd => dispatch ?_, ?_⟩
    · rw [pulseWatchdog_lost hm hl, if_pos ha]
    · rw [pulseWatchdog_lost hm hl, if_neg (ne_true_of_eq_false ha)]
      exact raised s.blk 1 0x41 0 (by decide)
    · rw [pulseWatchdog_fires hon.1 hl hx hon.2 hd]
      exact ⟨_, _, logged_saf _ _ _ _, Observed.blotAuto _ _ _ _ _, raised _ 1 0x41 0 (by decide)⟩
    · rw [dispatchWatchdog_fires hx hon hd]
      exact ⟨_, logged_saf _ _ _ _, raised _ 2 0x46 0 (by decide)⟩
    · intro period mask due u Cut Ends
      have audits : ∀ {P : Blk → Prop}, P (autoAudit s.blk) → Updates .autoAudit s P :=
        fun hp => updates_act (exec_autoAudit s) (awake_of hlow) hp
      refine ⟨fun r hr => audits ?_, fun hnone hno => audits (autoAudit_rests hnone hno),
        fun hnone hdue hm => audits (autoAudit_empty hnone hdue hm),
        fun hnone hdue hm => ⟨_, auditCut_cuts u mask, audits (autoAudit_begins hnone hdue hm)⟩⟩
      rw [autoAudit_ends hr]
      exact auditEnd_ends _ r

end Sys2Proof.Machine

/-! Proofs. Steps on the queue (O1, O2), and what commands touch of the queue and the wrapper (O4). -/
namespace Sys2Proof.Machine

/-- Settles O1, by the case of `step` for a queue with a front. -/
theorem stepTakesFront : Obligations.StepTakesFront := by
  intro c r s h
  unfold step
  rw [h]

/-- Settles O2, by the case of `step` for an empty queue. That the block then idles is the model's choice (assumption 1). -/
theorem emptyQueueIdles : Obligations.EmptyQueueIdles := by
  intro s h
  unfold step
  rw [h]

/-- A command of the wrapper changes the wrapper; the delay monitors draw a free value besides (R437), and a test that is taken
overwrites the block (R438). -/
theorem wrapperCmd_cases {c : Instr} {s t : State} (hw : ofWrapper c = true) (h : exec c s = .next t) :
    (∃ w, t = { s with tap := w }) ∨ (∃ w, t = { s.tick.2 with tap := w }) ∨
    ((c = .qmScan ∨ ∃ x, c = .qmMbist x) ∧ ∃ f, t = overwritten s.tick.1 s.tick.2 f) := by
  cases c with
  | wsBypass code => rw [exec_wsBypass] at h; exact .inl ⟨_, tapCmd_next h⟩
  | wsExtest pins => rw [exec_wsExtest] at h; exact .inl ⟨_, tapCmd_next h⟩
  | wsPreload bits => rw [exec_wsPreload] at h; exact .inl ⟨_, tapCmd_next h⟩
  | qmMbistDone st row => rw [exec_qmMbistDone] at h; exact .inl ⟨_, tapCmd_next h⟩
  | qmMbistRes => rw [exec_qmMbistRes] at h; exact .inl ⟨_, tapCmd_next h⟩
  | qmId => rw [exec_qmId] at h; exact .inl ⟨_, tapCmd_next h⟩
  | wrapperReset => rw [exec_wrapperReset] at h; exact .inl ⟨_, tapCmd_next h⟩
  | qmDlymon => rw [exec_qmDlymon] at h; exact .inr (.inl ⟨_, qmDlymon_next h⟩)
  | qmScan =>
    rw [exec_qmScan] at h
    rcases qmScan_cases h with e | e
    · exact .inl ⟨_, e⟩
    · exact .inr (.inr ⟨.inl rfl, _, e⟩)
  | qmMbist start =>
    rw [exec_qmMbist] at h
    rcases qmMbist_cases h with e | e | e
    · exact .inl ⟨_, e⟩
    · exact .inl ⟨_, e⟩
    · exact .inr (.inr ⟨.inr ⟨start, rfl⟩, _, e⟩)
  | _ => exact Bool.noConfusion hw

/-- No command of the wrapper touches the queue. -/
theorem wrapperCmd_pending {c : Instr} {s t : State} (hw : ofWrapper c = true) (h : exec c s = .next t) : t.pending = s.pending := by
  rcases wrapperCmd_cases hw h with ⟨w, rfl⟩ | ⟨w, rfl⟩ | ⟨-, f, rfl⟩
  · rfl
  · rfl
  · rfl

/-- A command that is neither the wrapper's nor a cold reset leaves the queue and the wrapper alone (R437). -/
theorem blockCmd_frame {c : Instr} {s t : State} (hw : ofWrapper c = false) (hc : c ≠ .coldReset) (h : exec c s = .next t) :
    t.pending = s.pending ∧ t.tap = s.tap := by
  cases ht : movesTime c with
  | false =>
    obtain ⟨serves, f, e⟩ := exec_acts c s hw ht
    obtain ⟨hp, htap, -⟩ := act_frame (e.symm.trans h)
    exact ⟨hp, htap⟩
  | true =>
    cases c with
    | timeSample v ok par =>
      rw [exec_timeSample] at h
      rw [← Host.Outcome.next.inj h]
      split
      · exact ⟨finishTime_pending _ _, finishTime_tap _ _⟩
      · exact ⟨rfl, rfl⟩
    | coldResetRelease key =>
      rw [exec_coldResetRelease] at h
      rw [← Host.Outcome.next.inj h]
      exact ⟨finishTime_pending _ _, finishTime_tap _ _⟩
    | softResetDrainExpiry =>
      rw [exec_softResetDrainExpiry] at h
      rw [← Host.Outcome.next.inj h]
      split
      · exact ⟨finishTime_pending _ _, finishTime_tap _ _⟩
      · exact ⟨rfl, rfl⟩
    | coldReset => exact absurd rfl hc
    | qmScan | qmMbist start => exact Bool.noConfusion hw
    | _ => exact Bool.noConfusion ht

/-- Settles O4: the wrapper's commands by `wrapperCmd_cases`, a cold reset by its definition, every other by `blockCmd_frame`. -/
theorem queueAndWrapperFrame : Obligations.QueueAndWrapperFrame := by
  intro c s t h
  refine ⟨?_, fun hw hc => (blockCmd_frame hw hc h).2, ?_, fun hw hscan hmbist => ?_⟩
  · cases hw : ofWrapper c with
    | true => exact wrapperCmd_pending hw h
    | false =>
      by_cases hc : c = .coldReset
      · subst hc
        rw [exec_coldReset] at h
        rw [← Host.Outcome.next.inj h]
      · exact (blockCmd_frame hw hc h).1
  · rintro rfl
    rw [exec_coldReset] at h
    rw [← Host.Outcome.next.inj h]
  · rcases wrapperCmd_cases hw h with ⟨w, rfl⟩ | ⟨w, rfl⟩ | ⟨rfl | ⟨x, rfl⟩, -⟩
    · exact ⟨rfl, Nat.le_refl _⟩
    · exact ⟨rfl, Nat.le_succ _⟩
    · exact absurd rfl hscan
    · exact absurd rfl (hmbist x)

end Sys2Proof.Machine

/-! Proofs. A quiet block: nothing follows an update of it (O8). -/
namespace Sys2Proof.Machine

section
variable {b : Blk}

/-- With no piece of work waiting, a cascade has nothing to do. -/
theorem drain_idle (h : b.work = []) (n : Nat) : drain n b = b := by
  cases n with
  | zero => rfl
  | succ n => rw [drain, h]

theorem freeEnds_noQueues (h : b.csq.queues = []) : freeEnds b = b := by
  unfold freeEnds
  rw [h]
  rfl

theorem pumpQueues_noQueues (h : b.csq.queues = []) : pumpQueues b = b := by
  have hnone : forEach (Store.keys b.csq.queues) b pumpQueue = b := by rw [h]; rfl
  unfold pumpQueues
  rw [hnone]
  exact if_neg (by rw [h]; exact Bool.false_ne_true)

theorem pumpLocal_noRequests (h : b.xch.waitq = []) : pumpLocal b = b := by
  unfold pumpLocal
  rw [h]
  rfl

theorem pumpRows_noRows (h : b.sve.rowWait = []) : pumpRows b = b := by
  unfold pumpRows
  rw [h]
  rfl

/-- A block without work, queues, requests and rows that wait does not move. -/
theorem cascade_idle (hwork : b.work = []) (hqueues : b.csq.queues = []) (hreq : b.xch.waitq = []) (hrows : b.sve.rowWait = [])
    (n : Nat) : cascade n b = b := by
  cases n with
  | zero => rfl
  | succ n =>
    rw [cascade, drain_idle hwork, pumpQueues_noQueues hqueues, freeEnds_noQueues hqueues, pumpLocal_noRequests hreq,
      pumpRows_noRows hrows]
    exact if_pos (by rw [hwork]; rfl)

theorem srstStep_noReset (h : b.cfg.srst = false) : srstStep b = b := by
  unfold srstStep
  rw [h]
  rfl

theorem pumpMem_noRequests (h : b.mem.waitq = []) : pumpMem b = b := by
  unfold pumpMem
  exact if_pos (by simp [h])

theorem nextMsg_none (hwait : b.xch.waitq = []) (hout : b.xch.out = []) : nextMsg b = none := by
  unfold nextMsg againList freshList
  rw [hwait, hout]
  rfl

theorem pumpFabric_noMessages (hwait : b.xch.waitq = []) (hout : b.xch.out = []) (hans : b.ports.fpoWait = []) :
    pumpFabric b = b := by
  unfold pumpFabric
  simp [hans, nextMsg_none hwait hout]

/-- With no task in the block, none can be dispatched (R139). -/
theorem nextDispatch_noTasks (h : b.tsk.tasks = []) : nextDispatch b = none := by
  have hclass : ∀ c, offerOfClass b c = none := by
    intro c
    unfold offerOfClass readyOf
    rw [h]
    exact ite_self _
  rw [nextDispatch_eq, List.findSome?_eq_none_iff.mpr fun c _ => hclass c]
  exact ite_self _

theorem armDispatch_noTasks (htasks : b.tsk.tasks = []) (harmed : b.saf.armedAt = none) : armDispatch b = b := by
  unfold armDispatch
  rw [nextDispatch_noTasks htasks, harmed]

/-- With no Pulse due and no queue in the block, the Pulse watchdog stays at rest (R377). -/
theorem armPulse_noWork (hqueues : b.csq.queues = []) (hactive : b.saf.pulseActive = false) (harmed : b.saf.pulseArmedAt = none) :
    armPulse b = b := by
  have hrest : pulseArmed b = false := by
    unfold pulseArmed owesWork
    rw [hactive, hqueues]
    rfl
  unfold armPulse
  rw [hrest, harmed]

theorem armFronts_noRuled (h : ∀ c, ruledLive b c = false) : armFronts b = b := by
  unfold armFronts
  rw [List.filter_eq_nil_iff.mpr fun c _ => by rw [h c]; exact Bool.false_ne_true]
  rfl

theorem blotTrack_noBlot (h : b.dbg.snap = []) : blotTrack b = b := by
  unfold blotTrack
  rw [h]

/-- Every stage of the end of a step leaves a quiet block as it is. -/
theorem Quiet.settle (q : Quiet b) : Machine.settle b = b := by
  obtain ⟨hwait, hout⟩ := q.fabric
  obtain ⟨hactive, harmed⟩ := q.pulse
  unfold Machine.settle
  rw [cascade_idle q.work q.queues hwait q.rows, srstStep_noReset q.soft, pumpMem_noRequests q.waitq,
    pumpFabric_noMessages hwait hout q.answers, armDispatch_noTasks q.tasks q.dispatch,
    armPulse_noWork q.queues hactive harmed, armFronts_noRuled q.ruled, blotTrack_noBlot q.blot]

end

/-- Settles O8, stage by stage of `settle` (`Quiet.settle`). -/
theorem quietBlockStands : Obligations.QuietBlockStands := by
  intro b q
  unfold settled
  rw [q.settle]

end Sys2Proof.Machine

/-! Proofs. The soft reset (O18): its start, and the block after its drain. -/
namespace Sys2Proof.Machine

/-! ## The start -/

theorem regAct_softReset (s : Blk) : regAct s 0x10020 1 = softStart s := rfl

/-- What is done of the blot at the start of a soft reset is observation (R414, Order 2). -/
theorem srstBlot_observed (s : Blk) : Observed s (srstBlot s) := by
  unfold srstBlot
  split
  · exact .blotAuto _ _ _ _ _
  · exact ⟨rfl, fun _ _ => rfl, rfl⟩

/-- The start clears BLK_IRQ_EN and leaves every other register word as it is (R76). -/
theorem srstBegin_rg (s : Blk) (k : Nat) : rg (srstBegin s) k = rg (wr s rIrqEn 0) k := rfl

/-! ## The end -/

section
variable {s : Blk}

/-- With no tag outstanding, none is too old. -/
theorem srstRetire_none (h : s.mem.out = []) : srstRetire s = s := by
  unfold srstRetire
  rw [h]
  rfl

theorem memIdle_rest (hout : s.mem.out = []) (hmq : s.mem.mq = none) (hwait : s.mem.waitq = []) : memIdle s = true := by
  unfold memIdle
  rw [hout, hmq, hwait]
  rfl

/-- Once the drain has passed with the Memory Port at rest, the stores are reinitialised (R414, Orders 4 to 6). -/
theorem srstExpiry_reinit {t : Nat} (hsoft : s.cfg.srst = true) (hat : s.cfg.srstAt = some t) (htime : s.time.usable = true)
    (hdrain : now s ≥ t + rgf s rSrstDrain 15 0 * 1000) (hout : s.mem.out = []) (hmq : s.mem.mq = none) (hwait : s.mem.waitq = []) :
    srstExpiry s = softReinit s := by
  unfold srstExpiry
  rw [hat]
  dsimp only
  rw [if_pos (by simp [hsoft, htime, hdrain]), srstRetire_none hout, if_pos (memIdle_rest hout hmq hwait)]

end

/-- The registers that Order 6 writes back: those of R415 that hold a word of their own, and SAF_AUDIT_CFG, whose reset is the Pattern
Book's. -/
def softKeys (s : Blk) : List Nat := (Store.keys s.regs).filter softKeeps ++ [rAuditCfg]

/-- The block after Order 6, with the kept registers written back, and before the image is read again. -/
def softKept (s : Blk) : Blk := forEach (softKeys s) (softBlock s) (fun t k => wr t k (rg s k))

theorem mem_softKeys {s : Blk} {k : Nat} (h : k ∈ softKeys s) : softKeeps k = true := by
  rcases List.mem_append.mp h with h | h
  · exact (List.mem_filter.mp h).2
  · rw [List.mem_singleton.mp h]; decide

/-- Writing back registers changes nothing but registers. -/
theorem softKept_eq (s : Blk) : softKept s = { softBlock s with regs := (softKept s).regs } := (forEach_wr (rg s) _ _).1

theorem softKept_rg (s : Blk) (k : Nat) : rg (softKept s) k = if k ∈ softKeys s then rg s k else regDefault k := by
  refine ((forEach_wr (rg s) _ _).2 k).trans ?_
  rw [Nat.mod_eq_of_lt (rg_lt s k)]
  rfl

/-- With the flash at rest, a soft reset ends with the first operation on it (R398). -/
theorem softReinit_eq {s : Blk} (h : s.cfg.op = none) : softReinit s = { softKept s with cfg := { (softBlock s).cfg with
    phase := .sfdp, op := some { op := 0x5a, addr := 0, aw := false, dummy := 8, len := 8 } } } := by
  have hcfg : (softKept s).cfg = (softBlock s).cfg := by rw [softKept_eq]
  unfold softReinit
  exact (cfgStart_eq (softKept s) (by rw [hcfg]; exact h)).trans (by rw [hcfg])

/-- The registers after a soft reset are those of the block with the kept ones written back: the defaults of R406 are not in force. -/
theorem softReinit_rg {s : Blk} (h : s.cfg.op = none) (k : Nat) : rg (softReinit s) k = rg (softKept s) k := by
  have hpb : (softKept s).cfg.pb = false := by rw [softKept_eq]; rfl
  rw [softReinit_eq h]
  unfold rg regUnlisted
  rw [hpb]
  rfl

/-- A register that R415 does not name returns to its reset value. -/
theorem softKept_reset (s : Blk) {k : Nat} (h : softKeeps k = false) : rg (softKept s) k = regDefault k := by
  rw [softKept_rg]
  exact if_neg fun hk => Bool.false_ne_true (h.symm.trans (mem_softKeys hk))

/-- An index that is not listed has no entry. -/
theorem get?_unlisted {α : Type} (m : Store α) {k : Nat} (h : k ∉ Store.keys m) : Store.get? m k = none := by
  induction m with
  | nil => rfl
  | cons p r ih =>
    exact (if_neg (Ne.symm (List.ne_of_not_mem_cons h))).trans (ih (List.not_mem_of_not_mem_cons h))

/-- A register that is not listed holds its cold-reset value or its release default; where the two agree, it holds that value. -/
theorem rg_unlisted {s : Blk} {k : Nat} (h : k ∉ Store.keys s.regs) (he : regRelease k = regDefault k) : rg s k = regDefault k := by
  have hnone : Store.get? s.regs k = none := get?_unlisted _ h
  unfold rg regUnlisted
  rw [hnone, he]
  exact ite_self _

/-- A register of R415 whose release default is its cold-reset value is kept, whether it is listed or not. -/
theorem softKept_kept (s : Blk) {k : Nat} (hk : softKeeps k = true) (he : regRelease k = regDefault k) :
    rg (softKept s) k = rg s k := by
  rw [softKept_rg]
  split
  · rfl
  · next hno =>
    refine (rg_unlisted (fun hlisted => hno ?_) he).symm
    exact List.mem_append_left _ (List.mem_filter.mpr ⟨hlisted, hk⟩)

/-- The registers of SAF are kept (R415). -/
theorem softKept_saf (s : Blk) {k : Nat} (hlo : 0x160000 ≤ k) (hhi : k < 0x170000) : rg (softKept s) k = rg s k := by
  by_cases hk : k = rAuditCfg
  · rw [softKept_rg, if_pos (by rw [hk]; exact List.mem_append_right _ (List.mem_singleton_self _))]
  · refine softKept_kept s ?_ (saf_release k hlo hhi hk)
    unfold softKeeps
    rw [Nat.mod_eq_of_lt (by omega)]
    simp [hlo, hhi]

/-- PEER_STATE is kept (R415). -/
theorem softKept_peer (s : Blk) (c : Nat) : rg (softKept s) (bank rPeerEnt c) = rg s (bank rPeerEnt c) := by
  obtain ⟨hrelease, hdefault⟩ := peer_release c
  refine softKept_kept s ?_ (hrelease.trans hdefault.symm)
  unfold softKeeps
  rw [bank_mod _ _ (by decide)]
  rfl

/-- Every slot is FREE after a soft reset, its generation advanced unless it was FREE (R414, Order 6). -/
theorem slotOf_softBlock (s : Blk) (c : Nat) : slotOf (softBlock s) c = softSlot (slotOf s c) := by
  refine (fold_slots (fun c => softSlot (slotOf s c)) s.ctx.slots [] c).trans ?_
  split
  · rfl
  · next h =>
    have hfree : slotOf s c = {} := by unfold slotOf Store.getD; rw [get?_unlisted _ h]; rfl
    rw [hfree]
    rfl

theorem slotOf_softReinit {s : Blk} (h : s.cfg.op = none) (c : Nat) : slotOf (softReinit s) c = softSlot (slotOf s c) := by
  rw [← slotOf_softBlock, softReinit_eq h, softKept_eq]
  rfl

/-- Settles O18. The start by `srstBegin_rg` and `srstBlot_observed`, the end by `softReinit_eq`; the registers by `softKept_rg`, the slots
by `slotOf_softBlock`. That the sequence number of tasks and the die number are kept is the model's choice (assumption 35). -/
theorem softResetBeginsAndEnds : Obligations.SoftResetBeginsAndEnds := by
  refine ⟨fun a s h => ⟨fun hno => ?_, fun hsoft => ?_⟩, fun s t hlow hsoft hat htime hdrain hout hmq hwait hop => ?_⟩
  · have hact : regAct s.blk 0x10020 1 = some (srstBlot (srstBegin s.blk)) := by
      rw [regAct_softReset, softStart, hno]
      rfl
    obtain ⟨hrest, hregs, -⟩ := srstBlot_observed (srstBegin s.blk)
    refine writes_bus (exec_softrst a s) h hact ⟨hrest, ?_, fun k hk hne => ?_⟩
    · exact (hregs rIrqEn (by decide)).trans (rg_wr_same _ _ _)
    · rw [hregs k hk, srstBegin_rg, rg_wr_other _ _ hne]
  · refine refuses_bus (exec_softrst a s) h ?_ (.inl (by decide))
    rw [regAct_softReset, softStart, hsoft]
    rfl
  · have hrg := softReinit_rg (s := s.blk) hop
    refine ⟨softReinit s.blk, ?_, ?_, slotOf_softReinit hop, ?_, fun k hk => ?_, fun k hlo hhi => ?_, fun c => ?_, ?_⟩
    · rw [exec_softResetDrainExpiry, if_pos (awake_of hlow), srstExpiry_reinit hsoft hat htime hdrain hout hmq hwait]
    · rw [softReinit_eq hop, softKept_eq]
      rfl
    · rw [softReinit_eq hop, softKept_eq]
      rfl
    · rw [hrg, softKept_reset _ hk]
    · rw [hrg, softKept_saf _ hlo hhi]
    · rw [hrg, softKept_peer]
    · rw [softReinit_eq hop]
      exact ⟨rfl, rfl, rfl, rfl⟩

end Sys2Proof.Machine

/-! Proofs. The wrapper's instructions (O26): what is shifted in, what stands at the pins, and the tests. -/
namespace Sys2Proof.Machine

/-! ## What is shifted in and out -/

/-- Bits shifted in stand in their order, and those past the last are 0. -/
theorem shifted_testBit (bs : List Bool) (i : Nat) : (shifted bs).testBit i = (bs[i]?).getD false := by
  induction bs generalizing i with
  | nil => exact Nat.zero_testBit i
  | cons b r ih =>
    have hb : shifted (b :: r) = Nat.bit b (shifted r) := by
      cases b with
      | false => exact Nat.zero_add _
      | true => exact Nat.add_comm _ _
    rw [hb]
    cases i with
    | zero => exact Nat.testBit_bit_zero b _
    | succ i => exact (Nat.testBit_bit_succ i b _).trans (ih i)

/-- The wrapper boundary register holds the bits shifted in, each at its place. -/
theorem boundary_getLsbD (bs : List Bool) {i : Nat} (h : i < 8527) :
    (BitVec.ofNat 8527 (shifted bs)).getLsbD i = (bs[i]?).getD false := by
  rw [BitVec.getLsbD_ofNat, shifted_testBit, decide_eq_true h, Bool.true_and]

/-- A reserved code selects WS_BYPASS (R437). -/
theorem wirOf_reserved {code : Nat} (h : code ∉ [1, 2, 0x10, 0x11, 0x12, 0x13, 0x14]) : wirOf code = .bypass := by
  unfold wirOf
  split <;> simp at h ⊢

/-- The result of the self-test, by its fields (R437). -/
theorem result_toNat {w : Wrapper} (h : WrapperOk w) :
    w.result.toNat = b2n w.doneBit * 2 ^ 63 + w.failStore * 2 ^ 32 + w.failRow := by
  have hd : b2n w.doneBit < 2 := by cases w.doneBit <;> decide
  have hs := h.store
  have hr := h.row
  unfold Wrapper.result
  rw [put_le (by omega), put_le (by omega), put_le (by omega), BitVec.toNat_ofNat, Nat.mod_eq_of_lt (by omega)]
  omega

/-! ## The pins -/

/-- A bit of a word, as a number. -/
theorem b2n_testBit (n i : Nat) : b2n (n.testBit i) = n / 2 ^ i % 2 := by
  rw [← Nat.toNat_testBit]
  cases n.testBit i <;> rfl

section
variable {s : State}

/-- Outside WS_EXTEST the pins are the block's own (R437). -/
theorem pins_ofBlock (h : s.tap.wir ≠ .extest) (p : PinPort) : s.pins p = drives s.blk p := if_neg h

/-- In WS_EXTEST the pins are driven from the boundary register (R437). -/
theorem pins_extest (h : s.tap.wir = .extest) (p : PinPort) :
    s.pins p = outFields (s.tap.boundary.toNat / 2 ^ p.at_) p.sigs 0 := if_pos h

/-- The 8 bits of IRQ_OUT in WS_EXTEST. -/
theorem pins_irq_extest (h : s.tap.wir = .extest) :
    ∃ v, s.pins .irq = [v] ∧ v < 2 ^ 8 ∧ ∀ i < 8, v.testBit i = s.tap.boundary.getLsbD (PinPort.at_ .irq + i) := by
  refine ⟨s.tap.boundary.toNat / 2 ^ PinPort.at_ .irq / 2 ^ 0 % 2 ^ 8, pins_extest h .irq, Nat.mod_lt _ (by decide), fun i hi => ?_⟩
  rw [Nat.testBit_mod_two_pow, Nat.pow_zero, Nat.div_one, Nat.testBit_div_two_pow, decide_eq_true hi, Bool.true_and, Nat.add_comm]
  rfl

/-- The pair of alarm pins in WS_EXTEST. -/
theorem pins_alarm_extest (h : s.tap.wir = .extest) : s.pins .alarm =
    [b2n (s.tap.boundary.getLsbD (PinPort.at_ .alarm)), b2n (s.tap.boundary.getLsbD (PinPort.at_ .alarm + 1))] := by
  rw [pins_extest h]
  simp only [BitVec.getLsbD, b2n_testBit, Nat.pow_add, ← Nat.div_div_eq_div_mul]
  simp [outFields, PinPort.sigs]

/-! ## The tests -/

/-- A scan is turned away while NRST_BLOCK is high (R438). -/
theorem qmScan_awake (h : s.blk.cfg.low = false) : exec .qmScan s = tapCmd Wrapper.toBypass s := if_pos (awake_of h)

theorem qmMbist_awake (h : s.blk.cfg.low = false) (start : Bool) : exec (.qmMbist start) s = tapCmd Wrapper.toBypass s :=
  if_pos (awake_of h)

theorem awake_low (h : s.blk.cfg.low = true) : awake s = false := by unfold awake; rw [h]; rfl

/-- A scan that is taken overwrites the block (R438). -/
theorem qmScan_low (h : s.blk.cfg.low = true) : exec .qmScan s =
    .next (overwritten s.tick.1 s.tick.2 (fun w => { w with wir := .scan, out := Config.scanOut s.tick.1 })) :=
  if_neg (by rw [awake_low h]; exact Bool.false_ne_true)

/-- A self-test that is started overwrites the block (R438). -/
theorem qmMbist_starts (h : s.blk.cfg.low = true) : exec (.qmMbist true) s =
    .next (overwritten s.tick.1 s.tick.2 (fun w =>
      { w with wir := .mbist, running := true, doneBit := false, failStore := 0, failRow := 0 })) :=
  if_neg (by rw [awake_low h]; exact Bool.false_ne_true)

/-- A self-test whose start bit is 0 is only selected (R437). -/
theorem qmMbist_selected (h : s.blk.cfg.low = true) : exec (.qmMbist false) s = .next { s with tap := { s.tap with wir := .mbist } } :=
  if_neg (by rw [awake_low h]; exact Bool.false_ne_true)

end

/-- Settles O26, instruction by instruction. The model's choices are the order of the pins in the boundary register and that a test ends
with a full cold reset (assumption 37), and that what the monitors count, what the chains shift out and what a test leaves are free
values (assumption 3). -/
theorem wrapperSelectsAndTests : Obligations.WrapperSelectsAndTests := by
  intro s bypass
  refine ⟨fun code h => ?_, fun pins => ?_, fun bits => ?_, pins_ofBlock, fun h => ⟨pins_irq_extest h, pins_alarm_extest h⟩,
    fun h => ⟨qmScan_awake h, qmMbist_awake h⟩, fun h => ⟨?_, ?_, qmMbist_selected h⟩, fun st row hst hrow => ?_, fun h => ?_, ?_, ?_,
    exec_wrapperReset s⟩
  · rw [exec_wsBypass, wirOf_reserved h]
    rfl
  · exact ⟨_, fun i hi => boundary_getLsbD pins hi, exec_wsExtest pins s⟩
  · exact ⟨_, fun i hi => boundary_getLsbD bits hi, exec_wsPreload bits s⟩
  · exact ⟨_, _, qmScan_low h, rfl, rfl, rfl⟩
  · exact ⟨_, qmMbist_starts h, rfl, rfl, rfl⟩
  · rw [exec_qmMbistDone, Nat.mod_eq_of_lt hst, Nat.mod_eq_of_lt hrow]
    rfl
  · exact ⟨_, exec_qmMbistRes s, result_toNat h⟩
  · exact ⟨_, _, exec_qmDlymon s, rfl, by simp⟩
  · exact ⟨_, exec_qmId s, rfl, rfl⟩

end Sys2Proof.Machine
